-- ==== Sys2Proof/Word.lean ====
section
/-! DEFINITION. The word types of the PVX-SHV4: 64-bit general registers (R152), bytes of memory (R8), 512-bit
vector registers (R261), 512-bit launch and pass records (R27, R32). -/
namespace Sys2Proof

/-- A general or control register (R152). -/
abbrev Word := BitVec 64

/-- One byte of memory (R8). -/
abbrev Byte := BitVec 8

/-- A vector register of 512 bits (R261). -/
abbrev VReg := BitVec 512

/-- The number of a general register (R97: four bits). -/
abbrev Reg := BitVec 4

/-- The number of a vector register (R114: four bits). -/
abbrev VNum := BitVec 4

end Sys2Proof
end

