-- ==== Sys2Proof/Syntax.lean ====
section
/-! DEFINITION. The steps of the PVX-SHV4 as syntax: one constructor of `Instr` per row of spec/opcode_table.json, the
195 instructions of chapters 04 to 18 with their operands, and the 108 events with what the world outside the device
decides about them. -/
namespace Sys2Proof

/-! ### Names that occur in operands -/

/-- Element types (R116), in code order. -/
inductive ElemTy where
  | i8 | i16 | i32 | i64 | n8 | n16 | n32 | n64
  | f16 | bf16 | f32 | f64 | e4m3 | e5m2 | e2m1 | eb2 | eb4 | xsum
  deriving DecidableEq, Repr

/-- Rounding modes (R114, R202), in code order. -/
inductive RMode where
  | rne | rtz | rup | rdn | rna
  deriving DecidableEq, Repr

/-- Scopes (R102), in code order. -/
inductive Scope where
  | sys | dom | fn | part | pkg | die | cl | grp | cell | gang | thr
  deriving DecidableEq, Repr

/-- Orderings of the extension word (R100), in code order. -/
inductive Ord where
  | none | acq | rel | both
  deriving DecidableEq, Repr

/-- Widths of sext and zext (R108), in code order. -/
inductive Width where
  | w8 | w16 | w32
  deriving DecidableEq, Repr

/-- Gang widths (R168): B = 1, 2, 3. -/
inductive GangWidth where
  | two | four | eight
  deriving DecidableEq, Repr

/-- Ports of qbind (R112), in code order. -/
inductive Port where
  | passpost | passdone | cpydone | decdone | probeout | sq0 | sq1 | sq2 | sq3
  deriving DecidableEq, Repr

/-- Control registers (R113). WDESC1 to WDESC7 carry their number. -/
inductive CReg where
  | tstat | tid | seg | ways | group | wlim | cyc | gpiv | rtsel | uvec | tcause | tepc | trec
  | wdesc (n : BitVec 3)
  | tvec
  deriving DecidableEq, Repr

/-! ### Operand shapes -/

/-- The second source of an OP 0x01 or 0x1C instruction: a register, or the literal that replaces it (R106). -/
inductive Src where
  | reg (r : Reg)
  | lit (w : Word)
  deriving DecidableEq, Repr

/-- IMM16, or the literal that replaces it (R106, R158). -/
inductive Imm16 where
  | imm (i : BitVec 16)
  | lit (w : Word)
  deriving DecidableEq, Repr

/-- IMM12, or the literal that replaces it (R106). -/
inductive Disp where
  | imm (i : BitVec 12)
  | lit (w : Word)
  deriving DecidableEq, Repr

/-- The fields of an extension word other than C (R100). -/
structure Ext where
  rx : Bool
  ord : Ord
  scope : Scope
  deriving DecidableEq, Repr

/-- gd, ga, gb or gd, ga, imm of OP 0x01 (R156). -/
structure RRS where
  d : Reg
  a : Reg
  b : Src
  deriving DecidableEq, Repr

/-- The same with a lookahead count (R103). -/
structure RRSL where
  d : Reg
  a : Reg
  b : Src
  la : BitVec 4
  deriving DecidableEq, Repr

/-- gd, ga, imm of OP 0x02 to 0x05 (R158). -/
structure RRI where
  d : Reg
  a : Reg
  imm : Imm16
  deriving DecidableEq, Repr

/-- gd, ga, n of the immediate shifts (R109). -/
structure RRN where
  d : Reg
  a : Reg
  n : BitVec 6
  deriving DecidableEq, Repr

/-- gd, [ga+imm] without extension word: slti, sltni, lea and the full/empty instructions (R109, R230). -/
structure RMem where
  d : Reg
  a : Reg
  imm : Disp
  deriving DecidableEq, Repr

/-- gd, ga, target of OP 0x08 to 0x0D (R159). -/
structure Branch where
  d : Reg
  a : Reg
  off : BitVec 16
  deriving DecidableEq, Repr

/-- ga, value, target of beqi and bnei: no literal compares with 0 (R109). -/
structure BranchI where
  a : Reg
  value : Option Word
  off : BitVec 16
  deriving DecidableEq, Repr

/-- A load of OP 0x10 to 0x16 (R226). -/
structure Load where
  d : Reg
  a : Reg
  imm : Disp
  ext : Option Ext
  la : BitVec 4
  deriving DecidableEq, Repr

/-- A store of OP 0x17 (R226); d names the value stored. -/
structure Store where
  d : Reg
  a : Reg
  imm : Disp
  ext : Option Ext
  deriving DecidableEq, Repr

/-- gd, [ga], gb of OP 0x1C (R237). -/
structure Atomic where
  d : Reg
  a : Reg
  b : Src
  ext : Option Ext
  la : BitVec 4
  deriving DecidableEq, Repr

/-- gd, [ga], gb, gc of acas (R237): always with an extension word. -/
structure Cas where
  d : Reg
  a : Reg
  b : Src
  c : Reg
  ext : Ext
  la : BitVec 4
  deriving DecidableEq, Repr

/-- gd, ga, gb, gc of the copy instructions, with the promise of L = 11b (R242). -/
structure Copy where
  d : Reg
  a : Reg
  b : Reg
  c : Reg
  promise : Option Word
  deriving DecidableEq, Repr

/-- The fields of a vector command word (R114) but for VOP, with the two scalar registers of the base word. The SUB
field that a constructor of its own fixes (vbfp, vxacc, vrng) is zero here. -/
structure VArgs where
  vd : VNum := 0
  va : VNum := 0
  vb : VNum := 0
  vc : VNum := 0
  mask : Option VNum := none
  ty : ElemTy
  ty2 : ElemTy := .i8
  rm : RMode := .rne
  sat : Bool := false
  ftz : Bool := false
  sub : BitVec 4 := 0
  vimm : BitVec 16 := 0
  a : Reg := 0
  b : Reg := 0
  deriving DecidableEq, Repr

/-! ### Names of units, and what the world outside decides about an event -/

/-- A physical cluster of a die (R2, R70). -/
structure ClusterId where
  pkg : Nat
  die : Nat
  cl : Nat
  deriving DecidableEq, Repr

/-- A physical cell: 0 to 31 are workers, 32 is the nurse cell (R2). -/
structure PCell where
  pkg : Nat
  die : Nat
  cl : Nat
  cell : Nat
  deriving DecidableEq, Repr

/-- A logical cell c of logical cluster lcl (R69, R70). -/
structure LCell where
  pkg : Nat
  die : Nat
  lcl : Nat
  c : Nat
  deriving DecidableEq, Repr

/-- What a signed configuration image of the flash carries (R39): the header's state, the security version number,
the signed bytes with their signature, and the trims, maps and allocations that stage 3 applies. -/
structure ConfigImage where
  usable : Bool
  svn : Nat
  body : List Byte
  sig : List Byte
  clusterMap : List (BitVec 8)
  cellMap : List (ClusterId × List (BitVec 16))
  spares : List PCell
  lines : List (ClusterId × BitVec 6)
  retired : List (Nat × Nat)
  routes : List (Nat × BitVec 16)
  meshSpares : List (ClusterId × Bool × Bool)
  deriving DecidableEq, Repr

/-- What a nurse's recalibration writes into its OMU (R304, R308, R314): the published bound, the calibration entries,
and the scout table as lanes of PIF vectors with their scale exponents; and whether it puts the spare port pair of mesh U or of mesh V in
service (R284, R476). -/
structure Calibration where
  cb : BitVec 4
  entries : List (Nat × BitVec 16)
  scouts : List (List Int × Nat)
  uspr : Bool := false
  vspr : Bool := false
  deriving DecidableEq, Repr

/-- What a power-on finds outside the boot ROM (R39): the pump cartridges present, which of their rings lock, the
pseudo-channels whose training fails, whether the trims and maps of stage 3 can be applied, the firmware and its
signature, what each nurse's calibration publishes (none: the OMU is unavailable), the adapter firmware digest, and whether the Weuth link trains. -/
structure BootWorld where
  cartridges : List Bool
  rings : List Bool
  hbmFailed : List (Nat × Nat)
  applied : Bool
  firmware : List Byte
  firmwareSig : List Byte
  calibrated : List (ClusterId × Calibration)
  adapterDigest : List Byte
  linkTrains : Bool
  deriving DecidableEq, Repr

/-- Which access a page walk serves (R196). -/
inductive AccessKind where
  | load | store | fetch
  deriving DecidableEq, Repr

/-- One step of the device: an instruction of a thread, or an event. Each constructor's comment names its row of
spec/opcode_table.json and the rule that governs it. In order: instructions with operands, the events that the machine itself
brings about, instructions without operands, and the events that only the world outside brings about (Lean's compiler builds values
of the first 245 constructors only). -/
inductive Instr where
  | add (o : RRS)  -- ADD, R156
  | sub (o : RRS)  -- SUB, R156
  | and (o : RRS)  -- AND, R156
  | or (o : RRS)  -- OR, R156
  | xor (o : RRS)  -- XOR, R156
  | andn (o : RRS)  -- ANDN, R156
  | shl (o : RRS)  -- SHL, R156
  | shr (o : RRS)  -- SHR, R156
  | sar (o : RRS)  -- SAR, R156
  | rol (o : RRS)  -- ROL, R156
  | mul (o : RRSL)  -- MUL, R156
  | mulh (o : RRSL)  -- MULH, R156
  | mulhn (o : RRSL)  -- MULHN, R156
  | div (o : RRSL)  -- DIV, R157
  | divn (o : RRSL)  -- DIVN, R157
  | rem (o : RRSL)  -- REM, R157
  | remn (o : RRSL)  -- REMN, R157
  | min (o : RRS)  -- MIN, R156
  | max (o : RRS)  -- MAX, R156
  | minn (o : RRS)  -- MINN, R156
  | maxn (o : RRS)  -- MAXN, R156
  | slt (o : RRS)  -- SLT, R156
  | sltn (o : RRS)  -- SLTN, R156
  | seq (o : RRS)  -- SEQ, R156
  | sel (d a b c : Reg)  -- SEL, R156
  | clz (d a : Reg)  -- CLZ, R156
  | ctz (d a : Reg)  -- CTZ, R156
  | popc (d a : Reg)  -- POPC, R156
  | bext (o : RRS)  -- BEXT, R156
  | bins (o : RRS)  -- BINS, R156
  | sext (d a : Reg) (w : Width)  -- SEXT, R156
  | zext (d a : Reg) (w : Width)  -- ZEXT, R156
  | bswap (d a : Reg)  -- BSWAP, R156
  | addi (o : RRI)  -- ADDI, R158
  | andi (o : RRI)  -- ANDI, R158
  | ori (o : RRI)  -- ORI, R158
  | xori (o : RRI)  -- XORI, R158
  | li (d : Reg) (imm : BitVec 16)  -- LI, R158
  | liImm64 (d : Reg) (w : Word)  -- LI_IMM64, R158
  | lil (d : Reg) (imm : BitVec 16)  -- LIL, R158
  | lhi (d : Reg) (imm : BitVec 16)  -- LHI, R158
  | shli (o : RRN)  -- SHLI, R158
  | shri (o : RRN)  -- SHRI, R158
  | sari (o : RRN)  -- SARI, R158
  | slti (o : RMem)  -- SLTI, R158
  | sltni (o : RMem)  -- SLTNI, R158
  | lea (o : RMem)  -- LEA, R158
  | beq (o : Branch)  -- BEQ, R159
  | bne (o : Branch)  -- BNE, R159
  | blt (o : Branch)  -- BLT, R159
  | bge (o : Branch)  -- BGE, R159
  | bltn (o : Branch)  -- BLTN, R159
  | bgen (o : Branch)  -- BGEN, R159
  | beqi (o : BranchI)  -- BEQI, R159
  | bnei (o : BranchI)  -- BNEI, R159
  | loop (a : Reg) (off : BitVec 16)  -- LOOP, R159
  | j (off : BitVec 16)  -- J, R159
  | jr (a : Reg)  -- JR, R159
  | jalr (a : Reg)  -- JALR, R159
  | jal (d : Reg) (off : BitVec 20)  -- JAL, R159
  | ldb (o : Load)  -- LDB, R226
  | ldh (o : Load)  -- LDH, R226
  | ldw (o : Load)  -- LDW, R226
  | ldd (o : Load)  -- LDD, R226
  | ldbn (o : Load)  -- LDBN, R226
  | ldhn (o : Load)  -- LDHN, R226
  | ldwn (o : Load)  -- LDWN, R226
  | stb (o : Store)  -- STB, R226
  | sth (o : Store)  -- STH, R226
  | stw (o : Store)  -- STW, R226
  | std (o : Store)  -- STD, R226
  | ldff (o : RMem)  -- LDFF, R230
  | ldfe (o : RMem)  -- LDFE, R230
  | stef (o : RMem)  -- STEF, R230
  | stff (o : RMem)  -- STFF, R230
  | feq (o : RMem)  -- FEQ, R230
  | feset (a : Reg) (imm : Disp)  -- FESET, R230
  | feclr (a : Reg) (imm : Disp)  -- FECLR, R230
  | afadd (o : Atomic)  -- AFADD, R238
  | afand (o : Atomic)  -- AFAND, R238
  | afor (o : Atomic)  -- AFOR, R238
  | afxor (o : Atomic)  -- AFXOR, R238
  | afmin (o : Atomic)  -- AFMIN, R238
  | afmax (o : Atomic)  -- AFMAX, R238
  | afminn (o : Atomic)  -- AFMINN, R238
  | afmaxn (o : Atomic)  -- AFMAXN, R238
  | aswap (o : Atomic)  -- ASWAP, R238
  | acas (o : Cas)  -- ACAS, R238
  | axadd (o : Atomic)  -- AXADD, R241
  | afaddW (o : Atomic)  -- AFADD_W, R238
  | afandW (o : Atomic)  -- AFAND_W, R238
  | aforW (o : Atomic)  -- AFOR_W, R238
  | afxorW (o : Atomic)  -- AFXOR_W, R238
  | afminW (o : Atomic)  -- AFMIN_W, R238
  | afmaxW (o : Atomic)  -- AFMAX_W, R238
  | afminnW (o : Atomic)  -- AFMINN_W, R238
  | afmaxnW (o : Atomic)  -- AFMAXN_W, R238
  | aswapW (o : Atomic)  -- ASWAP_W, R238
  | acasW (o : Cas)  -- ACAS_W, R238
  | fenceExt (ord : Ord) (scope : Scope)  -- FENCE_EXT, R223
  | tfenceExt (scope : Scope)  -- TFENCE_EXT, R225
  | cpy (o : Copy)  -- CPY, R242
  | cpyh (o : Copy)  -- CPYH, R242
  | cpyw (o : Copy)  -- CPYW, R243
  | vstat (d : Reg)  -- VSTAT, R258
  | gang (w : GangWidth)  -- GANG, R168
  | vld (o : VArgs)  -- VLD, R268
  | vst (o : VArgs)  -- VST, R268
  | vlds (o : VArgs)  -- VLDS, R267
  | vsts (o : VArgs)  -- VSTS, R267
  | vgath (o : VArgs)  -- VGATH, R267
  | vscat (o : VArgs)  -- VSCAT, R267
  | vadd (o : VArgs)  -- VADD, R271
  | vsub (o : VArgs)  -- VSUB, R271
  | vmul (o : VArgs)  -- VMUL, R271
  | vfma (o : VArgs)  -- VFMA, R271
  | vfms (o : VArgs)  -- VFMS, R271
  | vmin (o : VArgs)  -- VMIN, R271
  | vmax (o : VArgs)  -- VMAX, R271
  | vabs (o : VArgs)  -- VABS, R271
  | vneg (o : VArgs)  -- VNEG, R271
  | vand (o : VArgs)  -- VAND, R271
  | vor (o : VArgs)  -- VOR, R271
  | vxor (o : VArgs)  -- VXOR, R271
  | vshl (o : VArgs)  -- VSHL, R271
  | vshr (o : VArgs)  -- VSHR, R271
  | vsar (o : VArgs)  -- VSAR, R271
  | vcmp (o : VArgs)  -- VCMP, R274
  | vsel (o : VArgs)  -- VSEL, R275
  | vred (o : VArgs)  -- VRED, R276
  | vcvt (o : VArgs)  -- VCVT, R277
  | vbfpEnc (o : VArgs)  -- VBFP_ENC, R278
  | vbfpDec (o : VArgs)  -- VBFP_DEC, R278
  | vxaccAdd (o : VArgs)  -- VXACC_ADD, R279
  | vxaccCombine (o : VArgs)  -- VXACC_COMBINE, R279
  | vxfin (o : VArgs)  -- VXFIN, R280
  | vsplat (o : VArgs)  -- VSPLAT, R275
  | vperm (o : VArgs)  -- VPERM, R275
  | vmov (o : VArgs)  -- VMOV, R275
  | vext (o : VArgs)  -- VEXT, R275
  | vins (o : VArgs)  -- VINS, R275
  | vrngDraw (o : VArgs)  -- VRNG_DRAW, R281
  | vrngAdv (o : VArgs)  -- VRNG_ADV, R281
  | pbank (d a b : Reg)  -- PBANK, R321
  | pdec (d a b : Reg)  -- PDEC, R321
  | pass (d a : Reg)  -- PASS, R326
  | probe (d a : Reg)  -- PROBE, R329
  | pcal (a b : Reg)  -- PCAL, R332
  | pstat (d a : Reg)  -- PSTAT, R335
  | pabort (a : Reg)  -- PABORT, R331
  | gacc (vd va : VNum) (b : Reg)  -- GACC, R351
  | gschur (vd : VNum) (b : Reg)  -- GSCHUR, R352
  | gdamp (vd va : VNum)  -- GDAMP, R355
  | gmarg (vd va : VNum)  -- GMARG, R356
  | gpost (a : Reg) (vd : VNum)  -- GPOST, R359
  | gtake (vd : VNum) (a : Reg)  -- GTAKE, R359
  | fork (a : Reg)  -- FORK, R162
  | join (a : Reg)  -- JOIN, R163
  | fly (a : Reg)  -- FLY, R90
  | sleep (a : Reg)  -- SLEEP, R165
  | wake (a : Reg)  -- WAKE, R165
  | qbind (qd : BitVec 3) (port : Port)  -- QBIND, R172
  | qrel (qd : BitVec 3)  -- QREL, R172
  | qpush (qd : BitVec 3) (a : Reg)  -- QPUSH, R172
  | qpop (d : Reg) (qa : BitVec 3)  -- QPOP, R172
  | mst (d a : Reg)  -- MST, R398
  | shufset (d a : Reg)  -- SHUFSET, R399
  | shuf (d a : Reg)  -- SHUF, R400
  | bar (a b : Reg)  -- BAR, R406
  | barScoped (a b : Reg) (scope : Scope)  -- BAR_SCOPED, R406
  | xred (d a : Reg)  -- XRED, R405
  | topo (d a : Reg)  -- TOPO, R418
  | trap (n : BitVec 4)  -- TRAP, R447
  | ctxsv (a b : Reg)  -- CTXSV, R450
  | ctxld (a b : Reg)  -- CTXLD, R450
  | tlbi (a b : Reg)  -- TLBI, R452
  | cap (a : Reg)  -- CAP, R453
  | scrub (a b : Reg)  -- SCRUB, R454
  | crr (d : Reg) (creg : CReg)  -- CRR, R173
  | crw (creg : CReg) (a : Reg)  -- CRW, R173
  | crs (creg : CReg) (a : Reg)  -- CRS, R173
  | crc (creg : CReg) (a : Reg)  -- CRC, R173
  | ringEntryReservation (pkg : Nat) (q : Nat)  -- RING_ENTRY_RESERVATION, R53
  | launchAdmission (pkg : Nat)  -- LAUNCH_ADMISSION, R55
  | swarmMessage (launch : Nat) (flat : Nat)  -- SWARM_MESSAGE, R57
  | launchRetirement (launch : Nat)  -- LAUNCH_RETIREMENT, R463
  | taskStart (cell : LCell) (slot : Nat)  -- TASK_START, R74
  | contextResume (cell : PCell) (slot : Nat)  -- CONTEXT_RESUME, R86
  | stealAttempt (thief : LCell)  -- STEAL_ATTEMPT, R78
  | stealRequest (msg : Nat)  -- STEAL_REQUEST, R79
  | stealAnswer (msg : Nat)  -- STEAL_ANSWER, R80
  | timesliceExpiry (thread : Nat)  -- TIMESLICE_EXPIRY, R86
  | gangSlotReservation (cell : LCell) (slot : Nat)  -- GANG_SLOT_RESERVATION, R88
  | flyArrival (thread : Nat)  -- FLY_ARRIVAL, R91
  | wakeDelivery (msg : Nat)  -- WAKE_DELIVERY, R166
  | replayTimeout (pkg : Nat) (port : Nat)  -- REPLAY_TIMEOUT, R412
  | forcedSave (thread : Nat)  -- FORCED_SAVE, R442
  | cellRestart (cell : PCell)  -- CELL_RESTART, R473
  | relaxedStoreAck (thread : Nat) (n : Nat)  -- RELAXED_STORE_ACK, R228
  | waitLimitExpiry (thread : Nat)  -- WAIT_LIMIT_EXPIRY, R93
  | fullEmptyRequest (thread : Nat)  -- FULL_EMPTY_REQUEST, R233
  | parkTableResend (thread : Nat)  -- PARK_TABLE_RESEND, R233
  | withdrawal (thread : Nat)  -- WITHDRAWAL, R235
  | withdrawalAnswer (thread : Nat)  -- WITHDRAWAL_ANSWER, R235
  | sleepExpiry (thread : Nat)  -- SLEEP_EXPIRY, R165
  | promiseExpiry (copy : Nat)  -- PROMISE_EXPIRY, R251
  | codeRequestRetry (pkg : Nat) (port : Nat)  -- CODE_REQUEST_RETRY, R413
  | waysChange (cell : PCell)  -- WAYS_CHANGE, R181
  | copyBlock (copy : Nat)  -- COPY_BLOCK, R245
  | vectorCommandStart (thread : Nat) (mismatch : Bool)  -- VECTOR_COMMAND_START, R256
  | tileCaptureEnd (omu : ClusterId)  -- TILE_CAPTURE_END, R322
  | imageBlockRead (omu : ClusterId)  -- IMAGE_BLOCK_READ, R322
  | decompositionComplete (omu : ClusterId)  -- DECOMPOSITION_COMPLETE, R291
  | loadCompletion (omu : ClusterId)  -- LOAD_COMPLETION, R322
  | bankSwap (omu : ClusterId)  -- BANK_SWAP, R296
  | passStart (omu : ClusterId)  -- PASS_START, R295
  | passStop (omu : ClusterId)  -- PASS_STOP, R310
  | mailboxRequest (thread : Nat)  -- MAILBOX_REQUEST, R360
  | routerPacket (packet : Nat)  -- ROUTER_PACKET, R396
  | multicastData (packet : Nat)  -- MULTICAST_DATA, R398
  | shuffleBlock (packet : Nat)  -- SHUFFLE_BLOCK, R400
  | shuffleResend (packet : Nat)  -- SHUFFLE_RESEND, R400
  | codedShuffle (packet : Nat)  -- CODED_SHUFFLE, R403
  | fallbackRequest (packet : Nat)  -- FALLBACK_REQUEST, R403
  | xsumReduction (packet : Nat)  -- XSUM_REDUCTION, R405
  | acknowledgement (packet : Nat)  -- ACKNOWLEDGEMENT, R408
  | barrierArrival (thread : Nat)  -- BARRIER_ARRIVAL, R406
  | flitReceive (pkg : Nat) (port : Nat) (flit : BitVec 128) (decodes : Bool) (tagOk : Bool)  -- FLIT_RECEIVE, R412
  | codeRequest (pkg : Nat) (port : Nat) (mode : Bool)  -- CODE_REQUEST, R413
  | codeAcknowledgement (pkg : Nat) (port : Nat)  -- CODE_ACKNOWLEDGEMENT, R413
  | loadrt (pkg : Nat)  -- LOADRT, R418
  | code (pkg : Nat)  -- CODE, R418
  | power (pkg : Nat)  -- POWER, R418
  | reconf (pkg : Nat)  -- RECONF, R419
  | close (pkg : Nat)  -- CLOSE, R419
  | portDrainComplete (pkg : Nat) (port : Nat)  -- PORT_DRAIN_COMPLETE, R419
  | portSwitchComplete (pkg : Nat) (port : Nat)  -- PORT_SWITCH_COMPLETE, R419
  | trainTimeout (pkg : Nat) (port : Nat)  -- TRAIN_TIMEOUT, R419
  | portWake (pkg : Nat) (port : Nat)  -- PORT_WAKE, R417
  | launchEnd (launch : Nat)  -- LAUNCH_END, R464
  | flrDrainComplete (pkg : Nat) (vf : Nat)  -- FLR_DRAIN_COMPLETE, R479
  | powerDown (pkg : Nat) (port : Nat)  -- POWER_DOWN, R417
  | faultWindowBoundary (pkg : Nat) (die : Nat)  -- FAULT_WINDOW_BOUNDARY, R470
  | clusterQuiesce (pkg : Nat) (die : Nat) (lcl : Nat) (target : Nat) (cellMap : List (BitVec 16))  -- CLUSTER_QUIESCE, R72
  | accessCompletion (thread : Nat)  -- ACCESS_COMPLETION, R144
  | fence  -- FENCE, R223
  | tfence  -- TFENCE, R225
  | vfence  -- VFENCE, R257
  | ungang  -- UNGANG, R170
  | pswap  -- PSWAP, R325
  | tend  -- TEND, R164
  | yield  -- YIELD, R165
  | wfw  -- WFW, R165
  | rte  -- RTE, R448
  | urte  -- URTE, R449
  | halt  -- HALT, R451
  | powerOnBoot (pkg : Nat) (world : BootWorld)  -- POWER_ON_BOOT, R39
  | antiRollbackAdvance (pkg : Nat)  -- ANTI_ROLLBACK_ADVANCE, R41
  | measurementExtend (pkg : Nat) (n : BitVec 4) (digest : List Byte)  -- MEASUREMENT_EXTEND, R42
  | getMeasurements (pkg : Nat) (nonce : List Byte)  -- GET_MEASUREMENTS, R43
  | pldmMonitoring (pkg : Nat) (readings : List Nat)  -- PLDM_MONITORING, R64
  | pldmFirmwareUpdate (pkg : Nat) (image : ConfigImage)  -- PLDM_FIRMWARE_UPDATE, R64
  | powerCapSet (pkg : Nat) (watts : Nat)  -- POWER_CAP_SET, R65
  | thermalThrottle (pkg : Nat) (die : Nat) (on : Bool)  -- THERMAL_THROTTLE, R65
  | thermalShutdown (pkg : Nat) (die : Nat)  -- THERMAL_SHUTDOWN, R65
  | packageReset (pkg : Nat)  -- PACKAGE_RESET, R42
  | launchWrite (pkg : Nat) (vf : Nat) (qlocal : Nat) (rec : BitVec 512)  -- LAUNCH_WRITE, R48
  | malformedWrite (pkg : Nat) (vf : Nat) (qlocal : Nat)  -- MALFORMED_WRITE, R47
  | crheadWrite (pkg : Nat) (vf : Nat) (qlocal : Nat) (value : Word)  -- CRHEAD_WRITE, R46
  | queueEnable (pkg : Nat) (q : Nat) (qctl : Word)  -- QUEUE_ENABLE, R51
  | queueDisable (pkg : Nat) (q : Nat) (qctl : Word)  -- QUEUE_DISABLE, R51
  | registerWrite (pkg : Nat) (off : Nat) (value : Word)  -- REGISTER_WRITE, R50
  | portstatWrite (pkg : Nat) (port : Nat) (value : Word)  -- PORTSTAT_WRITE, R421
  | keyUpdate (pkg : Nat) (port : Nat)  -- KEY_UPDATE, R414
  | checkerRetry (thread : Nat) (mismatch : Bool)  -- CHECKER_RETRY, R151
  | pageWalk (cell : PCell) (vf : Nat) (va : Word) (kind : AccessKind)  -- PAGE_WALK, R196
  | waysWrite (thread : Nat) (value : Word)  -- WAYS_WRITE, R180
  | groupWrite (cell : PCell) (value : Word)  -- GROUP_WRITE, R182
  | wdescWrite (thread : Nat) (n : BitVec 3) (value : Word)  -- WDESC_WRITE, R183
  | wlimWrite (thread : Nat) (value : Word)  -- WLIM_WRITE, R155
  | gpivWrite (thread : Nat) (value : Word)  -- GPIV_WRITE, R353
  | tcauseWrite (thread : Nat) (value : Word)  -- TCAUSE_WRITE, R436
  | probeStart (omu : ClusterId) (err : Nat)  -- PROBE_START, R330
  | scoutVerdict (omu : ClusterId) (err : Nat)  -- SCOUT_VERDICT, R309
  | resolverAudit (omu : ClusterId) (mismatch : Bool)  -- RESOLVER_AUDIT, R307
  | carrierLoss (omu : ClusterId)  -- CARRIER_LOSS, R315
  | thermalLoss (omu : ClusterId)  -- THERMAL_LOSS, R315
  | spareLineAssignment (omu : ClusterId)  -- SPARE_LINE_ASSIGNMENT, R315
  | omuRecalibration (omu : ClusterId) (cal : Calibration)  -- OMU_RECALIBRATION, R315
  | preemption (thread : Nat)  -- PREEMPTION, R441
  | promiseMissedUpcall (thread : Nat)  -- PROMISE_MISSED_UPCALL, R428
  | laneLoss (pkg : Nat) (port : Nat) (lost : BitVec 16)  -- LANE_LOSS, R415
  | portTrainComplete (pkg : Nat) (port : Nat) (lanes : BitVec 16)  -- PORT_TRAIN_COMPLETE, R419
  | portAuth (pkg : Nat) (port : Nat) (ok : Bool) (peer : Nat) (leaf : List Byte)  -- PORT_AUTH, R420
  | keyCacheExpiry (pkg : Nat)  -- KEY_CACHE_EXPIRY, R420
  | correctedError (pkg : Nat) (stack : Nat) (ra : BitVec 32)  -- CORRECTED_ERROR, R475
  | pseudoChannelRetirement (pkg : Nat) (stack : Nat) (chan : Nat)  -- PSEUDO_CHANNEL_RETIREMENT, R192
  | cartridgeRelease (pkg : Nat) (cart : Nat)  -- CARTRIDGE_RELEASE, R477
  | cartridgeInsertion (pkg : Nat) (cart : Nat)  -- CARTRIDGE_INSERTION, R477
  | functionLevelReset (pkg : Nat) (vf : Nat)  -- FUNCTION_LEVEL_RESET, R479
  | pumpCartridgeLost (pkg : Nat) (cart : Nat)  -- PUMP_CARTRIDGE_LOST, R315
  | spareLineRejoin (pkg : Nat) (port : Nat) (lanes : BitVec 16)  -- SPARE_LINE_REJOIN, R415
  | powerLoss (pkg : Nat)  -- POWER_LOSS, R43
  deriving DecidableEq, Repr

end Sys2Proof
end

