-- ==== Sys2Proof/Machine/Flags.lean ====
section
/-! DEFINITION. The four exception conditions of R203 and how an instruction records them in the thread's vector flags
(R258). -/
namespace Sys2Proof.Machine
open Sys2Proof

/-- The conditions an operation raises (R203). -/
structure Conds where
  nv : Bool := false
  of : Bool := false
  uf : Bool := false
  nx : Bool := false
  deriving DecidableEq, Repr

/-- The conditions of two operations together: the flags are their OR (R258). -/
def Conds.or (a b : Conds) : Conds :=
  ⟨a.nv || b.nv, a.of || b.of, a.uf || b.uf, a.nx || b.nx⟩

/-- The conditions of a list of operations, ORed. -/
def Conds.all (cs : List Conds) : Conds := cs.foldl Conds.or {}

/-- No condition. -/
def Conds.none : Conds := {}

/-- Only NV. -/
def Conds.invalid : Conds := { nv := true }

/-- The layout of the value vstat writes (R258): NV, OF, UF, NX from bit 3 down. -/
def Conds.bits (c : Conds) : BitVec 4 :=
  (if c.nv then 8#4 else 0#4) ||| (if c.of then 4#4 else 0#4) ||| (if c.uf then 2#4 else 0#4) |||
    (if c.nx then 1#4 else 0#4)

/-- The sticky flags after an operation that raises c (R258). -/
def orFlags (flags : BitVec 4) (c : Conds) : BitVec 4 := flags ||| c.bits

end Sys2Proof.Machine
end

