-- ==== Sys2Proof/Machine/Formats.lean ====
section
/-! DEFINITION. Number formats (chapter 08): the encodings of the element types, the exact values they stand for, and
round_to (R202 to R211). Values are exact: a sign, a natural numerator and denominator, and a power of two. -/
namespace Sys2Proof

/-! ### Element types -/

/-- The type code of R116. -/
def ElemTy.code : ElemTy → Nat
  | .i8 => 0 | .i16 => 1 | .i32 => 2 | .i64 => 3 | .n8 => 4 | .n16 => 5 | .n32 => 6 | .n64 => 7
  | .f16 => 8 | .bf16 => 9 | .f32 => 10 | .f64 => 11 | .e4m3 => 12 | .e5m2 => 13 | .e2m1 => 14
  | .eb2 => 15 | .eb4 => 16 | .xsum => 17

/-- The element types in code order (R116). -/
def ElemTy.all : List ElemTy :=
  [.i8, .i16, .i32, .i64, .n8, .n16, .n32, .n64, .f16, .bf16, .f32, .f64, .e4m3, .e5m2, .e2m1, .eb2, .eb4, .xsum]

/-- The element type of a code; 18 to 31 are reserved (R116). -/
def ElemTy.ofCode (n : Nat) : Option ElemTy := ElemTy.all[n]?

/-- The element width in bits (R261); a block element has the width of its code, an XSUM record 256. -/
def ElemTy.width : ElemTy → Nat
  | .i8 | .n8 | .e4m3 | .e5m2 | .eb4 => 8
  | .i16 | .n16 | .f16 | .bf16 => 16
  | .i32 | .n32 | .f32 => 32
  | .i64 | .n64 | .f64 => 64
  | .e2m1 | .eb2 => 4
  | .xsum => 256

/-- A signed integer type (R199). -/
def ElemTy.isSigned : ElemTy → Bool
  | .i8 | .i16 | .i32 | .i64 => true
  | _ => false

/-- An integer type (R199). -/
def ElemTy.isInt (t : ElemTy) : Bool := t.code < 8

/-- A floating type of the vector unit (R265: 8 to 13), or E2M1. -/
def ElemTy.isFloat (t : ElemTy) : Bool := 8 ≤ t.code && t.code ≤ 14

/-- FP16 or BF16: the types FTZ acts on (R202). -/
def ElemTy.isHalf (t : ElemTy) : Bool := t == .f16 || t == .bf16

/-- A block type (R212). -/
def ElemTy.isBlock (t : ElemTy) : Bool := t == .eb2 || t == .eb4

/-- The code of a rounding mode (R114). -/
def RMode.code : RMode → Nat
  | .rne => 0 | .rtz => 1 | .rup => 2 | .rdn => 3 | .rna => 4

/-- The rounding mode of a code; 5 to 7 are reserved (R114). -/
def RMode.ofCode (n : Nat) : Option RMode := [RMode.rne, .rtz, .rup, .rdn, .rna][n]?

end Sys2Proof

namespace Sys2Proof.Machine
open Sys2Proof

/-! ### Exact values -/

/-- An exact real value, an infinity or a NaN (`sig`: a signalling one, R201). `fin neg p q e` is
(-1)^neg * p / q * 2^e, with q positive; p = 0 is a zero with its sign. -/
inductive FVal where
  | nan (sig : Bool)
  | inf (neg : Bool)
  | fin (neg : Bool) (p : Nat) (q : Nat) (e : Int)
  deriving DecidableEq, Repr

/-- Positive zero. -/
def FVal.zero : FVal := .fin false 0 1 0

/-- An integer as a value. -/
def FVal.ofInt (i : Int) : FVal := .fin (decide (i < 0)) i.natAbs 1 0

/-- A natural number shifted left by a possibly negative count, only the non-negative part of it. -/
def shlPos (n : Nat) (k : Int) : Nat := n * 2 ^ k.toNat

/-- p / q rounded to an integer in mode rm, for a value of sign neg, and whether it was inexact (R202). -/
def roundQuot (rm : RMode) (neg : Bool) (p q : Nat) : Nat × Bool :=
  let f := p / q
  let r := p % q
  let up : Bool := match rm with
    | .rne => decide (q < 2 * r) || (decide (2 * r = q) && decide (f % 2 = 1))
    | .rtz => false
    | .rup => !neg && decide (0 < r)
    | .rdn => neg && decide (0 < r)
    | .rna => decide (q ≤ 2 * r) && decide (0 < r)
  (if up then f + 1 else f, decide (0 < r))

/-- floor(log2(p / q)) for positive p and q. -/
def floorLog2 (p q : Nat) : Int :=
  let k : Int := (Nat.log2 p : Int) - (Nat.log2 q : Int)
  if shlPos p (-k) < shlPos q k then k - 1 else k

/-- p / q * 2^e in units of 2^u, rounded to an integer. -/
def roundAt (rm : RMode) (neg : Bool) (p q : Nat) (e u : Int) : Nat × Bool :=
  roundQuot rm neg (shlPos p (e - u)) (shlPos q (u - e))

/-- The comparison of p1 / q1 * 2^e1 with p2 / q2 * 2^e2. -/
def cmpMag (p1 q1 : Nat) (e1 : Int) (p2 q2 : Nat) (e2 : Int) : Ordering :=
  compare (shlPos (p1 * q2) (e1 - e2)) (shlPos (p2 * q1) (e2 - e1))

/-! ### Formats -/

/-- A binary format: exponent and fraction widths, bias, whether the top exponent code is special, and whether an
overflow saturates (R200, R205, R206, R210). -/
structure Fmt where
  ebits : Nat
  fbits : Nat
  bias : Int
  special : Bool
  narrow : Bool
  deriving DecidableEq, Repr

/-- The format of a floating element type under an NSM setting (R200, R205, R206). -/
def fmtOf (t : ElemTy) (nsm : Bool) : Option Fmt :=
  match t with
  | .f64 => some ⟨11, 52, 1023, true, false⟩
  | .f32 => some ⟨8, 23, 127, true, false⟩
  | .f16 => some ⟨5, 10, 15, true, false⟩
  | .bf16 => some ⟨8, 7, 127, true, false⟩
  | .e4m3 | .eb4 => some ⟨4, 3, 7, nsm, true⟩
  | .e5m2 => some ⟨5, 2, 15, nsm, true⟩
  | .e2m1 | .eb2 => some ⟨2, 1, 1, false, true⟩
  | _ => none

/-- The top exponent code. -/
def Fmt.topExp (f : Fmt) : Nat := 2 ^ f.ebits - 1

/-- The exponent of the least normal number. -/
def Fmt.emin (f : Fmt) : Int := 1 - f.bias

/-- The code of the largest finite magnitude (R200, R206). -/
def Fmt.maxCode (f : Fmt) : Nat :=
  (if f.special then f.topExp - 1 else f.topExp) * 2 ^ f.fbits + (2 ^ f.fbits - 1)

/-- The largest finite magnitude as an integer in units of 2^(exponent). -/
def Fmt.maxMag (f : Fmt) : Nat × Int :=
  (2 ^ (f.fbits + 1) - 1,
    ((if f.special then f.topExp - 1 else f.topExp : Nat) : Int) - f.bias - f.fbits)

/-- The code of an infinity. -/
def Fmt.infCode (f : Fmt) : Nat := f.topExp * 2 ^ f.fbits

/-- The canonical NaN (R200, R206): the top fraction bit of an IEEE format, all ones of a narrow one. -/
def Fmt.nanCode (f : Fmt) : Nat :=
  f.infCode + (if f.narrow then 2 ^ f.fbits - 1 else 2 ^ (f.fbits - 1))

/-- A code with its sign bit. -/
def Fmt.signed (f : Fmt) (neg : Bool) (mag : Nat) : Nat :=
  if neg then 2 ^ (f.ebits + f.fbits) + mag else mag

/-- The value of a code of the format (R200, R205, R206). -/
def Fmt.decode (f : Fmt) (c : Nat) : FVal :=
  let frac := c % 2 ^ f.fbits
  let e := c / 2 ^ f.fbits % 2 ^ f.ebits
  let neg := decide (c / 2 ^ (f.ebits + f.fbits) % 2 = 1)
  if f.special && e == f.topExp then
    if frac = 0 then .inf neg else .nan (!f.narrow && decide (frac < 2 ^ (f.fbits - 1)))
  else if e = 0 then .fin neg frac 1 (f.emin - f.fbits)
  else .fin neg (2 ^ f.fbits + frac) 1 ((e : Int) - f.bias - f.fbits)

/-- The result of a rounding: a code and the conditions raised. -/
structure Rounded where
  code : Nat
  conds : Conds
  deriving DecidableEq, Repr

/-- An overflow (R202, R210): OF and NX, with an infinity or the largest magnitude as mode and sign say. -/
def Fmt.overflow (f : Fmt) (rm : RMode) (neg : Bool) : Rounded :=
  let toMax : Bool := !f.special || (match rm with
    | .rtz => true
    | .rup => neg
    | .rdn => !neg
    | _ => false)
  ⟨f.signed neg (if toMax then f.maxCode else f.infCode), { of := true, nx := true }⟩

/-- A non-zero magnitude p / q * 2^e rounded into the format (R202, R203, R205, R210). With `ftz` a result below the
least normal after rounding becomes a zero with its sign. -/
def Fmt.roundFin (f : Fmt) (rm : RMode) (ftz : Bool) (neg : Bool) (p q : Nat) (e : Int) : Rounded :=
  let k := floorLog2 p q + e
  let u := k - f.fbits
  let ru := roundAt rm neg p q e u
  let tiny : Bool := decide (k < f.emin) &&
    !(decide (k = f.emin - 1) && decide (ru.1 = 2 ^ (f.fbits + 1)))
  if tiny && ftz then ⟨f.signed neg 0, { uf := true, nx := true }⟩
  else
    let ub := if u < f.emin - f.fbits then f.emin - f.fbits else u
    let r := roundAt rm neg p q e ub
    if cmpMag r.1 1 ub f.maxMag.1 1 f.maxMag.2 = .gt then f.overflow rm neg
    else
      -- the exponent field adds to the integer: a carry out of the fraction moves to the next exponent
      let base : Nat := if r.1 < 2 ^ f.fbits then 0 else (ub + f.fbits + f.bias - 1).toNat * 2 ^ f.fbits
      ⟨f.signed neg (base + r.1), { uf := tiny && r.2, nx := r.2 }⟩

/-- round_to (R204) for a floating target: an exact value converted under R202, R209 and R210. -/
def Fmt.round (f : Fmt) (rm : RMode) (ftz : Bool) (v : FVal) : Rounded :=
  match v with
  | .nan sig =>
    if f.special then ⟨f.nanCode, { nv := sig }⟩ else ⟨0, Conds.invalid⟩
  | .inf neg =>
    if f.special then ⟨f.signed neg f.infCode, {}⟩ else ⟨f.signed neg f.maxCode, { of := true }⟩
  | .fin neg p q e =>
    if p = 0 then ⟨f.signed neg 0, {}⟩ else f.roundFin rm ftz neg p q e

/-- A subnormal value of the format reads as zero with its sign under FTZ (R202). -/
def Fmt.flush (f : Fmt) (v : FVal) : FVal :=
  match v with
  | .fin neg p q e => if cmpMag p q e 1 1 f.emin = .lt then .fin neg 0 1 0 else .fin neg p q e
  | w => w

/-! ### Element values -/

/-- The two's-complement value of the low w bits of n (R199). -/
def signedOf (w : Nat) (n : Nat) : Int :=
  let m := n % 2 ^ w
  if m < 2 ^ (w - 1) then (m : Int) else (m : Int) - (2 ^ w : Nat)

/-- The integer a code of an integer type stands for (R199). -/
def intOf (t : ElemTy) (n : Nat) : Int :=
  if t.isSigned then signedOf t.width n else ((n % 2 ^ t.width : Nat) : Int)

/-- The least and greatest value of an integer type (R199). -/
def intMin (t : ElemTy) : Int := if t.isSigned then -(2 ^ (t.width - 1) : Nat) else 0

/-- The greatest value of an integer type (R199). -/
def intMax (t : ElemTy) : Int :=
  if t.isSigned then (2 ^ (t.width - 1) : Nat) - 1 else (2 ^ t.width : Nat) - 1

/-- The low bits that encode an integer in width w, wrapping (R199). -/
def wrapTo (w : Nat) (i : Int) : Nat := (i % (2 ^ w : Nat)).toNat

/-- An integer encoded into a type: wrapped, or with `sat` limited to the type's range (R199, R211, R273). -/
def encodeInt (t : ElemTy) (sat : Bool) (i : Int) : Nat :=
  wrapTo t.width (if sat then max (intMin t) (min (intMax t) i) else i)

/-- decode(c, fmt, nsm) of R204 for the types 0 to 16; a block element is decoded without its scale. -/
def decodeElem (t : ElemTy) (nsm : Bool) (c : Nat) : FVal :=
  match fmtOf t nsm with
  | some f => f.decode c
  | none => .ofInt (intOf t c)

/-- Conversion of a floating value to an integer type (R211): rounded by RM; a NaN gives 0, a value out of range the
nearest end, both with NV; a finite value out of range differs from its result, so it raises NX too (R203). -/
def floatToInt (t : ElemTy) (rm : RMode) (v : FVal) : Rounded :=
  match v with
  | .nan _ => ⟨0, Conds.invalid⟩
  | .inf neg => ⟨wrapTo t.width (if neg then intMin t else intMax t), Conds.invalid⟩
  | .fin neg p q e =>
    let r := roundAt rm neg p q e 0
    let i : Int := if neg then -(r.1 : Int) else r.1
    if i < intMin t then ⟨wrapTo t.width (intMin t), { nv := true, nx := true }⟩
    else if intMax t < i then ⟨wrapTo t.width (intMax t), { nv := true, nx := true }⟩
    else ⟨wrapTo t.width i, { nx := r.2 }⟩

/-- A conversion between element types (R208 to R211): `ftz` flushes FP16 and BF16 inputs and results. -/
def convertElem (src dst : ElemTy) (nsm : Bool) (rm : RMode) (sat ftz : Bool) (c : Nat) : Rounded :=
  if src.isInt && dst.isInt then ⟨encodeInt dst sat (intOf src c), {}⟩
  else
    let v := decodeElem src nsm c
    let v := match fmtOf src nsm with
      | some f => if ftz && src.isHalf then f.flush v else v
      | none => v
    match fmtOf dst nsm with
    | some f => f.round rm (ftz && dst.isHalf) v
    | none => floatToInt dst rm v

/-! ### Exact arithmetic -/

/-- The sign of an exact zero sum (R202): the common sign, or else plus, minus under .rdn. -/
def zeroSumNeg (rm : RMode) (n1 n2 : Bool) : Bool :=
  if n1 = n2 then n1 else decide (rm = .rdn)

/-- The exact sum of two values (R202, R203); the second component says that the operation was invalid. -/
def addExact (rm : RMode) (a b : FVal) : FVal × Bool :=
  match a, b with
  | .nan s1, .nan s2 => (.nan false, s1 || s2)
  | .nan s, _ => (.nan false, s)
  | _, .nan s => (.nan false, s)
  | .inf n1, .inf n2 => if n1 = n2 then (.inf n1, false) else (.nan false, true)
  | .inf n, _ => (.inf n, false)
  | _, .inf n => (.inf n, false)
  | .fin n1 p1 q1 e1, .fin n2 p2 q2 e2 =>
    let e := min e1 e2
    let x1 : Int := shlPos (p1 * q2) (e1 - e)
    let x2 : Int := shlPos (p2 * q1) (e2 - e)
    let s : Int := (if n1 then -x1 else x1) + (if n2 then -x2 else x2)
    if s = 0 then
      (.fin (if p1 = 0 ∧ p2 = 0 then zeroSumNeg rm n1 n2 else decide (rm = .rdn)) 0 1 0, false)
    else (.fin (decide (s < 0)) s.natAbs (q1 * q2) e, false)

/-- The value with its sign turned (R265); a NaN keeps its kind. -/
def FVal.neg : FVal → FVal
  | .nan s => .nan s
  | .inf n => .inf (!n)
  | .fin n p q e => .fin (!n) p q e

/-- The magnitude of a value. -/
def FVal.abs : FVal → FVal
  | .nan s => .nan s
  | .inf _ => .inf false
  | .fin _ p q e => .fin false p q e

/-- The exact product of two values (R203). -/
def mulExact (a b : FVal) : FVal × Bool :=
  match a, b with
  | .nan s1, .nan s2 => (.nan false, s1 || s2)
  | .nan s, _ => (.nan false, s)
  | _, .nan s => (.nan false, s)
  | .inf n1, .inf n2 => (.inf (n1 != n2), false)
  | .inf n1, .fin n2 p2 _ _ => if p2 = 0 then (.nan false, true) else (.inf (n1 != n2), false)
  | .fin n1 p1 _ _, .inf n2 => if p1 = 0 then (.nan false, true) else (.inf (n1 != n2), false)
  | .fin n1 p1 q1 e1, .fin n2 p2 q2 e2 => (.fin (n1 != n2) (p1 * p2) (q1 * q2) (e1 + e2), false)

/-- The exact quotient of two values (R203, R350): a finite non-zero value by zero is a signed infinity. -/
def divExact (a b : FVal) : FVal × Bool :=
  match a, b with
  | .nan s1, .nan s2 => (.nan false, s1 || s2)
  | .nan s, _ => (.nan false, s)
  | _, .nan s => (.nan false, s)
  | .inf _, .inf _ => (.nan false, true)
  | .inf n1, .fin n2 _ _ _ => (.inf (n1 != n2), false)
  | .fin n1 _ _ _, .inf n2 => (.fin (n1 != n2) 0 1 0, false)
  | .fin n1 p1 q1 e1, .fin n2 p2 q2 e2 =>
    if p2 = 0 then
      if p1 = 0 then (.nan false, true) else (.inf (n1 != n2), false)
    else (.fin (n1 != n2) (p1 * q2) (q1 * p2) (e1 - e2), false)

/-- The exact a * b + c (R222): a NaN of any operand gives a NaN; NV for a signalling one, for 0 times an infinity and
for infinities of opposite signs. -/
def fmaExact (rm : RMode) (a b c : FVal) : FVal × Bool :=
  let m := mulExact a b
  let s := addExact rm m.1 c
  (s.1, m.2 || s.2)

/-- A total order on values that are no NaN, with -0 before +0 (R271). -/
def cmpVal (a b : FVal) : Ordering :=
  match a, b with
  | .nan _, _ | _, .nan _ => .eq
  | .inf n1, .inf n2 => if n1 = n2 then .eq else if n1 then .lt else .gt
  | .inf n, _ => if n then .lt else .gt
  | _, .inf n => if n then .gt else .lt
  | .fin n1 p1 q1 e1, .fin n2 p2 q2 e2 =>
    if n1 = n2 then
      let o := cmpMag p1 q1 e1 p2 q2 e2
      if n1 then o.swap else o
    else if n1 then .lt else .gt

/-- Whether a value is a zero of either sign. -/
def FVal.isZero : FVal → Bool
  | .fin _ p _ _ => p == 0
  | _ => false

/-- Whether a value is a NaN. -/
def FVal.isNan : FVal → Bool
  | .nan _ => true
  | _ => false

/-- Whether a value is a NaN or an infinity. -/
def FVal.isSpecial : FVal → Bool
  | .fin .. => false
  | _ => true

/-- Numerical order, in which -0 equals +0 (R274). -/
def cmpNum (a b : FVal) : Ordering := if a.isZero && b.isZero then .eq else cmpVal a b

/-! ### FP32 as the Gaussian unit and the vector unit use it -/

/-- FP32 codes (R200). -/
def f32 : Fmt := ⟨8, 23, 127, true, false⟩

/-- Rounding an operation's exact result into a format, with NV where the operation was invalid. -/
def Fmt.finish (f : Fmt) (rm : RMode) (ftz : Bool) (r : FVal × Bool) : Rounded :=
  let x := f.round rm ftz r.1
  ⟨x.code, x.conds.or { nv := r.2 }⟩

/-! ### Block formats -/

/-- The fields X, F, S of a 24-bit scale record (R213). -/
def scaleX (r : Nat) : Nat := r / 2 ^ 16 % 256
/-- The scale fraction F (R213). -/
def scaleF (r : Nat) : Nat := r / 2 ^ 8 % 256
/-- The special value S (R213). -/
def scaleS (r : Nat) : Nat := r % 256

/-- The scale record with fields X, F, S (R213). -/
def scaleRec (x f s : Nat) : Nat := x * 2 ^ 16 + f * 2 ^ 8 + s

/-- Whether the record makes its block a NaN block (R213). -/
def isNanBlock (t : ElemTy) (r : Nat) : Bool :=
  scaleX r == 255 || (t == .eb4 && scaleS r != 0)

/-- A value times the scale 2^(X-127) * (1 + F/256) of a record (R213). -/
def timesScale (r : Nat) (v : FVal) : FVal :=
  match v with
  | .fin n p q e => .fin n (p * (256 + scaleF r)) q (e + (scaleX r : Int) - 135)
  | w => w

/-- A value divided by the scale of a record. -/
def overScale (r : Nat) (v : FVal) : FVal :=
  match v with
  | .fin n p q e => .fin n p (q * (256 + scaleF r)) (e - (scaleX r : Int) + 135)
  | w => w

/-- The value of an element code of a block with scale record r (R213). -/
def decodeBlockElem (t : ElemTy) (nsm : Bool) (r : Nat) (c : Nat) : FVal :=
  if isNanBlock t r then .nan false
  else if t == .eb2 && c == 8 then
    timesScale r (.fin (decide (scaleS r / 128 % 2 = 1)) (scaleS r % 128) 1 (-3))
  else timesScale r (decodeElem t nsm c)

/-- The element code an EB2 negative zero is written as (R214). -/
def noNegZero (t : ElemTy) (c : Nat) : Nat := if t == .eb2 && c == 8 then 0 else c

/-- One element encoded against an existing scale record: value / s by round_to, never 1000b in EB2; a NaN block takes
code 0 (R214). -/
def encodeBlockElem (t : ElemTy) (nsm : Bool) (rm : RMode) (r : Nat) (v : FVal) : Rounded :=
  if isNanBlock t r then ⟨0, {}⟩
  else match fmtOf t nsm with
    | some f =>
      let x := f.round rm false (overScale r v)
      ⟨noNegZero t x.code, x.conds⟩
    | none => ⟨0, {}⟩

/-- |a - b| of two finite values; zero for others. -/
def absDiff (a b : FVal) : FVal := (addExact .rne a b.neg).1.abs

/-- The larger of two magnitudes, the first on a tie. -/
def maxAbs (a b : FVal) : FVal := if cmpVal a.abs b.abs = .lt then b.abs else a.abs

/-- The smallest scale of R213 that is at least p / q * 2^e, as X and F (R214). -/
def smallestScale (p q : Nat) (e : Int) : Nat × Nat :=
  let k := floorLog2 p q + e
  let m := roundQuot .rup false (shlPos p (e - (k - 8))) (shlPos q ((k - 8) - e))
  let k' := if m.1 = 512 then k + 1 else k
  let f := if m.1 = 512 then 0 else m.1 - 256
  if k' + 127 < 0 then (0, 0)
  else if 254 < k' + 127 then (254, 255)
  else ((k' + 127).toNat, f)

/-- The largest magnitude the elements of a block can hold (R214). -/
def blockMax (t : ElemTy) (nsm : Bool) : Nat := if t == .eb2 then 6 else if nsm then 240 else 480

/-- The index of the first largest value of a list of magnitudes. -/
def argMax (xs : List FVal) : Nat :=
  (xs.foldl (fun (acc : Nat × Nat × FVal) x =>
    if cmpVal acc.2.2 x = .lt then (acc.1 + 1, acc.1, x) else (acc.1 + 1, acc.2.1, acc.2.2)) (0, 0, .fin true 1 1 0)).2.1

/-- Encoding 32 values into a block (R214): the codes, the scale record, and the conditions. Those of the round_to of an element that S then
replaces count too (DESIGN CHOICE, log 95). -/
def encodeBlock (t : ElemTy) (nsm : Bool) (vs : List FVal) : List Nat × Nat × Conds :=
  if vs.any FVal.isSpecial then (vs.map fun _ => 0, scaleRec 255 0 0, Conds.invalid)
  else
    let amax := vs.foldl maxAbs FVal.zero
    let xf : Nat × Nat := match amax with
      | .fin _ p q e => if p = 0 then (127, 0) else smallestScale p (q * blockMax t nsm) e
      | _ => (127, 0)
    let r0 := scaleRec xf.1 xf.2 0
    let qs := vs.map (overScale r0)
    let enc := qs.map fun v => match fmtOf t nsm with
      | some f => f.round .rne false v
      | none => ⟨0, {}⟩
    let codes := enc.map Rounded.code
    let conds := Conds.all (enc.map Rounded.conds)
    if t == .eb2 then
      let errs := (qs.zip codes).map fun x => absDiff x.1 (decodeElem .e2m1 nsm x.2)
      let j := argMax errs
      match qs[j]? with
      | some (.fin n p q e) =>
        let c := min (roundAt .rne n p q e (-3)).1 127
        let better := cmpVal (absDiff (.fin n p q e) (.fin n c 1 (-3))) (errs.getD j FVal.zero) = .lt
        let plain := codes.map (noNegZero .eb2)
        if better then (plain.set j 8, scaleRec xf.1 xf.2 ((if n then 128 else 0) + c), conds)
        else (plain, r0, conds)
      | _ => (codes.map (noNegZero .eb2), r0, conds)
    else (codes, r0, conds)

/-! ### The exact sum record -/

/-- The fields of an XSUM record (R218). -/
structure Xsum where
  int : BitVec 192
  anchor : BitVec 16
  fmt : BitVec 5
  flags : BitVec 6
  deriving DecidableEq, Repr

/-- NAN, PINF, NINF, OVF, INX, ANCH are flag bits 0 to 5 (R218: bits 216 to 221). -/
def Xsum.ofBits (b : BitVec 256) : Xsum :=
  ⟨b.extractLsb' 0 192, b.extractLsb' 192 16, b.extractLsb' 208 5, b.extractLsb' 216 6⟩

/-- The 256 bits of a record, reserved bits zero (R218). -/
def Xsum.toBits (x : Xsum) : BitVec 256 :=
  (x.int.zeroExtend 256) ||| (x.anchor.zeroExtend 256 <<< 192) ||| (x.fmt.zeroExtend 256 <<< 208) |||
    (x.flags.zeroExtend 256 <<< 216)

/-- A record with a non-zero reserved bit, or FMT 15 to 31, is malformed (R218). -/
def xsumMalformed (b : BitVec 256) : Bool :=
  b.extractLsb' 213 3 != 0#3 || b.extractLsb' 222 34 != 0#34 || decide (15 ≤ (b.extractLsb' 208 5).toNat)

/-- The type of the contributions of a record (R218). -/
def Xsum.type (x : Xsum) : ElemTy := (ElemTy.ofCode x.fmt.toNat).getD .i8

/-- Adding a contribution to a record (R219). -/
def Xsum.add (x : Xsum) (v : FVal) : Xsum :=
  match v with
  | .nan _ => { x with flags := x.flags ||| 1#6 }
  | .inf false => { x with flags := x.flags ||| 2#6 }
  | .inf true => { x with flags := x.flags ||| 4#6 }
  | .fin neg p q e =>
    let r := roundAt .rne neg p q e x.anchor.toInt
    { x with
      flags := x.flags ||| (if r.2 then 16#6 else 0#6) ||| (if 2 ^ 190 ≤ r.1 then 8#6 else 0#6)
      int := x.int + BitVec.ofInt 192 (if neg then -(r.1 : Int) else r.1) }

/-- xsum_add (R220). -/
def Xsum.combine (a b : Xsum) : Xsum :=
  if a.flags.getLsbD 5 || b.flags.getLsbD 5 || a.anchor != b.anchor || a.fmt != b.fmt then
    { flags := a.flags ||| b.flags ||| 32#6
      int := 0
      anchor := if a.anchor.toInt ≤ b.anchor.toInt then a.anchor else b.anchor
      fmt := if a.fmt.toNat ≤ b.fmt.toNat then a.fmt else b.fmt }
  else { flags := a.flags ||| b.flags, int := a.int + b.int, anchor := a.anchor, fmt := a.fmt }

/-- How a malformed record enters xsum_add in vxacc (R279) and xred (R405): ANCH is 1 and INT and FMT are 0. -/
def xsumEnter (b : BitVec 256) : Xsum :=
  let x := Xsum.ofBits b
  if xsumMalformed b then { x with flags := x.flags ||| 32#6, int := 0, fmt := 0 } else x

/-- Finalising a record to a format (R221); a malformed one gives the canonical NaN with NV (R280). -/
def xsumFinal (b : BitVec 256) (t : ElemTy) (nsm : Bool) (rm : RMode) : Rounded :=
  let x := Xsum.ofBits b
  match fmtOf t nsm with
  | none => ⟨0, {}⟩
  | some f =>
    let pinf := x.flags.getLsbD 1
    let ninf := x.flags.getLsbD 2
    if xsumMalformed b || x.flags.getLsbD 0 || x.flags.getLsbD 5 || x.flags.getLsbD 3 || (pinf && ninf) then
      ⟨(f.round rm false (.nan false)).code, Conds.invalid⟩
    else if pinf then f.round rm false (.inf false)
    else if ninf then f.round rm false (.inf true)
    else f.round rm false (.fin (decide (x.int.toInt < 0)) x.int.toInt.natAbs 1 x.anchor.toInt)

/-! ### Pass formats -/

/-- A latched input vector (R215): 128 lanes, the scale exponent X, and INV. -/
structure Pif where
  lanes : List Int
  x : Nat
  inv : Bool
  deriving DecidableEq, Repr

/-- The latch of 128 exact values (R215). -/
def latchPif (vs : List FVal) : Pif :=
  if vs.any FVal.isSpecial then ⟨vs.map fun _ => 0, 127, true⟩
  else
    let m := vs.foldl maxAbs FVal.zero
    let k : Int := match m with
      | .fin _ p q e => if p = 0 then 8 else floorLog2 p q + e
      | _ => 8
    let k := if k < -119 then -119 else k
    ⟨vs.map fun v => match v with
      | .fin neg p q e =>
        let r := (roundAt .rne neg p q e (k - 8)).1
        let i : Int := if neg then -(r : Int) else r
        max (-511) (min 511 i)
      | _ => 0, (k + 119).toNat, false⟩

/-- round_E of R216: the output o and its SAT bit for the exact product y, under the output scale record and E. -/
def roundE (oscale : Nat) (e : Nat) (y : FVal) : Int × Bool :=
  match overScale oscale y with
  | .fin neg p q x =>
    let o := (roundAt .rne neg p q (x + e - 1) 0).1
    let lim := 2 ^ (e - 1) - 1
    if lim < o then (if neg then -(lim : Int) else lim, true) else (if neg then -(o : Int) else o, false)
  | _ => (0, false)

end Sys2Proof.Machine
end

