-- ==== Sys2Proof/Config.lean ====
section
/-! DEFINITION. What the spec leaves to the device or to the world outside it: constants with no body, so that no proof
can see their values. -/
namespace Sys2Proof.Config
open Sys2Proof

/-- Which of n candidates a full cache way or TLB gives up, by the counter of free values: the spec names no replacement
rule (log 11, 12). -/
opaque victim : Nat → Nat → Nat

/-- Whether a throttled die withholds its issue turn in a dclk: the spec says "a fixed pattern" (R65; log 5). -/
opaque withhold : Nat → Bool

/-- The 32,512 mesh codes and 128 gain values of a tile's decomposition, as image bytes 128 to 49,151 (R288, R291), for the
tile bytes, the weight format and NSM: Jacobi and rectangular decompositions in FP32, whose pair order and formulas the
spec does not state (log 16). -/
opaque phaseCodes : List Byte → BitVec 2 → Bool → List Byte

/-- The GEXP of the same decomposition (R291; log 16). -/
opaque phaseGexp : List Byte → BitVec 2 → Bool → BitVec 8

/-- Whether an XMSS signature over the bytes verifies against the root key of the boot ROM mask (R39; log 14). -/
opaque xmssValid : List Byte → List Byte → Bool

/-- The XMSS signature of the device identity key over the bytes with the given leaf (R43; log 14). -/
opaque xmssSign : List Byte → Nat → List Byte

/-- What a PLDM or SPDM answer looks like on MCTP for the values it carries: its framing is not in the spec (R43, R64; log
14). -/
opaque answerBytes : List Nat → List Byte → List Byte

/-- A value the spec leaves open, by the counter of free values (see State.free). -/
opaque freeValue : Nat → Nat

end Sys2Proof.Config
end

