-- ==== Sys2Proof/Machine/Fields.lean ====
section
/-! DEFINITION. Which values the fields of an instruction may hold: the extension word (R101, R107), lookahead (R103), operand
fields (R104) and the fields of a vector command (R263, R265). -/
namespace Sys2Proof.Machine
open Sys2Proof

/-- The scope code of R102. -/
def scopeCode : Scope → Nat
  | .sys => 0 | .dom => 1 | .fn => 2 | .part => 3 | .pkg => 4 | .die => 5 | .cl => 6 | .grp => 7 | .cell => 8
  | .gang => 9 | .thr => 10

/-- The scope of a code; 11 to 15 are reserved (R100). -/
def scopeOf (n : Nat) : Option Scope :=
  [Scope.sys, .dom, .fn, .part, .pkg, .die, .cl, .grp, .cell, .gang, .thr][n]?

/-- The ordering code of R100. -/
def ordCode : Ord → Nat
  | .none => 0 | .acq => 1 | .rel => 2 | .both => 3

/-- The ordering of a code (R100). -/
def ordOf (n : Nat) : Ord := match n with
  | 1 => .acq | 2 => .rel | 3 => .both | _ => .none

/-- What R101 asks of every extension word of a memory access: RX = 1 and SCOPE ≠ 0 each need a fitting ORD. -/
def extOk (e : Ext) : Bool :=
  (!e.rx || decide (e.ord = .none)) && (decide (e.scope = .sys) || !decide (e.ord = .none))

/-- A load's extension word: ORD is 0 or 1 (R101). -/
def loadExtOk (e : Ext) : Bool := extOk e && (decide (e.ord = .none) || decide (e.ord = .acq))

/-- A store's extension word: ORD is 0 or 2 (R101). -/
def storeExtOk (e : Ext) : Bool := extOk e && (decide (e.ord = .none) || decide (e.ord = .rel))

/-- An atomic's extension word: RX is not admitted (R106, R237). -/
def atomicExtOk (e : Ext) : Bool := extOk e && !e.rx

/-- LA may be non-zero only with ORD = 0 (R103). -/
def laOk (la : BitVec 4) (ext : Option Ext) : Bool :=
  la == 0 || (match ext with
    | none => true
    | some e => decide (e.ord = .none))

/-- A load's fields (R101, R103). -/
def loadOk (o : Load) : Bool :=
  (match o.ext with
    | none => true
    | some e => loadExtOk e) && laOk o.la o.ext

/-- A store's fields (R101). -/
def storeOk (o : Store) : Bool := match o.ext with
  | none => true
  | some e => storeExtOk e

/-- An atomic's fields (R101, R103). -/
def atomicOk (o : Atomic) : Bool :=
  (match o.ext with
    | none => true
    | some e => atomicExtOk e) && laOk o.la o.ext

/-- The fields of acas (R101, R103, R237). -/
def casOk (o : Cas) : Bool := atomicExtOk o.ext && laOk o.la (some o.ext)

/-- A control-register number of R113: WDESC runs from 1 to 7. -/
def cregOk : CReg → Bool
  | .wdesc n => n != 0
  | _ => true

/-- The first register of a Gaussian block is a multiple of 4 (R104). -/
def blockReg (v : VNum) : Bool := v.extractLsb' 0 2 == 0#2

/-- The row of R265 for a vector command: which fields it uses, the type its result has, and the row's own limits on
the used fields. -/
structure VRow where
  d : Bool := false
  a : Bool := false
  b : Bool := false
  c : Bool := false
  s0 : Bool := false
  s1 : Bool := false
  mask : Bool := true
  rm : Bool := false
  sat : Bool := false
  ftz : Bool := false
  ty2 : Bool := false
  sub : Bool := false
  vimm : Bool := false
  res : ElemTy
  limits : Bool
  deriving DecidableEq, Repr

/-- A vector command's fields against its row (R255, R262, R263). -/
def vargsOk (o : VArgs) (r : VRow) : Bool :=
  (r.d || o.vd == 0) && (r.a || o.va == 0) && (r.b || o.vb == 0) && (r.c || o.vc == 0) &&
  (r.s0 || o.a == 0) && (r.s1 || o.b == 0) && (r.mask || o.mask == none) &&
  (decide (o.rm = .rne) || (r.rm && r.res.isFloat)) &&
  (!o.sat || (r.sat && r.res.isInt)) &&
  (!o.ftz || (r.ftz && (o.ty.isHalf || r.res.isHalf))) &&
  (r.ty2 || decide (o.ty2 = .i8)) && (r.sub || o.sub == 0) && (r.vimm || o.vimm == 0) && r.limits

/-- TYPE 0 to 14 (R265: "any"). -/
def tyAny (t : ElemTy) : Bool := t.code ≤ 14

/-- TYPE 0 to 13. -/
def tyLanes (t : ElemTy) : Bool := t.code ≤ 13

/-- The types of vgath and vscat (R265). -/
def tyIndexed (t : ElemTy) : Bool := [2, 3, 6, 7, 10, 11].contains t.code

/-- The number of lanes of a type (R261). -/
def lanesOf (t : ElemTy) : Nat := 512 / t.width

/-- The number of values h may take in a vcvt (R277). -/
def cvtParts (t t2 : ElemTy) : Nat :=
  if lanesOf t2 ≤ lanesOf t then lanesOf t / lanesOf t2 else lanesOf t2 / lanesOf t

/-- The shifts' two forms: counts from VB, or the count VIMM (R265). -/
def vshiftOk (o : VArgs) : Bool :=
  if o.sub == 0 then vargsOk o { d := true, a := true, b := true, res := o.ty, limits := o.ty.isInt }
  else vargsOk o { d := true, a := true, sub := true, vimm := true, res := o.ty,
                   limits := o.ty.isInt && o.sub == 1 && decide (o.vimm.toNat < o.ty.width) }

/-- vred (R265, R276). -/
def vredOk (o : VArgs) : Bool :=
  vargsOk o { d := true, a := true, sub := true, res := o.ty, rm := o.sub == 0, sat := o.sub == 0, ftz := o.sub == 0,
              limits := decide (o.ty.code ≤ 11) && (decide (o.sub.toNat ≤ 2) || (decide (o.sub.toNat ≤ 5) && o.ty.isInt)) }

/-- The block number k of a vbfp: VIMM[1:0], up to 3 for EB2 and 1 for EB4 (R265). -/
def bfpOk (o : VArgs) : Bool :=
  decide (o.ty = .f32) && (decide (o.ty2 = .eb2) || decide (o.ty2 = .eb4)) &&
    (decide (o.ty2 = .eb2) || decide (o.vimm.toNat % 4 < 2)) && decide (o.vimm.toNat < 8)

end Sys2Proof.Machine
end

