-- ==== Sys2Proof/Machine/State.lean ====
section
/-! DEFINITION. The state of a load-store domain of PVX-SHV4 packages as plain data: every register, table, queue and
unit record the spec names, the reasons a step can stop, and the state right after reset. Tables keyed by a unit's
number are lists of pairs; a unit that is not listed holds its reset value. -/
namespace Sys2Proof.Machine
open Sys2Proof

/-! ### Records that instructions leave behind -/

/-- The operand record of a ticket (R146, R433). -/
structure OpRec where
  pc : Word := 0
  base : BitVec 32 := 0
  ticket : BitVec 32 := 0
  ext : Word := 0
  lit : Word := 0
  vd : Word := 0
  va : Word := 0
  vb : Word := 0
  vc : Word := 0
  deriving DecidableEq, Repr

/-- A window head (R145 to R147), or the wait of a bar whose wait limit expired (R406). `isOpen`: its window is open;
otherwise the head is pending, and the cell re-issues its access at resumption. `target` is a bar's captured target. -/
structure Head where
  opr : OpRec
  left : Nat
  isOpen : Bool
  target : Option Word := none
  deriving DecidableEq, Repr

/-- A queued vector command with what it captured at issue (R255). -/
structure VCmd where
  instr : Instr
  s0 : Word
  s1 : Word
  nsm : Bool
  pc : Word
  base : BitVec 32
  lit : Word
  deriving DecidableEq, Repr

/-- The registers of a thread context (R152) that an upcall captures and urte restores (R435, R449). `head` is an open window's head or a
pending one; `win` is the head of a window opened while a pending head is held (R145, R147). -/
structure Ctx where
  pc : Word := 0
  tstat : Word := 0
  tid : Word := 0
  seg : Word := 0
  wlim : Word := 0
  gpiv : Word := 0
  tcause : Word := 0
  tepc : Word := 0
  trec : Word := 0
  uvec : Word := 0
  g : Vector Word 16 := Vector.replicate 16 0
  v : Vector VReg 16 := Vector.replicate 16 0
  q : Vector (Option Port) 8 := Vector.replicate 8 none
  vflags : BitVec 4 := 0
  vq : List VCmd := []
  joinAddr : Word := 0
  origin : BitVec 20 := 0
  domain : BitVec 3 := 0
  head : Option Head := none
  win : Option Head := none
  deriving DecidableEq, Repr

/-- A repeat record (R439): the code, address and dclk of the first fault of a series, and its repeat count. -/
structure Repeat where
  code : Nat
  faddr : Word
  first : Nat
  count : Nat
  deriving DecidableEq, Repr

/-- A fault context with its repeat record (R435, R439): when its entry was written, and whether it has spilled to the backing region
(R443). -/
structure FaultCtx where
  ctx : Ctx
  rep : Repeat
  stamp : Nat := 0
  spilled : Bool := false
  deriving DecidableEq, Repr

/-! ### Places -/

/-- The memory behind an address: scratch of a physical cell, a pass buffer, a die's slices, an HBM stack, the memory
of the host attached to a package, and what the domain-home pages of a package hold (R176, R189 to R195). -/
inductive Space where
  | scratch (c : PCell)
  | passBuf (c : ClusterId)
  | slice (pkg die : Nat)
  | hbm (pkg stack : Nat)
  | host (pkg : Nat)
  | dom (pkg : Nat)
  deriving DecidableEq, Repr

/-- The home of a word that can park requests: a cell, or one slice of a die (R233). -/
inductive Home where
  | cell (c : PCell)
  | slice (pkg die n : Nat)
  deriving DecidableEq, Repr

/-- What a relaxed store does at its home: its bytes, an element of an alias window with the window's descriptor, the element's number, its
value and NSM (R184), or a write of a control-space register (R50). -/
inductive RxKind where
  | bytes
  | elem (desc : Word) (i : Nat) (v : BitVec 32) (nsm : Bool)
  | control (v : Word)
  deriving DecidableEq, Repr

/-- A relaxed store that is not yet acknowledged (R228): its operand record, where its bytes go, the package of a domain-home
page, the virtual cell whose scratch it names, its route bank, what it does, and where it crosses the fabric the package that sent it with
the generation it was sent in (R416). `key` of an element is that of offset 0 of the virtual cell's scratch. -/
structure RxStore where
  opr : OpRec
  va : Word
  key : Nat
  bytes : List Byte
  domain : Option Nat
  peer : Option LCell
  bank : Bool
  kind : RxKind := .bytes
  gen : Option (Nat × BitVec 16) := none
  deriving DecidableEq, Repr

/-- An error that a relaxed store's acknowledgement returned, kept for a later waiting instruction (R228). -/
structure RxErr where
  code : Nat
  va : Word
  opr : OpRec
  deriving DecidableEq, Repr

/-- What a completion entry with a fault code goes back to: the operand record of its operation and the address that faulted (R250,
R328). -/
structure EngFlt where
  opr : OpRec
  va : Word
  deriving DecidableEq, Repr

/-- A request of a full/empty instruction, a mailbox instruction or a bar at its home (R233, R360, R406): the
instruction, its operand record, the word it waits on, a gpost's block, a bar's target, and the virtual cell of a peer's scratch. -/
structure HomeReq where
  instr : Instr
  opr : OpRec
  va : Word
  key : Nat
  home : Home
  vals : List VReg := []
  target : Word := 0
  peer : Option LCell := none
  deriving DecidableEq, Repr

/-- What a parked thread waits for; R434 gives the codes of the first eight. `ways`: the writer of WAYS; `held`: an engine command
whose destination, at the given address, lies in ways of a cell that are leaving scratch (R181). -/
inductive Why where
  | fullEmpty | queue | engine | gang | fly | wfw | bar | inline | ways
  | held (cell : PCell) (va : Word)
  deriving DecidableEq, Repr

/-- Whether a thread can issue (R140, R144, R165). A parked thread has not committed the instruction at its pc; `since` is when it issued.
`asked`: when a full park table refused its request (R233). -/
inductive Run where
  | ready
  | yielded (others : List Nat)
  | sleeping (wake : Nat)
  | parked (why : Why) (since : Nat)
  | refused (since asked : Nat)
  | resent (since : Nat)
  | withdrawing
  | suspended
  deriving DecidableEq, Repr

/-- Where a thread is: in a physical slot, in a context cache (resumable or not, with the stamp of its entry), or on
its way to another virtual cell (R73, R91, R443). -/
inductive Place where
  | slot (cell : PCell) (n : Nat)
  | cache (cell : PCell) (resumable : Bool) (since : Nat)
  | flying (cell : PCell) (n : Nat) (dest : LCell) (flat : Nat)
  deriving DecidableEq, Repr

/-- The part of a thread in a gang (R87, R168). -/
inductive GangRole where
  | none
  | leader (members : List Nat)
  | follower (leader : Nat)
  deriving DecidableEq, Repr

/-- A thread: its context, what stays live with it beside the context, and where it is. `gens` are the generations, by package, in which
its stores crossed the fabric (R224). `todo` is the instruction that a gang's leader has decoded and that this member has yet to commit
(R169); `retry` says that the checker has discarded its instruction once, and whether the second result will mismatch too (R151);
`posted` is the pass record that its parked post has read (R326); `spilled` says that its context-cache entry lies in the backing region (R443).
`homeErr` is the code with which a home has ended its parked request (R236); `heldSince` is when an engine command was issued that its
release still holds (R224, R251). -/
structure Thread where
  ctx : Ctx
  seq : BitVec 28 := 1
  passdone : List Word := []
  cpydone : List Word := []
  decdone : List Word := []
  probeout : List Word := []
  outPass : Nat := 0
  outCpy : Nat := 0
  outDec : Nat := 0
  fctx : Vector (Option FaultCtx) 4 := Vector.replicate 4 none
  trapRep : Option Repeat := none
  watch : Option Repeat := none
  rx : List RxStore := []
  rxErrs : List RxErr := []
  gens : List (Nat × BitVec 16) := []
  engFlts : List EngFlt := []
  promises : List OpRec := []
  req : Option HomeReq := none
  answer : Option Bool := none
  homeErr : Option Nat := none
  heldSince : Option Nat := none
  waitOpr : OpRec := {}
  run : Run := .ready
  place : Place
  vf : Nat := 0
  launch : Nat := 0
  flat : Nat := 0
  vslot : Nat := 0
  nurse : Bool := false
  gang : GangRole := .none
  todo : Option Instr := none
  retry : Option Bool := none
  posted : Option (BitVec 512) := none
  preempt : Option Nat := none
  forced : Bool := false
  masks : BitVec 40 := BitVec.allOnes 40
  spilled : Bool := false
  slotSince : Nat := 0
  vErr : Option OpRec := none
  deriving DecidableEq, Repr

/-! ### Cells and clusters -/

/-- A TLB entry (R198): function, first address of the page, leaf level (1: 16 KiB, 2: 2 MiB, 3: 1 GiB), the leaf entry and
its HID. -/
structure TlbEntry where
  vf : Nat
  va : Word
  level : Nat
  pte : Word
  hid : BitVec 16
  deriving DecidableEq, Repr

/-- A line of a cell's cache ways (R179, R227): its home address, the way that holds it, its 64 bytes, which of them are dirty, and for
a victim line the member it is held for (R182). -/
structure Line where
  key : Nat
  way : Nat
  bytes : List Byte
  dirty : BitVec 64
  owner : Option PCell
  deriving DecidableEq, Repr

/-- The registers and stores of a physical cell. `poll` is the model's own: it counts the cell's turns (log 1). -/
structure Cell where
  nscr : BitVec 5 := 0
  waysPending : Option (Nat × BitVec 5) := none
  gsz : BitVec 2 := 0
  wdesc : Vector Word 7 := #v[0x0E0000000000050F, 0x0F00000000000510, 12, 13, 9, 8, 0]
  bank : Bool := false
  tvec : Word := 0
  rot : Nat := 0
  vrot : Nat := 0
  poll : Nat := 0
  capped : Bool := false
  lines : List Line := []
  itlb : List TlbEntry := []
  dtlb : List TlbEntry := []
  deriving DecidableEq, Repr

/-- The state of a virtual cell. The deque lists its records from the top; j counts steal attempts (R78); `held` are the fault contexts that
threads left when they ended (R463); `restarted` is the clock of its last restart (R465, R473). -/
structure VCell where
  isOpen : Bool := false
  launch : Nat := 0
  deque : List (BitVec 256) := []
  bhead : Nat := 0
  btail : Nat := 0
  sq : Vector (List Word) 4 := Vector.replicate 4 []
  away : List (BitVec 32 × Nat) := []
  j : Nat := 0
  fails : Nat := 0
  wait : Nat := 64
  waitUntil : Nat := 0
  stealing : Bool := false
  reserved : List (Nat × Nat) := []
  serials : Vector (BitVec 8) 16 := Vector.replicate 16 0
  held : List (BitVec 32 × FaultCtx) := []
  restarted : Option Nat := none
  deriving DecidableEq, Repr

/-- Which engine holds a range lock. -/
inductive LockKind where
  | copy | pass | load | registration
  deriving DecidableEq, Repr

/-- An entry of a range-lock table (R246): scratch and pass-buffer ranges by memory key, global ranges by virtual
address. -/
structure Lock where
  owner : Nat
  kind : LockKind
  isDst : Bool
  isGlobal : Bool
  lo : Nat
  len : Nat
  deriving DecidableEq, Repr

/-- A tlbi whose removal is not yet done (R452): size 3 is any size. `cell` is the cell that sent it, `clusters` those of its function or
partition. -/
structure Tlbi where
  thread : Nat
  vf : Nat
  va : Word
  size : Nat
  every : Bool
  scope : Nat
  cell : PCell
  clusters : List ClusterId := []
  deriving DecidableEq, Repr

/-- Which copy instruction started a copy: cpyh with its two handles, cpyw with its descriptor (R242). -/
inductive CopyKind where
  | plain
  | handles (src dst : BitVec 32)
  | convert (desc : Word)
  deriving DecidableEq, Repr

/-- What an engine keeps about the thread that issued a command (R146, R254, R292). Its completion follows the TID (R166). -/
structure Issuer where
  thread : Nat
  vf : Nat
  launch : Nat
  flat : Nat
  cell : LCell
  nsm : Bool
  bank : Bool
  opr : OpRec
  tid : BitVec 32 := 0
  deriving DecidableEq, Repr

/-- A copy in progress (R242 to R251). -/
structure CopyJob where
  key : Nat
  by_ : Issuer
  kind : CopyKind
  src : Word
  dst : Word
  len : Nat
  done : Nat := 0
  due : Option Nat := none
  pmiss : Bool := false
  deriving DecidableEq, Repr

/-- What the nurse of a cluster is told (R431, R439, R82): the code, a TID and a detail. -/
structure Notice where
  code : Nat
  tid : Word
  detail : Word
  deriving DecidableEq, Repr

/-- The state of a physical cluster. -/
structure Cluster where
  cellMap : Vector (BitVec 16) 32 := Vector.replicate 32 0
  locks : List Lock := []
  l2tlb : List TlbEntry := []
  tlbis : List Tlbi := []
  copies : List CopyJob := []
  notices : List Notice := []
  deriving DecidableEq, Repr

/-! ### The optical matrix unit -/

/-- What a bank was loaded from (R286). -/
structure Binding where
  cell : LCell
  tile : Word
  wfmt : BitVec 2
  nsm : Bool
  deriving DecidableEq, Repr

/-- A phase bank (R285, R286): its binding, tile store, matrix gain exponent and phase image. -/
structure Bank where
  binding : Option Binding := none
  tile : List Byte := []
  gexp : BitVec 8 := 0
  image : List Byte := []
  deriving DecidableEq, Repr

/-- An entry of the post queue (R292): a pass record, a swap marker, or a probe with its direction and captured PIF
vector (none: the next scout). -/
inductive Post where
  | pass (rec : BitVec 512)
  | swap
  | probe (dir : Bool) (pif : Option (List Byte))
  deriving DecidableEq, Repr

/-- A post-queue entry with its poster. `behind` are probes of the same thread, posted later and aborted, with their directions: their
entries follow this one's (R331, R342). -/
structure PostEntry where
  key : Nat
  post : Post
  by_ : Issuer
  behind : List (Issuer × Bool) := []
  deriving DecidableEq, Repr

/-- A load of the shadow bank (R321, R322): phase 0 captures the tile, 1 reads image blocks, 2 decomposes, 3 ends. The
ending is held in status, fcode, the address of its fault, and bound. -/
structure BankLoad where
  key : Nat
  by_ : Issuer
  decomp : Bool
  tile : Word
  wfmt : BitVec 2
  handle : BitVec 32
  base : Word
  bank : Bool
  phase : Nat := 0
  captured : List Byte := []
  image : List Byte := []
  status : Nat := 0
  fcode : Nat := 0
  va : Word := 0
  bound : Bool := false
  deriving DecidableEq, Repr

/-- An item of the stream (R308 to R310): a vector with its latched exponent and its 320 output bytes, a scout, the point where a
pass stops with a status and a fault, or the end of a pass that streams no scout. `live` marks a vector that took a slot. -/
inductive StreamItem where
  | vec (pass v : Nat) (live : Bool) (x : Nat) (out : List Byte)
  | scout (pass : Nat) (closing : Bool)
  | stop (pass status fcode : Nat) (va : Word)
  | done (pass : Nat)
  deriving DecidableEq, Repr

/-- A pass that streams or awaits verdicts: the vectors written so far, and how it will end, with the address of its fault. `cut`: a write
of an output stopped it. -/
structure Pass where
  key : Nat
  record : BitVec 512
  by_ : Issuer
  written : Nat := 0
  status : Nat := 0
  fcode : Nat := 0
  rsn : Nat := 0
  va : Word := 0
  cut : Bool := false
  deriving DecidableEq, Repr

/-- The OMU of a cluster with its pass scheduler (chapters 11 and 12). lastPass is the error of the last scout that passed, from which
window guards follow (R305); errors are in units of 2^-16 of converter full scale. -/
structure Omu where
  act : Bool := false
  b0 : Bank := {}
  b1 : Bank := {}
  state : Nat := 3
  cb : BitVec 4 := 0
  carr : BitVec 6 := 0
  uspr : Bool := false
  vspr : Bool := false
  lasterr : Nat := 0
  maxerr : Nat := 0
  guard : Nat := 1024
  lastPass : Nat := 0
  sidx : Nat := 0
  dcnt : Nat := 0
  flagged : BitVec 32 := 0
  written : BitVec 32 := 0
  cal : List (Nat × BitVec 16) := []
  scouts : List (List Int × Nat) := []
  queue : List PostEntry := []
  load : Option BankLoad := none
  stream : List StreamItem := []
  passes : List Pass := []
  carrLost : Bool := false
  hot : Bool := false
  deriving DecidableEq, Repr

/-! ### Packages -/

/-- The state of a die (R4, R65, R70): the clock at its package's last reset, from which its CYC counts, its cluster map, the fault
window it counts in, and throttling. -/
structure Die where
  since : Nat := 0
  window : Nat := 0
  clusterMap : Vector (BitVec 8) 8 := Vector.replicate 8 0
  throttled : Bool := false
  shut : Bool := false
  deriving DecidableEq, Repr

/-- A validated launch at the head of a queue (R54): the copies taken by checks 7 and 8, the partition entry and its
cluster list. -/
structure Ready where
  desc : BitVec 256
  frame : BitVec 512
  wd : List Word
  part : BitVec 256
  clusters : List (BitVec 32)
  deriving DecidableEq, Repr

/-- A work queue (R46 to R53). The FIFO lists captured records oldest first; `head` is the ring index and PHASE reserved for
the first, and what its validation gave. -/
structure Queue where
  qctl : Word := 0
  crbase : Word := 0
  crhead : BitVec 16 := 0
  crtail : BitVec 16 := 0
  crlog2 : BitVec 4 := 0
  malf : BitVec 16 := 0
  ovr : BitVec 16 := 0
  crf : Bool := false
  phase : Bool := true
  fifo : List (BitVec 512) := []
  head : Option (Nat × Bool × Option Ready) := none
  deriving DecidableEq, Repr

/-- A supervisor trap or double trap of a launch (R464): what its ending reports, FADDR and the clock of the trap (R465). -/
structure Trapped where
  code : Nat
  tid : Word
  tepc : Word
  faddr : Word := 0
  at_ : Nat := 0
  deriving DecidableEq, Repr

/-- A live launch (R53 to R57): where its record goes, what it copied, the cells still to be woken, and the traps met in order,
and how it ends. -/
structure Launch where
  pkg : Nat
  queue : Nat
  vf : Nat
  record : BitVec 512
  ring : Nat
  phase : Bool
  ready : Ready
  started : Nat
  toWake : List Nat
  trapped : List Trapped := []
  ending : Option (Nat × Nat × Word) := none
  deriving DecidableEq, Repr

/-- The registers of a function (R50): root pointers by class, handle and partition tables. -/
structure FnRegs where
  roots : Vector Word 64 := Vector.replicate 64 0
  htbase : Word := 0
  htsize : Word := 0
  ptbase : Word := 0
  ptsize : Word := 0
  deriving DecidableEq, Repr

/-- A constituent of a shuffle packet (R394): its origin and block id, with the operation and plan entry that sent it and the
destinations it is for, and the links that it has crossed (R391). -/
structure Con where
  origin : Nat
  bid : Nat
  op : Nat
  entry : Nat
  dsts : BitVec 512
  hops : Nat := 0
  deriving DecidableEq, Repr

/-- What kind of packet travels (R394). Thread accesses are performed in the step that issues them and have none (log 7). -/
inductive PacketKind where
  | ack | multicast | block | coded | fallback | reduction | error
  deriving DecidableEq, Repr

/-- A packet of the fabric (R394): the router it is at, the links it has crossed, whether it has been delivered to that package, and its
header. `op` and `entry`
name the operation and plan entry it belongs to; `addr` is the destination offset of multicast data or the home of a reduction;
`subs` are the operations combined into a reduction; `viaFallback` and `poison` mark a block sent again and an unreadable block;
`refused` is when a destination refused the block. `code` is an answer's fault code. -/
structure Packet where
  id : Nat
  at_ : Nat
  hops : Nat := 0
  delivered : Bool := false
  kind : PacketKind
  op : Nat := 0
  entry : Nat := 0
  gen : BitVec 16 := 0
  src : Nat
  dst : Nat
  mcast : Bool := false
  bits : BitVec 512 := 0
  xid : Nat := 0
  vf : Nat := 0
  bank : Bool := false
  nsm : Bool := false
  cons : List Con := []
  addr : Nat := 0
  subs : List Nat := []
  viaFallback : Bool := false
  poison : Bool := false
  refused : Option Nat := none
  code : Nat := 0
  payload : List Byte := []
  deriving DecidableEq, Repr

/-- Which instruction a fabric operation comes from (R408). shufset keeps a registration and topo a command instead. -/
inductive FopKind where
  | mst | shuf | xred
  deriving DecidableEq, Repr

/-- A fabric operation whose completion has not been delivered (R408): the destinations, as pairs of plan entry or part and package,
that have not answered, those that answered with an error, and the errors by package. `count` is what COUNT is of, `gen` the generation of
its packets, but for those that were sent again and stand in `gens`. -/
structure Fop where
  key : Nat
  kind : FopKind
  by_ : Issuer
  desc : BitVec 512
  count : Nat
  waiting : List (Nat × Nat)
  bad : List (Nat × Nat) := []
  poisoned : Bool := false
  errs : List (Nat × Nat) := []
  xid : Nat := 0
  gen : BitVec 16 := 0
  gens : List ((Nat × Nat) × BitVec 16) := []
  deriving DecidableEq, Repr

/-- What moves a port through the states of R419: a RECONF or CLOSE command, or sixteen tag failures (R412). -/
inductive PortMove where
  | reconf | close | retrain
  deriving DecidableEq, Repr

/-- What a flit of a replay buffer carries (R411): a part of a packet, the end of one, or control. -/
inductive Flit where
  | part
  | last (p : Packet)
  | control
  deriving DecidableEq, Repr

/-- A fabric port (R411 to R421). state is PORTSTAT.STATE; `unacked` lists the flits of the replay buffer by TXC; `mate` is the peer's port at
the other end; `lost` says that a flit from there was discarded and has not been sent again; `code` is an unacknowledged code
request and `codeAt` when it was last sent; `since` is when the port entered its state, `idle` when it last carried a flit. A coupler of none is the port's own number on its die. -/
structure PortRegs where
  pgen : BitVec 16 := 1
  peer : BitVec 9 := 0
  lanes : BitVec 16 := 0
  state : Nat := 0
  txm : Bool := false
  dual : Bool := false
  khit : Bool := false
  afail : Bool := false
  errs : BitVec 16 := 0
  iw : Nat := 16
  coupler : Option Nat := none
  mate : Option Nat := none
  lost : Bool := false
  unacked : List (Nat × Flit) := []
  ackAt : Nat := 0
  txc : Nat := 0
  rxNext : Nat := 0
  tagFails : Nat := 0
  newMode : Nat := 0
  rxMode : Bool := false
  code : Option Bool := none
  codeAt : Nat := 0
  move : Option PortMove := none
  since : Nat := 0
  idle : Nat := 0
  deriving DecidableEq, Repr

/-- An entry of a port's side-information table (R401). -/
structure Sit where
  port : Nat
  pkg : Nat
  xid : Nat
  lo : Nat
  hi : Nat
  vf : Nat
  deriving DecidableEq, Repr

/-- A live registration of a coded exchange (R399 to R404): its captured table, the WANT blocks written or refused, its completion so
far, whether a shuf of it has completed, and the fallback requests that are outstanding, by block with their generations. -/
structure Registration where
  key : Nat
  by_ : Issuer
  xid : Nat
  desc : BitVec 512
  table : List (BitVec 128)
  done : List Nat := []
  missed : Nat := 0
  poisoned : Bool := false
  err : Nat := 0
  complete : Bool := false
  sent : Bool := false
  asked : List (Nat × BitVec 16) := []
  deriving DecidableEq, Repr

/-- A topology command (R418), with the image a LOADRT read at issue. -/
structure Topo where
  key : Nat
  by_ : Issuer
  desc : BitVec 512
  image : List (BitVec 16)
  deriving DecidableEq, Repr

/-- An entry of the key cache (R420): the digest of the peer's leaf certificate, when it was made and last used. -/
structure CacheKey where
  digest : BitVec 512
  made : Nat
  used : Nat
  deriving DecidableEq, Repr

/-- An HBM stack's retired pseudo-channels and its record of corrected errors in the window (R192, R475). -/
structure Stack where
  retired : List Nat := []
  filter : List Nat := []
  repeats : List (Nat × Nat) := []
  table : List (Nat × List (Nat × Nat)) := []
  deriving DecidableEq, Repr

/-- The flash of a module (R39, R41, R43): the image slots, the anti-rollback counter, the next leaf index of the device
identity key and of the port identity key. -/
structure Flash where
  slotA : Option ConfigImage := none
  slotB : Option ConfigImage := none
  fromB : Bool := false
  rollback : Nat := 0
  leaf : Nat := 0
  portLeaf : Nat := 0
  deriving DecidableEq, Repr

/-- What a comb line carries (R5, R315, R477): nothing while lost, nothing as a spare, the carrier of an OMU, or a fabric
wavelength. -/
inductive LineUse where
  | lost
  | spare
  | carrier (omu : ClusterId)
  | wave (n : Nat)
  deriving DecidableEq, Repr

/-- The state of a package. Route banks list entries that differ from PRIM and ALT 63 (unreachable); `lines` gives the use of each comb
line. -/
structure Package where
  boot : BitVec 16 := 0
  meas : Vector (BitVec 512) 16 := Vector.replicate 16 0
  queues : List (Nat × Queue) := []
  rr : Nat := 0
  fns : List (Nat × FnRegs) := []
  elbase : Word := 0
  elhead : BitVec 16 := 0
  eltail : BitVec 16 := 0
  eldrop : BitVec 16 := 0
  elint : Bool := false
  ellog2 : BitVec 4 := 0
  elphase : Bool := true
  ccbase : Word := 0
  routes0 : List (Nat × BitVec 16) := []
  routes1 : List (Nat × BitVec 16) := []
  ports : List (Nat × PortRegs) := []
  gen : BitVec 16 := 1
  gDue : Nat := 0
  outstanding : List (BitVec 16 × Nat) := []
  regs : List Registration := []
  sit : List Sit := []
  topoQ : List Topo := []
  topo : Option Topo := none
  keys : List CacheKey := []
  cap : Nat := 2000
  carts : Vector Bool 4 := Vector.replicate 4 false
  lines : List (Nat × LineUse) := []
  spares : List PCell := []
  hbms : List (Nat × Stack) := []
  flash : Flash := {}
  answers : List (List Byte) := []
  msix : List (Nat × Nat) := []
  deriving DecidableEq, Repr

/-! ### The domain -/

/-- A steal message (R78 to R80): the request, or the victim's answer (a record, or NONE). -/
structure StealMsg where
  id : Nat
  launch : Nat
  thief : Nat
  victim : Nat
  answer : Option (Option (BitVec 256))
  deriving DecidableEq, Repr

/-- A wake on its way (R165, R166): the TID it names and the launch of its sender. -/
structure Wake where
  id : Nat
  launch : Nat
  tid : BitVec 32
  deriving DecidableEq, Repr

/-- A monitored unit (R469). -/
inductive Monitored where
  | pipeline (c : PCell)
  | vector (c : PCell)
  | resolver (c : ClusterId)
  | slice (pkg die n : Nat)
  | channel (pkg stack chan : Nat)
  | port (pkg p : Nat)
  deriving DecidableEq, Repr

/-- A parked request at its home, with its thread (R233). -/
structure Parked where
  thread : Nat
  req : HomeReq
  deriving DecidableEq, Repr

/-- What a quiesce is for: new maps (R72), or the restart of the logical cells on capped cells (R473). -/
inductive QuiesceGoal where
  | maps (target : Nat) (cellMap : List (BitVec 16))
  | restart
  deriving DecidableEq, Repr

/-- A quiesce of a logical cluster that the nurse has raised and that is not yet complete (R72, R440). -/
structure Quiesce where
  pkg : Nat
  die : Nat
  lcl : Nat
  goal : QuiesceGoal
  deriving DecidableEq, Repr

/-- A function-level reset in its drain (R479). -/
structure Flr where
  pkg : Nat
  vf : Nat
  deriving DecidableEq, Repr

/-- The whole domain. mem holds the bytes that differ from zero, by key; fe the words whose full/empty bit differs from its
default; poison the words with a stored uncorrectable error; saved what goes on under the TID of a context that ctxsv has removed: requests
at their homes, and engine work (R166, R445). clock counts dclk
from reset. The other last fields are the model's own: what steps next (agenda, pick, turn, cur, nextCell, nextEvent), how many dclk
pass with each step (gaps), the clock of the last handle check (checked, R38), the counter of free values, and the names of records. -/
structure State where
  mem : List Host.Cell := []
  fe : List Nat := []
  poison : List Nat := []
  threads : List (Nat × Thread) := []
  saved : List (Nat × Thread) := []
  cells : List (PCell × Cell) := []
  vcells : List (LCell × VCell) := []
  clusters : List (ClusterId × Cluster) := []
  omus : List (ClusterId × Omu) := []
  dies : List ((Nat × Nat) × Die) := []
  pkgs : List (Nat × Package) := []
  launches : List (Nat × Launch) := []
  parked : List Parked := []
  packets : List Packet := []
  fops : List Fop := []
  steals : List StealMsg := []
  wakes : List Wake := []
  counts : List (Monitored × Nat) := []
  flrs : List Flr := []
  quiesces : List Quiesce := []
  agenda : List Instr := []
  pick : Option Nat := none
  turn : Bool := false
  cur : Option Nat := none
  nextCell : Nat := 0
  nextEvent : Nat := 0
  clock : Nat := 0
  gaps : List Nat := []
  checked : Option Nat := none
  free : Nat := 0
  stamp : Nat := 1
  nextKey : Nat := 1
  deriving DecidableEq, Repr

/-- Why a step stops with a fault. -/
inductive Fault where
  /-- An instruction was to be executed while no thread was selected: raised by every meaning of an instruction when the step
  names no live thread. Safe: no cell of the device issues an instruction without a thread (R140). -/
  | noThread
  deriving DecidableEq, Repr

/-- Why a step is refused. -/
inductive Refusal where
  /-- The instruction has no meaning in the model yet: raised by its arm of exec. Safe: the run ends. -/
  | notModelled (mnemonic : String)
  deriving DecidableEq, Repr

/-- The domain right after reset: every package in the reset state the spec gives, no thread, nothing in memory. -/
def State.reset : State := {}

end Sys2Proof.Machine
end

