-- ==== Sys2Proof/Machine/Memory.lean ====
section
/-! DEFINITION. Tables and memory: the unit tables of State with their reset values for units not listed, and memory as a
list of (key, byte) pairs in one canonical form. A key is the code of a space (scratch of a cell, a pass buffer, slices, a
stack, host memory, domain-home pages) above 64 bits of offset. -/
namespace Sys2Proof.Machine
open Sys2Proof

/-! ### Tables -/

/-- The value at a key, or the default. -/
def lookD {α β : Type} [DecidableEq α] (d : β) (k : α) : List (α × β) → β
  | [] => d
  | (a, b) :: l => if a = k then b else lookD d k l

/-- The value at a key, if the key is listed. -/
def look? {α β : Type} [DecidableEq α] (k : α) : List (α × β) → Option β
  | [] => none
  | (a, b) :: l => if a = k then some b else look? k l

/-- The table with the key's value replaced, or added at the end. -/
def putAt {α β : Type} [DecidableEq α] (k : α) (v : β) : List (α × β) → List (α × β)
  | [] => [(k, v)]
  | (a, b) :: l => if a = k then (k, v) :: l else (a, b) :: putAt k v l

/-- The table without the key. -/
def dropAt {α β : Type} [DecidableEq α] (k : α) : List (α × β) → List (α × β)
  | [] => []
  | (a, b) :: l => if a = k then dropAt k l else (a, b) :: dropAt k l

/-! ### Memory in canonical form -/

/-- The byte at a key; an unlisted key reads zero (log 3). -/
def readCell : List Host.Cell → Nat → Byte
  | [], _ => 0
  | (a, v) :: l, k => if a = k then v else if k < a then 0 else readCell l k

/-- Keys rise strictly from a bound, and no byte is zero. -/
def cellsAbove : Nat → List Host.Cell → Bool
  | _, [] => true
  | n, (a, v) :: l => decide (n ≤ a) && v != 0 && cellsAbove (a + 1) l

/-- The canonical form of a memory. -/
def Memory.wf (l : List Host.Cell) : Bool := cellsAbove 0 l

/-- n bytes from a key upwards, from cells of which none lies below it. -/
def readFrom : List Host.Cell → Nat → Nat → List Byte
  | _, _, 0 => []
  | [], k, n + 1 => 0 :: readFrom [] (k + 1) n
  | (a, v) :: l, k, n + 1 => if a = k then v :: readFrom l (k + 1) n else 0 :: readFrom ((a, v) :: l) (k + 1) n

/-- n bytes from a key. -/
def readBytes (l : List Host.Cell) (k n : Nat) : List Byte := readFrom (l.dropWhile fun c => decide (c.1 < k)) k n

/-- The cells of bytes from a key upwards: those that are not zero. -/
def freshCells : Nat → List Byte → List Host.Cell
  | _, [] => []
  | k, b :: bs => if b = 0 then freshCells (k + 1) bs else (k, b) :: freshCells (k + 1) bs

/-- Bytes written from a key upwards: the cells below them, their own, and the cells above them. -/
def writeBytes (l : List Host.Cell) (k : Nat) (bs : List Byte) : List Host.Cell :=
  (l.takeWhile fun c => decide (c.1 < k)) ++ freshCells k bs ++ l.dropWhile fun c => decide (c.1 < k + bs.length)

/-! ### Sets of word keys in rising order -/

/-- Whether a key is in a set. -/
def hasKey (l : List Nat) (k : Nat) : Bool := l.any (· == k)

/-- A key added to a rising list. -/
def addKey : List Nat → Nat → List Nat
  | [], k => [k]
  | a :: l, k => if a = k then a :: l else if k < a then k :: a :: l else a :: addKey l k

/-- A key taken out of a list. -/
def delKey (l : List Nat) (k : Nat) : List Nat := l.filter (· != k)

/-! ### Little-endian words (R8) -/

/-- The number that bytes stand for, least significant first. -/
def leVal : List Byte → Nat
  | [] => 0
  | b :: bs => b.toNat + 256 * leVal bs

/-- The n low bytes of a number, least significant first. -/
def leOf : Nat → Nat → List Byte
  | 0, _ => []
  | n + 1, x => BitVec.ofNat 8 x :: leOf n (x / 256)

/-! ### Keys -/

/-- The code of a space: its kind, package, die, cluster and cell. -/
def spaceCode : Space → Nat
  | .scratch c => 0 * 2 ^ 20 + c.pkg * 2 ^ 11 + c.die * 2 ^ 9 + c.cl * 2 ^ 6 + c.cell
  | .passBuf c => 1 * 2 ^ 20 + c.pkg * 2 ^ 11 + c.die * 2 ^ 9 + c.cl * 2 ^ 6
  | .slice p d => 2 * 2 ^ 20 + p * 2 ^ 11 + d * 2 ^ 9
  | .hbm p st => 3 * 2 ^ 20 + p * 2 ^ 11 + st
  | .host p => 4 * 2 ^ 20 + p * 2 ^ 11
  | .dom p => 5 * 2 ^ 20 + p * 2 ^ 11

/-- The space of a code. -/
def spaceOf (c : Nat) : Space :=
  let p := c / 2 ^ 11 % 512
  let d := c / 2 ^ 9 % 4
  let cl := c / 2 ^ 6 % 8
  match c / 2 ^ 20 with
  | 0 => .scratch ⟨p, d, cl, c % 64⟩
  | 1 => .passBuf ⟨p, d, cl⟩
  | 2 => .slice p d
  | 3 => .hbm p (c % 64)
  | 4 => .host p
  | _ => .dom p

/-- The key of an offset in a space. -/
def keyOf (sp : Space) (off : Nat) : Nat := spaceCode sp * 2 ^ 64 + off

/-- The space a key lies in. -/
def keySpace (k : Nat) : Space := spaceOf (k / 2 ^ 64)

/-- The offset of a key in its space. -/
def keyOff (k : Nat) : Nat := k % 2 ^ 64

/-- Whether full/empty bits of a space start full: slices and HBM after the start-up scrub (R191); scratch starts empty
(R181). -/
def startsFull : Space → Bool
  | .slice _ _ | .hbm _ _ => true
  | _ => false

/-! ### Bytes, words and full/empty bits of the domain -/

/-- n bytes of the domain's memory. -/
def State.bytes (s : State) (k n : Nat) : List Byte := readBytes s.mem k n

/-- One byte of the domain's memory. -/
def State.byte (s : State) (k : Nat) : Byte := readCell s.mem k

/-- The number in n bytes of memory. -/
def State.num (s : State) (k n : Nat) : Nat := leVal (s.bytes k n)

/-- Bytes stored into memory. -/
def State.store (s : State) (k : Nat) (bs : List Byte) : State := { s with mem := writeBytes s.mem k bs }

/-- The full/empty bit of the word at a key: true is full. -/
def State.full (s : State) (k : Nat) : Bool := hasKey s.fe k != startsFull (keySpace k)

/-- The full/empty bit of a word set. -/
def State.setFull (s : State) (k : Nat) (v : Bool) : State :=
  { s with fe := if v = startsFull (keySpace k) then delKey s.fe k else addKey s.fe k }

/-- Whether a byte range meets a word with a stored uncorrectable error. -/
def State.poisoned (s : State) (k n : Nat) : Bool := s.poison.any fun w => decide (w < k + n) && decide (k < w + 8)

/-! ### Units -/

/-- A cell's record; an unlisted cell is in its reset state. -/
def State.cell (s : State) (c : PCell) : Cell := lookD {} c s.cells
/-- A cell's record replaced. -/
def State.setCell (s : State) (c : PCell) (x : Cell) : State := { s with cells := putAt c x s.cells }
/-- A virtual cell's record. -/
def State.vcell (s : State) (c : LCell) : VCell := lookD {} c s.vcells
/-- A virtual cell's record replaced. -/
def State.setVcell (s : State) (c : LCell) (x : VCell) : State := { s with vcells := putAt c x s.vcells }
/-- A cluster's record. -/
def State.cluster (s : State) (c : ClusterId) : Cluster := lookD {} c s.clusters
/-- A cluster's record replaced. -/
def State.setCluster (s : State) (c : ClusterId) (x : Cluster) : State := { s with clusters := putAt c x s.clusters }
/-- An OMU's record. -/
def State.omu (s : State) (c : ClusterId) : Omu := lookD {} c s.omus
/-- An OMU's record replaced. -/
def State.setOmu (s : State) (c : ClusterId) (x : Omu) : State := { s with omus := putAt c x s.omus }
/-- A die's record. -/
def State.die (s : State) (p d : Nat) : Die := lookD {} (p, d) s.dies
/-- A die's record replaced. -/
def State.setDie (s : State) (p d : Nat) (x : Die) : State := { s with dies := putAt (p, d) x s.dies }
/-- A package's record. -/
def State.pkg (s : State) (p : Nat) : Package := lookD {} p s.pkgs
/-- A package's record replaced. -/
def State.setPkg (s : State) (p : Nat) (x : Package) : State := { s with pkgs := putAt p x s.pkgs }
/-- A live thread. -/
def State.thread? (s : State) (k : Nat) : Option Thread := look? k s.threads
/-- A thread's record replaced. -/
def State.setThread (s : State) (k : Nat) (t : Thread) : State := { s with threads := putAt k t s.threads }
/-- A thread's record changed, if the thread lives. -/
def State.modThread (s : State) (k : Nat) (f : Thread → Thread) : State := match s.thread? k with
  | some t => s.setThread k (f t)
  | none => s
/-- A thread taken out of the machine. -/
def State.dropThread (s : State) (k : Nat) : State := { s with threads := dropAt k s.threads }
/-- A live launch. -/
def State.launch? (s : State) (k : Nat) : Option Launch := look? k s.launches
/-- A launch's record replaced. -/
def State.setLaunch (s : State) (k : Nat) (l : Launch) : State := { s with launches := putAt k l s.launches }
/-- The registers of a function. -/
def Package.fn (p : Package) (v : Nat) : FnRegs := lookD {} v p.fns
/-- A queue of a package. -/
def Package.queue (p : Package) (q : Nat) : Queue := lookD {} q p.queues
/-- A port of a package. -/
def Package.port (p : Package) (n : Nat) : PortRegs := lookD {} n p.ports
/-- A stack of a package. -/
def Package.stack (p : Package) (n : Nat) : Stack := lookD {} n p.hbms

/-- The cluster of a cell. -/
def clusterOf (c : PCell) : ClusterId := ⟨c.pkg, c.die, c.cl⟩

/-- The dclk count of a die (R4). -/
def State.cyc (s : State) (p d : Nat) : Nat := s.clock - (s.die p d).since

/-- A fresh record name. -/
def State.fresh (s : State) : Nat × State := (s.nextKey, { s with nextKey := s.nextKey + 1 })

/-- The next stamp of the order in which things wait. -/
def State.tick (s : State) : Nat × State := (s.stamp, { s with stamp := s.stamp + 1 })

end Sys2Proof.Machine
end

