-- ==== Sys2Proof/Machine/Regs.lean ====
section
/-! DEFINITION. Registers and their fields: the general, vector and queue registers of a context, TSTAT (R153), TCAUSE
(R436), the layouts of launch objects (R25, R27, R66), and the maps from logical to physical cells (R67 to R71). -/
namespace Sys2Proof.Machine
open Sys2Proof

/-! ### Bit fields -/

/-- A field of a word as a number. -/
def fld {n : Nat} (w : BitVec n) (lo len : Nat) : Nat := (w.extractLsb' lo len).toNat

/-- A word with a field replaced. -/
def putFld {n : Nat} (w : BitVec n) (lo len : Nat) (v : Nat) : BitVec n :=
  let m := BitVec.ofNat n (2 ^ len - 1) <<< lo
  (w &&& ~~~m) ||| (BitVec.ofNat n (v % 2 ^ len) <<< lo)

/-- A 64-bit word of a number. -/
def word (n : Nat) : Word := BitVec.ofNat 64 n

/-! ### Registers of a context -/

/-- A general register. -/
def Ctx.gpr (c : Ctx) (r : Reg) : Word := c.g.get r.toFin
/-- A general register written; there is no hardwired register (R156). -/
def Ctx.setGpr (c : Ctx) (r : Reg) (v : Word) : Ctx := { c with g := c.g.set r.toNat v r.isLt }
/-- A vector register. -/
def Ctx.vr (c : Ctx) (r : VNum) : VReg := c.v.get r.toFin
/-- A vector register written. -/
def Ctx.setVr (c : Ctx) (r : VNum) (v : VReg) : Ctx := { c with v := c.v.set r.toNat v r.isLt }
/-- The port a queue register is bound to. -/
def Ctx.qr (c : Ctx) (r : BitVec 3) : Option Port := c.q.get r.toFin
/-- A queue register bound or unbound. -/
def Ctx.setQr (c : Ctx) (r : BitVec 3) (p : Option Port) : Ctx := { c with q := c.q.set r.toNat p r.isLt }

/-- ls, an alias of g14 (R14). -/
def regLs : Reg := 14
/-- lr, an alias of g15 (R14). -/
def regLr : Reg := 15

/-- TSTAT.PRIV (R153). -/
def Ctx.priv (c : Ctx) : Bool := c.tstat.getLsbD 8
/-- TSTAT.NSM. -/
def Ctx.nsm (c : Ctx) : Bool := c.tstat.getLsbD 4
/-- TSTAT.UPC. -/
def Ctx.upc (c : Ctx) : Bool := c.tstat.getLsbD 21
/-- TSTAT.WP. -/
def Ctx.wp (c : Ctx) : Bool := c.tstat.getLsbD 25
/-- TSTAT.INL. -/
def Ctx.inl (c : Ctx) : Nat := fld c.tstat 48 16
/-- TSTAT.GFL. -/
def Ctx.gfl (c : Ctx) : Bool := c.tstat.getLsbD 22
/-- TSTAT.GLD. -/
def Ctx.gld (c : Ctx) : Bool := c.tstat.getLsbD 23
/-- A bit of TSTAT set or cleared. -/
def Ctx.setTstat (c : Ctx) (bit : Nat) (v : Bool) : Ctx := { c with tstat := putFld c.tstat bit 1 (if v then 1 else 0) }
/-- The number of the TSTAT bits that hardware changes. -/
def bitPriv : Nat := 8
/-- UPC is bit 21 (R153). -/
def bitUpc : Nat := 21
/-- GFL is bit 22 (R153). -/
def bitGfl : Nat := 22
/-- GLD is bit 23 (R153). -/
def bitGld : Nat := 23
/-- AMB is bit 24 (R153). -/
def bitAmb : Nat := 24
/-- WP is bit 25 (R153). -/
def bitWp : Nat := 25
/-- TSTAT with INL replaced. -/
def Ctx.setInl (c : Ctx) (n : Nat) : Ctx := { c with tstat := putFld c.tstat 48 16 n }

/-- TCAUSE.PHD (R436). -/
def Ctx.phd (c : Ctx) : Bool := c.tcause.getLsbD 15
/-- TCAUSE.FCTX (R436). -/
def Ctx.fctxSel (c : Ctx) : Nat := fld c.tcause 8 4

/-- The pc of a context changed. -/
def Ctx.setPc (c : Ctx) (p : Word) : Ctx := { c with pc := p }

/-- A thread's context changed. -/
def Thread.modCtx (t : Thread) (f : Ctx → Ctx) : Thread := { t with ctx := f t.ctx }

/-- The TID of a thread, 32 bits (R154). -/
def Thread.tid (t : Thread) : BitVec 32 := t.ctx.tid.extractLsb' 0 32

/-- Whether a thread is in a gang (R87). -/
def Thread.inGang (t : Thread) : Bool := t.gang != .none

/-- The physical cell that holds a thread, in a slot, in its context cache, or at the source of a flight. -/
def Thread.pcell (t : Thread) : PCell := match t.place with
  | .slot c _ => c
  | .cache c _ _ => c
  | .flying c _ _ _ => c

/-- The physical slot of a thread, if it holds one (a flying thread still holds its source slot, R91). -/
def Thread.slot? (t : Thread) : Option (PCell × Nat) := match t.place with
  | .slot c n => some (c, n)
  | .cache _ _ _ => none
  | .flying c n _ _ => some (c, n)

/-- The dclk count of a thread's die. -/
def State.cycOf (s : State) (t : Thread) : Nat := s.cyc t.pcell.pkg t.pcell.die

/-! ### Launch objects -/

/-- SCRWAYS of the kernel descriptor (R25). -/
def Ready.scrways (r : Ready) : Nat := fld r.desc 104 5
/-- SLOTSM1 + 1: the slots of the slot set (R73). -/
def Ready.slots (r : Ready) : Nat := fld r.desc 96 4 + 1
/-- NSM of the kernel descriptor. -/
def Ready.nsm (r : Ready) : Bool := r.desc.getLsbD 100
/-- DOMAIN of the kernel descriptor. -/
def Ready.domain (r : Ready) : BitVec 3 := r.desc.extractLsb' 101 3
/-- STACK of the kernel descriptor. -/
def Ready.stack (r : Ready) : Nat := fld r.desc 128 32
/-- The address of the frame header. -/
def Ready.frameAddr (r : Ready) : Word := r.desc.extractLsb' 0 64
/-- The entry offset of the kernel descriptor. -/
def Ready.entry (r : Ready) : Nat := fld r.desc 64 32
/-- CODEOFF of the frame header (R17). -/
def Ready.codeOff (r : Ready) : Nat := fld r.frame 64 32
/-- CODELEN of the frame header (R17). -/
def Ready.codeLen (r : Ready) : Nat := fld r.frame 96 32
/-- The address of the first byte of the code section (R16). -/
def Ready.codeBase (r : Ready) : Word := r.frameAddr + word r.codeOff
/-- NCL of the partition entry, as the length of the cluster list (R66, R67). -/
def Ready.ncl (r : Ready) : Nat := r.clusters.length
/-- The cells of the partition. -/
def Ready.cells (r : Ready) : Nat := 32 * r.ncl
/-- WLIMDEF of the partition (R66). -/
def Ready.wlimdef (r : Ready) : Nat := fld r.part 96 32
/-- BROOD of the partition. -/
def Ready.brood (r : Ready) : Word := r.part.extractLsb' 192 64
/-- BRLOG2 of the partition. -/
def Ready.brlog2 (r : Ready) : Nat := fld r.part 48 8
/-- LWM of the partition. -/
def Ready.lwm (r : Ready) : Nat := fld r.part 32 4

/-- A cluster-list entry as package, die and logical cluster (R67). -/
def clusterEntry (e : BitVec 32) : Nat × Nat × Nat := (fld e 8 9, fld e 3 2, fld e 0 3)

/-- The logical cell of a flat cell number (R69). -/
def Ready.lcell (r : Ready) (flat : Nat) : Option LCell := match r.clusters[flat / 32]? with
  | some e => some ⟨(clusterEntry e).1, (clusterEntry e).2.1, (clusterEntry e).2.2, flat % 32⟩
  | none => none

/-! ### Maps -/

/-- Where a logical cell lives: its physical cell, FOLD and VIDX (R70). -/
structure VPlace where
  cell : PCell
  fold : Nat
  vidx : Nat
  deriving DecidableEq, Repr

/-- Whether a package is in recovery (R40): its boot status register reports a stage and a failure. -/
def Package.recovers (p : Package) : Bool := p.boot != 0 && p.boot != 0x00FF

/-- The physical cluster of a logical cluster (R70): the cluster-map byte with its valid bit. No cell of a package in recovery runs or
responds (R40). -/
def State.physCluster (s : State) (p d lcl : Nat) : Option ClusterId :=
  if (s.pkg p).recovers then none
  else match (s.die p d).clusterMap.toList[lcl]? with
  | some e => if e.getLsbD 7 then some ⟨p, d, fld e 0 3⟩ else none
  | none => none

/-- Whether a physical cluster is being quiesced (R72): nothing starts, resumes or lands in its slots, and no pass starts. -/
def State.still (s : State) (k : ClusterId) : Bool := s.quiesces.any fun q => s.physCluster q.pkg q.die q.lcl == some k

/-- The place of a logical cell (R70, R71). -/
def State.place (s : State) (c : LCell) : Option VPlace :=
  match s.physCluster c.pkg c.die c.lcl with
  | none => none
  | some k =>
    match (s.cluster k).cellMap.toList[c.c]? with
    | some e =>
      if e.getLsbD 15 then some ⟨⟨k.pkg, k.die, k.cl, fld e 0 5⟩, fld e 13 2, fld e 11 2⟩ else none
    | none => none

/-- The logical cell where a thread runs: of its launch's partition by flat number (R69); a nurse has none. -/
def State.lcellOf (s : State) (t : Thread) : Option LCell := match s.launch? t.launch with
  | some l => l.ready.lcell t.flat
  | none => none

/-- SEG of a virtual cell (R85). -/
def Ready.segOf (r : Ready) (pl : VPlace) : Nat := pl.vidx * r.scrways * 2 ^ 16

/-- The scratch limit of a virtual cell (R177): the ways divided by 2^FOLD, a quotient that need not be whole, times 64 KiB. -/
def State.scratchLimit (s : State) (pl : VPlace) : Nat := (s.cell pl.cell).nscr.toNat * 2 ^ 16 / 2 ^ pl.fold

/-- FOLD and the scratch limit of the cell a thread occupies; a nurse's cell is not folded. -/
def State.ownPlace (s : State) (t : Thread) : VPlace := match s.lcellOf t with
  | some c => (s.place c).getD ⟨t.pcell, 0, 0⟩
  | none => ⟨t.pcell, 0, 0⟩

end Sys2Proof.Machine
end

