-- ==== Sys2Proof/Machine/Address.lean ====
section
/-! DEFINITION. From an address to a place: window classes (R176), the order of address faults (R178), page-table walks
and TLBs (R195 to R198), and range locks (R246, R247). -/
namespace Sys2Proof.Machine
open Sys2Proof

/-! ### Fault codes (R427) -/

/-- Fault codes. -/
def fIllegal : Nat := 0x01
/-- PRIVILEGE. -/
def fPrivilege : Nat := 0x02
/-- MISALIGNED. -/
def fMisaligned : Nat := 0x03
/-- ILLEGAL_ADDRESS. -/
def fAddress : Nat := 0x04
/-- PAGE_NOT_PRESENT. -/
def fNotPresent : Nat := 0x05
/-- PAGE_PROTECTION. -/
def fProtection : Nat := 0x06
/-- DISCARDED_WRITE. -/
def fDiscarded : Nat := 0x07
/-- RANGE_LOCKED. -/
def fLocked : Nat := 0x08
/-- WAIT_LIMIT. -/
def fWaitLimit : Nat := 0x09
/-- PROMISE_MISSED. -/
def fPromise : Nat := 0x0A
/-- PEER_EXITED. -/
def fPeerExited : Nat := 0x0B
/-- NSM_MISMATCH. -/
def fNsm : Nat := 0x0C
/-- SINGULAR_BLOCK. -/
def fSingular : Nat := 0x0D
/-- QUEUE_UNBOUND. -/
def fUnbound : Nat := 0x0E
/-- GANG_BROKEN. -/
def fGang : Nat := 0x0F
/-- UNCORRECTABLE. -/
def fUncorrectable : Nat := 0x10
/-- STALE_TRANSLATION. -/
def fStale : Nat := 0x11
/-- WAYS_BUSY. -/
def fWaysBusy : Nat := 0x12
/-- TRAP. -/
def fTrap : Nat := 0x13

/-- A fault met by an instruction or an operation: its code, FADDR and DETAIL (R432, R434), the operand record when it
belongs to an operation issued earlier, and how many bytes of the instruction were fetched (none: all of it). -/
structure Flt where
  code : Nat
  faddr : Word := 0
  detail : Word := 0
  opr : Option OpRec := none
  len : Option Nat := none
  deriving DecidableEq, Repr

/-! ### Kinds of access -/

/-- What an access does at its home, as far as the checks of R178 to R197 and R247 distinguish. -/
inductive Acc where
  | load | store | fetch | atomic | axadd | feRead | feWrite
  deriving DecidableEq, Repr

/-- Accesses that need W = 1 (R196), and that a discarded page refuses (R197). -/
def Acc.writes : Acc → Bool
  | .store | .atomic | .axadd | .feWrite => true
  | _ => false

/-- Accesses a source lock refuses: stores, atomics and every full/empty instruction (R247). -/
def Acc.locksOut : Acc → Bool
  | .load | .fetch => false
  | _ => true

/-- A full/empty instruction. -/
def Acc.isFull : Acc → Bool
  | .feRead | .feWrite => true
  | _ => false

/-- An atomic. -/
def Acc.isAtomic : Acc → Bool
  | .atomic | .axadd => true
  | _ => false

/-- Who makes an access, as far as translation and locks depend on it: the package and cluster, the function, whether class
0x3F goes through the physical function (R430), the place for class 0x40 with its SEG, the launch for class 0x50, the
pass buffer of class 0x60, and the route bank. -/
structure Who where
  cluster : ClusterId
  vf : Nat
  sup : Bool
  nurse : Bool
  cell : PCell
  seg : Nat
  limit : Nat
  ready : Option Ready
  nurseLcl : Option (Nat × Nat × Nat)
  bank : Bool
  deriving DecidableEq, Repr

/-- A place in memory: its key, whether the page is discarded, whether a plain access to it may be cached, whether the home is the
host's or the domain's, the virtual cell behind class 0x50, and the TLB entry to keep. -/
structure Loc where
  key : Nat
  disc : Bool := false
  cacheable : Bool := false
  isGlobal : Bool := false
  host : Bool := false
  domain : Option Nat := none
  peer : Option LCell := none
  entry : Option TlbEntry := none
  deriving DecidableEq, Repr

/-! ### Page tables (R195, R196) -/

/-- The space of a home (R195): slice and stack numbers are those of the walking package. -/
def homeSpace (pkg home hid : Nat) : Space := match home with
  | 0 => .slice pkg hid
  | 1 => .hbm pkg hid
  | 2 => .host pkg
  | _ => .dom hid

/-- Whether an HID is in range for its home (R195). -/
def hidOk (home hid : Nat) : Bool := match home with
  | 0 => decide (hid < 4)
  | 1 => decide (hid < 8)
  | 2 => decide (hid = 0)
  | _ => decide (hid < 512)

/-- The first bit that a level's index uses, and its width (R195). -/
def levelShift : Nat → Nat
  | 1 => 14 | 2 => 21 | 3 => 30 | _ => 43

/-- The width of a level's index (R195). -/
def levelBits : Nat → Nat
  | 1 => 7 | 2 => 9 | 3 => 13 | _ => 13

/-- The HID that stands after a level's table for entry k (R195). -/
def hidKeyOff (level k : Nat) : Nat := 2 ^ levelBits level * 8 + 2 * k

/-- The bytes that a home holds, where the spec bounds them (R5): the 32 slices of 4 MiB of a die, the 64 GiB of a stack. -/
def homeBytes : Nat → Option Nat
  | 0 => some (2 ^ 27)
  | 1 => some (2 ^ 36)
  | _ => none

/-- Whether a page or table at a home-relative address lies within its home. -/
def fitsHome (home frame len : Nat) : Bool := match homeBytes home with
  | some n => decide (frame + len ≤ n)
  | none => true

/-- The fault an entry raises before its page is known (R196): P, then VF, reserved fields, LEAF, HID and FRAME. A page or table that
lies beyond what its home holds (R5) raises PAGE_PROTECTION as an HID out of range does (DESIGN CHOICE, log 73). -/
def pteFault (vf level : Nat) (e : Word) (hid : Nat) : Option Nat :=
  let leaf := e.getLsbD 5
  let unit := if leaf then levelShift level else levelBits (level - 1) + 3
  if !e.getLsbD 0 then some fNotPresent
  else if fld e 8 5 != vf || fld e 62 2 != 0 || e.getLsbD 13 || (level == 1 && !leaf) || (level == 4 && leaf) ||
      !hidOk (fld e 6 2) hid || decide (fld e 14 48 * 2 ^ 14 % 2 ^ unit ≠ 0) ||
      !fitsHome (fld e 6 2) (fld e 14 48 * 2 ^ 14) (2 ^ unit) then some fProtection
  else none

/-- An entry of a route bank of package `self` (R392). Entries that are not listed are unreachable, PRIM and ALT 63, but for the package's own:
PRIM and ALT 62 (log 18). -/
def Package.route (p : Package) (self : Nat) (bank : Bool) (k : Nat) : BitVec 16 :=
  lookD (if k = self then 0x3E3E else 0x3F3F) k (if bank then p.routes1 else p.routes0)

/-- Where a router sends a packet: it is there, or it leaves by a port, waits at the input for a port that is being re-cut (R419), or
cannot go on (R393). -/
inductive Way where
  | here
  | port (q : Nat)
  | held
  | gone
  deriving DecidableEq, Repr

/-- Whether a port carries packets: OPEN, or ASLEEP and woken by the packet (R417). -/
def Package.carries (p : Package) (q : Nat) : Bool := decide (q < 32) && (decide ((p.port q).state = 6) || decide ((p.port q).state = 7))

/-- Whether a port holds the packets that it cannot take: it drains, or is on its way back to OPEN (R419). -/
def Package.recuts (p : Package) (q : Nat) : Bool :=
  decide (q < 32) && ((p.port q).move == some .reconf || (p.port q).move == some .retrain || decide ((p.port q).state = 1))

/-- The way of a packet from a router by the entry of its destination (R392, R393), also where that is the router's own package (R193): PRIM
where it carries, else ALT. The code 62 delivers at the package itself, and leads nowhere in the entry of another one. -/
def Package.way (p : Package) (self : Nat) (bank : Bool) (dst : Nat) : Way :=
  let e := p.route self bank dst
  let prim := fld e 0 6
  let alt := fld e 8 6
  if dst = self ∧ prim = 62 then .here
  else if prim = 63 then .gone
  else if p.carries prim then .port prim
  else if p.carries alt then .port alt
  else if dst = self ∧ alt = 62 then .here
  else if p.recuts prim || p.recuts alt then .held
  else .gone

/-- Whether a request gets through from a router over so many more routers. A package in recovery takes and passes on nothing (R40). -/
def State.passes (s : State) (bank : Bool) (dst : Nat) : Nat → Nat → Bool
  | 0, _ => false
  | n + 1, a =>
    if (s.pkg a).recovers then false
    else match (s.pkg a).way a bank dst with
      | .here | .held => true
      | .gone => false
      | .port q => s.passes bank dst n ((s.pkg a).port q).peer.toNat

/-- Whether a package can be reached under a route bank from another (R391 to R393): a packet crosses three routers at most, its source's,
a spine's and its destination's. -/
def State.reaches (s : State) (src : Nat) (bank : Bool) (dst : Nat) : Bool := s.passes bank dst 3 src

/-- The levels a walk goes through, from the root's table. The words that hold a table's HIDs follow the table; where those lie beyond what the
home holds they read as memory that nothing has written (DESIGN CHOICE, log 73). -/
def walkLevels (s : State) (w : Who) (vf : Nat) (va : Word) : List Nat → Space → Nat → Except Nat TlbEntry
  | [], _, _ => .error fProtection
  | lv :: rest, sp, table =>
    let k := fld va (levelShift lv) (levelBits lv)
    let ek := keyOf sp (table + 8 * k)
    let hk := keyOf sp (table + hidKeyOff lv k)
    let gone := match sp with
      | .dom p => !s.reaches w.cluster.pkg w.bank p
      | _ => false
    if gone || s.poisoned ek 8 || s.poisoned hk 2 then .error fUncorrectable
    else
      let e := word (s.num ek 8)
      let hid := s.num hk 2
      match pteFault vf lv e hid with
      | some c => .error c
      | none =>
        if e.getLsbD 5 then
          .ok ⟨vf, word (va.toNat / 2 ^ levelShift lv * 2 ^ levelShift lv), lv, e, BitVec.ofNat 16 hid⟩
        else walkLevels s w vf va rest (homeSpace w.cluster.pkg (fld e 6 2) hid) (fld e 14 48 * 2 ^ 14)

/-- The function whose tables translate an address: the physical one for class 0x3F at supervisor privilege (R430). -/
def Who.vfFor (w : Who) (va : Word) : Nat := if w.sup && fld va 56 8 == 0x3F then 0 else w.vf

/-- A page-table walk (R195): the root pointer of the class, then four levels at most. -/
def walk (s : State) (w : Who) (va : Word) : Except Nat TlbEntry :=
  let vf := w.vfFor va
  let root := (((s.pkg w.cluster.pkg).fn vf).roots.toList[fld va 56 6]?).getD 0
  if root = 0 then .error fNotPresent
  else if !hidOk (fld root 4 2) (fld root 6 9) || !fitsHome (fld root 4 2) (fld root 16 48 * 2 ^ 16) (2 ^ 16) then .error fProtection
  else walkLevels s w vf va [4, 3, 2, 1] (homeSpace w.cluster.pkg (fld root 4 2) (fld root 6 9)) (fld root 16 48 * 2 ^ 16)

/-- Whether a TLB entry maps an address for a function. -/
def TlbEntry.hits (e : TlbEntry) (vf : Nat) (va : Word) : Bool :=
  e.vf == vf && e.va.toNat / 2 ^ levelShift e.level == va.toNat / 2 ^ levelShift e.level

/-- The translation of an address (R195, R198): the cell's TLB, then the cluster's L2 TLB, then a walk. The second component says
that the entry was found in the cell's TLB. -/
def translate (s : State) (w : Who) (fetch : Bool) (va : Word) : Except Nat (TlbEntry × Bool) :=
  let vf := w.vfFor va
  let c := s.cell w.cell
  match (if fetch then c.itlb else c.dtlb).find? (·.hits vf va) with
  | some e => .ok (e, true)
  | none =>
    match (s.cluster w.cluster).l2tlb.find? (·.hits vf va) with
    | some e => .ok (e, false)
    | none => (walk s w va).map fun e => (e, false)

/-- The faults of a translated page by the kind of access (R196, R197), after those of the walk: of several, PAGE_PROTECTION comes first, then
ILLEGAL_ADDRESS, then DISCARDED_WRITE (DESIGN CHOICE, log 94). -/
def pageFault (acc : Acc) (pte : Word) : Option Nat :=
  let home := fld pte 6 2
  if acc.writes && !pte.getLsbD 1 then some fProtection
  else if acc == .fetch && !pte.getLsbD 2 then some fProtection
  else if acc.isFull && decide (2 ≤ home) then some fAddress
  else if acc.isAtomic && home == 2 then some fAddress
  else if acc == .axadd && home == 3 then some fAddress
  else if acc.writes && pte.getLsbD 3 then some fDiscarded
  else none

/-- The place a translated address names. -/
def locOf (w : Who) (e : TlbEntry) (hit : Bool) (va : Word) : Loc :=
  let home := fld e.pte 6 2
  { key := keyOf (homeSpace w.cluster.pkg home e.hid.toNat)
      (fld e.pte 14 48 * 2 ^ 14 + va.toNat % 2 ^ levelShift e.level)
    disc := e.pte.getLsbD 3
    cacheable := e.pte.getLsbD 4 && home != 2
    isGlobal := true
    host := home == 2
    domain := if home == 3 then some e.hid.toNat else none
    entry := if hit then none else some e }

/-! ### Windows (R176, R177, R186, R188) -/

/-- Whether the class of an address admits a kind of access (check 1 of R178). Alias windows and control space admit loads and stores
only, and have their own accesses. -/
def classOk (acc : Acc) (cls : Nat) : Bool :=
  if cls < 0x40 then true
  else if cls == 0x40 || cls == 0x50 then acc != .fetch
  else if cls == 0x60 || (0x41 ≤ cls && cls ≤ 0x47) || cls == 0x7F then acc == .load || acc == .store
  else false

/-- The place of a class 0x50 address: the virtual cell with its limit, or none (R186). In a nurse thread bits [55:36] name a
logical cell of its own logical cluster, with the whole SRAM as limit (R454). -/
def peerPlace (s : State) (w : Who) (va : Word) : Option (LCell × VPlace × Nat × Nat) :=
  let f := fld va 36 20
  if fld va 20 16 != 0 then none
  else match w.nurseLcl with
    | some (p, d, l) =>
      if f < 32 then (s.place ⟨p, d, l, f⟩).map fun pl => (⟨p, d, l, f⟩, pl, 0, 2 ^ 20) else none
    | none =>
      match w.ready with
      | none => none
      | some r =>
        match r.lcell f with
        | none => none
        | some c => (s.place c).map fun pl => (c, pl, r.segOf pl, s.scratchLimit pl)

/-- Checks 3 to 5 of R178 for classes 0x00 to 0x3F, 0x40, 0x50 and 0x60: alignment is the caller's, then the window's limit, then
translation. -/
def placeOf (s : State) (w : Who) (acc : Acc) (va : Word) (n : Nat) : Except Nat Loc :=
  let cls := fld va 56 8
  let off := fld va 0 56
  if cls < 0x40 then
    match translate s w (acc == .fetch) va with
    | .error c => .error c
    | .ok (e, hit) =>
      match pageFault acc e.pte with
      | some c => .error c
      | none => .ok (locOf w e hit va)
  else if cls == 0x40 then
    if off + n ≤ w.limit then .ok { key := keyOf (.scratch w.cell) (w.seg + off) } else .error fAddress
  else if cls == 0x50 then
    match peerPlace s w va with
    | none => .error fAddress
    | some (c, pl, seg, lim) =>
      if fld va 0 20 + n ≤ lim then
        .ok { key := keyOf (.scratch pl.cell) (seg + fld va 0 20), peer := some c }
      else .error fAddress
  else if cls == 0x60 then
    if off + n ≤ 2 ^ 23 then .ok { key := keyOf (.passBuf w.cluster) off } else .error fAddress
  else .error fAddress

/-! ### Range locks (R246, R247) -/

/-- Whether two ranges share a byte. -/
def overlaps (a n b m : Nat) : Bool := decide (a < b + m) && decide (b < a + n) && decide (0 < n) && decide (0 < m)

/-- The locks of a table that touch a byte range: global ones by virtual address, others by key. -/
def locksOn (ls : List Lock) (va : Word) (loc : Loc) (n : Nat) : List Lock :=
  ls.filter fun l => l.isGlobal == loc.isGlobal && overlaps l.lo l.len (if loc.isGlobal then va.toNat else loc.key) n

/-- The locks that bear on an access: global ranges of the thread's own cluster, other ranges of any cluster (R246). -/
def State.locksFor (s : State) (w : Who) (va : Word) (loc : Loc) (n : Nat) : List Lock :=
  if loc.isGlobal then locksOn (s.cluster w.cluster).locks va loc n
  else s.clusters.flatMap fun c => locksOn c.2.locks va loc n

/-- Check 6 of R178: RANGE_LOCKED by the table of R247. -/
def lockedOut (ls : List Lock) (acc : Acc) : Bool := ls.any fun l => l.isDst || acc.locksOut

/-- The checks of R178 for an access of n bytes at a multiple of `align`, with the fault the first failing one gives. The alias windows are
not served here, nor is class 0x7F: a data access there meets check 2 at user privilege, and check 3 otherwise (log 68). -/
def resolve (s : State) (w : Who) (acc : Acc) (va : Word) (n align : Nat) : Except Flt Loc :=
  let cls := fld va 56 8
  if cls == 0x7F && acc != .fetch then .error { code := if w.sup then fAddress else fPrivilege, faddr := va }
  else if !classOk acc cls || (0x41 ≤ cls && cls ≤ 0x47) || cls == 0x7F then .error { code := fAddress, faddr := va }
  else if va.toNat % align ≠ 0 then .error { code := fMisaligned, faddr := va }
  else match placeOf s w acc va n with
    | .error c => .error { code := c, faddr := va }
    | .ok loc =>
      if lockedOut (s.locksFor w va loc n) acc then .error { code := fLocked, faddr := va } else .ok loc

/-- Who a thread is for its accesses. -/
def State.whoOf (s : State) (t : Thread) : Who :=
  let pl := s.ownPlace t
  let c := s.cell t.pcell
  { cluster := clusterOf t.pcell, vf := t.vf, sup := t.ctx.priv, nurse := t.nurse, cell := t.pcell
    seg := fld t.ctx.seg 16 4 * 2 ^ 16, limit := s.scratchLimit { pl with cell := t.pcell }
    ready := (s.launch? t.launch).map Launch.ready
    nurseLcl := if t.nurse then
        ((List.range 8).find? fun l => s.physCluster t.pcell.pkg t.pcell.die l == some (clusterOf t.pcell)).map
          fun l => (t.pcell.pkg, t.pcell.die, l)
      else none
    bank := c.bank }

/-- Who an engine is for the accesses it makes for an issuer: the cell and SEG of the issuer's virtual cell under the maps in
force. -/
def State.whoFor (s : State) (b : Issuer) : Who :=
  let ready := (s.launch? b.launch).map Launch.ready
  let pl := (s.place b.cell).getD ⟨⟨b.cell.pkg, b.cell.die, b.cell.lcl, b.cell.c⟩, 0, 0⟩
  { cluster := clusterOf pl.cell, vf := b.vf, sup := false, nurse := false, cell := pl.cell
    seg := match ready with
      | some r => r.segOf pl
      | none => 0
    limit := s.scratchLimit pl, ready := ready, nurseLcl := none, bank := b.bank }

/-- A TLB with an entry added; a full one gives up an entry of its free choice (R198, log 12). -/
def addTlb (cap free : Nat) (l : List TlbEntry) (e : TlbEntry) : List TlbEntry :=
  if l.any (fun x => x.hits e.vf e.va) then l
  else if l.length < cap then l ++ [e] else l.eraseIdx (Config.victim free l.length % l.length) ++ [e]

/-- The TLBs of a cell and of its cluster filled after a translation (R198): 32 I-TLB, 64 D-TLB and 4,096 L2 entries. -/
def State.fillTlb (s : State) (c : PCell) (fetch : Bool) (loc : Loc) : State := match loc.entry with
  | none => s
  | some e =>
    let x := s.cell c
    let x := if fetch then { x with itlb := addTlb 32 s.free x.itlb e } else { x with dtlb := addTlb 64 s.free x.dtlb e }
    let k := s.cluster (clusterOf c)
    { (s.setCell c x).setCluster (clusterOf c) { k with l2tlb := addTlb 4096 s.free k.l2tlb e } with free := s.free + 1 }

end Sys2Proof.Machine
end

