-- ==== Sys2Proof/Machine/Access.lean ====
section
/-! DEFINITION. Accesses performed: cell cache ways with their victim groups (R179, R182, R227), reads and writes at a word's
home, the answers POISONED and PEER_EXITED (R118, R187, R393), and the write-backs and invalidations of fences (R223). -/
namespace Sys2Proof.Machine
open Sys2Proof

/-! ### Cache ways -/

/-- The home address of the line that holds a key. -/
def lineKey (k : Nat) : Nat := k / 64 * 64

/-- A line of a list by address and holder. -/
def findLine (ls : List Line) (key : Nat) (owner : Option PCell) : Option Line :=
  ls.find? fun l => l.key == key && l.owner == owner

/-- A list without the lines of an address and holder. -/
def dropLine (ls : List Line) (key : Nat) (owner : Option PCell) : List Line :=
  ls.filter fun l => !(l.key == key && l.owner == owner)

/-- The bytes of a home with a line's dirty bytes laid over them, from byte i of the line on. -/
def overlay (d : BitVec 64) : Nat → List Byte → List Byte → List Byte
  | i, b :: bs, h :: hs => (if d.getLsbD i then b else h) :: overlay d (i + 1) bs hs
  | _, _, _ => []

/-- The dirty bytes of a line stored at their home. -/
def storeDirty (m : List Host.Cell) (k : Nat) (bs : List Byte) (d : BitVec 64) : List Host.Cell :=
  writeBytes m k (overlay d 0 bs (readBytes m k bs.length))

/-- A line written back to its home (R179). -/
def State.writeBack (s : State) (l : Line) : State := { s with mem := storeDirty s.mem l.key l.bytes l.dirty }

/-- The lowest of a cell's cache ways with room for a line: a way holds 1,024 (R179; the choice is log 47). -/
def Cell.freeWay (c : Cell) : Option Nat := (List.range 16).find? fun w =>
  decide (c.nscr.toNat ≤ w) && decide ((c.lines.filter fun l => l.way == w).length < 1024)

/-- The members of the active group of a cell, in ascending logical number; none where no group is active (R182). -/
def State.group (s : State) (c : PCell) : List PCell :=
  let k := s.cluster (clusterOf c)
  let e? := k.cellMap.toList.zipIdx.find? fun x => x.1.getLsbD 15 && fld x.1 0 5 == c.cell && fld x.1 13 2 == 0
  match e? with
  | none => []
  | some (_, lc) =>
    let z := (s.cell c).gsz.toNat
    let first := lc / 2 ^ z * 2 ^ z
    let ms := (List.range (2 ^ z)).filterMap fun i => match k.cellMap.toList[first + i]? with
      | some e => if e.getLsbD 15 && fld e 13 2 == 0 then some ({ c with cell := fld e 0 5 } : PCell) else none
      | none => none
    if z ≠ 0 ∧ ms.length = 2 ^ z ∧ ms.all (fun m => (s.cell m).gsz == (s.cell c).gsz) then ms else []

/-- Whether a line in the ways of cell m is one that the fences of cell c write back (R223): any line in its own ways, and a victim line
that is held for it. -/
def heldFor (c m : PCell) (l : Line) : Bool := m == c || l.owner == some c

/-- Whether a line in the ways of cell m can serve an access of cell c: its own lines, and the victim lines of its group (R182). -/
def State.meets (s : State) (c m : PCell) (l : Line) : Bool := heldFor c m l || (l.owner.isSome && (s.group c).contains m)

/-- The lines that a test picks, victim lines first. -/
def State.linesWhere (s : State) (p : PCell → Line → Bool) : List Line :=
  let all := s.cells.flatMap fun x => x.2.lines.filter (p x.1)
  all.filter (·.owner.isSome) ++ all.filter (·.owner.isNone)

/-- Every cell's list of lines changed. -/
def State.mapLines (s : State) (f : PCell → List Line → List Line) : State :=
  { s with cells := s.cells.map fun (x : PCell × Cell) => (x.1, { x.2 with lines := f x.1 x.2.lines }) }

/-- The lines that a test picks written back; they stay, clean. -/
def State.cleanWhere (s : State) (p : PCell → Line → Bool) : State :=
  ((s.linesWhere p).foldl State.writeBack s).mapLines fun m ls => ls.map fun l => if p m l then { l with dirty := 0 } else l

/-- The lines that a test picks written back and invalidated. -/
def State.flushWhere (s : State) (p : PCell → Line → Bool) : State :=
  ((s.linesWhere p).foldl State.writeBack s).mapLines fun m ls => ls.filter fun l => !p m l

/-- A line as it becomes a victim copy: its dirty bytes, and what its home holds of the others, so that no member reads there an older value
than its own last acquire has seen (R371, R377). -/
def State.renewed (s : State) (l : Line) : Line :=
  let bs := s.bytes l.key 64
  { l with bytes := (List.range 64).map fun i => if l.dirty.getLsbD i then l.bytes.getD i 0 else bs.getD i 0 }

/-- A line placed in a cell's cache ways. Full ways first give up another line of the free choice (log 11): in an active group a line of
the cell's own goes to the ways of the member that address bits [8:6] choose, where it is the group's one victim copy; any other line goes
home (R182). Fuel bounds the lines given up in turn; `pin` names the line for which room is made. -/
def State.placeLine (pin : Nat) : Nat → State → PCell → Line → State
  | 0, s, _, l => s.writeBack l
  | n + 1, s, c, l =>
    let x := s.cell c
    match x.freeWay with
    | some w => s.setCell c { x with lines := { l with way := w } :: x.lines }
    | none =>
      let others := x.lines.filter fun y => !(y.key == pin && y.owner == none)
      match others[Config.victim s.free others.length % others.length]? with
      | none => s.writeBack l
      | some v =>
        let s := { s.setCell c { x with lines := { l with way := v.way } :: dropLine x.lines v.key v.owner } with free := s.free + 1 }
        let ms := s.group c
        match v.owner, ms[v.key / 64 % 8 % ms.length]? with
        | none, some m =>
          let s := s.flushWhere fun y z => ms.contains y && z.owner.isSome && z.key == v.key
          s.placeLine pin n m { s.renewed v with owner := some c }
        | _, _ => s.writeBack v

/-- The victim line that can serve a miss of a cell, with the cell that holds it: one held for it, or one of its group (R182). -/
def State.victimCopy (s : State) (c : PCell) (key : Nat) : Option (PCell × Line) :=
  s.cells.findSome? fun x => (x.2.lines.find? fun l => l.key == key && l.owner.isSome && s.meets c x.1 l).map fun l => (x.1, l)

/-- A line brought into a cell's ways: its own copy, else a victim copy, else from its home (R182, R227). A victim line that is held for the
cell comes back to it; another member's is copied and stays. -/
def State.fetchLine (s : State) (c : PCell) (key : Nat) : Line × State :=
  match findLine (s.cell c).lines key none with
  | some l => (l, s)
  | none =>
    let fresh : Line := ⟨key, 0, s.bytes key 64, 0, none⟩
    match s.victimCopy c key with
    | none => (fresh, s.placeLine key 16 c fresh)
    | some (m, l) =>
      if l.owner = some c then
        let own := { l with owner := none }
        (own, (s.setCell m { s.cell m with lines := dropLine (s.cell m).lines key l.owner }).placeLine key 16 c own)
      else ({ fresh with bytes := l.bytes }, s.placeLine key 16 c { fresh with bytes := l.bytes })

/-- n bytes read through a cell's cache ways; the access lies in one line. -/
def State.readCached (s : State) (c : PCell) (key n : Nat) : List Byte × State :=
  let r := s.fetchLine c (lineKey key)
  (((r.1.bytes).drop (key % 64)).take n, r.2)

/-- The dirty bits of n bytes of a line from byte i on. -/
def byteMask (i n : Nat) : BitVec 64 := BitVec.ofNat 64 (2 ^ n - 1) <<< i

/-- Bytes of a line replaced: dirty where the cell wrote them through its ways, clean where they were written at the home (R374). -/
def Line.put (l : Line) (i : Nat) (bs : List Byte) (atHome : Bool) : Line :=
  { l with
    bytes := l.bytes.take i ++ bs ++ l.bytes.drop (i + bs.length)
    dirty := if atHome then l.dirty &&& ~~~byteMask i bs.length else l.dirty ||| byteMask i bs.length }

/-- Bytes written through a cell's cache ways, which are write-back and write-allocate (R227). -/
def State.writeCached (s : State) (c : PCell) (key : Nat) (bs : List Byte) : State :=
  let r := s.fetchLine c (lineKey key)
  let x := r.2.cell c
  let one (l : Line) : Line := if l.key == lineKey key && l.owner.isNone then l.put (key % 64) bs false else l
  r.2.setCell c { x with lines := x.lines.map one }

/-- The copies of a line that can serve a cell take bytes that it has written at the home (R227, R371). -/
def State.updateLines (s : State) (c : PCell) (key : Nat) (bs : List Byte) : State :=
  s.mapLines fun m ls => ls.map fun l => if l.key == lineKey key && s.meets c m l then l.put (key % 64) bs true else l

/-- The lines held for a cell: those in its own ways, and the victim lines that members of its group hold for it (R223). -/
def State.ownLines (s : State) (c : PCell) : List Line := s.linesWhere (heldFor c)

/-- Every dirty line of a cell written back to its home (R223). The lines stay, clean. -/
def State.cleanAll (s : State) (c : PCell) : State := s.cleanWhere (heldFor c)

/-- Every line that can serve a cell written back and invalidated (R223; the victim lines of its group, log 47). -/
def State.flushAll (s : State) (c : PCell) : State := s.flushWhere (s.meets c)

/-- The lines that can serve a cell and meet a range written back, and with `drop` invalidated (R231, R239, R245). -/
def State.flushRange (s : State) (c : PCell) (key n : Nat) (drop : Bool) : State :=
  let hit (m : PCell) (l : Line) : Bool := s.meets c m l && overlaps l.key 64 key n
  if drop then s.flushWhere hit else s.cleanWhere hit

/-! ### Answers of a home -/

/-- Whether an access crosses the fabric: a domain-home page of another package (R193), or peer scratch of another package. -/
def Loc.remote (w : Who) (loc : Loc) : Option Nat := match loc.domain, loc.peer with
  | some p, _ => if p = w.cluster.pkg then none else some p
  | none, some c => if c.pkg = w.cluster.pkg then none else some c.pkg
  | none, none => none

/-- The package to which the router of an access's own package sends it: another one, or the package itself for its own domain-home pages
(R193). -/
def Loc.routed (w : Who) (loc : Loc) : Option Nat := match loc.remote w with
  | some p => some p
  | none => loc.domain

/-- Whether the route of an access leads nowhere (R393). -/
def unreachable (s : State) (w : Who) (loc : Loc) : Bool := match loc.routed w with
  | some p => !s.reaches w.cluster.pkg w.bank p
  | none => false

/-- What the home answers before it serves an access (R187, R236, R393, R453): UNCORRECTABLE for an unreachable route and for a capped
cell, PEER_EXITED for a closed virtual cell. A nurse's copies reach closed cells (R454). -/
def homeAnswer (s : State) (w : Who) (loc : Loc) : Option Nat :=
  if unreachable s w loc then some fUncorrectable
  else match loc.peer with
    | some c => if w.nurse then none else peer s c
    | none => match keySpace loc.key with
      | .scratch c => if (s.cell c).capped then some fUncorrectable else none
      | _ => none
where
  /-- The answer of a peer cell. -/
  peer (s : State) (c : LCell) : Option Nat :=
    match s.place c with
    | none => some fUncorrectable
    | some pl =>
      if (s.cell pl.cell).capped then some fUncorrectable
      else if (s.vcell c).isOpen then none else some fPeerExited

/-- n bytes read at a resolved place: zeros from a discarded page (R197), through the cache ways where `cached` (R227). A stored
uncorrectable error is answered as such (R118). -/
def readAt (s : State) (w : Who) (loc : Loc) (n : Nat) (cached : Bool) : Except Nat (List Byte × State) :=
  if loc.disc then .ok (List.replicate n 0, s)
  else match homeAnswer s w loc with
    | some c => .error c
    | none =>
      if s.poisoned loc.key n then .error fUncorrectable
      else if cached then .ok (s.readCached w.cell loc.key n) else .ok (s.bytes loc.key n, s)

/-- Bytes stored at the home of a resolved place, no copy in cache ways being touched (R384). -/
def writeHome (s : State) (w : Who) (loc : Loc) (bs : List Byte) : Except Nat State := match homeAnswer s w loc with
  | some c => .error c
  | none => .ok (s.store loc.key bs)

/-- Bytes of one line that a cell writes at their home (R227): dirty bytes of victim lines go there first, then the copies that can serve the
cell follow. -/
def State.storeFrom (s : State) (c : PCell) (key : Nat) (bs : List Byte) : State :=
  let victim (m : PCell) (l : Line) : Bool := l.key == lineKey key && l.owner.isSome && s.meets c m l
  ((s.cleanWhere victim).store key bs).updateLines c key bs

/-- Bytes written at a resolved place (R227): through the cache ways where `cached`, else at the home. -/
def writeAt (s : State) (w : Who) (loc : Loc) (bs : List Byte) (cached : Bool) : Except Nat State :=
  match homeAnswer s w loc with
  | some c => .error c
  | none =>
    .ok (if cached then s.writeCached w.cell loc.key bs else s.storeFrom w.cell loc.key bs)

/-- n bytes read for a thread. A read at the home of a global page finds the thread's own writes there: dirty bytes of the range that its
cell holds go home first (R371; log 47). -/
def readOwn (s : State) (w : Who) (loc : Loc) (n : Nat) (cached : Bool) : Except Nat (List Byte × State) :=
  readAt (if !cached && loc.isGlobal then s.flushRange w.cell loc.key n false else s) w loc n cached

/-- Whether a plain access is cached (R227). -/
def isCached (s : State) (w : Who) (loc : Loc) : Bool :=
  loc.isGlobal && loc.cacheable && decide ((s.cell w.cell).nscr.toNat < 16)

/-! ### Scopes and fences (R223, R232) -/

/-- A scope that is neither thread nor cell: the fences of R223 meet the cache there. A gang and a group lie within what their
members share; they too are wider than the cell. -/
def Scope.wide : Sys2Proof.Scope → Bool
  | .thr | .cell => false
  | _ => true

/-- The release of R223: with the stores of the thread performed, dirty lines go home. -/
def releaseAt (s : State) (c : PCell) (sc : Sys2Proof.Scope) : State := if Scope.wide sc then s.cleanAll c else s

/-- The acquire of R223: lines of the cell are written back and invalidated. -/
def acquireAt (s : State) (c : PCell) (sc : Sys2Proof.Scope) : State := if Scope.wide sc then s.flushAll c else s

/-- The home scope of a word (R232). -/
def homeScope (w : Who) (loc : Loc) : Sys2Proof.Scope :=
  match keySpace loc.key, loc.peer with
  | .scratch _, none => .cell
  | .scratch c, some _ =>
    if c.pkg ≠ w.cluster.pkg then .dom else if c.die ≠ w.cluster.die then .pkg
    else if c.cl = w.cluster.cl then .cl else .die
  | .slice p d, _ => if p = w.cluster.pkg ∧ d = w.cluster.die then .die else if p = w.cluster.pkg then .pkg else .dom
  | .hbm p st, _ =>
    if p = w.cluster.pkg ∧ st / 2 = w.cluster.die then .die else if p = w.cluster.pkg then .pkg else .dom
  | _, _ => .dom

end Sys2Proof.Machine
end

