-- ==== Sys2Proof/WellFormed.lean ====
section
/-! DEFINITION. Which terms of Instr are instructions the encoding admits (R101 to R107, R263, R265). Every event is
well-formed; whether it can happen is judged by its meaning. -/
namespace Sys2Proof
open Sys2Proof.Machine

/-- Well-formedness of an instruction. -/
def Instr.wf : Instr → Bool
  | .add _ => true
  | .sub _ => true
  | .and _ => true
  | .or _ => true
  | .xor _ => true
  | .andn _ => true
  | .shl _ => true
  | .shr _ => true
  | .sar _ => true
  | .rol _ => true
  | .mul _ => true
  | .mulh _ => true
  | .mulhn _ => true
  | .div _ => true
  | .divn _ => true
  | .rem _ => true
  | .remn _ => true
  | .min _ => true
  | .max _ => true
  | .minn _ => true
  | .maxn _ => true
  | .slt _ => true
  | .sltn _ => true
  | .seq _ => true
  | .sel _ _ _ _ => true
  | .clz _ _ => true
  | .ctz _ _ => true
  | .popc _ _ => true
  | .bext _ => true
  | .bins _ => true
  | .sext _ _ _ => true
  | .zext _ _ _ => true
  | .bswap _ _ => true
  | .addi _ => true
  | .andi _ => true
  | .ori _ => true
  | .xori _ => true
  | .li _ _ => true
  | .liImm64 _ _ => true
  | .lil _ _ => true
  | .lhi _ _ => true
  | .shli _ => true
  | .shri _ => true
  | .sari _ => true
  | .slti _ => true
  | .sltni _ => true
  | .lea _ => true
  | .beq _ => true
  | .bne _ => true
  | .blt _ => true
  | .bge _ => true
  | .bltn _ => true
  | .bgen _ => true
  | .beqi _ => true
  | .bnei _ => true
  | .loop _ _ => true
  | .j _ => true
  | .jr _ => true
  | .jalr _ => true
  | .jal _ _ => true
  | .ldb o => loadOk o
  | .ldh o => loadOk o
  | .ldw o => loadOk o
  | .ldd o => loadOk o
  | .ldbn o => loadOk o
  | .ldhn o => loadOk o
  | .ldwn o => loadOk o
  | .stb o => storeOk o
  | .sth o => storeOk o
  | .stw o => storeOk o
  | .std o => storeOk o
  | .ldff _ => true
  | .ldfe _ => true
  | .stef _ => true
  | .stff _ => true
  | .feq _ => true
  | .feset _ _ => true
  | .feclr _ _ => true
  | .afadd o => atomicOk o
  | .afand o => atomicOk o
  | .afor o => atomicOk o
  | .afxor o => atomicOk o
  | .afmin o => atomicOk o
  | .afmax o => atomicOk o
  | .afminn o => atomicOk o
  | .afmaxn o => atomicOk o
  | .aswap o => atomicOk o
  | .acas o => casOk o
  | .axadd o => atomicOk o
  | .afaddW o => atomicOk o
  | .afandW o => atomicOk o
  | .aforW o => atomicOk o
  | .afxorW o => atomicOk o
  | .afminW o => atomicOk o
  | .afmaxW o => atomicOk o
  | .afminnW o => atomicOk o
  | .afmaxnW o => atomicOk o
  | .aswapW o => atomicOk o
  | .acasW o => casOk o
  | .fence => true
  | .fenceExt ord _ => !decide (ord = .none)
  | .tfence => true
  | .tfenceExt _ => true
  | .cpy _ => true
  | .cpyh _ => true
  | .cpyw _ => true
  | .vfence => true
  | .vstat _ => true
  | .gang _ => true
  | .ungang => true
  | .vld o => vargsOk o { d := true, s0 := true, res := o.ty, limits := tyAny o.ty }
  | .vst o => vargsOk o { a := true, s0 := true, res := o.ty, limits := tyAny o.ty }
  | .vlds o => vargsOk o { d := true, s0 := true, s1 := true, res := o.ty, limits := tyLanes o.ty }
  | .vsts o => vargsOk o { a := true, s0 := true, s1 := true, res := o.ty, limits := tyLanes o.ty }
  | .vgath o => vargsOk o { d := true, b := true, s0 := true, vimm := true, res := o.ty,
                                limits := tyIndexed o.ty && decide (o.vimm.toNat ≤ 3) }
  | .vscat o => vargsOk o { a := true, b := true, s0 := true, vimm := true, res := o.ty,
                                limits := tyIndexed o.ty && decide (o.vimm.toNat ≤ 3) }
  | .vadd o => vargsOk o { d := true, a := true, b := true, rm := true, sat := true, ftz := true, res := o.ty,
                                limits := tyLanes o.ty }
  | .vsub o => vargsOk o { d := true, a := true, b := true, rm := true, sat := true, ftz := true, res := o.ty,
                                limits := tyLanes o.ty }
  | .vmul o => vargsOk o { d := true, a := true, b := true, rm := true, sat := true, ftz := true, res := o.ty,
                                limits := tyLanes o.ty }
  | .vfma o => vargsOk o { d := true, a := true, b := true, c := true, rm := true, sat := true, ftz := true, res := o.ty,
                                limits := tyLanes o.ty }
  | .vfms o => vargsOk o { d := true, a := true, b := true, c := true, rm := true, sat := true, ftz := true, res := o.ty,
                                limits := tyLanes o.ty }
  | .vmin o => vargsOk o { d := true, a := true, b := true, ftz := true, res := o.ty, limits := tyLanes o.ty }
  | .vmax o => vargsOk o { d := true, a := true, b := true, ftz := true, res := o.ty, limits := tyLanes o.ty }
  | .vabs o => vargsOk o { d := true, a := true, sat := true, ftz := true, res := o.ty, limits := tyLanes o.ty }
  | .vneg o => vargsOk o { d := true, a := true, sat := true, ftz := true, res := o.ty, limits := tyLanes o.ty }
  | .vand o => vargsOk o { d := true, a := true, b := true, res := o.ty, limits := tyAny o.ty }
  | .vor o => vargsOk o { d := true, a := true, b := true, res := o.ty, limits := tyAny o.ty }
  | .vxor o => vargsOk o { d := true, a := true, b := true, res := o.ty, limits := tyAny o.ty }
  | .vshl o => vshiftOk o
  | .vshr o => vshiftOk o
  | .vsar o => vshiftOk o
  | .vcmp o => vargsOk o { d := true, a := true, b := true, sub := true, ftz := true, res := o.ty,
                                limits := tyLanes o.ty && (decide (o.sub.toNat ≤ 5) || (o.sub == 6 && o.ty.isFloat)) }
  | .vsel o => vargsOk o { d := true, a := true, b := true, c := true, res := o.ty, limits := tyAny o.ty }
  | .vred o => vredOk o
  | .vcvt o => vargsOk o { d := true, a := true, rm := true, sat := true, ftz := true, ty2 := true, vimm := true, res := o.ty2,
                                limits := tyAny o.ty && tyAny o.ty2 && !decide (o.ty = o.ty2) &&
                           decide (o.vimm.toNat < cvtParts o.ty o.ty2) }
  | .vbfpEnc o => vargsOk o { d := true, a := true, b := true, mask := false, ty2 := true, vimm := true, res := o.ty2,
                                limits := bfpOk o && decide (o.vimm.toNat < 4) && o.vd != 15 }
  | .vbfpDec o => vargsOk o { d := true, a := true, b := true, mask := false, ty2 := true, vimm := true, rm := true, res := o.ty,
                                limits := bfpOk o }
  | .vxaccAdd o => vargsOk o { d := true, a := true, vimm := true, res := o.ty, limits := tyAny o.ty && decide (o.vimm.toNat < 2) }
  | .vxaccCombine o => vargsOk o { d := true, a := true, b := true, mask := false, res := o.ty, limits := decide (o.ty = .xsum) }
  | .vxfin o => vargsOk o { d := true, a := true, mask := false, ty2 := true, vimm := true, rm := true, res := o.ty2,
                                limits := decide (o.ty = .xsum) && o.ty2.isFloat && decide (o.vimm.toNat < 2) }
  | .vsplat o => vargsOk o { d := true, s0 := true, res := o.ty, limits := tyAny o.ty }
  | .vperm o => vargsOk o { d := true, a := true, b := true, res := o.ty, limits := tyLanes o.ty }
  | .vmov o => vargsOk o { d := true, a := true, res := o.ty, limits := tyAny o.ty }
  | .vext o => vargsOk o { d := true, a := true, b := true, vimm := true, res := o.ty,
                                limits := tyAny o.ty && decide (o.vimm.toNat < lanesOf o.ty) }
  | .vins o => vargsOk o { d := true, s0 := true, vimm := true, res := o.ty,
                                limits := tyAny o.ty && decide (o.vimm.toNat < lanesOf o.ty) }
  | .vrngDraw o => vargsOk o { d := true, a := true, mask := false, res := o.ty, limits := decide (o.ty = .n64) || decide (o.ty = .f32) }
  | .vrngAdv o => vargsOk o { d := true, a := true, s0 := true, mask := false, res := o.ty, limits := decide (o.ty = .n64) }
  | .pbank _ _ _ => true
  | .pdec _ _ _ => true
  | .pswap => true
  | .pass _ _ => true
  | .probe _ _ => true
  | .pcal _ _ => true
  | .pstat _ _ => true
  | .pabort _ => true
  | .gacc vd va _ => blockReg vd && blockReg va
  | .gschur vd _ => blockReg vd
  | .gdamp vd va => blockReg vd && blockReg va
  | .gmarg vd va => blockReg vd && blockReg va
  | .gpost _ vd => blockReg vd
  | .gtake vd _ => blockReg vd
  | .fork _ => true
  | .join _ => true
  | .tend => true
  | .yield => true
  | .fly _ => true
  | .sleep _ => true
  | .wfw => true
  | .wake _ => true
  | .qbind _ _ => true
  | .qrel _ => true
  | .qpush _ _ => true
  | .qpop _ _ => true
  | .mst _ _ => true
  | .shufset _ _ => true
  | .shuf _ _ => true
  | .bar _ _ => true
  | .barScoped _ _ _ => true
  | .xred _ _ => true
  | .topo _ _ => true
  | .trap _ => true
  | .rte => true
  | .urte => true
  | .ctxsv _ _ => true
  | .ctxld _ _ => true
  | .halt => true
  | .tlbi _ _ => true
  | .cap _ => true
  | .scrub _ _ => true
  | .crr _ creg => cregOk creg
  | .crw creg _ => cregOk creg
  | .crs creg _ => cregOk creg
  | .crc creg _ => cregOk creg
  | .powerOnBoot _ _ => true
  | .antiRollbackAdvance _ => true
  | .measurementExtend _ _ _ => true
  | .getMeasurements _ _ => true
  | .pldmMonitoring _ _ => true
  | .pldmFirmwareUpdate _ _ => true
  | .powerCapSet _ _ => true
  | .thermalThrottle _ _ _ => true
  | .thermalShutdown _ _ => true
  | .packageReset _ => true
  | .launchWrite _ _ _ _ => true
  | .malformedWrite _ _ _ => true
  | .crheadWrite _ _ _ _ => true
  | .queueEnable _ _ _ => true
  | .queueDisable _ _ _ => true
  | .registerWrite _ _ _ => true
  | .portstatWrite _ _ _ => true
  | .ringEntryReservation _ _ => true
  | .launchAdmission _ => true
  | .swarmMessage _ _ => true
  | .launchRetirement _ => true
  | .taskStart _ _ => true
  | .contextResume _ _ => true
  | .stealAttempt _ => true
  | .stealRequest _ => true
  | .stealAnswer _ => true
  | .timesliceExpiry _ => true
  | .gangSlotReservation _ _ => true
  | .flyArrival _ => true
  | .wakeDelivery _ => true
  | .clusterQuiesce _ _ _ _ _ => true
  | .preemption _ => true
  | .forcedSave _ => true
  | .checkerRetry _ _ => true
  | .accessCompletion _ => true
  | .pageWalk _ _ _ _ => true
  | .relaxedStoreAck _ _ => true
  | .waitLimitExpiry _ => true
  | .fullEmptyRequest _ => true
  | .parkTableResend _ => true
  | .withdrawal _ => true
  | .withdrawalAnswer _ => true
  | .sleepExpiry _ => true
  | .promiseExpiry _ => true
  | .promiseMissedUpcall _ => true
  | .waysWrite _ _ => true
  | .waysChange _ => true
  | .groupWrite _ _ => true
  | .wdescWrite _ _ _ => true
  | .wlimWrite _ _ => true
  | .gpivWrite _ _ => true
  | .tcauseWrite _ _ => true
  | .copyBlock _ => true
  | .vectorCommandStart _ _ => true
  | .tileCaptureEnd _ => true
  | .imageBlockRead _ => true
  | .decompositionComplete _ => true
  | .loadCompletion _ => true
  | .bankSwap _ => true
  | .passStart _ => true
  | .probeStart _ _ => true
  | .scoutVerdict _ _ => true
  | .resolverAudit _ _ => true
  | .passStop _ => true
  | .carrierLoss _ => true
  | .thermalLoss _ => true
  | .spareLineAssignment _ => true
  | .omuRecalibration _ _ => true
  | .mailboxRequest _ => true
  | .routerPacket _ => true
  | .multicastData _ => true
  | .shuffleBlock _ => true
  | .shuffleResend _ => true
  | .codedShuffle _ => true
  | .fallbackRequest _ => true
  | .xsumReduction _ => true
  | .acknowledgement _ => true
  | .barrierArrival _ => true
  | .flitReceive _ _ _ _ _ => true
  | .replayTimeout _ _ => true
  | .codeRequest _ _ _ => true
  | .codeAcknowledgement _ _ => true
  | .codeRequestRetry _ _ => true
  | .keyUpdate _ _ => true
  | .laneLoss _ _ _ => true
  | .powerDown _ _ => true
  | .portWake _ _ => true
  | .loadrt _ => true
  | .code _ => true
  | .power _ => true
  | .reconf _ => true
  | .close _ => true
  | .portDrainComplete _ _ => true
  | .portSwitchComplete _ _ => true
  | .portTrainComplete _ _ _ => true
  | .trainTimeout _ _ => true
  | .portAuth _ _ _ _ _ => true
  | .keyCacheExpiry _ => true
  | .launchEnd _ => true
  | .faultWindowBoundary _ _ => true
  | .cellRestart _ => true
  | .correctedError _ _ _ => true
  | .pseudoChannelRetirement _ _ _ => true
  | .cartridgeRelease _ _ => true
  | .cartridgeInsertion _ _ => true
  | .functionLevelReset _ _ => true
  | .flrDrainComplete _ _ => true
  | .pumpCartridgeLost _ _ => true
  | .spareLineRejoin _ _ _ => true
  | .powerLoss _ => true

end Sys2Proof
end

