-- ==== Sys2Proof/Decode.lean ====
section
/-! DEFINITION. Instruction words (chapter 04): the parts of a word sequence, the decoder, total and rejecting by name
(R119), and the encoder. A word sequence is read into its fields once; decoding then names the instruction and
`Instr.wf` judges the values of its fields. -/
namespace Sys2Proof
open Sys2Proof.Machine

/-! ### Parts of an instruction -/

/-- The fields of a base word as form R lays them out (R97, R98), with the extension word and the literal where L says
they follow. IMM16 is LA, FN and B together; IMM12 is FN and B; OFF20 is IMM16 and A. -/
structure Words where
  la : BitVec 4 := 0
  fn : BitVec 8 := 0
  b : BitVec 4 := 0
  a : BitVec 4 := 0
  d : BitVec 4 := 0
  op : BitVec 6
  ext : Option Word := none
  lit : Option Word := none
  deriving DecidableEq, Repr

/-- IMM16 or OFF16 (R98). -/
def Words.imm16 (w : Words) : BitVec 16 := w.la ++ w.fn ++ w.b

/-- IMM12 (R98). -/
def Words.imm12 (w : Words) : BitVec 12 := w.fn ++ w.b

/-- OFF20 (R98). -/
def Words.off20 (w : Words) : BitVec 20 := w.la ++ w.fn ++ w.b ++ w.a

/-- The length in bytes (R96). -/
def Words.len (w : Words) : Nat := 4 + (if w.ext.isSome then 8 else 0) + (if w.lit.isSome then 8 else 0)

/-- The base word (R97): L is 10b with an extension word plus 01b with a literal. -/
def Words.base (w : Words) : BitVec 32 :=
  w.la ++ w.fn ++ w.b ++ w.a ++ w.d ++ w.op ++ BitVec.ofBool w.ext.isSome ++ BitVec.ofBool w.lit.isSome

/-- The number of bytes L implies (R96). -/
def lengthOf (base : BitVec 32) : Nat :=
  4 + (if base.getLsbD 1 then 8 else 0) + (if base.getLsbD 0 then 8 else 0)

/-- The fields of a base word and the two 64-bit parts that may follow it (R96). -/
def Words.ofBits (base : BitVec 32) (p1 p2 : Word) : Words where
  la := base.extractLsb' 28 4
  fn := base.extractLsb' 20 8
  b := base.extractLsb' 16 4
  a := base.extractLsb' 12 4
  d := base.extractLsb' 8 4
  op := base.extractLsb' 2 6
  ext := if base.getLsbD 1 then some p1 else none
  lit := if base.getLsbD 0 then some (if base.getLsbD 1 then p2 else p1) else none

/-- Why a word sequence is not an instruction (R119). -/
inductive DecodeError where
  | opcode
  | length
  | function
  | reserved
  | operand
  | immediate
  | extension
  | vector
  | field
  | truncated
  deriving DecidableEq, Repr

/-- A check of the decoder. -/
def need (c : Bool) (e : DecodeError) : Except DecodeError Unit := if c then .ok () else .error e

/-! ### Extension word and control-register numbers -/

/-- The bits of an extension word (R100). -/
def extBits (e : Ext) (c : Reg) : Word :=
  0#49 ++ BitVec.ofBool e.rx ++ BitVec.ofNat 2 (ordCode e.ord) ++ BitVec.ofNat 4 (scopeCode e.scope) ++ 0#4 ++ c

/-- An extension word with its C field; reserved bits and codes are refused (R100). -/
def readExt (x : Word) : Except DecodeError (Ext × Reg) := do
  need (x.extractLsb' 15 49 == 0#49 && x.extractLsb' 4 4 == 0#4) .extension
  match scopeOf (x.extractLsb' 8 4).toNat with
  | some sc => .ok (⟨x.getLsbD 14, ordOf (x.extractLsb' 12 2).toNat, sc⟩, x.extractLsb' 0 4)
  | none => .error .extension

/-- The number of a control register (R113). -/
def cregCode : CReg → BitVec 16
  | .tstat => 0x0 | .tid => 0x1 | .seg => 0x2 | .ways => 0x3 | .group => 0x4 | .wlim => 0x5 | .cyc => 0x6 | .gpiv => 0x7
  | .rtsel => 0x8 | .uvec => 0x9 | .tcause => 0xA | .tepc => 0xB | .trec => 0xC
  | .wdesc n => 0x10 + n.zeroExtend 16
  | .tvec => 0x100

/-- The control register of a number; others are reserved (R113). -/
def cregOf (n : BitVec 16) : Option CReg :=
  match n.toNat with
  | 0x0 => some .tstat | 0x1 => some .tid | 0x2 => some .seg | 0x3 => some .ways | 0x4 => some .group
  | 0x5 => some .wlim | 0x6 => some .cyc | 0x7 => some .gpiv | 0x8 => some .rtsel | 0x9 => some .uvec
  | 0xA => some .tcause | 0xB => some .tepc | 0xC => some .trec
  | 0x11 => some (.wdesc 1) | 0x12 => some (.wdesc 2) | 0x13 => some (.wdesc 3) | 0x14 => some (.wdesc 4)
  | 0x15 => some (.wdesc 5) | 0x16 => some (.wdesc 6) | 0x17 => some (.wdesc 7)
  | 0x100 => some .tvec
  | _ => none

/-- The code of a port (R112). -/
def portCode : Port → BitVec 4
  | .passpost => 0 | .passdone => 1 | .cpydone => 2 | .decdone => 3 | .probeout => 4
  | .sq0 => 5 | .sq1 => 6 | .sq2 => 7 | .sq3 => 8

/-- The port of a code; 9 to 15 are reserved (R112). -/
def portOf (n : BitVec 4) : Option Port :=
  [Port.passpost, .passdone, .cpydone, .decdone, .probeout, .sq0, .sq1, .sq2, .sq3][n.toNat]?

/-! ### The vector command word -/

/-- The vector command word (R114). -/
def vwordBits (vop : BitVec 8) (sub : BitVec 4) (o : VArgs) : Word :=
  o.vimm ++ sub ++ BitVec.ofNat 5 o.ty2.code ++ BitVec.ofBool o.ftz ++ BitVec.ofBool o.sat ++
    BitVec.ofNat 3 o.rm.code ++ BitVec.ofNat 5 o.ty.code ++ BitVec.ofBool o.mask.isSome ++ o.mask.getD 0 ++
    o.vc ++ o.vb ++ o.va ++ o.vd ++ vop

/-- The fields of a vector command word; reserved types, rounding modes and a VM without MEN are refused (R114, R117). -/
def readVword (x : Word) (a b : Reg) : Except DecodeError VArgs := do
  need (x.getLsbD 28 || x.extractLsb' 24 4 == 0#4) .vector
  match ElemTy.ofCode (x.extractLsb' 29 5).toNat, ElemTy.ofCode (x.extractLsb' 39 5).toNat,
      RMode.ofCode (x.extractLsb' 34 3).toNat with
  | some ty, some ty2, some rm =>
    .ok { vd := x.extractLsb' 8 4, va := x.extractLsb' 12 4, vb := x.extractLsb' 16 4, vc := x.extractLsb' 20 4,
          mask := if x.getLsbD 28 then some (x.extractLsb' 24 4) else none,
          ty := ty, ty2 := ty2, rm := rm, sat := x.getLsbD 37, ftz := x.getLsbD 38,
          sub := x.extractLsb' 44 4, vimm := x.extractLsb' 48 16, a := a, b := b }
  | _, _, _ => .error .vector

/-- A vector command whose SUB is fixed by its constructor, in the form the constructor holds. -/
def dropSub (o : VArgs) : VArgs := { o with sub := 0 }

/-- The vector command of a word (R115, R265). -/
def decodeVector (w : Words) (x : Word) : Except DecodeError Instr := do
  need (w.d == 0) .operand
  let o ← readVword x w.a w.b
  match (x.extractLsb' 0 8).toNat with
  | 0x01 => .ok (.vld o) | 0x02 => .ok (.vst o) | 0x03 => .ok (.vlds o) | 0x04 => .ok (.vsts o)
  | 0x05 => .ok (.vgath o) | 0x06 => .ok (.vscat o)
  | 0x10 => .ok (.vadd o) | 0x11 => .ok (.vsub o) | 0x12 => .ok (.vmul o) | 0x13 => .ok (.vfma o)
  | 0x14 => .ok (.vfms o) | 0x15 => .ok (.vmin o) | 0x16 => .ok (.vmax o) | 0x17 => .ok (.vabs o)
  | 0x18 => .ok (.vneg o)
  | 0x20 => .ok (.vand o) | 0x21 => .ok (.vor o) | 0x22 => .ok (.vxor o) | 0x23 => .ok (.vshl o)
  | 0x24 => .ok (.vshr o) | 0x25 => .ok (.vsar o)
  | 0x28 => .ok (.vcmp o) | 0x29 => .ok (.vsel o) | 0x2A => .ok (.vred o) | 0x30 => .ok (.vcvt o)
  | 0x31 => if o.sub == 0 then .ok (.vbfpEnc o) else if o.sub == 1 then .ok (.vbfpDec (dropSub o)) else .error .function
  | 0x32 => if o.sub == 0 then .ok (.vxaccAdd o) else if o.sub == 1 then .ok (.vxaccCombine (dropSub o))
            else .error .function
  | 0x33 => .ok (.vxfin o)
  | 0x38 => .ok (.vsplat o) | 0x39 => .ok (.vperm o) | 0x3A => .ok (.vmov o) | 0x3B => .ok (.vext o)
  | 0x3C => .ok (.vins o)
  | 0x40 => if o.sub == 0 then .ok (.vrngDraw o) else if o.sub == 1 then .ok (.vrngAdv (dropSub o)) else .error .function
  | _ => .error .function

/-! ### Decoding by major opcode -/

/-- No extension word is admitted (R106). -/
def noExt (w : Words) : Except DecodeError Unit := need w.ext.isNone .length

/-- No literal is admitted (R106). -/
def noLit (w : Words) : Except DecodeError Unit := need w.lit.isNone .length

/-- Fields that the operand pattern does not name are zero (R104). -/
def zeros (l : List (BitVec 4)) : Except DecodeError Unit := need (l.all (· == 0)) .operand

/-- The second source: the register of field B, or the literal, with B zero (R99). -/
def readSrc (w : Words) : Except DecodeError Src := match w.lit with
  | none => .ok (.reg w.b)
  | some x => if w.b == 0 then .ok (.lit x) else .error .operand

/-- IMM16 or the literal, with IMM16 zero (R99). -/
def readImm16 (w : Words) : Except DecodeError Imm16 := match w.lit with
  | none => .ok (.imm w.imm16)
  | some x => if w.imm16 == 0 then .ok (.lit x) else .error .operand

/-- IMM12 or the literal, with IMM12 zero (R99). -/
def readDisp (w : Words) : Except DecodeError Disp := match w.lit with
  | none => .ok (.imm w.imm12)
  | some x => if w.imm12 == 0 then .ok (.lit x) else .error .operand

/-- An optional extension word whose C field is not admitted (R101). -/
def readExtNoC (w : Words) : Except DecodeError (Option Ext) := match w.ext with
  | none => .ok none
  | some x => do
    let (e, c) ← readExt x
    if c == 0 then .ok (some e) else .error .extension

/-- OP 0x01 (R108). -/
def decodeReg (w : Words) : Except DecodeError Instr := do
  let rrs (k : RRS → Instr) : Except DecodeError Instr := do
    noExt w
    zeros [w.la]
    let b ← readSrc w
    .ok (k ⟨w.d, w.a, b⟩)
  let rrsl (k : RRSL → Instr) : Except DecodeError Instr := do
    noExt w
    let b ← readSrc w
    .ok (k ⟨w.d, w.a, b, w.la⟩)
  let one (k : Reg → Reg → Instr) : Except DecodeError Instr := do
    noExt w
    noLit w
    zeros [w.la, w.b]
    .ok (k w.d w.a)
  let width (k : Reg → Reg → Width → Instr) : Except DecodeError Instr := do
    noExt w
    noLit w
    zeros [w.la]
    match w.b.toNat with
    | 0 => .ok (k w.d w.a .w8)
    | 1 => .ok (k w.d w.a .w16)
    | 2 => .ok (k w.d w.a .w32)
    | _ => .error .immediate
  match w.fn.toNat with
  | 0x00 => rrs .add | 0x01 => rrs .sub | 0x02 => rrs .and | 0x03 => rrs .or | 0x04 => rrs .xor | 0x05 => rrs .andn
  | 0x06 => rrs .shl | 0x07 => rrs .shr | 0x08 => rrs .sar | 0x09 => rrs .rol
  | 0x10 => rrsl .mul | 0x11 => rrsl .mulh | 0x12 => rrsl .mulhn | 0x13 => rrsl .div | 0x14 => rrsl .divn
  | 0x15 => rrsl .rem | 0x16 => rrsl .remn
  | 0x20 => rrs .min | 0x21 => rrs .max | 0x22 => rrs .minn | 0x23 => rrs .maxn | 0x24 => rrs .slt
  | 0x25 => rrs .sltn | 0x26 => rrs .seq
  | 0x27 => do
    noLit w
    zeros [w.la]
    match w.ext with
    | none => .error .length
    | some x => do
      let (e, c) ← readExt x
      if e == ⟨false, .none, .sys⟩ then .ok (.sel w.d w.a w.b c) else .error .extension
  | 0x30 => one .clz | 0x31 => one .ctz | 0x32 => one .popc
  | 0x33 => rrs .bext | 0x34 => rrs .bins
  | 0x35 => width .sext | 0x36 => width .zext
  | 0x37 => one .bswap
  | _ => .error .function

/-- OP 0x02 to 0x05 (R158). -/
def decodeImm (w : Words) (k : RRI → Instr) : Except DecodeError Instr := do
  noExt w
  let i ← readImm16 w
  .ok (k ⟨w.d, w.a, i⟩)

/-- OP 0x06 (R109). -/
def decodeLi (w : Words) : Except DecodeError Instr := do
  noExt w
  match w.a.toNat with
  | 0 => do
    let i ← readImm16 w
    match i with
    | .imm v => .ok (.li w.d v)
    | .lit x => .ok (.liImm64 w.d x)
  | 1 => do
    noLit w
    .ok (.lil w.d w.imm16)
  | 2 => do
    noLit w
    .ok (.lhi w.d w.imm16)
  | _ => .error .function

/-- OP 0x07 (R109). -/
def decodeShift (w : Words) : Except DecodeError Instr := do
  noExt w
  let rrn (k : RRN → Instr) : Except DecodeError Instr := do
    noLit w
    if w.imm12.extractLsb' 6 6 == 0#6 then .ok (k ⟨w.d, w.a, w.imm12.extractLsb' 0 6⟩) else .error .immediate
  let rmem (k : RMem → Instr) : Except DecodeError Instr := do
    let i ← readDisp w
    .ok (k ⟨w.d, w.a, i⟩)
  match w.la.toNat with
  | 0 => rrn .shli | 1 => rrn .shri | 2 => rrn .sari
  | 3 => rmem .slti | 4 => rmem .sltni | 5 => rmem .lea
  | _ => .error .function

/-- OP 0x08 to 0x0D (R106). -/
def decodeBranch (w : Words) (k : Branch → Instr) : Except DecodeError Instr := do
  noExt w
  noLit w
  .ok (k ⟨w.d, w.a, w.imm16⟩)

/-- OP 0x0E (R109). -/
def decodeJump (w : Words) : Except DecodeError Instr := do
  noExt w
  match w.d.toNat with
  | 0 => .ok (.beqi ⟨w.a, w.lit, w.imm16⟩)
  | 1 => .ok (.bnei ⟨w.a, w.lit, w.imm16⟩)
  | 2 => do
    noLit w
    .ok (.loop w.a w.imm16)
  | 3 => do
    noLit w
    zeros [w.a]
    .ok (.j w.imm16)
  | 4 => do
    noLit w
    need (w.imm16 == 0) .operand
    .ok (.jr w.a)
  | 5 => do
    noLit w
    need (w.imm16 == 0) .operand
    .ok (.jalr w.a)
  | _ => .error .function

/-- OP 0x10 to 0x16 (R226). -/
def decodeLoad (w : Words) (k : Load → Instr) : Except DecodeError Instr := do
  let e ← readExtNoC w
  let i ← readDisp w
  .ok (k ⟨w.d, w.a, i, e, w.la⟩)

/-- OP 0x17 (R226). -/
def decodeStore (w : Words) : Except DecodeError Instr := do
  let e ← readExtNoC w
  let i ← readDisp w
  match w.la.toNat with
  | 0 => .ok (.stb ⟨w.d, w.a, i, e⟩)
  | 1 => .ok (.sth ⟨w.d, w.a, i, e⟩)
  | 2 => .ok (.stw ⟨w.d, w.a, i, e⟩)
  | 3 => .ok (.std ⟨w.d, w.a, i, e⟩)
  | _ => .error .function

/-- OP 0x18 to 0x1B (R230). -/
def decodeFull (w : Words) : Except DecodeError Instr := do
  noExt w
  let i ← readDisp w
  match w.op.toNat, w.la.toNat with
  | 0x18, 0 => .ok (.ldff ⟨w.d, w.a, i⟩)
  | 0x19, 0 => .ok (.ldfe ⟨w.d, w.a, i⟩)
  | 0x1A, 0 => .ok (.stef ⟨w.d, w.a, i⟩)
  | 0x1A, 1 => .ok (.stff ⟨w.d, w.a, i⟩)
  | 0x1B, 0 => .ok (.feq ⟨w.d, w.a, i⟩)
  | 0x1B, 1 => do
    zeros [w.d]
    .ok (.feset w.a i)
  | 0x1B, 2 => do
    zeros [w.d]
    .ok (.feclr w.a i)
  | _, _ => .error .function

/-- OP 0x1C (R110, R237). -/
def decodeAtomic (w : Words) : Except DecodeError Instr := do
  let b ← readSrc w
  let at_ (k : Atomic → Instr) : Except DecodeError Instr := do
    let e ← readExtNoC w
    .ok (k ⟨w.d, w.a, b, e, w.la⟩)
  let cas (k : Cas → Instr) : Except DecodeError Instr := match w.ext with
    | none => .error .length
    | some x => do
      let (e, c) ← readExt x
      .ok (k ⟨w.d, w.a, b, c, e, w.la⟩)
  match w.fn.toNat with
  | 0x00 => at_ .afadd | 0x01 => at_ .afand | 0x02 => at_ .afor | 0x03 => at_ .afxor | 0x04 => at_ .afmin
  | 0x05 => at_ .afmax | 0x06 => at_ .afminn | 0x07 => at_ .afmaxn | 0x08 => at_ .aswap | 0x09 => cas .acas
  | 0x0A => at_ .axadd
  | 0x10 => at_ .afaddW | 0x11 => at_ .afandW | 0x12 => at_ .aforW | 0x13 => at_ .afxorW | 0x14 => at_ .afminW
  | 0x15 => at_ .afmaxW | 0x16 => at_ .afminnW | 0x17 => at_ .afmaxnW | 0x18 => at_ .aswapW | 0x19 => cas .acasW
  | _ => .error .function

/-- OP 0x20 (R107, R223, R225). -/
def decodeFence (w : Words) : Except DecodeError Instr := do
  noLit w
  zeros [w.la, w.d, w.a, w.b]
  let e ← readExtNoC w
  match w.fn.toNat, e with
  | 0, none => .ok .fence
  | 0, some e => if e.rx then .error .extension else .ok (.fenceExt e.ord e.scope)
  | 1, none => .ok .tfence
  | 1, some e => if e.rx || !decide (e.ord = .none) then .error .extension else .ok (.tfenceExt e.scope)
  | _, _ => .error .function

/-- OP 0x21 (R242). -/
def decodeCopy (w : Words) : Except DecodeError Instr := do
  zeros [w.la]
  match w.ext with
  | none => .error .length
  | some x => do
    let (e, c) ← readExt x
    need (e == ⟨false, .none, .sys⟩) .extension
    match w.fn.toNat with
    | 0 => .ok (.cpy ⟨w.d, w.a, w.b, c, w.lit⟩)
    | 1 => .ok (.cpyh ⟨w.d, w.a, w.b, c, w.lit⟩)
    | 2 => .ok (.cpyw ⟨w.d, w.a, w.b, c, w.lit⟩)
    | _ => .error .function

/-- OP 0x24 (R111, R255). -/
def decodeVec (w : Words) : Except DecodeError Instr := do
  noExt w
  zeros [w.la]
  match w.fn.toNat, w.lit with
  | 0x00, some x => decodeVector w x
  | 0x00, none => .error .length
  | 0x01, none => do
    zeros [w.d, w.a, w.b]
    .ok .vfence
  | 0x02, none => do
    zeros [w.a, w.b]
    .ok (.vstat w.d)
  | 0x10, none => do
    zeros [w.d, w.a]
    match w.b.toNat with
    | 1 => .ok (.gang .two)
    | 2 => .ok (.gang .four)
    | 3 => .ok (.gang .eight)
    | _ => .error .immediate
  | 0x11, none => do
    zeros [w.d, w.a, w.b]
    .ok .ungang
  | _, _ => .error .function

/-- OP 0x28 (R317). -/
def decodeOptical (w : Words) : Except DecodeError Instr := do
  noExt w
  noLit w
  zeros [w.la]
  match w.fn.toNat with
  | 0 => .ok (.pbank w.d w.a w.b)
  | 1 => .ok (.pdec w.d w.a w.b)
  | 2 => do
    zeros [w.d, w.a, w.b]
    .ok .pswap
  | 3 => do
    zeros [w.b]
    .ok (.pass w.d w.a)
  | 4 => do
    zeros [w.b]
    .ok (.probe w.d w.a)
  | 5 => do
    zeros [w.d]
    .ok (.pcal w.a w.b)
  | 6 => do
    zeros [w.b]
    .ok (.pstat w.d w.a)
  | 7 => do
    zeros [w.d, w.b]
    .ok (.pabort w.a)
  | _ => .error .function

/-- OP 0x2C (R348). -/
def decodeGauss (w : Words) : Except DecodeError Instr := do
  noExt w
  noLit w
  zeros [w.la]
  match w.fn.toNat with
  | 0 => .ok (.gacc w.d w.a w.b)
  | 1 => do
    zeros [w.a]
    .ok (.gschur w.d w.b)
  | 2 => do
    zeros [w.b]
    .ok (.gdamp w.d w.a)
  | 3 => do
    zeros [w.b]
    .ok (.gmarg w.d w.a)
  | 4 => do
    zeros [w.b]
    .ok (.gpost w.a w.d)
  | 5 => do
    zeros [w.b]
    .ok (.gtake w.d w.a)
  | _ => .error .function

/-- A queue register number, 0 to 7 (R104). -/
def readQ (r : BitVec 4) : Except DecodeError (BitVec 3) :=
  if r.getLsbD 3 then .error .operand else .ok (r.extractLsb' 0 3)

/-- OP 0x30 (R111). -/
def decodeTask (w : Words) : Except DecodeError Instr := do
  noExt w
  noLit w
  zeros [w.la]
  let onA (k : Reg → Instr) : Except DecodeError Instr := do
    zeros [w.d, w.b]
    .ok (k w.a)
  let bare (i : Instr) : Except DecodeError Instr := do
    zeros [w.d, w.a, w.b]
    .ok i
  match w.fn.toNat with
  | 0x00 => onA .fork | 0x01 => onA .join | 0x02 => bare .tend | 0x03 => bare .yield | 0x04 => onA .fly
  | 0x05 => onA .sleep | 0x06 => bare .wfw | 0x07 => onA .wake
  | 0x10 => do
    zeros [w.a]
    let q ← readQ w.d
    match portOf w.b with
    | some p => .ok (.qbind q p)
    | none => .error .immediate
  | 0x11 => do
    zeros [w.a, w.b]
    let q ← readQ w.d
    .ok (.qrel q)
  | 0x12 => do
    zeros [w.b]
    let q ← readQ w.d
    .ok (.qpush q w.a)
  | 0x13 => do
    zeros [w.b]
    let q ← readQ w.a
    .ok (.qpop w.d q)
  | _ => .error .function

/-- OP 0x34 (R409). -/
def decodeFabric (w : Words) : Except DecodeError Instr := do
  noLit w
  zeros [w.la]
  let dA (k : Reg → Reg → Instr) : Except DecodeError Instr := do
    noExt w
    zeros [w.b]
    .ok (k w.d w.a)
  match w.fn.toNat with
  | 0 => dA .mst | 1 => dA .shufset | 2 => dA .shuf
  | 3 => do
    zeros [w.d]
    let e ← readExtNoC w
    match e with
    | none => .ok (.bar w.a w.b)
    | some e => if e.rx || !decide (e.ord = .none) then .error .extension else .ok (.barScoped w.a w.b e.scope)
  | 4 => dA .xred | 5 => dA .topo
  | _ => .error .function

/-- OP 0x38 (R446). -/
def decodeSystem (w : Words) : Except DecodeError Instr := do
  noExt w
  noLit w
  zeros [w.la, w.d]
  let bare (i : Instr) : Except DecodeError Instr := do
    zeros [w.a, w.b]
    .ok i
  match w.fn.toNat with
  | 0 => do
    zeros [w.a]
    .ok (.trap w.b)
  | 1 => bare .rte | 2 => bare .urte
  | 3 => .ok (.ctxsv w.a w.b) | 4 => .ok (.ctxld w.a w.b)
  | 5 => bare .halt
  | 6 => .ok (.tlbi w.a w.b)
  | 7 => do
    zeros [w.b]
    .ok (.cap w.a)
  | 8 => .ok (.scrub w.a w.b)
  | _ => .error .function

/-- OP 0x39 and 0x3A (R109, R113). -/
def decodeCreg (w : Words) : Except DecodeError Instr := do
  noExt w
  noLit w
  match cregOf w.imm16 with
  | none => .error .immediate
  | some c =>
    if w.op == 0x39 then do
      zeros [w.a]
      .ok (.crr w.d c)
    else match w.d.toNat with
      | 0 => .ok (.crw c w.a)
      | 1 => .ok (.crs c w.a)
      | 2 => .ok (.crc c w.a)
      | _ => .error .function

/-- The major-opcode map (R106). -/
def decodeOp (w : Words) : Except DecodeError Instr :=
  match w.op.toNat with
  | 0x01 => decodeReg w
  | 0x02 => decodeImm w .addi | 0x03 => decodeImm w .andi | 0x04 => decodeImm w .ori | 0x05 => decodeImm w .xori
  | 0x06 => decodeLi w | 0x07 => decodeShift w
  | 0x08 => decodeBranch w .beq | 0x09 => decodeBranch w .bne | 0x0A => decodeBranch w .blt
  | 0x0B => decodeBranch w .bge | 0x0C => decodeBranch w .bltn | 0x0D => decodeBranch w .bgen
  | 0x0E => decodeJump w
  | 0x0F => do
    noExt w
    noLit w
    .ok (.jal w.d w.off20)
  | 0x10 => decodeLoad w .ldb | 0x11 => decodeLoad w .ldh | 0x12 => decodeLoad w .ldw | 0x13 => decodeLoad w .ldd
  | 0x14 => decodeLoad w .ldbn | 0x15 => decodeLoad w .ldhn | 0x16 => decodeLoad w .ldwn
  | 0x17 => decodeStore w
  | 0x18 | 0x19 | 0x1A | 0x1B => decodeFull w
  | 0x1C => decodeAtomic w
  | 0x20 => decodeFence w | 0x21 => decodeCopy w
  | 0x24 => decodeVec w | 0x28 => decodeOptical w | 0x2C => decodeGauss w
  | 0x30 => decodeTask w | 0x34 => decodeFabric w | 0x38 => decodeSystem w
  | 0x39 | 0x3A => decodeCreg w
  | _ => .error .opcode

/-- The instruction of a word sequence, or why it is none (R119): the map names it, and its fields must be ones that the
rules of R101 to R107 and R263 admit. -/
def decode (w : Words) : Except DecodeError Instr := do
  let i ← decodeOp w
  if i.wf then .ok i else .error .field

/-- Little-endian bytes as a number (R8). -/
def leNat : List Byte → Nat
  | [] => 0
  | b :: bs => b.toNat + 256 * leNat bs

/-- The low n bytes of a number, least significant first (R8). -/
def leBytes : Nat → Nat → List Byte
  | 0, _ => []
  | n + 1, x => BitVec.ofNat 8 x :: leBytes n (x / 256)

/-- The instruction at the head of a list of bytes, with the bytes that follow it (R96). -/
def decodeBytes (bs : List Byte) : Except DecodeError (Instr × List Byte) :=
  let base := BitVec.ofNat 32 (leNat (bs.take 4))
  let n := lengthOf base
  if bs.length < n then .error .truncated
  else do
    let i ← decode (Words.ofBits base (BitVec.ofNat 64 (leNat ((bs.drop 4).take 8)))
      (BitVec.ofNat 64 (leNat ((bs.drop 12).take 8))))
    .ok (i, bs.drop n)

/-- The instruction the decoder reads where the words of a row of the opcode table stand, with zeros above them. -/
def decodeTableWord (nbits w : Nat) : Option Instr :=
  match decodeBytes (leBytes 20 (w % 2 ^ nbits)) with
  | .ok (i, _) => some i
  | .error _ => none

/-! ### The encoder -/

/-- The words of a second source: a register in B, or a literal with B zero. -/
def srcB : Src → Reg
  | .reg r => r
  | .lit _ => 0

/-- The literal of a second source. -/
def srcLit : Src → Option Word
  | .reg _ => none
  | .lit x => some x

/-- The words of an OP 0x01 instruction (R108). -/
def encRRS (fn : BitVec 8) (la : BitVec 4) (d a : Reg) (b : Src) : Words :=
  { op := 0x01, fn := fn, la := la, d := d, a := a, b := srcB b, lit := srcLit b }

/-- A word with IMM16 in bits [31:16]. -/
def encI (op : BitVec 6) (d a : Reg) (i : BitVec 16) (lit : Option Word := none) : Words :=
  { op := op, d := d, a := a, la := i.extractLsb' 12 4, fn := i.extractLsb' 4 8, b := i.extractLsb' 0 4, lit := lit }

/-- A form-I instruction (R158). -/
def encRRI (op : BitVec 6) (o : RRI) : Words := match o.imm with
  | .imm i => encI op o.d o.a i
  | .lit x => encI op o.d o.a 0 (some x)

/-- A form-M or form-MS instruction: LA or SUB, and IMM12 or a literal. -/
def encM (op : BitVec 6) (la : BitVec 4) (d a : Reg) (i : Disp) (ext : Option Word := none) : Words := match i with
  | .imm v => { op := op, la := la, fn := v.extractLsb' 4 8, b := v.extractLsb' 0 4, d := d, a := a, ext := ext }
  | .lit x => { op := op, la := la, d := d, a := a, ext := ext, lit := some x }

/-- An immediate shift (R109). -/
def encRRN (sub : BitVec 4) (o : RRN) : Words := encM 0x07 sub o.d o.a (.imm (o.n.zeroExtend 12))

/-- A load (R226). -/
def encLoad (op : BitVec 6) (o : Load) : Words := encM op o.la o.d o.a o.imm (o.ext.map (extBits · 0))

/-- A store (R226). -/
def encStore (sub : BitVec 4) (o : Store) : Words := encM 0x17 sub o.d o.a o.imm (o.ext.map (extBits · 0))

/-- An atomic (R237). -/
def encAtomic (fn : BitVec 8) (o : Atomic) : Words :=
  { op := 0x1C, fn := fn, la := o.la, d := o.d, a := o.a, b := srcB o.b, lit := srcLit o.b,
    ext := o.ext.map (extBits · 0) }

/-- An acas (R237). -/
def encCas (fn : BitVec 8) (o : Cas) : Words :=
  { op := 0x1C, fn := fn, la := o.la, d := o.d, a := o.a, b := srcB o.b, lit := srcLit o.b, ext := some (extBits o.ext o.c) }

/-- A copy instruction (R242). -/
def encCopy (fn : BitVec 8) (o : Copy) : Words :=
  { op := 0x21, fn := fn, d := o.d, a := o.a, b := o.b, ext := some (extBits ⟨false, .none, .sys⟩ o.c), lit := o.promise }

/-- A vector command (R255). -/
def encV (vop : BitVec 8) (sub : BitVec 4) (o : VArgs) : Words :=
  { op := 0x24, a := o.a, b := o.b, lit := some (vwordBits vop sub o) }

/-- A register-form instruction without literal or extension word. -/
def encR (op : BitVec 6) (fn : BitVec 8) (d a b : BitVec 4) : Words := { op := op, fn := fn, d := d, a := a, b := b }

/-- The code of a width of sext and zext (R108). -/
def widthCode : Width → BitVec 4
  | .w8 => 0 | .w16 => 1 | .w32 => 2

/-- The code of a gang width (R168). -/
def gangCode : GangWidth → BitVec 4
  | .two => 1 | .four => 2 | .eight => 3

/-- The words of an instruction (R96 to R117). An event has none: it is given the reserved opcode 0. -/
def encode : Instr → Words
  | .add o => encRRS 0x00 0 o.d o.a o.b
  | .sub o => encRRS 0x01 0 o.d o.a o.b
  | .and o => encRRS 0x02 0 o.d o.a o.b
  | .or o => encRRS 0x03 0 o.d o.a o.b
  | .xor o => encRRS 0x04 0 o.d o.a o.b
  | .andn o => encRRS 0x05 0 o.d o.a o.b
  | .shl o => encRRS 0x06 0 o.d o.a o.b
  | .shr o => encRRS 0x07 0 o.d o.a o.b
  | .sar o => encRRS 0x08 0 o.d o.a o.b
  | .rol o => encRRS 0x09 0 o.d o.a o.b
  | .mul o => encRRS 0x10 o.la o.d o.a o.b
  | .mulh o => encRRS 0x11 o.la o.d o.a o.b
  | .mulhn o => encRRS 0x12 o.la o.d o.a o.b
  | .div o => encRRS 0x13 o.la o.d o.a o.b
  | .divn o => encRRS 0x14 o.la o.d o.a o.b
  | .rem o => encRRS 0x15 o.la o.d o.a o.b
  | .remn o => encRRS 0x16 o.la o.d o.a o.b
  | .min o => encRRS 0x20 0 o.d o.a o.b
  | .max o => encRRS 0x21 0 o.d o.a o.b
  | .minn o => encRRS 0x22 0 o.d o.a o.b
  | .maxn o => encRRS 0x23 0 o.d o.a o.b
  | .slt o => encRRS 0x24 0 o.d o.a o.b
  | .sltn o => encRRS 0x25 0 o.d o.a o.b
  | .seq o => encRRS 0x26 0 o.d o.a o.b
  | .sel d a b c => { op := 0x01, fn := 0x27, d := d, a := a, b := b, ext := some (extBits ⟨false, .none, .sys⟩ c) }
  | .clz d a => encR 0x01 0x30 d a 0
  | .ctz d a => encR 0x01 0x31 d a 0
  | .popc d a => encR 0x01 0x32 d a 0
  | .bext o => encRRS 0x33 0 o.d o.a o.b
  | .bins o => encRRS 0x34 0 o.d o.a o.b
  | .sext d a w => encR 0x01 0x35 d a (widthCode w)
  | .zext d a w => encR 0x01 0x36 d a (widthCode w)
  | .bswap d a => encR 0x01 0x37 d a 0
  | .addi o => encRRI 0x02 o
  | .andi o => encRRI 0x03 o
  | .ori o => encRRI 0x04 o
  | .xori o => encRRI 0x05 o
  | .li d imm => encI 0x06 d 0 imm
  | .liImm64 d w => encI 0x06 d 0 0 (some w)
  | .lil d imm => encI 0x06 d 1 imm
  | .lhi d imm => encI 0x06 d 2 imm
  | .shli o => encRRN 0 o
  | .shri o => encRRN 1 o
  | .sari o => encRRN 2 o
  | .slti o => encM 0x07 3 o.d o.a o.imm
  | .sltni o => encM 0x07 4 o.d o.a o.imm
  | .lea o => encM 0x07 5 o.d o.a o.imm
  | .beq o => encI 0x08 o.d o.a o.off
  | .bne o => encI 0x09 o.d o.a o.off
  | .blt o => encI 0x0A o.d o.a o.off
  | .bge o => encI 0x0B o.d o.a o.off
  | .bltn o => encI 0x0C o.d o.a o.off
  | .bgen o => encI 0x0D o.d o.a o.off
  | .beqi o => encI 0x0E 0 o.a o.off o.value
  | .bnei o => encI 0x0E 1 o.a o.off o.value
  | .loop a off => encI 0x0E 2 a off
  | .j off => encI 0x0E 3 0 off
  | .jr a => encI 0x0E 4 a 0
  | .jalr a => encI 0x0E 5 a 0
  | .jal d off => encI 0x0F d (off.extractLsb' 0 4) (off.extractLsb' 4 16)
  | .ldb o => encLoad 0x10 o
  | .ldh o => encLoad 0x11 o
  | .ldw o => encLoad 0x12 o
  | .ldd o => encLoad 0x13 o
  | .ldbn o => encLoad 0x14 o
  | .ldhn o => encLoad 0x15 o
  | .ldwn o => encLoad 0x16 o
  | .stb o => encStore 0 o
  | .sth o => encStore 1 o
  | .stw o => encStore 2 o
  | .std o => encStore 3 o
  | .ldff o => encM 0x18 0 o.d o.a o.imm
  | .ldfe o => encM 0x19 0 o.d o.a o.imm
  | .stef o => encM 0x1A 0 o.d o.a o.imm
  | .stff o => encM 0x1A 1 o.d o.a o.imm
  | .feq o => encM 0x1B 0 o.d o.a o.imm
  | .feset a imm => encM 0x1B 1 0 a imm
  | .feclr a imm => encM 0x1B 2 0 a imm
  | .afadd o => encAtomic 0x00 o
  | .afand o => encAtomic 0x01 o
  | .afor o => encAtomic 0x02 o
  | .afxor o => encAtomic 0x03 o
  | .afmin o => encAtomic 0x04 o
  | .afmax o => encAtomic 0x05 o
  | .afminn o => encAtomic 0x06 o
  | .afmaxn o => encAtomic 0x07 o
  | .aswap o => encAtomic 0x08 o
  | .acas o => encCas 0x09 o
  | .axadd o => encAtomic 0x0A o
  | .afaddW o => encAtomic 0x10 o
  | .afandW o => encAtomic 0x11 o
  | .aforW o => encAtomic 0x12 o
  | .afxorW o => encAtomic 0x13 o
  | .afminW o => encAtomic 0x14 o
  | .afmaxW o => encAtomic 0x15 o
  | .afminnW o => encAtomic 0x16 o
  | .afmaxnW o => encAtomic 0x17 o
  | .aswapW o => encAtomic 0x18 o
  | .acasW o => encCas 0x19 o
  | .fence => encR 0x20 0 0 0 0
  | .fenceExt ord scope => { op := 0x20, ext := some (extBits ⟨false, ord, scope⟩ 0) }
  | .tfence => encR 0x20 1 0 0 0
  | .tfenceExt scope => { op := 0x20, fn := 1, ext := some (extBits ⟨false, .none, scope⟩ 0) }
  | .cpy o => encCopy 0 o
  | .cpyh o => encCopy 1 o
  | .cpyw o => encCopy 2 o
  | .vfence => encR 0x24 0x01 0 0 0
  | .vstat d => encR 0x24 0x02 d 0 0
  | .gang w => encR 0x24 0x10 0 0 (gangCode w)
  | .ungang => encR 0x24 0x11 0 0 0
  | .vld o => encV 0x01 o.sub o
  | .vst o => encV 0x02 o.sub o
  | .vlds o => encV 0x03 o.sub o
  | .vsts o => encV 0x04 o.sub o
  | .vgath o => encV 0x05 o.sub o
  | .vscat o => encV 0x06 o.sub o
  | .vadd o => encV 0x10 o.sub o
  | .vsub o => encV 0x11 o.sub o
  | .vmul o => encV 0x12 o.sub o
  | .vfma o => encV 0x13 o.sub o
  | .vfms o => encV 0x14 o.sub o
  | .vmin o => encV 0x15 o.sub o
  | .vmax o => encV 0x16 o.sub o
  | .vabs o => encV 0x17 o.sub o
  | .vneg o => encV 0x18 o.sub o
  | .vand o => encV 0x20 o.sub o
  | .vor o => encV 0x21 o.sub o
  | .vxor o => encV 0x22 o.sub o
  | .vshl o => encV 0x23 o.sub o
  | .vshr o => encV 0x24 o.sub o
  | .vsar o => encV 0x25 o.sub o
  | .vcmp o => encV 0x28 o.sub o
  | .vsel o => encV 0x29 o.sub o
  | .vred o => encV 0x2A o.sub o
  | .vcvt o => encV 0x30 o.sub o
  | .vbfpEnc o => encV 0x31 0 o
  | .vbfpDec o => encV 0x31 1 o
  | .vxaccAdd o => encV 0x32 0 o
  | .vxaccCombine o => encV 0x32 1 o
  | .vxfin o => encV 0x33 o.sub o
  | .vsplat o => encV 0x38 o.sub o
  | .vperm o => encV 0x39 o.sub o
  | .vmov o => encV 0x3A o.sub o
  | .vext o => encV 0x3B o.sub o
  | .vins o => encV 0x3C o.sub o
  | .vrngDraw o => encV 0x40 0 o
  | .vrngAdv o => encV 0x40 1 o
  | .pbank d a b => encR 0x28 0 d a b
  | .pdec d a b => encR 0x28 1 d a b
  | .pswap => encR 0x28 2 0 0 0
  | .pass d a => encR 0x28 3 d a 0
  | .probe d a => encR 0x28 4 d a 0
  | .pcal a b => encR 0x28 5 0 a b
  | .pstat d a => encR 0x28 6 d a 0
  | .pabort a => encR 0x28 7 0 a 0
  | .gacc vd va b => encR 0x2C 0 vd va b
  | .gschur vd b => encR 0x2C 1 vd 0 b
  | .gdamp vd va => encR 0x2C 2 vd va 0
  | .gmarg vd va => encR 0x2C 3 vd va 0
  | .gpost a vd => encR 0x2C 4 vd a 0
  | .gtake vd a => encR 0x2C 5 vd a 0
  | .fork a => encR 0x30 0 0 a 0
  | .join a => encR 0x30 1 0 a 0
  | .tend => encR 0x30 2 0 0 0
  | .yield => encR 0x30 3 0 0 0
  | .fly a => encR 0x30 4 0 a 0
  | .sleep a => encR 0x30 5 0 a 0
  | .wfw => encR 0x30 6 0 0 0
  | .wake a => encR 0x30 7 0 a 0
  | .qbind qd port => encR 0x30 0x10 (qd.zeroExtend 4) 0 (portCode port)
  | .qrel qd => encR 0x30 0x11 (qd.zeroExtend 4) 0 0
  | .qpush qd a => encR 0x30 0x12 (qd.zeroExtend 4) a 0
  | .qpop d qa => encR 0x30 0x13 d (qa.zeroExtend 4) 0
  | .mst d a => encR 0x34 0 d a 0
  | .shufset d a => encR 0x34 1 d a 0
  | .shuf d a => encR 0x34 2 d a 0
  | .bar a b => encR 0x34 3 0 a b
  | .barScoped a b scope => { op := 0x34, fn := 3, a := a, b := b, ext := some (extBits ⟨false, .none, scope⟩ 0) }
  | .xred d a => encR 0x34 4 d a 0
  | .topo d a => encR 0x34 5 d a 0
  | .trap n => encR 0x38 0 0 0 n
  | .rte => encR 0x38 1 0 0 0
  | .urte => encR 0x38 2 0 0 0
  | .ctxsv a b => encR 0x38 3 0 a b
  | .ctxld a b => encR 0x38 4 0 a b
  | .halt => encR 0x38 5 0 0 0
  | .tlbi a b => encR 0x38 6 0 a b
  | .cap a => encR 0x38 7 0 a 0
  | .scrub a b => encR 0x38 8 0 a b
  | .crr d creg => encI 0x39 d 0 (cregCode creg)
  | .crw creg a => encI 0x3A 0 a (cregCode creg)
  | .crs creg a => encI 0x3A 1 a (cregCode creg)
  | .crc creg a => encI 0x3A 2 a (cregCode creg)
  | .powerOnBoot _ _ => { op := 0 }
  | .antiRollbackAdvance _ => { op := 0 }
  | .measurementExtend _ _ _ => { op := 0 }
  | .getMeasurements _ _ => { op := 0 }
  | .pldmMonitoring _ _ => { op := 0 }
  | .pldmFirmwareUpdate _ _ => { op := 0 }
  | .powerCapSet _ _ => { op := 0 }
  | .thermalThrottle _ _ _ => { op := 0 }
  | .thermalShutdown _ _ => { op := 0 }
  | .packageReset _ => { op := 0 }
  | .launchWrite _ _ _ _ => { op := 0 }
  | .malformedWrite _ _ _ => { op := 0 }
  | .crheadWrite _ _ _ _ => { op := 0 }
  | .queueEnable _ _ _ => { op := 0 }
  | .queueDisable _ _ _ => { op := 0 }
  | .registerWrite _ _ _ => { op := 0 }
  | .portstatWrite _ _ _ => { op := 0 }
  | .ringEntryReservation _ _ => { op := 0 }
  | .launchAdmission _ => { op := 0 }
  | .swarmMessage _ _ => { op := 0 }
  | .launchRetirement _ => { op := 0 }
  | .taskStart _ _ => { op := 0 }
  | .contextResume _ _ => { op := 0 }
  | .stealAttempt _ => { op := 0 }
  | .stealRequest _ => { op := 0 }
  | .stealAnswer _ => { op := 0 }
  | .timesliceExpiry _ => { op := 0 }
  | .gangSlotReservation _ _ => { op := 0 }
  | .flyArrival _ => { op := 0 }
  | .wakeDelivery _ => { op := 0 }
  | .clusterQuiesce _ _ _ _ _ => { op := 0 }
  | .preemption _ => { op := 0 }
  | .forcedSave _ => { op := 0 }
  | .checkerRetry _ _ => { op := 0 }
  | .accessCompletion _ => { op := 0 }
  | .pageWalk _ _ _ _ => { op := 0 }
  | .relaxedStoreAck _ _ => { op := 0 }
  | .waitLimitExpiry _ => { op := 0 }
  | .fullEmptyRequest _ => { op := 0 }
  | .parkTableResend _ => { op := 0 }
  | .withdrawal _ => { op := 0 }
  | .withdrawalAnswer _ => { op := 0 }
  | .sleepExpiry _ => { op := 0 }
  | .promiseExpiry _ => { op := 0 }
  | .promiseMissedUpcall _ => { op := 0 }
  | .waysWrite _ _ => { op := 0 }
  | .waysChange _ => { op := 0 }
  | .groupWrite _ _ => { op := 0 }
  | .wdescWrite _ _ _ => { op := 0 }
  | .wlimWrite _ _ => { op := 0 }
  | .gpivWrite _ _ => { op := 0 }
  | .tcauseWrite _ _ => { op := 0 }
  | .copyBlock _ => { op := 0 }
  | .vectorCommandStart _ _ => { op := 0 }
  | .tileCaptureEnd _ => { op := 0 }
  | .imageBlockRead _ => { op := 0 }
  | .decompositionComplete _ => { op := 0 }
  | .loadCompletion _ => { op := 0 }
  | .bankSwap _ => { op := 0 }
  | .passStart _ => { op := 0 }
  | .probeStart _ _ => { op := 0 }
  | .scoutVerdict _ _ => { op := 0 }
  | .resolverAudit _ _ => { op := 0 }
  | .passStop _ => { op := 0 }
  | .carrierLoss _ => { op := 0 }
  | .thermalLoss _ => { op := 0 }
  | .spareLineAssignment _ => { op := 0 }
  | .omuRecalibration _ _ => { op := 0 }
  | .mailboxRequest _ => { op := 0 }
  | .routerPacket _ => { op := 0 }
  | .multicastData _ => { op := 0 }
  | .shuffleBlock _ => { op := 0 }
  | .shuffleResend _ => { op := 0 }
  | .codedShuffle _ => { op := 0 }
  | .fallbackRequest _ => { op := 0 }
  | .xsumReduction _ => { op := 0 }
  | .acknowledgement _ => { op := 0 }
  | .barrierArrival _ => { op := 0 }
  | .flitReceive _ _ _ _ _ => { op := 0 }
  | .replayTimeout _ _ => { op := 0 }
  | .codeRequest _ _ _ => { op := 0 }
  | .codeAcknowledgement _ _ => { op := 0 }
  | .codeRequestRetry _ _ => { op := 0 }
  | .keyUpdate _ _ => { op := 0 }
  | .laneLoss _ _ _ => { op := 0 }
  | .powerDown _ _ => { op := 0 }
  | .portWake _ _ => { op := 0 }
  | .loadrt _ => { op := 0 }
  | .code _ => { op := 0 }
  | .power _ => { op := 0 }
  | .reconf _ => { op := 0 }
  | .close _ => { op := 0 }
  | .portDrainComplete _ _ => { op := 0 }
  | .portSwitchComplete _ _ => { op := 0 }
  | .portTrainComplete _ _ _ => { op := 0 }
  | .trainTimeout _ _ => { op := 0 }
  | .portAuth _ _ _ _ _ => { op := 0 }
  | .keyCacheExpiry _ => { op := 0 }
  | .launchEnd _ => { op := 0 }
  | .faultWindowBoundary _ _ => { op := 0 }
  | .cellRestart _ => { op := 0 }
  | .correctedError _ _ _ => { op := 0 }
  | .pseudoChannelRetirement _ _ _ => { op := 0 }
  | .cartridgeRelease _ _ => { op := 0 }
  | .cartridgeInsertion _ _ => { op := 0 }
  | .functionLevelReset _ _ => { op := 0 }
  | .flrDrainComplete _ _ => { op := 0 }
  | .pumpCartridgeLost _ _ => { op := 0 }
  | .spareLineRejoin _ _ _ => { op := 0 }
  | .powerLoss _ => { op := 0 }

/-- Whether a step is an event, which no thread issues. -/
def isEvent (i : Instr) : Bool := (encode i).op == 0

end Sys2Proof
end

