-- ==== Sys2Proof/Machine/Operands.lean ====
section
/-! DEFINITION. Operand forms: second sources and immediates with their literals (R99, R158), effective addresses (R226),
branch targets (R105), the operand record of an instruction (R146, R433), and which registers an instruction names. -/
namespace Sys2Proof.Machine
open Sys2Proof

/-- The second source: a register's value or the literal (R156). -/
def srcVal (c : Ctx) : Src → Word
  | .reg r => c.gpr r
  | .lit w => w

/-- IMM16 sign-extended, or the literal (R158). -/
def immS : Imm16 → Word
  | .imm i => i.signExtend 64
  | .lit w => w

/-- IMM16 zero-extended, or the literal (R158). -/
def immU : Imm16 → Word
  | .imm i => i.zeroExtend 64
  | .lit w => w

/-- IMM12 sign-extended, or the literal (R226). -/
def dispS : Disp → Word
  | .imm i => i.signExtend 64
  | .lit w => w

/-- IMM12 zero-extended, or the literal (sltni, R158). -/
def dispU : Disp → Word
  | .imm i => i.zeroExtend 64
  | .lit w => w

/-- The effective address of a memory operand (R226). -/
def effAddr (c : Ctx) (a : Reg) (d : Disp) : Word := c.gpr a + dispS d

/-- The target of a form-B instruction (R105): the offset counts words from the base word. -/
def target16 (c : Ctx) (off : BitVec 16) : Word := c.pc + off.signExtend 64 * 4

/-- The target of a form-J instruction (R105). -/
def target20 (c : Ctx) (off : BitVec 20) : Word := c.pc + off.signExtend 64 * 4

/-- The length of an instruction in bytes (R96). -/
def instrLen (i : Instr) : Nat := (encode i).len

/-- The pc of the instruction that follows in memory. -/
def nextPc (i : Instr) (c : Ctx) : Word := c.pc + word (instrLen i)

/-- Which of the fields D, A, B and C name general registers (R104, R108 to R111). -/
def namedRegs (w : Words) : Bool × Bool × Bool × Bool :=
  let fn := w.fn.toNat
  let noLit := w.lit.isNone
  match w.op.toNat with
  | 0x01 => (true, true, noLit && (decide (fn < 0x30) || fn == 0x33 || fn == 0x34), fn == 0x27)
  | 0x02 | 0x03 | 0x04 | 0x05 | 0x07 | 0x08 | 0x09 | 0x0A | 0x0B | 0x0C | 0x0D => (true, true, false, false)
  | 0x06 | 0x0F => (true, false, false, false)
  | 0x0E => (false, w.d != 3, false, false)
  | 0x10 | 0x11 | 0x12 | 0x13 | 0x14 | 0x15 | 0x16 | 0x17 | 0x18 | 0x19 | 0x1A => (true, true, false, false)
  | 0x1B => (w.la == 0, true, false, false)
  | 0x1C => (true, true, noLit, fn == 0x09 || fn == 0x19)
  | 0x21 => (true, true, true, true)
  | 0x24 => (fn == 0x02, fn == 0x00, fn == 0x00, false)
  | 0x28 => ([0, 1, 3, 4, 6].contains fn, fn != 2, [0, 1, 5].contains fn, false)
  | 0x2C => (false, fn == 4 || fn == 5, fn == 0 || fn == 1, false)
  | 0x30 => (fn == 0x13, decide (fn < 0x10) && fn != 2 && fn != 3 && fn != 6 || fn == 0x12, false, false)
  | 0x34 => (fn != 3, true, fn == 3, false)
  | 0x38 => (false, [3, 4, 6, 7, 8].contains fn, [3, 4, 6, 8].contains fn, false)
  | 0x39 => (true, false, false, false)
  | 0x3A => (false, true, false, false)
  | _ => (false, false, false, false)

/-- The C field of the extension word (R100). -/
def cField (w : Words) : Reg := (w.ext.getD 0).extractLsb' 0 4

/-- The operand record of an instruction under a context, with its ticket or 0 (R146, R433). -/
def recordOf (i : Instr) (c : Ctx) (ticket : BitVec 32) : OpRec :=
  let w := encode i
  let n := namedRegs w
  { pc := c.pc, base := w.base, ticket := ticket, ext := w.ext.getD 0, lit := w.lit.getD 0
    vd := if n.1 then c.gpr w.d else 0
    va := if n.2.1 then c.gpr w.a else 0
    vb := if n.2.2.1 then c.gpr w.b else 0
    vc := if n.2.2.2 then c.gpr (cField w) else 0 }

/-- The words of an operand record. -/
def OpRec.words (r : OpRec) : Words :=
  let l := r.base.extractLsb' 0 2
  Words.ofBits r.base (if l.getLsbD 1 then r.ext else r.lit) r.lit

/-- The instruction an operand record was captured from. -/
def OpRec.instr? (r : OpRec) : Option Instr := match decode r.words with
  | .ok i => some i
  | .error _ => none

/-- Whether an instruction may enter the window of a head (R145): OP 0x01 to 0x07, LA 0, and no named register that is the head's
destination. -/
def admissible (i : Instr) (headBase : BitVec 32) : Bool :=
  let w := encode i
  let n := namedRegs w
  let dst : Reg := headBase.extractLsb' 8 4
  let la : Bool := w.op == 0x01 && w.la != 0
  decide (1 ≤ w.op.toNat) && decide (w.op.toNat ≤ 7) && !la &&
    !(n.1 && w.d == dst) && !(n.2.1 && w.a == dst) && !(n.2.2.1 && w.b == dst) && !(n.2.2.2 && cField w == dst)

/-- The extension word's fields, or its defaults (R101). -/
def extD (e : Option Ext) : Ext := e.getD ⟨false, .none, .sys⟩

/-- Whether an ordering includes a release. -/
def ordRel : Ord → Bool
  | .rel | .both => true
  | _ => false

/-- Whether an ordering includes an acquire. -/
def ordAcq : Ord → Bool
  | .acq | .both => true
  | _ => false

end Sys2Proof.Machine
end

