-- ==== Sys2Proof/Machine/Ring.lean ====
section
/-! DEFINITION. Accesses of engines and of the launch unit, the event log (R466 to R468), the counting of events and capping
(R453, R469 to R471), and completion records (R61 to R63). -/
namespace Sys2Proof.Machine
open Sys2Proof

/-! ### Ranges -/

/-- A byte range cut at the boundaries of a unit: address and length of each part. Fuel bounds the number of parts. -/
def chunks (unit : Nat) : Nat → Word → Nat → List (Word × Nat)
  | 0, _, _ => []
  | fuel + 1, va, n =>
    let m := min n (unit - va.toNat % unit)
    if n = 0 then [] else (va, m) :: chunks unit fuel (va + word m) (n - m)

/-- The parts of a range of n bytes, cut at 64-byte boundaries. -/
def parts (va : Word) (n : Nat) : List (Word × Nat) := chunks 64 (n / 64 + 2) va n

/-- The bytes of a range as an engine reads them at their homes, without locks; the fault code of the first part that fails. -/
def engineRead (s : State) (w : Who) (va : Word) (n : Nat) : Except Nat (List Byte) :=
  (parts va n).foldlM (fun acc p => do
    let loc ← placeOf s w .load p.1 p.2
    let r ← readAt s w loc p.2 false
    .ok (acc ++ r.1)) []

/-- The bytes of a range as a cell reads them for one of its threads, without locks: dirty bytes that the cell holds go home first (R371). -/
def cellRead (s : State) (w : Who) (va : Word) (n : Nat) : Except Nat (List Byte × State) :=
  (parts va n).foldlM (fun acc p => do
    let loc ← placeOf acc.2 w .load p.1 p.2
    let r ← readOwn acc.2 w loc p.2 false
    .ok (acc.1 ++ r.1, r.2)) ([], s)

/-- Bytes stored part by part, each as `put` stores it. Parts before one that fails stay written. -/
def storeParts (put : State → Loc → List Byte → Except Nat State) (w : Who) :
    State → Word → List Byte → List (Word × Nat) → Except (Nat × State) State
  | s, _, _, [] => .ok s
  | s, va, bs, p :: ps =>
    match placeOf s w .store p.1 p.2 with
    | .error c => .error (c, s)
    | .ok loc =>
      match put s loc (bs.take p.2) with
      | .error c => .error (c, s)
      | .ok s' => storeParts put w s' (va + word p.2) (bs.drop p.2) ps

/-- Bytes stored by an engine at their homes, without locks (R384). -/
def engineStore (s : State) (w : Who) (va : Word) (bs : List Byte) : Except (Nat × State) State :=
  storeParts (fun s loc b => writeHome s w loc b) w s va bs (parts va bs.length)

/-- Bytes stored by a cell for one of its threads, without locks: the copies in its ways follow (R227). -/
def cellStore (s : State) (w : Who) (va : Word) (bs : List Byte) : Except (Nat × State) State :=
  storeParts (fun s loc b => writeAt s w loc b false) w s va bs (parts va bs.length)

/-- The supervisor or a function of a package as the one who accesses: the launch unit on die 0, cluster 0. -/
def pkgWho (pkg vf : Nat) : Who :=
  { cluster := ⟨pkg, 0, 0⟩, vf := vf, sup := false, nurse := false, cell := ⟨pkg, 0, 0, 32⟩, seg := 0, limit := 0
    ready := none, nurseLcl := none, bank := false }

/-! ### The event log -/

/-- The LOC field of R467. -/
def locBits (pkg die cl cell unit : Nat) : Nat :=
  pkg % 512 * 2 ^ 32 + die % 4 * 2 ^ 24 + cl % 8 * 2 ^ 16 + cell % 32 * 2 ^ 8 + unit % 256

/-- The number of entries of a ring: 2^(LOG2 + 4), LOG2 at most 12 (R49, R466). -/
def ringSize (log2 : BitVec 4) : Nat := 2 ^ (min log2.toNat 12 + 4)

/-- An event reported in the log of a package (R466, R467). -/
def State.logEvent (s : State) (pkg die kind : Nat) (detail : Word) (loc count : Nat) : State :=
  let p := s.pkg pkg
  if p.elbase = 0 then s
  else
    let size := ringSize p.ellog2
    let tail := p.eltail.toNat % size
    let drop := { p with eldrop := if p.eldrop = 0xFFFF then p.eldrop else p.eldrop + 1 }
    if (tail + 1) % size = p.elhead.toNat then s.setPkg pkg drop
    else
      let w0 := count % 2 ^ 16 * 2 ^ 48 + kind % 256 * 2 ^ 32 + (if p.elphase then 1 else 0)
      let rec_ := leOf 8 w0 ++ leOf 8 loc ++ leOf 8 detail.toNat ++ leOf 8 (s.cyc pkg die)
      let next := { p with
        eltail := BitVec.ofNat 16 ((tail + 1) % size)
        elphase := if (tail + 1) % size = 0 then !p.elphase else p.elphase }
      match engineStore s (pkgWho pkg 0) (p.elbase + word (32 * tail)) rec_ with
      | .ok s' => s'.setPkg pkg { next with msix := if p.elint then p.msix ++ [(0, 0)] else p.msix }
      | .error (_, s') => s'.setPkg pkg { next with eldrop := drop.eldrop }

/-! ### The context cache (R443) -/

/-- The stamps of the entries of a cell's context cache that are on chip: contexts of threads, fault contexts, and fault contexts that ended
threads left. -/
def State.onChip (s : State) (c : PCell) : List Nat :=
  (s.threads.filterMap fun x => match x.2.place with
    | .cache c' _ n => if c' = c ∧ !x.2.spilled then some n else none
    | _ => none) ++
  ((s.threads.filter fun x => x.2.pcell == c).flatMap fun x => x.2.fctx.toList.filterMap fun o => o.bind fun f =>
    if f.spilled then none else some f.stamp) ++
  ((s.vcells.filter fun x => (s.place x.1).map VPlace.cell == some c).flatMap fun x => x.2.held.filterMap fun h =>
    if h.2.spilled then none else some h.2.stamp)

/-- A fault context whose entry, written at a stamp, has spilled. -/
def FaultCtx.spillAt (n : Nat) (f : FaultCtx) : FaultCtx := if f.stamp = n then { f with spilled := true } else f

/-- The least recently written of more than 64 entries on chip goes to the backing region of the nurse; only timing shows it, and which
entries a flight finds free (R91, R443). -/
def State.spillOver (s : State) (c : PCell) : State :=
  let ns := s.onChip c
  if ns.length ≤ 64 then s
  else
    let n := ns.foldl min (ns.headD 0)
    { s with
      threads := s.threads.map fun (x : Nat × Thread) =>
        if x.2.pcell != c then x
        else
          let here : Bool := match x.2.place with
            | .cache _ _ m => m == n
            | _ => false
          (x.1, { x.2 with spilled := x.2.spilled || here, fctx := x.2.fctx.map fun o => o.map (FaultCtx.spillAt n) })
      vcells := s.vcells.map fun (x : LCell × VCell) =>
        if (s.place x.1).map VPlace.cell == some c then (x.1, { x.2 with held := x.2.held.map fun h => (h.1, h.2.spillAt n) }) else x }

/-- Entries that have come together in one cache, spilled until 64 are left on chip. -/
def State.spillAll (s : State) (c : PCell) : State := (List.range ((s.onChip c).length - 64)).foldl (fun s _ => s.spillOver c) s

/-! ### Capping and counting -/

/-- A thread's record changed, also where its context is in memory and what goes on under its TID is kept beside (log 83). -/
def State.modRecord (s : State) (k : Nat) (f : Thread → Thread) : State :=
  { s.modThread k f with saved := s.saved.map fun (x : Nat × Thread) => if x.1 = k then (x.1, f x.2) else x }

/-- Parked requests withdrawn from their park tables; their threads issue again. -/
def State.unpark (s : State) (gone : Parked → Bool) : State :=
  let out := s.parked.filter gone
  let s := { s with parked := s.parked.filter fun p => !gone p }
  out.foldl (fun s p => s.modRecord p.thread fun t => { t with run := .ready, req := none }) s

/-- Parked requests that their home ends with an error (R236): the requester takes it as a fault of its instruction when its turn comes. -/
def State.answerParked (s : State) (gone : Parked → Bool) (code : Nat) : State :=
  let out := s.parked.filter gone
  let s := { s with parked := s.parked.filter fun p => !gone p }
  out.foldl (fun s p => s.modRecord p.thread fun t => { t with run := .ready, homeErr := some code }) s

/-- Whether a thread occupies a slot of a cell. -/
def Thread.inSlotOf (t : Thread) (c : PCell) : Bool := match t.place with
  | .slot x _ => x == c
  | _ => false

/-- A thread's context put into the context cache of its cell with every register saved (R442): entries are written slot by slot. -/
def sealThread (stamp : Nat) (t : Thread) : Thread :=
  { t with place := .cache t.pcell false (stamp + (t.slot?.map Prod.snd).getD 0), masks := BitVec.allOnes 40, forced := true }

/-- A worker cell: cell 32 of a cluster is its nurse (R2). -/
def isWorker (c : PCell) : Bool := decide (c.cell < 32)

/-- The count of a unit in the fault window. -/
def State.countOf (s : State) (u : Monitored) : Nat := lookD 0 u s.counts

/-- The unit of a cell whose events stand in the record of its cap: the one with a lasting fault, else its pipeline (R467, R471). -/
def State.cappedUnit (s : State) (c : PCell) (cause : Nat) : Monitored :=
  if cause = 1 ∧ s.countOf (.pipeline c) < 3 then .vector c else .pipeline c

/-- A worker cell capped (R453, R471): it issues nothing, its threads are sealed into the context cache, and parked requests at it are
answered POISONED (R236). A capped cell is left as it is. -/
def State.capCell (s : State) (c : PCell) (cause : Nat) : State :=
  if (s.cell c).capped || !isWorker c then s
  else
    let s := s.setCell c { s.cell c with capped := true }
    let s := { s with
      threads := s.threads.map fun (x : Nat × Thread) => if x.2.inSlotOf c then (x.1, sealThread s.stamp x.2) else x
      stamp := s.stamp + 16 }
    let s := (List.range 16).foldl (fun s _ => s.spillOver c) s
    let s := s.answerParked (fun (p : Parked) => p.req.home == Home.cell c) fUncorrectable
    s.logEvent c.pkg c.die 0x03 (word cause) (locBits c.pkg c.die c.cl c.cell 0) (s.countOf (s.cappedUnit c cause))

/-- The die whose counter a unit counts on, and its LOC (R467, R469, R475). -/
def unitPlace : Monitored → Nat × Nat × Nat
  | .pipeline c | .vector c => (c.pkg, c.die, locBits c.pkg c.die c.cl c.cell 0)
  | .resolver c => (c.pkg, c.die, locBits c.pkg c.die c.cl 0 0)
  | .slice p d n => (p, d, locBits p d 0 0 n)
  | .channel p st ch => (p, st / 2, locBits p (st / 2) 0 0 ch)
  | .port p n => (p, n / 8, locBits p (n / 8) 0 0 n)

/-- The fault window that a die is in (R470). -/
def State.windowOf (s : State) (pkg die : Nat) : Nat := s.cyc pkg die / 2 ^ 30

/-- A stack's record of corrected errors cleared (R475). -/
def Stack.cleared (y : Stack) : Stack := { y with filter := [], repeats := [], table := [] }

/-- A die counts in the window that it is in: at a boundary the counts of its units, and the filters, tables and repeat counts of its stacks,
return to zero (R470, R475). -/
def State.inWindow (s : State) (pkg die : Nat) : State :=
  let d := s.die pkg die
  if s.windowOf pkg die ≤ d.window then s
  else
    let s := s.setDie pkg die { d with window := s.windowOf pkg die }
    let mine (u : Monitored) : Bool := (unitPlace u).1 == pkg && (unitPlace u).2.1 == die
    let s := { s with counts := s.counts.filter fun x => !mine x.1 }
    let p := s.pkg pkg
    s.setPkg pkg { p with hbms := p.hbms.map fun (x : Nat × Stack) => if x.1 / 2 = die then (x.1, x.2.cleared) else x }

/-- An event of a monitored unit (R469, R470): counted in the fault window that its die is in; the third is a lasting fault, and the nurse caps a
worker cell with one (R471). -/
def State.countEvent (s : State) (u : Monitored) (detail : Word) : State :=
  let s := s.inWindow (unitPlace u).1 (unitPlace u).2.1
  let n := s.countOf u + 1
  let s := { s with counts := putAt u n s.counts }
  let p := unitPlace u
  let s := s.logEvent p.1 p.2.1 (if n = 3 then 0x02 else 0x01) detail p.2.2 n
  match u with
  | .pipeline c | .vector c => if n = 3 then s.capCell c 1 else s
  | _ => s

/-- An uncorrectable error a cell reads in its own SRAM (R118, R471): counted, and the nurse caps the cell. -/
def State.sramError (s : State) (c : PCell) (pc : Word) : State := (s.countEvent (.pipeline c) pc).capCell c 2

/-- An uncorrectable error met in the data that a slice or a pseudo-channel stores, counted for it (R469). -/
def State.storedFar (s : State) (key n : Nat) (pc : Word) : State :=
  if !s.poisoned key n then s
  else match keySpace key with
    | .slice p d => s.countEvent (.slice p d (((keyOff key / 64) ^^^ (keyOff key / 2 ^ 11) ^^^ (keyOff key / 2 ^ 16)) % 32)) pc
    | .hbm p st =>
      let live := (List.range 192).filter fun ch => !((s.pkg p).stack st).retired.contains ch
      s.countEvent (.channel p st (live.getD (keyOff key / 2048 % live.length) 0)) pc
    | _ => s

/-- The consequences of an UNCORRECTABLE met at a key by a cell (R118, R469, R471): for its own SRAM, or the unit that stores the data. -/
def State.storedError (s : State) (c : PCell) (key n : Nat) (pc : Word) : State := match keySpace key with
  | .scratch o => if o = c ∧ s.poisoned key n then s.sramError c pc else s
  | _ => s.storedFar key n pc

/-! ### Completion records (R61 to R63) -/

/-- The 32 bytes of a completion record. -/
def completionBytes (record : BitVec 512) (q status reason : Nat) (detail : Word) (cycles : Nat) (phase : Bool) : List Byte :=
  leOf 8 (q % 1024 * 2 ^ 54 + reason % 256 * 2 ^ 40 + status % 256 * 2 ^ 32 + (if phase then 1 else 0)) ++
    leOf 8 detail.toNat ++ leOf 4 (min cycles (2 ^ 32 - 1)) ++ leOf 4 (fld record 448 32) ++ leOf 8 (fld record 320 64)

/-- The owning function of a queue (R49). -/
def Queue.vf (q : Queue) : Nat := fld q.qctl 20 5
/-- QCTL.EN (R49). -/
def Queue.en (q : Queue) : Bool := q.qctl.getLsbD 31
/-- QCTL.IVEC. -/
def Queue.ivec (q : Queue) : Nat := fld q.qctl 32 10
/-- QCTL.PMAX. -/
def Queue.pmax (q : Queue) : Nat := fld q.qctl 16 3
/-- The ring's entries. -/
def Queue.size (q : Queue) : Nat := ringSize q.crlog2
/-- Whether the ring is full (R52): CRHEAD is compared as it was written. -/
def Queue.isFull (q : Queue) : Bool := (q.crtail.toNat + 1) % q.size == q.crhead.toNat

/-- The entry at CRTAIL reserved (R53): its index and PHASE, and the queue after it (R61). -/
def Queue.reserve (q : Queue) : Nat × Bool × Queue :=
  let i := q.crtail.toNat % q.size
  let n := (i + 1) % q.size
  (i, q.phase, { q with crtail := BitVec.ofNat 16 n, phase := if n = 0 then !q.phase else q.phase })

/-- A queue of a package replaced. -/
def State.setQueue (s : State) (pkg q : Nat) (x : Queue) : State :=
  let p := s.pkg pkg
  s.setPkg pkg { p with queues := putAt q x p.queues }

/-- A completion record written into its ring entry (R63): with CINT the interrupt follows; a write that meets a fault loses the
record, sets CRF and is logged. The ring, function and vector are those in force at the write, also where QCTL or CRBASE has changed since the
entry was reserved (DESIGN CHOICE, log 88). -/
def State.writeRecord (s : State) (pkg q i : Nat) (phase : Bool) (record : BitVec 512) (status reason : Nat) (detail : Word)
    (cycles : Nat) : State :=
  let x := (s.pkg pkg).queue q
  match engineStore s (pkgWho pkg x.vf) (x.crbase + word (32 * i))
      (completionBytes record q status reason detail cycles phase) with
  | .ok s' =>
    if record.getLsbD 18 then
      let p := s'.pkg pkg
      s'.setPkg pkg { p with msix := p.msix ++ [(x.vf, x.ivec)] }
    else s'
  | .error (_, s') =>
    let s' := s'.setQueue pkg q { (s'.pkg pkg).queue q with crf := true }
    s'.logEvent pkg 0 0x10 (word (fld record 448 32 * 2 ^ 32 + q)) (locBits pkg 0 0 0 0) 0

/-- A record reserved and written in one step, where a ring entry is free (R48, R51, R53). -/
def State.recordNow (s : State) (pkg q : Nat) (record : BitVec 512) (status : Nat) : State :=
  let x := (s.pkg pkg).queue q
  if x.isFull then s
  else
    let r := x.reserve
    (s.setQueue pkg q r.2.2).writeRecord pkg q r.1 r.2.1 record status 0 0 0

end Sys2Proof.Machine
end

