-- ==== Sys2Proof/Machine/Control.lean ====
section
/-! DEFINITION. Control space (R49, R50, R421, R466): what each register reads and what a write of it does, for a thread at
supervisor privilege and for the host through BAR 2. -/
namespace Sys2Proof.Machine
open Sys2Proof

/-- A control-space register (R50). -/
inductive CtlReg where
  | qctl (q : Nat) | crbase (q : Nat) | crctl (q : Nat) | qstat (q : Nat)
  | root (v r : Nat) | htbase (v : Nat) | htsize (v : Nat) | ptbase (v : Nat) | ptsize (v : Nat)
  | clusterMap (d : Nat) | cellMap (d c j : Nat)
  | portstat (p : Nat) | routeBank (b j : Nat) | elbase | elctl | ccbase
  deriving DecidableEq, Repr

/-- The function register at an offset within a function's block (R50). -/
def fnReg (v r : Nat) : Option CtlReg :=
  if r < 0x200 then some (.root v (r / 8))
  else if r = 0x200 then some (.htbase v) else if r = 0x208 then some (.htsize v)
  else if r = 0x210 then some (.ptbase v) else if r = 0x218 then some (.ptsize v) else none

/-- The die register at an offset within a die's block (R50). -/
def dieReg (d r : Nat) : Option CtlReg :=
  if r = 0 then some (.clusterMap d)
  else if 0x100 ≤ r ∧ r < 0x300 then some (.cellMap d ((r - 0x100) / 64) (r % 64 / 8)) else none

/-- The register at an offset of control space; none where the table of R50 has no row, or the offset is no multiple of 8. -/
def ctlReg (off : Nat) : Option CtlReg :=
  if off % 8 ≠ 0 then none
  else if off < 0x8000 then
    match off % 32 / 8 with
    | 0 => some (.qctl (off / 32))
    | 1 => some (.crbase (off / 32))
    | 2 => some (.crctl (off / 32))
    | _ => some (.qstat (off / 32))
  else if 0x10000 ≤ off ∧ off < 0x21000 then fnReg ((off - 0x10000) / 0x1000) (off % 0x1000)
  else if 0x40000 ≤ off ∧ off < 0x44000 then dieReg ((off - 0x40000) / 0x1000) (off % 0x1000)
  else if 0x100000 ≤ off ∧ off < 0x100100 then some (.portstat ((off - 0x100000) / 8))
  else if 0x110000 ≤ off ∧ off < 0x110800 then some (.routeBank ((off - 0x110000) / 0x400) (off % 0x400 / 8))
  else if off = 0x200000 then some .elbase else if off = 0x200008 then some .elctl
  else if off = 0x200010 then some .ccbase else none

/-! ### Reads -/

/-- A bit as a number. -/
def bit (b : Bool) : Nat := if b then 1 else 0

/-- CRCTL as read (R49). -/
def Queue.crctl (q : Queue) : Word :=
  word (q.crhead.toNat * 2 ^ 32 + q.crtail.toNat * 2 ^ 16 + min q.crlog2.toNat 12)

/-- QSTAT as read (R49): WAIT says that the head is validated and waits for its partition. -/
def Queue.qstat (q : Queue) : Word :=
  let waits := match q.head with
    | some (_, _, some _) => true
    | _ => false
  word (q.malf.toNat * 2 ^ 48 + q.ovr.toNat * 2 ^ 32 + bit q.crf * 2 ^ 7 + bit q.en * 2 ^ 6 + bit waits * 2 ^ 5 +
    (16 - q.fifo.length))

/-- The lanes of a port that are OPEN (R421). -/
def PortRegs.laneCount (p : PortRegs) : Nat := ((List.range 16).filter fun i => p.lanes.getLsbD i).length

/-- PORTSTAT as read (R421). -/
def PortRegs.portstat (p : PortRegs) : Word :=
  word (p.pgen.toNat * 2 ^ 48 + p.peer.toNat * 2 ^ 32 + p.laneCount * 2 ^ 27 + p.state * 2 ^ 20 + bit p.txm * 2 ^ 19 +
    bit p.dual * 2 ^ 18 + bit p.khit * 2 ^ 17 + bit p.afail * 2 ^ 16 + p.errs.toNat)

/-- ELCTL as read (R466). -/
def Package.elctl (p : Package) : Word :=
  word (p.eldrop.toNat * 2 ^ 48 + p.elhead.toNat * 2 ^ 32 + p.eltail.toNat * 2 ^ 16 + bit p.elint * 2 ^ 4 + p.ellog2.toNat)

/-- The number in digits of a base, least significant first. -/
def ofDigits (base : Nat) : List Nat → Nat
  | [] => 0
  | x :: xs => x + base * ofDigits base xs

/-- What a register reads. -/
def State.ctlRead (s : State) (pkg : Nat) : CtlReg → Word
  | .qctl q => ((s.pkg pkg).queue q).qctl
  | .crbase q => ((s.pkg pkg).queue q).crbase
  | .crctl q => ((s.pkg pkg).queue q).crctl
  | .qstat q => ((s.pkg pkg).queue q).qstat
  | .root v r => ((s.pkg pkg).fn v).roots.toList.getD r 0
  | .htbase v => ((s.pkg pkg).fn v).htbase
  | .htsize v => ((s.pkg pkg).fn v).htsize
  | .ptbase v => ((s.pkg pkg).fn v).ptbase
  | .ptsize v => ((s.pkg pkg).fn v).ptsize
  | .clusterMap d => word (ofDigits 256 ((s.die pkg d).clusterMap.toList.map BitVec.toNat))
  | .cellMap d c j => word (ofDigits (2 ^ 16) ((((s.cluster ⟨pkg, d, c⟩).cellMap.toList.drop (4 * j)).take 4).map BitVec.toNat))
  | .portstat p => ((s.pkg pkg).port p).portstat
  | .routeBank b j => word (ofDigits (2 ^ 16) ((List.range 4).map fun i => ((s.pkg pkg).route pkg (b != 0) (4 * j + i)).toNat))
  | .elbase => (s.pkg pkg).elbase
  | .elctl => (s.pkg pkg).elctl
  | .ccbase => (s.pkg pkg).ccbase

/-! ### Writes -/

/-- An address with the bits below an alignment cleared (R50). -/
def alignDown (v : Word) (bits : Nat) : Word := (v >>> bits) <<< bits

/-- A queue flushed on a change of EN from 1 to 0 (R51): the head's record goes to its reserved entry, the others to entries
reserved now, as far as entries are free. -/
def State.flushQueue (s : State) (pkg q : Nat) : State :=
  let x := (s.pkg pkg).queue q
  let s1 := s.setQueue pkg q { x with fifo := [], head := none }
  let rest := match x.head, x.fifo with
    | some _, _ :: l => l
    | _, l => l
  let s2 := match x.head, x.fifo with
    | some (i, ph, _), r :: _ => s1.writeRecord pkg q i ph r 0x06 0 0 0
    | _, _ => s1
  rest.foldl (fun s r => s.recordNow pkg q r 0x06) s2

/-- QCTL written (R49, R51): reserved bits stay zero, a VF of 17 to 31 leaves the field, and a queue of a package that has not
completed its boot stays disabled (R40). -/
def State.writeQctl (s : State) (pkg q : Nat) (v : Word) : State :=
  let x := (s.pkg pkg).queue q
  let vf := if fld v 20 5 ≤ 16 then fld v 20 5 else x.vf
  let en := v.getLsbD 31 && (s.pkg pkg).boot == 0x00FF#16
  let new := word (fld v 32 10 * 2 ^ 32 + bit en * 2 ^ 31 + vf * 2 ^ 20 + fld v 16 3 * 2 ^ 16)
  if en && !x.en then
    s.setQueue pkg q { x with qctl := new, crhead := 0, crtail := 0, malf := 0, ovr := 0, crf := false, phase := true }
  else if x.en && !en then
    let s' := s.flushQueue pkg q
    s'.setQueue pkg q { (s'.pkg pkg).queue q with qctl := new }
  else s.setQueue pkg q { x with qctl := new }

/-- A function's registers changed. -/
def State.modFn (s : State) (pkg v : Nat) (f : FnRegs → FnRegs) : State :=
  let p := s.pkg pkg
  s.setPkg pkg { p with fns := putAt v (f (p.fn v)) p.fns }

/-- A vector with one element replaced by index, where the index is in range. -/
def setIdx {α : Type} {n : Nat} (v : Vector α n) (i : Nat) (x : α) : Vector α n := if h : i < n then v.set i x h else v

/-- The bytes of a cluster map that the nurse of a physical cluster may write (R50): those of the logical clusters mapped
to it. -/
def State.writeClusterMap (s : State) (nurse : ClusterId) (d : Nat) (v : Word) : State :=
  let x := s.die nurse.pkg d
  if nurse.die ≠ d then s
  else
    let one (m : Vector (BitVec 8) 8) (l : Nat) : Vector (BitVec 8) 8 :=
      if s.physCluster nurse.pkg d l = some nurse then setIdx m l (BitVec.ofNat 8 (fld v (8 * l) 8) &&& 0x87) else m
    s.setDie nurse.pkg d { x with clusterMap := (List.range 8).foldl one x.clusterMap }

/-- Four entries of a cell map written by its cluster's nurse; reserved bits stay zero (R70). -/
def State.writeCellMap (s : State) (k : ClusterId) (j : Nat) (v : Word) : State :=
  let x := s.cluster k
  let one (m : Vector (BitVec 16) 32) (i : Nat) : Vector (BitVec 16) 32 :=
    setIdx m (4 * j + i) (BitVec.ofNat 16 (fld v (16 * i) 16) &&& 0xF81F)
  s.setCluster k { x with cellMap := (List.range 4).foldl one x.cellMap }

/-- PORTSTAT written: AFAIL is cleared by a one (R421). -/
def State.writePortstat (s : State) (pkg p : Nat) (v : Word) : State :=
  let x := s.pkg pkg
  let r := x.port p
  s.setPkg pkg { x with ports := putAt p { r with afail := r.afail && !v.getLsbD 16 } x.ports }

/-- What a write of a register does (R50). The nurse of a cluster is named where one writes; a register whose rule names
another writer ignores the store. -/
def State.ctlWrite (s : State) (pkg : Nat) (nurse : Option ClusterId) (v : Word) : CtlReg → State
  | .qctl q => s.writeQctl pkg q v
  | .crbase q => s.setQueue pkg q { (s.pkg pkg).queue q with crbase := alignDown v 12 }
  | .crctl q => s.setQueue pkg q { (s.pkg pkg).queue q with
      crhead := v.extractLsb' 32 16, crlog2 := BitVec.ofNat 4 (min (fld v 0 4) 12) }
  | .qstat _ => s
  | .root f r => s.modFn pkg f fun x => { x with roots := setIdx x.roots r (v &&& 0xFFFFFFFFFFFF7FF0) }
  | .htbase f => s.modFn pkg f fun x => { x with htbase := alignDown v 4 }
  | .htsize f => s.modFn pkg f fun x => { x with htsize := word (fld v 0 24) }
  | .ptbase f => s.modFn pkg f fun x => { x with ptbase := alignDown v 5 }
  | .ptsize f => s.modFn pkg f fun x => { x with ptsize := word (fld v 0 16) }
  | .clusterMap d => match nurse with
    | some k => s.writeClusterMap k d v
    | none => s
  | .cellMap d c j => if nurse = some ⟨pkg, d, c⟩ then s.writeCellMap ⟨pkg, d, c⟩ j v else s
  | .portstat p => s.writePortstat pkg p v
  | .routeBank _ _ => s
  | .elbase => s.setPkg pkg { s.pkg pkg with elbase := alignDown v 12 }
  | .elctl => s.setPkg pkg { s.pkg pkg with
      elhead := v.extractLsb' 32 16, elint := v.getLsbD 4, ellog2 := v.extractLsb' 0 4 }
  | .ccbase => if nurse.isSome then s.setPkg pkg { s.pkg pkg with ccbase := alignDown v 12 } else s

end Sys2Proof.Machine
end

