-- ==== Sys2Proof/Machine/Generations.lean ====
section
/-! DEFINITION. The generations of a package (R416), and what an advance moves on: ports that wait in CLOSED, topology commands, and the
completion entries they end with (R250, R254, R408). -/
namespace Sys2Proof.Machine
open Sys2Proof

/-! ### Names of port states (R421) -/

/-- DOWN. -/
def psDown : Nat := 0
/-- DRAIN. -/
def psDrain : Nat := 1
/-- CLOSED. -/
def psClosed : Nat := 2
/-- SWITCH. -/
def psSwitch : Nat := 3
/-- TRAIN. -/
def psTrain : Nat := 4
/-- AUTH. -/
def psAuth : Nat := 5
/-- OPEN. -/
def psOpen : Nat := 6
/-- ASLEEP. -/
def psAsleep : Nat := 7

/-- A port whose circuit stands. -/
def PortRegs.isUp (r : PortRegs) : Bool := r.state == psOpen || r.state == psAsleep

/-- A port in a state from now on. -/
def PortRegs.enter (r : PortRegs) (st now : Nat) : PortRegs := { r with state := st, since := now }

/-! ### Packages and ports -/

/-- A package changed. -/
def State.modPkg (s : State) (k : Nat) (f : Package → Package) : State := s.setPkg k (f (s.pkg k))

/-- A port changed. -/
def State.modPort (s : State) (k q : Nat) (f : PortRegs → PortRegs) : State :=
  s.modPkg k fun p => { p with ports := putAt q (f (p.port q)) p.ports }

/-! ### Delivery (R250, R254) -/

/-- The completion queues of a thread that engines fill. -/
inductive DoneQ where
  | pass | copy | load | probe
  deriving DecidableEq, Repr

/-- The thread that a completion goes to: the one that issued the command, or the live one of its launch that now has its TID, having been
saved and loaded again (R166, R295, R298). -/
def State.receiver (s : State) (b : Issuer) : Option Nat :=
  if (s.thread? b.thread).isSome then some b.thread
  else (s.threads.find? fun x => x.2.tid == b.tid && x.2.launch == b.launch && !x.2.nurse).map Prod.fst

/-- A thread's queues with a completion entry. A fault code goes with the operand record and the address. -/
def Thread.receive (t : Thread) (q : DoneQ) (b : Issuer) (entry : Nat) (fcode : Nat) (va : Word) : Thread :=
  let t := if fcode = 0 then t else { t with engFlts := t.engFlts ++ [({ opr := b.opr, va := va } : EngFlt)] }
  let e := word entry
  match q with
  | .pass => { t with passdone := t.passdone ++ [e], outPass := t.outPass - 1 }
  | .copy => { t with cpydone := t.cpydone ++ [e], outCpy := t.outCpy - 1 }
  | .load => { t with decdone := t.decdone ++ [e], outDec := t.outDec - 1 }
  | .probe => { t with probeout := t.probeout ++ [e], outPass := t.outPass - 1 }

/-- What an engine owes a thread: it goes to the thread, or is kept under its TID where the context is in memory (log 83); where the thread
has ended, it is discarded. -/
def State.owe (s : State) (b : Issuer) (f : Thread → Thread) : State := match s.receiver b with
  | some k => s.modThread k f
  | none => { s with saved := s.saved.map fun (x : Nat × Thread) =>
      if x.2.tid = b.tid ∧ x.2.launch = b.launch then (x.1, f x.2) else x }

/-- A completion entry delivered to its thread's queue. -/
def State.deliverEntry (s : State) (q : DoneQ) (b : Issuer) (entry : Nat) (fcode : Nat) (va : Word) : State :=
  s.owe b fun t => t.receive q b entry fcode va

/-- The layout that copy, load and probe entries share: TICKET, STATUS, one flag, FCODE, and the low bits. -/
def entryBits (ticket : BitVec 32) (status : Nat) (flag : Bool) (fcode low : Nat) : Nat :=
  ticket.toNat * 2 ^ 32 + status % 8 * 2 ^ 29 + bit flag * 2 ^ 28 + fcode % 32 * 2 ^ 23 + low

/-! ### The end of a topology command (R418) -/

/-- CMD. -/
def Topo.cmd (c : Topo) : Nat := fld c.desc 0 4
/-- The ports of PMASK. -/
def Topo.ports (c : Topo) : List Nat := (List.range 32).filter fun p => c.desc.getLsbD (96 + p)
/-- PARAM. -/
def Topo.param (c : Topo) : Nat := fld c.desc 16 8
/-- The coupler that CMAP gives a port. -/
def Topo.coupler (c : Topo) (p : Nat) : Nat := fld c.desc (384 + 4 * p) 3

/-- The completion entry of a topology command (R408), and the end of the command. -/
def State.endTopo (s : State) (k : Nat) (c : Topo) (count : Nat) : State :=
  (s.modPkg k fun p => { p with topo := none }).deliverEntry .copy c.by_ (entryBits c.by_.opr.ticket 0 false 0 count) 0 0

/-- A RECONF or CLOSE whose ports have all come to rest ends with the count of those that ended as it asks; a CODE ends when every request
is acknowledged. -/
def State.settleTopo (s : State) (k : Nat) : State := match (s.pkg k).topo with
  | none => s
  | some c =>
    let rs := c.ports.map fun q => (s.pkg k).port q
    match c.cmd with
    | 2 => if rs.all fun r => r.code.isNone then s.endTopo k c 0 else s
    | n =>
      if rs.all fun r => r.move.isNone then
        s.endTopo k c (rs.filter fun r => r.state == (if n = 0 then psOpen else psClosed)).length
      else s

/-! ### Generations (R416) -/

/-- Whether the generation may advance: the one half a turn away from the next is closed. -/
def Package.mayAdvance (p : Package) : Bool := lookD 0 (p.gen + 1 + 0x8000) p.outstanding == 0

/-- A port that its command no longer waits for in CLOSED: it is there, or was lost on the way (R415, R419). -/
def PortRegs.rests (r : PortRegs) : Bool := r.state == psClosed || (r.state == psDown && r.move.isNone)

/-- A CLOSED port goes on as its move says. -/
def PortRegs.leaveClosed (r : PortRegs) (now : Nat) : PortRegs :=
  if r.state ≠ psClosed then r
  else match r.move with
    | some .reconf => r.enter psSwitch now
    | some .retrain => r.enter psTrain now
    | some .close => { r with move := none }
    | none => r

/-- Ports that wait in CLOSED for the advance of G go on; those of a command only together (R419). -/
def State.leaveClosed (s : State) (k : Nat) : State :=
  let p := s.pkg k
  let mates := (p.topo.map Topo.ports).getD []
  let ready := mates.all fun q => (p.port q).rests
  let s := s.modPkg k fun p => { p with ports := p.ports.map fun (x : Nat × PortRegs) =>
    (x.1, if mates.contains x.1 && !ready then x.2 else x.2.leaveClosed s.clock) }
  s.settleTopo k

/-- The advances of G that are due, as far as they may happen. Fuel bounds them. -/
def State.advance (s : State) (k : Nat) : Nat → State
  | 0 => s
  | n + 1 =>
    let p := s.pkg k
    if p.gDue = 0 then s.leaveClosed k
    else if p.mayAdvance then (s.setPkg k { p with gen := p.gen + 1, gDue := p.gDue - 1 }).advance k n
    else s

/-- The due advances made. -/
def State.tryAdvance (s : State) (k : Nat) : State := s.advance k ((s.pkg k).gDue + 1)

/-- An advance of G becomes due. -/
def State.dueAdvance (s : State) (k : Nat) : State := (s.modPkg k fun p => { p with gDue := p.gDue + 1 }).tryAdvance k

/-- An answer to a packet of a generation has come in (R416). -/
def State.ackGen (s : State) (k : Nat) (g : BitVec 16) : State :=
  let p := s.pkg k
  let n := lookD 0 g p.outstanding - 1
  (s.setPkg k { p with outstanding := if n = 0 then dropAt g p.outstanding else putAt g n p.outstanding }).tryAdvance k

end Sys2Proof.Machine
end

