-- ==== Sys2Proof/Machine/Partition.lean ====
section
/-! DEFINITION. Partitions (R66 to R68): the entries of a function's partition table as the launch unit reads them, the clusters that a scope
contains (R194), and the generations that a release waits for (R224, R378, R416). -/
namespace Sys2Proof.Machine
open Sys2Proof

/-! ### Entries of the partition table (R66, R67) -/

/-- The lowest byte that meets one of a list of reserved fields, each a first bit and a width, where the value is not zero there. -/
def lowReserved {n : Nat} (r : BitVec n) (fields : List (Nat × Nat)) : Option Nat :=
  (List.range (n / 8)).find? fun b => (List.range 8).any fun i =>
    r.getLsbD (8 * b + i) && fields.any fun f => decide (f.1 ≤ 8 * b + i) && decide (8 * b + i < f.1 + f.2)

/-- n bytes of global memory read by the launch unit for a function. An address outside classes 0x00 to 0x3F is reported as ILLEGAL_ADDRESS
(DESIGN CHOICE, log 74: the spec names no code for it). -/
def State.launchRead (s : State) (pkg vf : Nat) (va : Word) (n : Nat) : Except Nat (List Byte) :=
  if 0x40 ≤ fld va 56 8 then .error fAddress else engineRead s (pkgWho pkg vf) va n

/-- The words of a cluster list. -/
def clusterWords (bs : List Byte) : List (BitVec 32) :=
  (List.range (bs.length / 4)).map fun i => BitVec.ofNat 32 (leVal ((bs.drop (4 * i)).take 4))

/-- PKG × 32 + DIE × 8 + LCL of a cluster-list entry (R67). -/
def clusterOrder (e : BitVec 32) : Nat := fld e 8 9 * 32 + fld e 3 2 * 8 + fld e 0 3

/-- Whether a list of numbers rises strictly. -/
def rises : List Nat → Bool
  | a :: b :: l => decide (a < b) && rises (b :: l)
  | _ => true

/-- Whether a partition entry's own fields are as R66 asks. -/
def partOk (e : BitVec 256) : Bool :=
  e.getLsbD 0 && (lowReserved e [(1, 31), (36, 12), (56, 8), (80, 16)]).isNone && decide (256 ≤ fld e 96 32) &&
    decide (1 ≤ fld e 64 16) && decide (fld e 64 16 ≤ 16384) && decide (6 ≤ fld e 48 8) && decide (fld e 48 8 ≤ 20) &&
    decide (1 ≤ fld e 32 4) && decide (fld e 32 4 ≤ 8) && fld e 192 12 == 0 && fld e 128 6 == 0

/-- Whether a package can be in a partition of another: itself, or not unreachable in both route banks (R68). -/
def Package.canHold (p : Package) (self dst : Nat) : Bool :=
  dst == self || fld (p.route self false dst) 0 6 != 63 || fld (p.route self true dst) 0 6 != 63

/-- An entry of a function's partition table with its cluster list, where both can be read and are as R66 and R67 ask. -/
def State.partEntry (s : State) (pkg vf i : Nat) : Option (BitVec 256 × List (BitVec 32)) :=
  let f := (s.pkg pkg).fn vf
  if f.ptsize.toNat ≤ i then none
  else match s.launchRead pkg 0 (f.ptbase + word (32 * i)) 32 with
    | .error _ => none
    | .ok bs =>
      let e := BitVec.ofNat 256 (leVal bs)
      if !partOk e then none
      else match s.launchRead pkg 0 (e.extractLsb' 128 64) (4 * fld e 64 16) with
        | .error _ => none
        | .ok cs =>
          let l := clusterWords cs
          if (l.all fun c => fld c 17 15 == 0 && fld c 5 3 == 0) && rises (l.map clusterOrder) &&
              l.all fun c => (s.pkg pkg).canHold pkg (clusterEntry c).1 then some (e, l) else none

/-! ### Scopes (R194) -/

/-- The logical clusters that a function's partitions name (R194, R478). -/
def State.fnClusters (s : State) (pkg vf : Nat) : List (Nat × Nat × Nat) :=
  ((List.range (min ((s.pkg pkg).fn vf).ptsize.toNat 65536)).flatMap fun i => match s.partEntry pkg vf i with
    | some x => x.2.map clusterEntry
    | none => []).eraseDups

/-- The logical clusters of the launch of a thread. -/
def State.partClusters (s : State) (t : Thread) : List (Nat × Nat × Nat) := match s.launch? t.launch with
  | some l => l.ready.clusters.map clusterEntry
  | none => []

/-- The package whose tables hold the function of a thread: that of its launch. -/
def State.homePkg (s : State) (t : Thread) : Nat := ((s.launch? t.launch).map Launch.pkg).getD t.pcell.pkg

/-- The logical clusters that a function or partition scope of a thread contains; none for the other scopes. -/
def State.scopeClusters (s : State) (t : Thread) : Sys2Proof.Scope → List (Nat × Nat × Nat)
  | .fn => s.fnClusters (s.homePkg t) t.vf
  | .part => s.partClusters t
  | _ => []

/-! ### Generations (R224, R416) -/

/-- Whether a generation of a package has been passed and is not closed (R416). -/
def Package.isOpenGen (p : Package) (g : BitVec 16) : Bool :=
  decide (0 < lookD 0 g p.outstanding) && decide (1 ≤ (p.gen - g).toNat) && decide ((p.gen - g).toNat ≤ 32767)

/-- Whether a scope of a thread holds clusters on more than one package; domain and system scope always do (R224, R378). -/
def State.spansPackages (s : State) (t : Thread) (sc : Sys2Proof.Scope) : Bool := match sc with
  | .sys | .dom => true
  | _ => match s.scopeClusters t sc with
    | [] => false
    | c :: l => l.any fun d => d.1 != c.1

/-- Whether a release at a scope waits: a generation in which a store of the thread crossed the fabric has been passed and is not yet drained
and closed (R224, R378). -/
def State.awaitsGen (s : State) (t : Thread) (sc : Sys2Proof.Scope) : Bool :=
  (t.gens.any fun x => (s.pkg x.1).isOpenGen x.2) && s.spansPackages t sc

/-- The generation in which an access of a cell crosses the fabric, if it does. -/
def State.genOf (s : State) (w : Who) (loc : Loc) : Option (Nat × BitVec 16) :=
  (loc.remote w).map fun _ => (w.cluster.pkg, (s.pkg w.cluster.pkg).gen)

/-- A thread one of whose stores crossed the fabric in a generation: the generation is noted, and those closed meanwhile are forgotten. -/
def Thread.noted (t : Thread) (s : State) (g : Option (Nat × BitVec 16)) : Thread := match g with
  | none => t
  | some g => { t with gens := g :: t.gens.filter fun x => x != g && ((s.pkg x.1).isOpenGen x.2 || (s.pkg x.1).gen == x.2) }

/-- The generation in which a store of a thread crossed the fabric noted. -/
def State.noteGen (s : State) (k : Nat) (g : Option (Nat × BitVec 16)) : State := match g with
  | none => s
  | some _ => s.modThread k fun t => t.noted s g

/-- A packet of a thread's store that awaits its acknowledgement counted in its generation (R416). -/
def State.holdGen (s : State) (g : Option (Nat × BitVec 16)) : State := match g with
  | none => s
  | some (p, g) =>
    let x := s.pkg p
    s.setPkg p { x with outstanding := putAt g (lookD 0 g x.outstanding + 1) x.outstanding }

end Sys2Proof.Machine
end

