-- ==== Sys2Proof/Machine/Loads.lean ====
section
/-! DEFINITION. Accesses of a thread: relaxed stores (R228), alias windows (R184), control space (R50), loads and stores
(R226, R227), and atomics (R238 to R241). -/
namespace Sys2Proof.Machine
open Sys2Proof

/-- What an instruction's own part answers: it commits and the pc moves past it, or to an address; it has set the thread's record
itself; it faults; or it waits. -/
inductive Res where
  | next (s : State)
  | jump (s : State) (pc : Word)
  | stay (s : State)
  | trap (s : State) (f : Flt)
  | park (s : State) (why : Why)
  deriving DecidableEq, Repr

/-- An instruction's own part, for the thread of a name. -/
abbrev Body := State → Nat → Thread → Res

/-- A general register of a thread written. -/
def State.setReg (s : State) (k : Nat) (d : Reg) (v : Word) : State := s.modThread k fun t => t.modCtx fun c => c.setGpr d v

/-- A fault code at an address. -/
def fltAt (code : Nat) (va : Word) : Flt := { code := code, faddr := va }

/-- A part that may fault, and what follows it. -/
def orTrap {α : Type} (r : Except (State × Flt) α) (f : α → Res) : Res := match r with
  | .error (s, e) => .trap s e
  | .ok x => f x

/-- A part that is held back: the thread's record stays as it is, and its instruction issues again. -/
def orStay (held : Bool) (s : State) (r : Res) : Res := if held then .stay s else r

/-- The next ticket of a thread (R146): HSLOT and the sequence number, which advances and wraps from 2^28 - 1 to 1. -/
def Thread.ticket (t : Thread) : BitVec 32 := t.ctx.tid.extractLsb' 8 4 ++ t.seq
/-- The sequence number after a ticket. -/
def Thread.takeTicket (t : Thread) : Thread := { t with seq := if t.seq = BitVec.allOnes 28 then 1 else t.seq + 1 }

/-! ### Alias windows (R183, R184) -/

/-- FMT of a window. -/
def windowType (d : Word) : ElemTy := (ElemTy.ofCode (fld d 0 5)).getD .i8

/-- The scratch offset of element i and its nibble: the offset within the virtual cell. -/
def elemOffset (d : Word) (i : Nat) : Nat := fld d 24 20 + i * (windowType d).width / 8

/-- The scratch offset of the scale record of element i. -/
def scaleOffset (d : Word) (i : Nat) : Nat := fld d 44 20 + 3 * (i / 32)

/-- The bytes an element access touches: offset and length of the element, and of its scale record for a block format. -/
def elemRanges (d : Word) (i : Nat) : List (Nat × Nat) :=
  (elemOffset d i, max 1 ((windowType d).width / 8)) :: (if (windowType d).isBlock then [(scaleOffset d i, 3)] else [])

/-- The window of an alias address, and the element it names. -/
def aliasOf (s : State) (c : PCell) (va : Word) : Word × Nat :=
  ((s.cell c).wdesc.toList.getD (fld va 56 8 - 0x41) 0, fld va 0 56 / 4)

/-- The checks of an element access: alignment, the scratch limit of every byte touched, and locks (R178, R184). The first range is the
element's; a scale record is only read (R247). -/
def aliasCheck (s : State) (w : Who) (acc : Acc) (va : Word) (ranges : List (Nat × Nat)) : Except Flt Unit :=
  if fld va 0 2 ≠ 0 then .error (fltAt fMisaligned va)
  else if ranges.any fun r => decide (w.limit < r.1 + r.2) then .error (fltAt fAddress va)
  else if ranges.zipIdx.any fun r =>
      lockedOut (s.locksFor w va { key := keyOf (.scratch w.cell) (w.seg + r.1.1) } r.1.2) (if r.2 = 0 then acc else .load)
  then .error (fltAt fLocked va)
  else .ok ()

/-- The code of element i in scratch: a byte, a half, or a nibble of a byte. -/
def elemCode (s : State) (base : Nat) (d : Word) (i : Nat) : Nat :=
  let t := windowType d
  let v := s.num (base + elemOffset d i) (max 1 (t.width / 8))
  if t.width = 4 then (if i % 2 = 0 then v % 16 else v / 16) else v

/-- The value of a loaded element as 32 bits (R184). -/
def elemValue (s : State) (base : Nat) (d : Word) (i : Nat) (nsm : Bool) : BitVec 32 :=
  let t := windowType d
  let x := elemCode s base d i
  if t.isBlock then
    BitVec.ofNat 32 (f32.round .rne false (decodeBlockElem t nsm (s.num (base + scaleOffset d i) 3) x)).code
  else if t.isInt then BitVec.ofInt 32 (intOf t x)
  else BitVec.ofNat 32 (f32.round .rne false (decodeElem t nsm x)).code

/-- The code that stores 32 bits into element i (R184, R214). -/
def elemEncode (s : State) (base : Nat) (d : Word) (i : Nat) (nsm : Bool) (v : BitVec 32) : Nat :=
  let t := windowType d
  if t.isBlock then
    (encodeBlockElem t nsm .rne (s.num (base + scaleOffset d i) 3) (f32.decode v.toNat)).code
  else if t.isInt then v.toNat % 2 ^ t.width
  else (convertElem .f32 t nsm .rne false false v.toNat).code

/-- The element replaced in its byte or bytes. -/
def elemStore (s : State) (base : Nat) (d : Word) (i x : Nat) : State :=
  let t := windowType d
  let k := base + elemOffset d i
  if t.width = 4 then
    let v := s.num k 1
    s.store k (leOf 1 (if i % 2 = 0 then v / 16 * 16 + x % 16 else x % 16 * 16 + v % 16))
  else s.store k (leOf (t.width / 8) x)

/-- Whether an address is in an alias window. -/
def isAlias (va : Word) : Bool := decide (0x41 ≤ fld va 56 8) && decide (fld va 56 8 ≤ 0x47)

/-- Whether an address is in control space. -/
def isControl (va : Word) : Bool := fld va 56 8 == 0x7F

/-! ### Control space (R50, R178) -/

/-- The cluster whose nurse a thread is (R2, R50). -/
def Thread.nurseOf (t : Thread) : Option ClusterId := if t.nurse then some (clusterOf t.pcell) else none

/-- A control-space access's register, after checks 2 and 3 of R178. -/
def ctlCheck (t : Thread) (va : Word) (n : Nat) : Except Flt CtlReg :=
  if !t.ctx.priv then .error (fltAt fPrivilege va)
  else if n ≠ 8 then .error (fltAt fAddress va)
  else match ctlReg (fld va 0 56) with
    | some r => .ok r
    | none => .error (fltAt fAddress va)

/-! ### Relaxed stores (R228) -/

/-- The span of what a relaxed store writes: the keys of its bytes, or of its register. -/
def RxStore.span (x : RxStore) : Nat × Nat := match x.kind with
  | .bytes => (x.key, x.bytes.length)
  | .elem d i _ _ => (x.key + elemOffset d i, max 1 ((windowType d).width / 8))
  | .control _ => (2 ^ 128 + fld x.va 0 56, 8)

/-- A relaxed store performed for its thread: at its home, in an element, or in a register. -/
def RxStore.perform (x : RxStore) (s : State) (t : Thread) : Except Nat State := match x.kind with
  | .bytes => writeAt s { s.whoOf t with bank := x.bank } { key := x.key, domain := x.domain, peer := x.peer } x.bytes false
  | .elem d i v nsm => .ok (elemStore s x.key d i (elemEncode s x.key d i nsm v))
  | .control v => .ok (match ctlReg (fld x.va 0 56) with
    | some r => s.ctlWrite t.pcell.pkg t.nurseOf v r
    | none => s)

/-- A relaxed store performed and acknowledged, in its generation too (R416); an error is kept for a waiting instruction. -/
def State.ackStore (s : State) (k : Nat) (x : RxStore) : State := match s.thread? k with
  | none => s
  | some t =>
    let s := match x.perform s t with
      | .ok s' => s'
      | .error c => s.setThread k { t with rxErrs := t.rxErrs ++ [⟨c, x.va, x.opr⟩] }
    match x.gen with
    | none => s
    | some (p, g) => s.ackGen p g

/-- Every relaxed store of a thread acknowledged, in program order (log 9). -/
def State.drainRx (s : State) (k : Nat) : State := match s.thread? k with
  | none => s
  | some t =>
    let s := t.rx.foldl (fun s x => s.ackStore k x) s
    s.modThread k fun t => { t with rx := [] }

/-- What an instruction that waits for acknowledgements meets: the first error kept, or every store acknowledged. -/
def State.waitRx (s : State) (k : Nat) : Except (State × Flt) State :=
  let s := s.drainRx k
  match (s.thread? k).map Thread.rxErrs with
  | some (e :: es) =>
    .error (s.modThread k fun t => { t with rxErrs := es }, { code := e.code, faddr := e.va, opr := some e.opr })
  | _ => .ok s

/-- Memory with a thread's own unacknowledged stores laid over it, in program order: what its relaxed loads see (R228, R371). -/
def State.peekRx (s : State) (rx : List RxStore) : State := rx.foldl (fun s x => match x.kind with
  | .bytes => s.store x.key x.bytes
  | .elem d i v nsm => elemStore s x.key d i (elemEncode s x.key d i nsm v)
  | .control _ => s) s

/-- The bytes of a range with a thread's own unacknowledged stores over them. -/
def overlayRx (s : State) (rx : List RxStore) (key : Nat) (bs : List Byte) : List Byte :=
  if rx.isEmpty then bs
  else bs.zipIdx.map fun p =>
    if rx.any fun x => overlaps x.span.1 x.span.2 (key + p.2) 1 then (s.peekRx rx).byte (key + p.2) else p.1

/-- A relaxed store that has passed its checks joins the thread's unacknowledged stores with its ticket; a ninth waits for the oldest
(R228). -/
def State.postRx (s : State) (k : Nat) (t : Thread) (x : RxStore) : State :=
  let s := match t.rx with
    | y :: ys => if t.rx.length < 8 then s
        else (s.ackStore k y).modThread k fun t => { t with rx := ys }
    | [] => s
  ((s.holdGen x.gen).noteGen k x.gen).modThread k fun t => { t.takeTicket with rx := t.rx ++ [x] }

/-! ### Data of a thread -/

/-- n bytes read by a thread after the checks of R178 (R227): relaxed loads see the thread's own unacknowledged stores. -/
def readData (s : State) (t : Thread) (va : Word) (n : Nat) (plain : Bool) : Except (State × Flt) (List Byte × State) :=
  let w := s.whoOf t
  match resolve s w .load va n n with
  | .error f => .error (s, f)
  | .ok loc =>
    let s := s.fillTlb w.cell false loc
    match readOwn s w loc n (plain && isCached s w loc) with
    | .error c => .error (s.storedError w.cell loc.key n t.ctx.pc, fltAt c va)
    | .ok (bs, s) => .ok (overlayRx s t.rx loc.key bs, s)

/-- Bytes written by a thread after the checks of R178 (R227); `pre` is the release of an ordered store, between the checks
and the write. -/
def writeData (s : State) (k : Nat) (t : Thread) (va : Word) (bs : List Byte) (plain : Bool) (pre : State → State) :
    Except (State × Flt) State :=
  let w := s.whoOf t
  match resolve s w .store va bs.length bs.length with
  | .error f => .error (s, f)
  | .ok loc =>
    let s := pre (s.fillTlb w.cell false loc)
    match writeAt s w loc bs (plain && isCached s w loc) with
    | .error c => .error (s, fltAt c va)
    | .ok s => .ok (s.noteGen k (s.genOf w loc))

/-! ### Alias windows and control space accessed (R184, R50) -/

/-- ldw and ldwn through an alias window: 32 bits; a relaxed load sees the thread's own unacknowledged stores. -/
def aliasLoad (s : State) (t : Thread) (va : Word) : Except (State × Flt) (BitVec 32) :=
  let w := s.whoOf t
  let a := aliasOf s w.cell va
  let rs := elemRanges a.1 a.2
  let base := keyOf (.scratch w.cell) w.seg
  match aliasCheck s w .load va rs with
  | .error f => .error (s, f)
  | .ok _ =>
    if rs.any fun r => s.poisoned (base + r.1) r.2 then
      .error (s.sramError w.cell t.ctx.pc, fltAt fUncorrectable va)
    else .ok (elemValue (s.peekRx t.rx) base a.1 a.2 t.ctx.nsm)

/-- stw through an alias window. -/
def aliasStore (s : State) (t : Thread) (va : Word) (v : BitVec 32) (pre : State → State) : Except (State × Flt) State :=
  let w := s.whoOf t
  let a := aliasOf s w.cell va
  let base := keyOf (.scratch w.cell) w.seg
  match aliasCheck s w .store va (elemRanges a.1 a.2) with
  | .error f => .error (s, f)
  | .ok _ => .ok (elemStore (pre s) base a.1 a.2 (elemEncode s base a.1 a.2 t.ctx.nsm v))

/-- The value a load of n bytes reads, as a number, with the state after it. `isWord` admits alias windows. -/
def loadValue (s : State) (t : Thread) (va : Word) (n : Nat) (isWord : Bool) (plain : Bool) :
    Except (State × Flt) (Nat × State) :=
  if isControl va then
    match ctlCheck t va n with
    | .error f => .error (s, f)
    | .ok r =>
      let mine := t.rx.filterMap fun x => match x.kind with
        | .control v => if x.va = va then some v else none
        | _ => none
      .ok (((mine.foldl (fun s v => s.ctlWrite t.pcell.pkg t.nurseOf v r) s).ctlRead t.pcell.pkg r).toNat, s)
  else if isAlias va then
    if isWord then (aliasLoad s t va).map fun v => (v.toNat, s) else .error (s, fltAt fMisaligned va)
  else (readData s t va n plain).map fun r => (leVal r.1, r.2)

/-- A store of the n low bytes of a value. -/
def storeValue (s : State) (k : Nat) (t : Thread) (va : Word) (n : Nat) (v : Word) (plain : Bool) (pre : State → State) :
    Except (State × Flt) State :=
  if isControl va then
    match ctlCheck t va n with
    | .error f => .error (s, f)
    | .ok r => .ok ((pre s).ctlWrite t.pcell.pkg t.nurseOf v r)
  else if isAlias va then
    if n = 4 then aliasStore s t va (v.extractLsb' 0 32) pre else .error (s, fltAt fMisaligned va)
  else writeData s k t va (leOf n v.toNat) plain pre

/-! ### Loads and stores (R226) -/

/-- A loaded value extended to 64 bits. -/
def extendLoad (n : Nat) (signed : Bool) (v : Nat) : Word := if signed then BitVec.ofInt 64 (signedOf (8 * n) v) else word v

/-- A release at a scope (R223), for the thread's cell. -/
def Thread.release (t : Thread) (sc : Sys2Proof.Scope) (s : State) : State := releaseAt s t.pcell sc
/-- An acquire at a scope (R223), for the thread's cell. -/
def Thread.acquire (t : Thread) (sc : Sys2Proof.Scope) (s : State) : State := acquireAt s t.pcell sc

/-- A load of n bytes (R226). -/
def loadBody (n : Nat) (signed : Bool) (o : Load) : Body := fun s k t =>
  let e := extD o.ext
  let va := effAddr t.ctx o.a o.imm
  orTrap (if e.rx then .ok s else s.waitRx k) fun s =>
  let t := (s.thread? k).getD t
  orTrap (loadValue s t va n (n == 4) (e.ord == .none)) fun r =>
  let s := r.2.setReg k o.d (extendLoad n signed r.1)
  .next (if ordAcq e.ord then t.acquire e.scope s else s)

/-- A relaxed store that passes the checks of R178 (R184 and R50 in an alias window and in control space), with the state after its
translation. -/
def rxStoreOf (s : State) (t : Thread) (i : Instr) (va : Word) (n : Nat) (v : Word) : Except Flt (RxStore × State) :=
  let w := s.whoOf t
  let x : RxStore := { opr := recordOf i t.ctx t.ticket, va := va, key := keyOf (.scratch w.cell) w.seg, bytes := [], domain := none,
                       peer := none, bank := w.bank }
  if isControl va then (ctlCheck t va n).map fun _ => ({ x with kind := .control v }, s)
  else if isAlias va then
    let a := aliasOf s w.cell va
    if n ≠ 4 then .error (fltAt fMisaligned va)
    else (aliasCheck s w .store va (elemRanges a.1 a.2)).map fun _ =>
      ({ x with kind := .elem a.1 a.2 (v.extractLsb' 0 32) t.ctx.nsm }, s)
  else (resolve s w .store va n n).map fun loc =>
    ({ x with key := loc.key, bytes := leOf n v.toNat, domain := loc.domain, peer := loc.peer, gen := s.genOf w loc },
      s.fillTlb w.cell false loc)

/-- A store of n bytes (R226, R228); an ordered one is held back while a generation of its release is open (R224). -/
def storeBody (i : Instr) (n : Nat) (o : Store) : Body := fun s k t =>
  let e := extD o.ext
  let va := effAddr t.ctx o.a o.imm
  let v := t.ctx.gpr o.d
  if e.rx then
    match rxStoreOf s t i va n v with
    | .error f => .trap s f
    | .ok (x, s) => .next (s.postRx k t x)
  else
    orTrap (s.waitRx k) fun s =>
    let t := (s.thread? k).getD t
    let pre (s : State) : State := if ordRel e.ord then t.release e.scope s else s
    orStay (ordRel e.ord && s.awaitsGen t e.scope) s <|
    orTrap (storeValue s k t va n v (e.ord == .none) pre) fun s' => .next s'

/-! ### Atomics (R237 to R241) -/

/-- The lesser by as_signed (R238). -/
def minS (w a b : Nat) : Nat := if signedOf w a < signedOf w b then a else b
/-- The greater by as_signed. -/
def maxS (w a b : Nat) : Nat := if signedOf w a < signedOf w b then b else a

/-- The copy of a line that a cell holds goes home before an access that is never cached (R231, R239). -/
def Loc.settle (loc : Loc) (s : State) (c : PCell) (n : Nat) : State :=
  if loc.isGlobal then s.flushRange c loc.key n true else s

/-- An indivisible read and write of n bytes at a word's home: the old value and the state after. -/
def rmw (s : State) (k : Nat) (t : Thread) (acc : Acc) (va : Word) (n : Nat) (f : Nat → Nat) (pre : State → State) :
    Except (State × Flt) (Nat × State) :=
  let w := s.whoOf t
  match resolve s w acc va n n with
  | .error e => .error (s, e)
  | .ok loc =>
    let s := loc.settle (pre (s.fillTlb w.cell false loc)) w.cell n
    match readAt s w loc n false with
    | .error c => .error (s.storedError w.cell loc.key n t.ctx.pc, fltAt c va)
    | .ok (bs, s) => .ok (leVal bs, (s.store loc.key (leOf n (f (leVal bs)))).noteGen k (s.genOf w loc))

/-- An atomic of n bytes with the new value of its row (R238). -/
def atomicBody (acc : Acc) (n : Nat) (d a : Reg) (e : Ext) (f : Nat → Nat) (result : Nat → Word) : Body := fun s k t =>
  orTrap (s.waitRx k) fun s =>
  let t := (s.thread? k).getD t
  let pre (s : State) : State := if ordRel e.ord then t.release e.scope s else s
  orStay (ordRel e.ord && s.awaitsGen t e.scope) s <|
  orTrap (rmw s k t acc (t.ctx.gpr a) n f pre) fun r =>
  let s := r.2.setReg k d (result r.1)
  .next (if ordAcq e.ord then t.acquire e.scope s else s)

/-- An atomic of one operand: f gets the width, the old value and the operand, both below 2^w. -/
def atomic1 (w : Nat) (o : Atomic) (f : Nat → Nat → Nat → Nat) : Body := fun s k t =>
  let b := (srcVal t.ctx o.b).toNat % 2 ^ w
  atomicBody .atomic (w / 8) o.d o.a (extD o.ext) (fun old => f w old b) word s k t

/-- acas of width w. -/
def casBody (w : Nat) (o : Cas) : Body := fun s k t =>
  let b := (srcVal t.ctx o.b).toNat % 2 ^ w
  let c := (t.ctx.gpr o.c).toNat % 2 ^ w
  atomicBody .atomic (w / 8) o.d o.a o.ext (fun old => if old = b then c else old) word s k t

/-- The contribution of axadd decoded under the record's FMT from the low bits of the operand (R241). -/
def xaddValue (fmt : ElemTy) (nsm : Bool) (b : Word) : FVal :=
  decodeElem fmt nsm (b.toNat % 2 ^ fmt.width)

/-- axadd: one contribution added to the XSUM record, which a malformed record ignores (R241). -/
def axaddBody (o : Atomic) : Body := fun s k t =>
  let b := srcVal t.ctx o.b
  let f (old : Nat) : Nat :=
    let r := BitVec.ofNat 256 old
    if xsumMalformed r then old
    else ((Xsum.ofBits r).add (xaddValue (Xsum.ofBits r).type t.ctx.nsm b)).toBits.toNat
  atomicBody .axadd 32 o.d o.a (extD o.ext) f (fun old => word (old / 2 ^ 192)) s k t

end Sys2Proof.Machine
end

