-- ==== Sys2Proof/Machine/VectorOps.lean ====
section
/-! DEFINITION. What a queued vector command does to the vector registers and flags of its thread (R261 to R281). Each
command reads its registers before it writes any (R275). -/
namespace Sys2Proof.Machine
open Sys2Proof

/-! ### Lanes (R261, R262) -/

/-- The lanes of width w of a register, lane 0 first. -/
def lanes (w : Nat) (v : VReg) : List Nat := (List.range (512 / w)).map fun i => v.toNat / 2 ^ (w * i) % 2 ^ w

/-- The number with the given lanes. -/
def packNat (w : Nat) : List Nat → Nat
  | [] => 0
  | x :: xs => x % 2 ^ w + 2 ^ w * packNat w xs

/-- A register with the given lanes. -/
def pack (w : Nat) (xs : List Nat) : VReg := BitVec.ofNat 512 (packNat w xs)

/-- The active-lane bits of a command: bit i of VM, or every lane (R262). -/
def maskBits (c : Ctx) (o : VArgs) : VReg := match o.mask with
  | none => BitVec.allOnes 512
  | some m => c.vr m

/-- New lanes where the mask is 1, old lanes elsewhere. -/
def mergeLanes (w : Nat) (mask old : VReg) (new : List Nat) : VReg :=
  pack w (((lanes w old).zip new).zipIdx.map fun x => if mask.getLsbD x.2 then x.1.2 else x.1.1)

/-- The destination of a command written in its active lanes. -/
def writeLanes (c : Ctx) (o : VArgs) (w : Nat) (new : List Nat) : Ctx :=
  c.setVr o.vd (mergeLanes w (maskBits c o) (c.vr o.vd) new)

/-- The conditions of the active lanes ORed into the vector flags (R258, R272). -/
def raiseIn (mask : VReg) (rs : List Rounded) (c : Ctx) : Ctx :=
  { c with vflags := orFlags c.vflags (Conds.all (rs.zipIdx.map fun x => if mask.getLsbD x.2 then x.1.conds else {})) }

/-- Results with conditions written to the active lanes. -/
def writeRounded (c : Ctx) (o : VArgs) (w : Nat) (rs : List Rounded) : Ctx :=
  raiseIn (maskBits c o) rs (writeLanes c o w (rs.map Rounded.code))

/-- A result that raises nothing. -/
def quiet (n : Nat) : Rounded := ⟨n, {}⟩

/-! ### Lanewise arithmetic (R271 to R273) -/

/-- A lane decoded under a floating type, flushed under FTZ (R202). -/
def inLane (f : Fmt) (ftz : Bool) (x : Nat) : FVal := if ftz then f.flush (f.decode x) else f.decode x

/-- The exact arithmetic of a command on floating and on integer values. -/
structure LaneFn where
  onFloat : RMode → FVal → FVal → FVal → FVal × Bool
  onInt : Int → Int → Int → Int

/-- The lesser of two floating values, -0 below +0; a NaN operand gives a NaN, invalid where it is signalling (R271, R272). -/
def pickFloat (greater : Bool) (a b : FVal) : FVal × Bool :=
  match a, b with
  | .nan s, .nan s' => (.nan false, s || s')
  | .nan s, _ => (.nan false, s)
  | _, .nan s => (.nan false, s)
  | _, _ => (if (cmpVal a b = .lt) = (greater = false) then a else b, false)

/-- vadd. -/
def fnAdd : LaneFn := ⟨fun rm a b _ => addExact rm a b, fun a b _ => a + b⟩
/-- vsub: a + (-b) (R202). -/
def fnSub : LaneFn := ⟨fun rm a b _ => addExact rm a b.neg, fun a b _ => a - b⟩
/-- vmul. -/
def fnMul : LaneFn := ⟨fun _ a b _ => mulExact a b, fun a b _ => a * b⟩
/-- vfma. -/
def fnFma : LaneFn := ⟨fmaExact, fun a b c => a * b + c⟩
/-- vfms. -/
def fnFms : LaneFn := ⟨fun rm a b c => fmaExact rm a b c.neg, fun a b c => a * b - c⟩
/-- vmin. -/
def fnMin : LaneFn := ⟨fun _ a b _ => pickFloat false a b, fun a b _ => min a b⟩
/-- vmax. -/
def fnMax : LaneFn := ⟨fun _ a b _ => pickFloat true a b, fun a b _ => max a b⟩

/-- One lane of an arithmetic command (R272, R273). -/
def laneOp (fn : LaneFn) (t : ElemTy) (nsm : Bool) (rm : RMode) (sat ftz : Bool) (a b c : Nat) : Rounded :=
  match fmtOf t nsm with
  | some f =>
    let z := ftz && t.isHalf
    f.finish rm z (fn.onFloat rm (inLane f z a) (inLane f z b) (inLane f z c))
  | none => quiet (encodeInt t sat (fn.onInt (intOf t a) (intOf t b) (intOf t c)))

/-- An arithmetic command over the lanes of va, vb and vc (R271). -/
def vArith (fn : LaneFn) (o : VArgs) (nsm : Bool) (c : Ctx) : Ctx :=
  let w := o.ty.width
  let xs := (lanes w (c.vr o.va)).zip ((lanes w (c.vr o.vb)).zip (lanes w (c.vr o.vc)))
  writeRounded c o w (xs.map fun x => laneOp fn o.ty nsm o.rm o.sat o.ftz x.1 x.2.1 x.2.2)

/-- vabs and vneg: on the sign alone, a NaN becoming canonical, no condition raised (R272), an FP16 or BF16 subnormal
being read as zero with its sign under FTZ (R202); integers by R273. -/
def vSign (flip : Bool) (o : VArgs) (nsm : Bool) (c : Ctx) : Ctx :=
  let w := o.ty.width
  let one (x : Nat) : Nat := match fmtOf o.ty nsm with
    | some f =>
      if (f.decode x).isNan then f.nanCode
      else
        let x := match inLane f (o.ftz && o.ty.isHalf) x with
          | .fin _ 0 _ _ => x / 2 ^ (w - 1) * 2 ^ (w - 1)
          | _ => x
        if flip then x ^^^ 2 ^ (w - 1) else x % 2 ^ (w - 1)
    | none =>
      let i := intOf o.ty x
      encodeInt o.ty o.sat (if flip then -i else i.natAbs)
  writeLanes c o w ((lanes w (c.vr o.va)).map one)

/-- vand, vor and vxor (R271). -/
def vBits (fn : VReg → VReg → VReg) (o : VArgs) (c : Ctx) : Ctx :=
  writeLanes c o o.ty.width (lanes o.ty.width (fn (c.vr o.va) (c.vr o.vb)))

/-- vshl, vshr and vsar: counts from VB modulo w, or VIMM (R271). -/
def vShift (fn : Nat → Nat → Nat → Nat) (o : VArgs) (c : Ctx) : Ctx :=
  let w := o.ty.width
  let xs := (lanes w (c.vr o.va)).zip (lanes w (c.vr o.vb))
  writeLanes c o w (xs.map fun x => fn w x.1 (if o.sub == 0 then x.2 % w else o.vimm.toNat))

/-- A w-bit left shift. -/
def shlW (w x n : Nat) : Nat := x * 2 ^ n % 2 ^ w
/-- A w-bit logical right shift. -/
def shrW (_w x n : Nat) : Nat := x / 2 ^ n
/-- A w-bit arithmetic right shift. -/
def sarW (w x n : Nat) : Nat := wrapTo w (signedOf w x / (2 ^ n : Nat))

/-! ### Compare, select, reduce (R274 to R276) -/

/-- A predicate of vcmp from the order of two lanes and whether either is a NaN (R274). -/
def predHolds (p : Nat) (o : Ordering) (nan : Bool) : Bool := match p with
  | 0 => !nan && o == .eq
  | 1 => nan || o != .eq
  | 2 => !nan && o == .lt
  | 3 => !nan && o != .gt
  | 4 => !nan && o == .gt
  | 5 => !nan && o != .lt
  | _ => nan

/-- One lane of vcmp. -/
def cmpLane (o : VArgs) (nsm : Bool) (a b : Nat) : Bool := match fmtOf o.ty nsm with
  | some f =>
    let z := o.ftz && o.ty.isHalf
    let x := inLane f z a
    let y := inLane f z b
    predHolds o.sub.toNat (cmpNum x y) (x.isNan || y.isNan)
  | none => predHolds o.sub.toNat (compare (intOf o.ty a) (intOf o.ty b)) false

/-- vcmp writes all 512 bits (R274). -/
def vCmp (o : VArgs) (nsm : Bool) (c : Ctx) : Ctx :=
  let w := o.ty.width
  let m := maskBits c o
  let bits := ((lanes w (c.vr o.va)).zip (lanes w (c.vr o.vb))).zipIdx.map fun x =>
    if m.getLsbD x.2 && cmpLane o nsm x.1.1 x.1.2 then 1 else 0
  c.setVr o.vd (pack 1 bits)

/-- vsel (R275). -/
def vSel (o : VArgs) (c : Ctx) : Ctx :=
  let w := o.ty.width
  let xs := ((lanes w (c.vr o.va)).zip (lanes w (c.vr o.vb))).zipIdx
  writeLanes c o w (xs.map fun x => if (c.vr o.vc).getLsbD x.2 then x.1.1 else x.1.2)

/-- What an inactive lane enters a reduction as (R276). -/
def redIdentity (o : VArgs) (nsm : Bool) : Nat :=
  let w := o.ty.width
  match o.sub.toNat, fmtOf o.ty nsm with
  | 0, some f => f.signed (!decide (o.rm = .rdn)) 0
  | 0, none => 0
  | 1, some f => f.infCode
  | 1, none => wrapTo w (intMax o.ty)
  | 2, some f => f.signed true f.infCode
  | 2, none => wrapTo w (intMin o.ty)
  | 3, _ => 2 ^ w - 1
  | _, _ => 0

/-- One step of a reduction. -/
def redStep (o : VArgs) (nsm : Bool) (a b : Nat) : Rounded := match o.sub.toNat with
  | 0 => laneOp fnAdd o.ty nsm o.rm o.sat o.ftz a b 0
  | 1 => laneOp fnMin o.ty nsm .rne false false a b 0
  | 2 => laneOp fnMax o.ty nsm .rne false false a b 0
  | 3 => quiet (a &&& b)
  | 4 => quiet (a ||| b)
  | _ => quiet (a ^^^ b)

/-- One level of the pairwise tree of R222, with the conditions of its steps. -/
def redLevel (o : VArgs) (nsm : Bool) : List Nat → List Nat × Conds
  | a :: b :: xs =>
    let r := redStep o nsm a b
    let t := redLevel o nsm xs
    (r.code :: t.1, r.conds.or t.2)
  | xs => (xs, {})

/-- The pairwise tree over 2^m lanes, m levels. -/
def redTree (o : VArgs) (nsm : Bool) : Nat → List Nat → Nat × Conds
  | 0, xs => (xs.headD 0, {})
  | m + 1, xs =>
    let l := redLevel o nsm xs
    let t := redTree o nsm m l.1
    (t.1, l.2.or t.2)

/-- vred: lane 0 takes the folded value, every other lane zero (R276). -/
def vRed (o : VArgs) (nsm : Bool) (c : Ctx) : Ctx :=
  let w := o.ty.width
  let m := maskBits c o
  let xs := (lanes w (c.vr o.va)).zipIdx.map fun x => if m.getLsbD x.2 then x.1 else redIdentity o nsm
  let r := redTree o nsm (Nat.log2 (512 / w)) xs
  { c.setVr o.vd (pack w [r.1]) with vflags := orFlags c.vflags r.2 }

/-! ### Conversion and blocks (R277, R278) -/

/-- vcvt (R277): which source lane a destination lane takes, and its conversion; other lanes keep their values. -/
def vCvt (o : VArgs) (nsm : Bool) (c : Ctx) : Ctx :=
  let ws := o.ty.width
  let wd := o.ty2.width
  let ns := 512 / ws
  let nd := 512 / wd
  let h := o.vimm.toNat
  let src := lanes ws (c.vr o.va)
  let m := maskBits c o
  let rs := (lanes wd (c.vr o.vd)).zipIdx.map fun x =>
    let from_ : Option Nat := if nd ≤ ns then some (nd * h + x.2)
      else if ns * h ≤ x.2 ∧ x.2 < ns * h + ns then some (x.2 - ns * h) else none
    match from_ with
    | some j => convertElem o.ty o.ty2 nsm o.rm o.sat o.ftz (src.getD j 0)
    | none => quiet x.1
  raiseIn m rs (c.setVr o.vd (mergeLanes wd m (c.vr o.vd) (rs.map Rounded.code)))

/-- The lane width of a block type in a register: nibbles for EB2, bytes for EB4 (R278). -/
def blockWidth (t : ElemTy) : Nat := if t == .eb2 then 4 else 8

/-- A list with a run replaced from an index. -/
def replaceFrom (i : Nat) (new old : List Nat) : List Nat := old.take i ++ new ++ old.drop (i + new.length)

/-- vbfp enc: 32 FP32 values of va and vb into block k of vd, the record into int32 lane k of v(d+1) (R278). -/
def vBfpEnc (o : VArgs) (nsm : Bool) (c : Ctx) : Ctx :=
  let k := o.vimm.toNat % 4
  let w := blockWidth o.ty2
  let vs := (lanes 32 (c.vr o.va) ++ lanes 32 (c.vr o.vb)).map f32.decode
  let e := encodeBlock o.ty2 nsm vs
  let c1 := c.setVr o.vd (pack w (replaceFrom (32 * k) e.1 (lanes w (c.vr o.vd))))
  let d1 := o.vd + 1
  let c2 := c1.setVr d1 (pack 32 (replaceFrom k [e.2.1] (lanes 32 (c1.vr d1))))
  { c2 with vflags := orFlags c.vflags e.2.2 }

/-- vbfp dec: element 16h + j of block k of va under the record in lane k of vb (R278). -/
def vBfpDec (o : VArgs) (nsm : Bool) (c : Ctx) : Ctx :=
  let k := o.vimm.toNat % 4
  let h := o.vimm.toNat / 4 % 2
  let w := blockWidth o.ty2
  let rec24 := (lanes 32 (c.vr o.vb)).getD k 0 % 2 ^ 24
  let els := ((lanes w (c.vr o.va)).drop (32 * k + 16 * h)).take 16
  writeRounded c o 32 (els.map fun x => f32.round o.rm false (decodeBlockElem o.ty2 nsm rec24 x))

/-! ### Exact accumulation (R279, R280) -/

/-- Record h of a register. -/
def xrec (v : VReg) (h : Nat) : BitVec 256 := v.extractLsb' (256 * h) 256

/-- A register with record h replaced. -/
def putXrec (v : VReg) (h : Nat) (x : BitVec 256) : VReg := if h = 0 then xrec v 1 ++ x else x ++ xrec v 0

/-- vxacc SUB 0 (R279). -/
def vXaccAdd (o : VArgs) (nsm : Bool) (c : Ctx) : Ctx :=
  let h := o.vimm.toNat % 2
  let b := xrec (c.vr o.vd) h
  let x := Xsum.ofBits b
  let m := maskBits c o
  if xsumMalformed b then c
  else
    let y := if x.fmt.toNat ≠ o.ty.code then { x with flags := x.flags ||| 32#6, int := 0 }
      else (lanes o.ty.width (c.vr o.va)).zipIdx.foldl
        (fun y l => if m.getLsbD l.2 then y.add (decodeElem o.ty nsm l.1) else y) x
    c.setVr o.vd (putXrec (c.vr o.vd) h y.toBits)

/-- vxacc SUB 1 (R279). -/
def vXaccCombine (o : VArgs) (c : Ctx) : Ctx :=
  let one (h : Nat) : BitVec 256 := ((xsumEnter (xrec (c.vr o.va) h)).combine (xsumEnter (xrec (c.vr o.vb) h))).toBits
  c.setVr o.vd (one 1 ++ one 0)

/-- vxfin (R280). -/
def vXfin (o : VArgs) (nsm : Bool) (c : Ctx) : Ctx :=
  let r := xsumFinal (xrec (c.vr o.va) (o.vimm.toNat % 2)) o.ty2 nsm o.rm
  { c.setVr o.vd (pack o.ty2.width [r.code]) with vflags := orFlags c.vflags r.conds }

/-! ### Lane moves and the random generator (R275, R281) -/

/-- vperm. -/
def vPerm (o : VArgs) (c : Ctx) : Ctx :=
  let w := o.ty.width
  let xs := lanes w (c.vr o.va)
  writeLanes c o w ((lanes w (c.vr o.vb)).map fun i => xs.getD (i % (512 / w)) 0)

/-- vmov. -/
def vMov (o : VArgs) (c : Ctx) : Ctx := writeLanes c o o.ty.width (lanes o.ty.width (c.vr o.va))

/-- vext. -/
def vExt (o : VArgs) (c : Ctx) : Ctx :=
  let w := o.ty.width
  writeLanes c o w (((lanes w (c.vr o.va) ++ lanes w (c.vr o.vb)).drop o.vimm.toNat).take (512 / w))

/-- vsplat. -/
def vSplat (o : VArgs) (s0 : Word) (c : Ctx) : Ctx :=
  let w := o.ty.width
  writeLanes c o w (List.replicate (512 / w) (s0.toNat % 2 ^ w))

/-- vins: lane k alone. -/
def vIns (o : VArgs) (s0 : Word) (c : Ctx) : Ctx :=
  let w := o.ty.width
  writeLanes c o w (replaceFrom o.vimm.toNat [s0.toNat % 2 ^ w] (lanes w (c.vr o.vd)))

/-- rng_mix (R281). -/
def rngMix (x : Word) : Word :=
  let x := (x ^^^ (x >>> 30)) * 0xBF58476D1CE4E5B9
  let x := (x ^^^ (x >>> 27)) * 0x94D049BB133111EB
  x ^^^ (x >>> 31)

/-- vrng draw (R281): eight mixed counters, or sixteen FP32 values of 24 bits each. -/
def vRngDraw (o : VArgs) (c : Ctx) : Ctx :=
  let l := lanes 64 (c.vr o.va)
  let us := (List.range 8).map fun i =>
    (rngMix (word (l.getD 0 0) + (word (l.getD 1 0) + word i) * 0x9E3779B97F4A7C15)).toNat
  let f (x : Nat) : Nat := (f32.round .rne false (.fin false (x % 2 ^ 24) 1 (-24))).code
  if o.ty == .n64 then c.setVr o.vd (pack 64 us)
  else c.setVr o.vd (pack 32 (us.flatMap fun u => [f (u / 2 ^ 8), f (u / 2 ^ 40)]))

/-- vrng adv: lane 1 takes N + S0 (R281). -/
def vRngAdv (o : VArgs) (s0 : Word) (c : Ctx) : Ctx :=
  let l := lanes 64 (c.vr o.va)
  c.setVr o.vd (pack 64 (l.set 1 (word (l.getD 1 0) + s0).toNat))

/-! ### A queued command -/

/-- What a queued command does when it runs (R256). Vector memory commands are never queued (R255, R266). -/
def runVector (i : Instr) (s0 : Word) (nsm : Bool) (c : Ctx) : Ctx :=
  match i with
  | .vadd o => vArith fnAdd o nsm c
  | .vsub o => vArith fnSub o nsm c
  | .vmul o => vArith fnMul o nsm c
  | .vfma o => vArith fnFma o nsm c
  | .vfms o => vArith fnFms o nsm c
  | .vmin o => vArith fnMin o nsm c
  | .vmax o => vArith fnMax o nsm c
  | .vabs o => vSign false o nsm c
  | .vneg o => vSign true o nsm c
  | .vand o => vBits (· &&& ·) o c
  | .vor o => vBits (· ||| ·) o c
  | .vxor o => vBits (· ^^^ ·) o c
  | .vshl o => vShift shlW o c
  | .vshr o => vShift shrW o c
  | .vsar o => vShift sarW o c
  | .vcmp o => vCmp o nsm c
  | .vsel o => vSel o c
  | .vred o => vRed o nsm c
  | .vcvt o => vCvt o nsm c
  | .vbfpEnc o => vBfpEnc o nsm c
  | .vbfpDec o => vBfpDec o nsm c
  | .vxaccAdd o => vXaccAdd o nsm c
  | .vxaccCombine o => vXaccCombine o c
  | .vxfin o => vXfin o nsm c
  | .vsplat o => vSplat o s0 c
  | .vperm o => vPerm o c
  | .vmov o => vMov o c
  | .vext o => vExt o c
  | .vins o => vIns o s0 c
  | .vrngDraw o => vRngDraw o c
  | .vrngAdv o => vRngAdv o s0 c
  | _ => c

/-- The oldest queued command run and taken from the queue. -/
def runOldest (c : Ctx) : Ctx := match c.vq with
  | [] => c
  | x :: xs => runVector x.instr x.s0 x.nsm { c with vq := xs }

/-- Every queued command run in queue order, as vfence waits for (R257, R259). -/
def drainVq (c : Ctx) : Ctx := { c.vq.foldl (fun d x => runVector x.instr x.s0 x.nsm d) c with vq := [] }

end Sys2Proof.Machine
end

