-- ==== Sys2Proof/Machine/Values.lean ====
section
/-! DEFINITION. The results of the integer instructions of OP 0x01 to 0x07 as functions of their operands (R156 to R158), and
the conditions of branches (R159). -/
namespace Sys2Proof.Machine
open Sys2Proof

/-- The shift count b[5:0] (R156). -/
def shiftCount (b : Word) : Nat := fld b 0 6

/-- shl. -/
def valShl (a b : Word) : Word := a <<< shiftCount b
/-- shr. -/
def valShr (a b : Word) : Word := a >>> shiftCount b
/-- sar. -/
def valSar (a b : Word) : Word := a.sshiftRight (shiftCount b)
/-- rol; a when the count is 0. -/
def valRol (a b : Word) : Word := a.rotateLeft (shiftCount b)
/-- mulh: bits [127:64] of the signed product. -/
def valMulh (a b : Word) : Word := BitVec.ofInt 64 (a.toInt * b.toInt / (2 ^ 64 : Nat))
/-- mulhn: bits [127:64] of the unsigned product. -/
def valMulhn (a b : Word) : Word := BitVec.ofNat 64 (a.toNat * b.toNat / 2 ^ 64)

/-- The signed quotient of R157, truncated towards zero: all ones for a zero divisor, and the dividend for the most negative
number divided by -1. -/
def valDiv (a b : Word) : Word := if b = 0 then BitVec.allOnes 64 else BitVec.ofInt 64 (a.toInt.tdiv b.toInt)
/-- The signed remainder of R157: the dividend for a zero divisor. -/
def valRem (a b : Word) : Word := if b = 0 then a else BitVec.ofInt 64 (a.toInt - a.toInt.tdiv b.toInt * b.toInt)
/-- The unsigned quotient of R157. -/
def valDivn (a b : Word) : Word := if b = 0 then BitVec.allOnes 64 else BitVec.ofNat 64 (a.toNat / b.toNat)
/-- The unsigned remainder of R157. -/
def valRemn (a b : Word) : Word := if b = 0 then a else BitVec.ofNat 64 (a.toNat % b.toNat)

/-- min. -/
def valMin (a b : Word) : Word := if a.slt b then a else b
/-- max. -/
def valMax (a b : Word) : Word := if a.slt b then b else a
/-- minn. -/
def valMinn (a b : Word) : Word := if a.ult b then a else b
/-- maxn. -/
def valMaxn (a b : Word) : Word := if a.ult b then b else a
/-- 1 for true, 0 for false. -/
def flag (b : Bool) : Word := if b then 1 else 0

/-- The number of zero bits above the highest 1 among the n low bits. -/
def leadZeros (a : Word) : Nat → Nat
  | 0 => 0
  | n + 1 => if a.getLsbD n then 0 else leadZeros a n + 1
/-- The number of zero bits below the lowest 1, from bit 64 - n upwards. -/
def trailZeros (a : Word) : Nat → Nat
  | 0 => 0
  | n + 1 => if a.getLsbD (63 - n) then 0 else trailZeros a n + 1
/-- The number of 1 bits among the n low bits. -/
def countOnes (a : Word) : Nat → Nat
  | 0 => 0
  | n + 1 => countOnes a n + (if a.getLsbD n then 1 else 0)

/-- clz: 64 when a = 0. -/
def valClz (a : Word) : Word := word (leadZeros a 64)
/-- ctz: 64 when a = 0. -/
def valCtz (a : Word) : Word := word (trailZeros a 64)
/-- popc. -/
def valPopc (a : Word) : Word := word (countOnes a 64)

/-- The field width w of bext and bins. -/
def fieldWidth (b : Word) : Nat := fld b 8 6 + 1
/-- 2^w - 1. -/
def fieldMask (b : Word) : Word := word (2 ^ fieldWidth b - 1)
/-- bext. -/
def valBext (a b : Word) : Word := (a >>> shiftCount b) &&& fieldMask b
/-- bins into the old value d. -/
def valBins (d a b : Word) : Word :=
  let m := fieldMask b <<< shiftCount b
  (d &&& ~~~m) ||| ((a <<< shiftCount b) &&& m)

/-- The bits of a width. -/
def Width.bits : Width → Nat
  | .w8 => 8 | .w16 => 16 | .w32 => 32
/-- sext. -/
def valSext (w : Width) (a : Word) : Word := (a.setWidth (Width.bits w)).signExtend 64
/-- zext. -/
def valZext (w : Width) (a : Word) : Word := (a.setWidth (Width.bits w)).setWidth 64
/-- bswap. -/
def valBswap (a : Word) : Word := word (leVal (leOf 8 a.toNat).reverse)
/-- lhi. -/
def valLhi (d : Word) (i : BitVec 16) : Word := (d <<< 16) ||| i.zeroExtend 64

end Sys2Proof.Machine
end

