-- ==== Sys2Proof/Machine/Ops.lean ====
section
/-! DEFINITION. The operations that meanings share: committing and waiting, the end of a thread and of a gang, taking a fault
(R427 to R439), lookahead windows (R145 to R149), and issue. -/
namespace Sys2Proof.Machine
open Sys2Proof

/-! ### Committing and waiting -/

/-- A thread that yielded waits for one slot fewer (R165). -/
def Thread.unwait (t : Thread) (k : Nat) : Thread := match t.run with
  | .yielded l => { t with run := .yielded (l.filter (· != k)) }
  | _ => t

/-- Threads that yielded wait for one slot fewer (R165). -/
def State.unyield (s : State) (k : Nat) : State :=
  { s with threads := s.threads.map fun (x : Nat × Thread) => (x.1, x.2.unwait k) }

/-- A thread's record after an instruction has committed (R143, R144): the pc moves, the series of R439 ends. -/
def Thread.commitAt (t : Thread) (pc : Word) : Thread :=
  { t with ctx := { t.ctx with pc := pc }, run := .ready, watch := none, req := none, answer := none, todo := none
           posted := none, homeErr := none, heldSince := none }

/-- An instruction of a thread committed. -/
def State.commit (s : State) (k : Nat) (pc : Word) : State := (s.modThread k fun t => t.commitAt pc).unyield k

/-- A thread parked, or parked still, with the operand record of its instruction: the dclk of the issue is kept (R93, R235). -/
def State.parkOn (s : State) (k : Nat) (why : Why) (opr : OpRec) : State := match s.thread? k with
  | none => s
  | some t => match t.run with
    | .parked _ since => s.setThread k { t with run := .parked why since, waitOpr := opr }
    | _ => (s.setThread k { t with run := .parked why (s.cycOf t), waitOpr := opr }).unyield k

/-- A thread that is neither parked, yielded, suspended nor sleeping (R140). -/
def Thread.isReady (t : Thread) : Bool := t.run == .ready

/-- Whether a member of a gang has committed what its leader delivered last, with no error of its vector unit to take (R169, R282). -/
def Thread.isDone (t : Thread) : Bool := t.isReady && t.todo.isNone && t.vErr.isNone

/-- Whether every follower of a gang is done. -/
def State.allDone (s : State) (ms : List Nat) : Bool := ms.all fun m => ((s.thread? m).map Thread.isDone).getD true

/-- Whether a thread is ready to issue (R140, R169): a member of a gang what its leader has delivered, a leader the next instruction once every
follower is done. -/
def State.mayIssue (s : State) (t : Thread) : Bool :=
  t.isReady && (t.todo.isSome || t.vErr.isSome || (match t.gang with
    | .none => true
    | .follower _ => false
    | .leader ms => s.allDone ms))

/-- A thread whose next turn issues an instruction anew: ready, or yielded (R165). -/
def Thread.goesOn (t : Thread) : Bool := match t.run with
  | .ready | .yielded _ => true
  | _ => false

/-! ### Virtual cells, gangs and the end of a thread -/

/-- Whether a thread belongs to a launch at a flat number: in a slot, a cache, or a flight that has not arrived. -/
def Thread.at_ (t : Thread) (launch flat : Nat) : Bool := !t.nurse && t.launch == launch && t.flat == flat

/-- The keys of the scratch of a virtual cell. -/
def State.scratchKeys (s : State) (r : Ready) (pl : VPlace) : Nat × Nat :=
  (keyOf (.scratch pl.cell) (r.segOf pl), s.scratchLimit pl)

/-- A virtual cell closes once it holds no thread of its launch and no fault context, and its deque and brood queue are empty (R187, R463);
requests of peers parked in its scratch are answered PEER_EXITED (R236). -/
def State.closeIfEmpty (s : State) (launch flat : Nat) : State :=
  match (s.launch? launch).bind fun l => (l.ready.lcell flat).map fun c => (l, c) with
  | none => s
  | some (l, c) =>
    let v := s.vcell c
    if v.isOpen && v.launch == launch && v.deque.isEmpty && v.bhead == v.btail && v.held.isEmpty &&
        !(s.threads.any fun x => x.2.at_ launch flat) then
      let s := s.setVcell c { v with isOpen := false }
      match s.place c with
      | none => s
      | some pl =>
        let r := s.scratchKeys l.ready pl
        s.answerParked (fun (p : Parked) => decide (r.1 ≤ p.req.key) && decide (p.req.key < r.1 + r.2)) fPeerExited
    else s

/-- The home flat number in a TID (R154). -/
def tidHome (tid : BitVec 32) : Nat := fld tid 12 20

/-- The away-table entry of a thread dropped at its home cell (R166). -/
def State.dropAway (s : State) (t : Thread) : State :=
  match (s.launch? t.launch).bind fun l => l.ready.lcell (tidHome t.tid) with
  | none => s
  | some c =>
    let v := s.vcell c
    s.setVcell c { v with away := dropAt t.tid v.away }

/-- A change of WAYS whose writer is gone is given up (R181): it does not commit. -/
def State.dropWriter (s : State) (k : Nat) (c : PCell) : State :=
  let x := s.cell c
  if (x.waysPending.map Prod.fst) = some k then s.setCell c { x with waysPending := none } else s

/-- A thread gone from the machine with its bindings, fault contexts, parked request and pending head (R164, R451); its slot is free and its
virtual cell may close. -/
def State.endThread (s : State) (k : Nat) : State := match s.thread? k with
  | none => s
  | some t =>
    let s := ((s.dropThread k).unyield k).unpark fun p => p.thread == k
    let s := s.dropWriter k t.pcell
    if t.nurse then s else (s.dropAway t).closeIfEmpty t.launch t.flat

/-- The fault contexts of a thread that ends its task stay held in its cell (R437, R463). -/
def State.keepHeld (s : State) (k : Nat) : State := match s.thread? k with
  | none => s
  | some t => match (s.launch? t.launch).bind fun l => l.ready.lcell t.flat with
    | none => s
    | some c =>
      let v := s.vcell c
      s.setVcell c { v with held := v.held ++ (t.fctx.toList.filterMap id).map fun x => (t.tid, x) }

/-- A gang disbanded (R89, R170): the followers' relaxed stores are performed and their contexts discarded, GLD is cleared. -/
def State.disband (s : State) (k : Nat) : State := match s.thread? k with
  | some t => match t.gang with
    | .leader ms =>
      let s := ms.foldl (fun s m => (s.drainRx m).endThread m) s
      s.modThread k fun t => { t.modCtx (·.setTstat bitGld false) with gang := .none, todo := none }
    | _ => s
  | none => s

/-- The members of a thread's gang, itself first. -/
def Thread.crew (k : Nat) (t : Thread) : List Nat := match t.gang with
  | .leader ms => k :: ms
  | _ => [k]

/-- Slot reservations of a forming gang released (R88). -/
def State.releaseSlots (s : State) (k : Nat) : State :=
  { s with vcells := s.vcells.map fun (x : LCell × VCell) =>
      (x.1, { x.2 with reserved := x.2.reserved.filter fun r => r.2 != k }) }

/-- The nurse of a cluster told of a code, a TID and a detail (R431, R439). -/
def State.notify (s : State) (c : ClusterId) (code : Nat) (tid detail : Word) : State :=
  let x := s.cluster c
  s.setCluster c { x with notices := x.notices ++ [⟨code, tid, detail⟩] }

/-! ### The trap record (R432, R433) -/

/-- The 64 bytes of an operand record (R433). -/
def OpRec.bytes (r : OpRec) : List Byte :=
  leOf 8 r.pc.toNat ++ leOf 4 r.base.toNat ++ leOf 4 r.ticket.toNat ++ leOf 8 r.ext.toNat ++ leOf 8 r.lit.toNat ++
    leOf 8 r.vd.toNat ++ leOf 8 r.va.toNat ++ leOf 8 r.vb.toNat ++ leOf 8 r.vc.toNat

/-- The length in words that a trap record gives (R432): 0 where its operand record holds no base word. -/
def Flt.lenWords (f : Flt) (r : OpRec) : Nat := if f.len = some 0 ∨ r = {} then 0 else lengthOf r.base / 4

/-- The 128 bytes of a trap record. REPEAT stays at 15 where a series goes on past that (DESIGN CHOICE, log 75). -/
def trapBytes (f : Flt) (r : OpRec) (code rep fctx : Nat) (upcall : Bool) (detail : Word) (t : Thread) (cyc : Nat) :
    List Byte :=
  leOf 8 (r.ticket.toNat * 2 ^ 32 + bit upcall * 2 ^ 25 + bit f.opr.isSome * 2 ^ 24 + f.lenWords r * 2 ^ 20 +
      min rep 15 * 2 ^ 16 + fctx * 2 ^ 8 + code) ++
    leOf 8 t.ctx.pc.toNat ++ leOf 8 f.faddr.toNat ++ leOf 8 detail.toNat ++ leOf 8 t.ctx.tstat.toNat ++ leOf 8 cyc ++
    List.replicate 16 0 ++ r.bytes

/-- g0 to g15 as bytes in ascending order. -/
def Ctx.gprBytes (c : Ctx) : List Byte := c.g.toList.flatMap fun v => leOf 8 v.toNat

/-- TBASE (R430). -/
def Cell.tbase (c : Cell) : Word := alignDown c.tvec 13

/-- The address of a slot's record area (R429). -/
def recordArea (tbase : Word) (slot : Nat) : Word := tbase + 0x1000 + word (256 * slot)

/-- The record area of a thread written through root pointer 63 of the physical function (R429, R430); none where the write meets a
fault. -/
def State.writeArea (s : State) (t : Thread) (bs : List Byte) : Option State := match t.slot? with
  | none => none
  | some (c, n) =>
    match cellStore s { s.whoOf t with sup := true } (recordArea (s.cell c).tbase n) bs with
    | .ok s' => some s'
    | .error _ => none

/-- A trap record written at TREC as a store of the thread (R435); none where the write meets any fault. -/
def State.writeTrec (s : State) (t : Thread) (bs : List Byte) : Option State :=
  let w := s.whoOf t
  let va := alignDown t.ctx.trec 7
  if decide (0x40 < fld va 56 8) then none
  else match resolve s w .store va 64 64, resolve s w .store (va + 64) 64 64 with
    | .ok a, .ok b =>
      match writeAt s w a (bs.take 64) false with
      | .error _ => none
      | .ok s1 => (writeAt s1 w b (bs.drop 64) false).toOption
    | _, _ => none

/-! ### Taking a fault (R427 to R439) -/

/-- The codes that are delivered as upcalls (R427). -/
def isUpcall (code : Nat) : Bool := code == fNotPresent || code == fDiscarded || code == fWaitLimit || code == fPromise

/-- The repeat record that a fault begins or carries on (R439). -/
def Thread.series (t : Thread) (f : Flt) (cyc : Nat) : Repeat := match t.watch with
  | some r =>
    if r.code = f.code ∧ r.faddr = f.faddr ∧ cyc < r.first + 2 ^ 30 then { r with count := r.count + 1 }
    else ⟨f.code, f.faddr, cyc, 0⟩
  | none => ⟨f.code, f.faddr, cyc, 0⟩

/-- The lowest free fault context (R435). -/
def Thread.freeFctx (t : Thread) : Option Nat := (List.range 4).find? fun i => (t.fctx.toList.getD i none).isNone

/-- The reason for which an upcall goes to TVEC before its record is tried (R438). -/
def Thread.upcallReason (t : Thread) : Option Nat :=
  if alignDown t.ctx.uvec 2 = 0 then some 1 else if t.ctx.upc then some 2 else if t.freeFctx.isNone then some 4 else none

/-- A supervisor trap or double trap of a launch noted, for its ending (R464, R465). -/
def State.noteTrap (s : State) (t : Thread) (code : Nat) (faddr : Word) : State := match s.launch? t.launch with
  | some l =>
    if t.nurse then s else s.setLaunch t.launch { l with trapped := l.trapped ++ [⟨code, t.ctx.tid, t.ctx.pc, faddr, s.clock⟩] }
  | none => s

/-- A double trap (R431): the record where it can be written, the thread halted, the nurse told, KIND 0x0C logged. -/
def State.doubleTrap (s : State) (k : Nat) (t : Thread) (f : Flt) (r : OpRec) (rep : Nat) : State :=
  let s := (s.writeArea t (trapBytes f r f.code rep 0 false f.detail t (s.cycOf t))).getD s
  let s := s.noteTrap t f.code 0
  let s := s.endThread k
  let c := t.pcell
  let s := s.notify (clusterOf c) f.code t.ctx.tid 0
  s.logEvent c.pkg c.die 0x0C t.ctx.tid (locBits c.pkg c.die c.cl c.cell 0) 0

/-- Entry to a supervisor trap (R429): the record and g0 to g15 are written to the slot's area, then TCAUSE, TEPC, PRIV and pc
change. Where the area cannot be written, a double trap. -/
def State.superEntry (s : State) (k : Nat) (t : Thread) (f : Flt) (r : OpRec) (code : Nat) (detail : Word) (rp : Repeat) :
    State :=
  let bs := trapBytes f r code rp.count 0 false detail t (s.cycOf t) ++ t.ctx.gprBytes
  match s.writeArea t bs with
  | none => s.doubleTrap k t { f with code := code } r rp.count
  | some s =>
    let c := t.ctx
    let cause := word (code + bit c.head.isSome * 2 ^ 15)
    let ctx := { c with tcause := cause, tepc := c.pc, tstat := putFld c.tstat bitPriv 1 1, pc := (s.cell t.pcell).tbase }
    let s := s.setThread k { t with
      ctx := ctx, trapRep := some rp, watch := none, run := .ready, req := none, answer := none, todo := none, retry := none, posted := none
      homeErr := none, heldSince := none }
    s.noteTrap t code f.faddr

/-- An upcall (R435): the context moves into the lowest free fault context, the record is written at TREC, and the handler
starts. -/
def State.upcall (s : State) (k : Nat) (t : Thread) (f : Flt) (r : OpRec) (i : Nat) (rp : Repeat) : Option State :=
  match s.writeTrec t (trapBytes f r f.code rp.count i true f.detail t (s.cycOf t)) with
  | none => none
  | some s =>
    let c := t.ctx
    let ctx := { c with
      tcause := word (f.code + i * 2 ^ 8), tepc := c.pc, tstat := putFld c.tstat bitUpc 1 1
      pc := alignDown c.uvec 2, head := none }
    let x := s.tick
    some ((x.2.setThread k { t with
      ctx := ctx, fctx := setIdx t.fctx i (some { ctx := c, rep := rp, stamp := x.1 }), watch := none, run := .ready, req := none
      answer := none, todo := none, retry := none, posted := none, homeErr := none, heldSince := none }).spillOver t.pcell)

/-- A fault of a thread that is no gang member, from the stop on. -/
def State.deliver (s : State) (k : Nat) (t : Thread) (f : Flt) (own : OpRec) : State :=
  let r := f.opr.getD own
  let c := t.pcell
  let rp := t.series f (s.cycOf t)
  if t.ctx.priv && !t.nurse then s.doubleTrap k t f r rp.count
  else if rp.count = 3 then
    let s := s.notify (clusterOf c) fStale t.ctx.tid 0
    let s := s.logEvent c.pkg c.die 0x0B t.ctx.tid (locBits c.pkg c.die c.cl c.cell 0) 0
    s.superEntry k t f r fStale 0 rp
  else if isUpcall f.code then
    match t.upcallReason, t.freeFctx with
    | some n, _ => s.superEntry k t f r f.code (word n) rp
    | none, some i =>
      if t.ctx.priv then s.superEntry k t f r f.code 1 rp
      else (s.upcall k t f r i rp).getD (s.superEntry k t f r f.code 3 rp)
    | none, none => s.superEntry k t f r f.code 4 rp
  else s.superEntry k t f r f.code f.detail rp

/-- A thread's queued commands run to the end, as vfence waits for (R257, R259). -/
def State.drainV (s : State) (k : Nat) : State := s.modThread k fun t => t.modCtx drainVq

/-- The queued commands of a thread and of the members that it leads run to the end (R257, R282). -/
def State.drainCrew (s : State) (k : Nat) (t : Thread) : State := (t.crew k).foldl State.drainV s

/-- The stop of a thread (R429 step 1): relaxed stores acknowledged, vector commands run, reservations of a forming gang
released. -/
def State.stopThread (s : State) (k : Nat) : State :=
  ((s.drainRx k).releaseSlots k).drainV k

/-- Whether a thread is in a context cache. -/
def Thread.cached (t : Thread) : Bool := match t.place with
  | .cache _ _ _ => true
  | _ => false

/-- The fault that a thread takes at its stop: a vector command that failed its second residue check comes before any other (R259,
R260). -/
def Thread.faultNow (t : Thread) (f : Flt) (own : OpRec) : Flt × OpRec := match t.vErr with
  | some r => ({ code := fUncorrectable, opr := some r }, {})
  | none => (f, own)

/-- A fault taken by a thread, with the operand record of the instruction at its pc (R89, R427): a gang disbands, and a follower's
fault is GANG_BROKEN at the leader. A thread that a save has put into a context cache issues its instruction again when it resumes, and
takes the fault then. -/
def takeFault (s : State) (k : Nat) (f : Flt) (own : OpRec) : State :=
  let s := s.stopThread k
  match s.thread? k with
  | none => s
  | some t =>
    if t.cached then s.setThread k { t with run := .ready, req := none, answer := none, posted := none, homeErr := none }
    else
      let x := t.faultNow f own
      let s := s.setThread k { t with vErr := none }
      match t.gang with
      | .none => s.deliver k { t with vErr := none } x.1 x.2
      | .leader _ =>
        let s := s.disband k
        match s.thread? k with
        | some t => s.deliver k t x.1 x.2
        | none => s
      | .follower l =>
        let s := ((s.stopThread l).disband l).unpark fun p => p.thread == l
        let g : Flt := { x.1 with code := fGang, detail := word (x.1.code * 2 ^ 32 + t.flat) }
        match s.thread? l with
        | some u =>
          let y := u.faultNow g x.2
          s.deliver l { u with vErr := none } y.1 y.2
        | none => s

/-! ### Heads (R145 to R148) -/

/-- A register operation of two sources (R156). -/
def regBody (d a : Reg) (b : Src) (f : Word → Word → Word) : Body := fun s k t =>
  .next (s.setReg k d (f (t.ctx.gpr a) (srcVal t.ctx b)))

/-- The part of an instruction that can be the head of a window, as it runs with LA taken as 0. -/
def headBody : Instr → Option Body
  | .mul o => some (regBody o.d o.a o.b (· * ·))
  | .mulh o => some (regBody o.d o.a o.b valMulh)
  | .mulhn o => some (regBody o.d o.a o.b valMulhn)
  | .div o => some (regBody o.d o.a o.b valDiv)
  | .divn o => some (regBody o.d o.a o.b valDivn)
  | .rem o => some (regBody o.d o.a o.b valRem)
  | .remn o => some (regBody o.d o.a o.b valRemn)
  | .ldb o => some (loadBody 1 true o)
  | .ldh o => some (loadBody 2 true o)
  | .ldw o => some (loadBody 4 true o)
  | .ldd o => some (loadBody 8 true o)
  | .ldbn o => some (loadBody 1 false o)
  | .ldhn o => some (loadBody 2 false o)
  | .ldwn o => some (loadBody 4 false o)
  | .afadd o => some (atomic1 64 o fun w a b => (a + b) % 2 ^ w)
  | .afand o => some (atomic1 64 o fun _ a b => a &&& b)
  | .afor o => some (atomic1 64 o fun _ a b => a ||| b)
  | .afxor o => some (atomic1 64 o fun _ a b => a ^^^ b)
  | .afmin o => some (atomic1 64 o minS)
  | .afmax o => some (atomic1 64 o maxS)
  | .afminn o => some (atomic1 64 o fun _ a b => min a b)
  | .afmaxn o => some (atomic1 64 o fun _ a b => max a b)
  | .aswap o => some (atomic1 64 o fun _ _ b => b)
  | .acas o => some (casBody 64 o)
  | .axadd o => some (axaddBody o)
  | .afaddW o => some (atomic1 32 o fun w a b => (a + b) % 2 ^ w)
  | .afandW o => some (atomic1 32 o fun _ a b => a &&& b)
  | .aforW o => some (atomic1 32 o fun _ a b => a ||| b)
  | .afxorW o => some (atomic1 32 o fun _ a b => a ^^^ b)
  | .afminW o => some (atomic1 32 o minS)
  | .afmaxW o => some (atomic1 32 o maxS)
  | .afminnW o => some (atomic1 32 o fun _ a b => min a b)
  | .afmaxnW o => some (atomic1 32 o fun _ a b => max a b)
  | .aswapW o => some (atomic1 32 o fun _ _ b => b)
  | .acasW o => some (casBody 32 o)
  | _ => none

/-- A context with the captured operands of a record in the registers that its instruction names. -/
def OpRec.load (r : OpRec) (c : Ctx) : Ctx :=
  let w := r.words
  let n := namedRegs w
  let c := if n.1 then c.setGpr w.d r.vd else c
  let c := if n.2.1 then c.setGpr w.a r.va else c
  let c := if n.2.2.1 then c.setGpr w.b r.vb else c
  let c := if n.2.2.2 then c.setGpr (cField w) r.vc else c
  { c with pc := r.pc }

/-- PHD cleared and no head held (R436). -/
def Ctx.dropHead (c : Ctx) : Ctx := { c with head := none, tcause := putFld c.tcause 15 1 0 }

/-- The head of the open window: the head itself, or beside a pending head that of a later window (R145). -/
def Ctx.opened (c : Ctx) : Option Head := match c.head with
  | none => none
  | some h => if h.isOpen then some h else c.win

/-- The head of the open window replaced. -/
def Ctx.setOpened (c : Ctx) (h : Head) : Ctx := match c.head with
  | some p => if p.isOpen then { c with head := some h } else { c with win := some h }
  | none => { c with head := some h }

/-- The window of a context closed with its access performed: a head pending beside it stays. -/
def Ctx.dropOpened (c : Ctx) : Ctx := if c.win.isSome then { c with win := none } else c.dropHead

/-- A head's access performed from its operand record (R147): its destination is written, or the head stays pending and its fault
comes back. A faulting head of a window beside a pending head takes its place (log 8). Where its release waits (R224) the window stays open. -/
def performHead (s : State) (k : Nat) (t : Thread) (h : Head) : Except (State × Flt) State :=
  match h.opr.instr?.bind headBody with
  | none => .ok (s.modThread k fun t => t.modCtx Ctx.dropOpened)
  | some b =>
    let t' := { t with ctx := { h.opr.load t.ctx with head := none, win := none } }
    let dst : Reg := h.opr.base.extractLsb' 8 4
    match b (s.setThread k t') k t' with
    | .next s' =>
      let v := ((s'.thread? k).map fun x => x.ctx.gpr dst).getD 0
      .ok (s'.modThread k fun x => { x with ctx := (t.ctx.dropOpened).setGpr dst v })
    | .trap s' f =>
      .error (s'.modThread k fun x => { x with ctx := { t.ctx with head := some { h with isOpen := false }, win := none } },
        { f with opr := some (f.opr.getD h.opr) })
    | _ => .ok s

/-- Whether a thread still has an open window. -/
def State.windowOpen (s : State) (k : Nat) : Bool := ((s.thread? k).map fun t => t.ctx.opened.isSome).getD false

/-- An instruction with a lookahead count (R145, R146): outside gangs, and with no window open, it opens a window with its ticket and
operand record; otherwise it runs as with LA = 0. `waits`: the access waits for relaxed stores (R228). -/
def withLook (i : Instr) (la : BitVec 4) (waits : Bool) (b : Body) : Body := fun s k t =>
  if la == 0 || t.inGang || t.ctx.opened.isSome then b s k t
  else orTrap (if waits then s.waitRx k else .ok s) fun s =>
    .next (s.modThread k fun t => { t.takeTicket with
      ctx := t.ctx.setOpened ⟨recordOf i t.ctx t.ticket, la.toNat, true, none⟩ })

/-! ### Issue -/

/-- What an instruction's own part answered, brought to its end. -/
def settle (i : Instr) (k : Nat) (t : Thread) : Res → State
  | .next s => s.commit k (nextPc i t.ctx)
  | .jump s pc => s.commit k pc
  | .stay s => s.unyield k
  | .trap s f => (takeFault s k f (recordOf i t.ctx 0)).unyield k
  | .park s why => s.parkOn k why (recordOf i t.ctx 0)

/-- The head of a thread brought to its end before an instruction that does not enter its window (R145): the head's fault has its
TEPC at that instruction. -/
def closeHead (i : Instr) (s : State) (k : Nat) (t : Thread) (h : Head) (b : Body) : State :=
  match performHead s k t h with
  | .error (s, f) => (takeFault s k f (recordOf i t.ctx 0)).unyield k
  | .ok s => match s.thread? k with
    | some t => if t.ctx.opened.isSome then s.unyield k else settle i k t (b s k t)
    | none => s

/-- An instruction issued while its thread holds a head (R145, R148). A pending head waits for the return of a handler. -/
def issueUnder (i : Instr) (s : State) (k : Nat) (t : Thread) (b : Body) : State := match t.ctx.opened with
  | none => settle i k t (b s k t)
  | some h =>
    if 0 < h.left ∧ admissible i h.opr.base then
      let t1 := { t with ctx := t.ctx.setOpened { h with left := h.left - 1 } }
      match b (s.setThread k t1) k t1 with
      | .trap _ _ => closeHead i s k t h b
      | r => settle i k t1 r
    else closeHead i s k t h b

/-- The part of an instruction that is illegal in a gang: ILLEGAL_INSN at the leader (R89). -/
def aloneBody (b : Body) : Body := fun s k t => if t.inGang then .trap s { code := fIllegal } else b s k t

/-- A fault of the fetch or of the encoding (R118, R119): an open head comes first (R148). -/
def raiseAt (s : State) (k : Nat) (t : Thread) (f : Flt) (own : OpRec) : State := match t.ctx.opened with
  | none => (takeFault s k f own).unyield k
  | some h => match performHead s k t h with
    | .error (s, g) => (takeFault s k g own).unyield k
    | .ok s => if s.windowOpen k then s.unyield k else (takeFault s k f own).unyield k

/-- One instruction of the thread that the step has selected. -/
def issue (i : Instr) (s : State) (b : Body) : Host.Outcome State Fault Refusal := match s.cur with
  | none => .fault .noThread
  | some k => match s.thread? k with
    | none => .fault .noThread
    | some t => match t.ctx.head with
      | none => .next (settle i k t (b s k t))
      | some _ => .next (issueUnder i s k t b)

end Sys2Proof.Machine
end

