-- ==== Sys2Proof/Machine/Engine.lean ====
section
/-! DEFINITION. What engine commands share: handles (R35 to R38), who issued a command, range locks (R246, R247), reads and writes at their
homes with the endings of R249, and the delivery of completion entries (R250, R254). -/
namespace Sys2Proof.Machine
open Sys2Proof

/-! ### Handles (R35 to R38) -/

/-- An entry of a handle table that a handle names, as read through the physical function's tables; none where it cannot be read. -/
def State.handleEntry (s : State) (pkg vf : Nat) (h : BitVec 32) : Option (BitVec 128) :=
  match engineRead s (pkgWho pkg 0) (((s.pkg pkg).fn vf).htbase + word (16 * fld h 0 24)) 16 with
  | .ok bs => some (BitVec.ofNat 128 (leVal bs))
  | .error _ => none

/-- The GEN and KIND parts of the handle check (R37): BASE and LENGTH of the object. -/
def State.handleLive (s : State) (pkg vf : Nat) (h : BitVec 32) (kind : Nat) : Option (Word × Nat) :=
  match s.handleEntry pkg vf h with
  | none => none
  | some e =>
    if fld e 104 8 = fld h 24 8 ∧ fld h 24 8 ≠ 0 ∧ fld e 112 4 = kind then some (e.extractLsb' 0 64, fld e 64 40) else none

/-- The handle check (R37). -/
def State.handle (s : State) (pkg vf : Nat) (h : BitVec 32) (kind : Nat) : Option (Word × Nat) :=
  if ((s.pkg pkg).fn vf).htsize.toNat ≤ fld h 0 24 then none else s.handleLive pkg vf h kind

/-! ### Who issued a command -/

/-- The virtual cell for which a thread's commands run: a nurse's is its own cell (number 32 of its physical cluster). -/
def State.cellFor (s : State) (t : Thread) : LCell :=
  (s.lcellOf t).getD ⟨t.pcell.pkg, t.pcell.die, t.pcell.cl, 32⟩

/-- What an engine keeps about the thread that issues an instruction. -/
def State.issuer (s : State) (k : Nat) (t : Thread) (i : Instr) : Issuer where
  thread := k
  vf := t.vf
  launch := t.launch
  flat := t.flat
  cell := s.cellFor t
  nsm := t.ctx.nsm
  bank := (s.cell t.pcell).bank
  opr := recordOf i t.ctx t.ticket
  tid := t.tid

/-- The start of an engine command (R245, R319): a release at partition scope, with which every dirty line of the cell goes home. -/
def engineOrder (s : State) (t : Thread) : State := t.release .part s

/-- An engine command from its order on: relaxed stores are acknowledged (R228), then the release comes, which waits for generations (R224),
then the command's own part. -/
def engineBody (b : Body) : Body := fun s k t =>
  orTrap (s.waitRx k) fun s =>
  let t := (s.thread? k).getD t
  orStay (s.awaitsGen t .part) s (b (engineOrder s t) k t)

/-- The cell's lines that overlap a destination of an engine command written back and invalidated (R245, R319): each page of the range as
the cell's tables map it. -/
def flushVirtual (s : State) (t : Thread) (va : Word) (n : Nat) : State :=
  let w := s.whoOf t
  if 0x40 ≤ fld va 56 8 then s
  else (chunks (2 ^ 14) (n / 2 ^ 14 + 2) va n).foldl (fun s p => match placeOf s w .load p.1 p.2 with
    | .ok loc => s.flushRange w.cell loc.key p.2 true
    | .error _ => s) s

/-! ### Range locks (R246, R247) -/

/-- A range that a command wants to lock. -/
structure Want where
  va : Word
  len : Nat
  isDst : Bool
  deriving DecidableEq, Repr

/-- The lock of a range; none for an empty range and for an address that no lock can name. -/
def lockOf (s : State) (w : Who) (owner : Nat) (kind : LockKind) (x : Want) : Option Lock :=
  if x.len = 0 then none
  else if fld x.va 56 8 < 0x40 then some ⟨owner, kind, x.isDst, true, x.va.toNat, x.len⟩
  else match placeOf s w .load x.va 0 with
    | .ok loc => some ⟨owner, kind, x.isDst, false, loc.key, x.len⟩
    | .error _ => none

/-- Whether two locks conflict as engine ranges (R247). -/
def Lock.clashes (a b : Lock) : Bool := (a.isDst || b.isDst) && a.isGlobal == b.isGlobal && overlaps a.lo a.len b.lo b.len

/-- The locks that a new command of a cluster can meet: all of its own table, and scratch and pass-buffer ranges of every table. -/
def State.otherLocks (s : State) (c : ClusterId) : List Lock :=
  s.clusters.flatMap fun x => if x.1 = c then x.2.locks else x.2.locks.filter fun l => !l.isGlobal

/-- Whether the locks can be taken: entries are free, and nothing held conflicts, but for what `skip` names. -/
def State.locksFree (s : State) (c : ClusterId) (ls : List Lock) (skip : Lock → Bool) : Bool :=
  decide ((s.cluster c).locks.length + ls.length ≤ 64) &&
    ls.all fun l => (s.otherLocks c).all fun x => skip x || !l.clashes x

/-- Locks taken in the table of a cluster. -/
def State.takeLocks (s : State) (c : ClusterId) (ls : List Lock) : State :=
  let x := s.cluster c
  s.setCluster c { x with locks := x.locks ++ ls }

/-- The locks of a command released. -/
def State.dropLocks (s : State) (owner : Nat) : State :=
  { s with clusters := s.clusters.map fun (x : ClusterId × Cluster) =>
      (x.1, { x.2 with locks := x.2.locks.filter fun l => l.owner != owner }) }

/-- A pending change of WAYS that holds a destination: the cell, and the address held (R181). -/
def State.heldBy (s : State) (w : Who) (xs : List Want) : Option (PCell × Word) :=
  xs.findSome? fun x =>
    if !x.isDst then none
    else match lockOf s w 0 .copy x with
      | none => none
      | some l => match keySpace l.lo with
        | .scratch c => match (s.cell c).waysPending with
          | some (_, m) =>
            let lo := keyOf (.scratch c) (m.toNat * 2 ^ 16)
            if !l.isGlobal && overlaps l.lo l.len lo (((s.cell c).nscr.toNat - m.toNat) * 2 ^ 16) then some (c, x.va) else none
          | none => none
        | _ => none

/-- Check 6 of R244: locks taken, or the thread waits. -/
def tryLocks (s : State) (w : Who) (owner : Nat) (kind : LockKind) (xs : List Want) (skip : Lock → Bool) : Except Why State :=
  match s.heldBy w xs with
  | some (c, va) => .error (.held c va)
  | none =>
    let ls := xs.filterMap (lockOf s w owner kind)
    if s.locksFree w.cluster ls skip then .ok (s.takeLocks w.cluster ls) else .error .engine

/-! ### Reads and writes (R249) -/

/-- How a read or write of an engine ends other than well. -/
inductive EngErr where
  | fault (code : Nat) (va : Word)
  | poison
  | discarded
  deriving DecidableEq, Repr

/-- One part of an engine's read. A source page discarded reads zeros. -/
def engPart (s : State) (w : Who) (va : Word) (n : Nat) : Except EngErr (List Byte) :=
  match placeOf s w .load va n with
  | .error c => .error (.fault c va)
  | .ok loc =>
    if loc.disc then .ok (List.replicate n 0)
    else if unreachable s w loc then .error .poison
    else match homeAnswer s w loc with
      | some c => .error (.fault c va)
      | none => if s.poisoned loc.key n then .error .poison else .ok (s.bytes loc.key n)

/-- Bytes read by an engine for an issuer. -/
def engRead (s : State) (w : Who) (va : Word) (n : Nat) : Except EngErr (List Byte) :=
  (parts va n).foldlM (fun acc p => (engPart s w p.1 p.2).map fun bs => acc ++ bs) []

/-- An uncorrectable error that stops an engine's read counted for the slice or pseudo-channel that stores it (R469). -/
def State.engNote (s : State) (w : Who) (va : Word) (n : Nat) (pc : Word) : State :=
  match (parts va n).find? fun p => (engPart s w p.1 p.2).toOption.isNone with
  | none => s
  | some p => match placeOf s w .load p.1 p.2 with
    | .error _ => s
    | .ok loc => if unreachable s w loc || (homeAnswer s w loc).isSome then s else s.storedFar loc.key p.2 pc

/-- The fault that the translation of an engine's source meets. -/
def engFault (s : State) (w : Who) (va : Word) (n : Nat) : Option EngErr := (parts va n).findSome? fun p =>
  match placeOf s w .load p.1 p.2 with
  | .error c => some (.fault c p.1)
  | .ok _ => none

/-- What stops an engine's write to a range before any byte of it is written. -/
def engCheck (s : State) (w : Who) (va : Word) (n : Nat) : Option EngErr :=
  (parts va n).findSome? fun p => match placeOf s w .store p.1 p.2 with
    | .error c => some (if c = fDiscarded then .discarded else .fault c p.1)
    | .ok loc => if unreachable s w loc then some .poison else (homeAnswer s w loc).map fun c => .fault c p.1

/-- Bytes written by an engine, all of them or none. -/
def engWrite (s : State) (w : Who) (va : Word) (bs : List Byte) : Except EngErr State :=
  match engCheck s w va bs.length with
  | some e => .error e
  | none => match engineStore s w va bs with
    | .ok s => .ok s
    | .error e => .error (.fault e.1 va)

/-- The fault code of an ending. -/
def EngErr.code : EngErr → Nat
  | .fault c _ => c
  | _ => 0

/-- The address of a fault. -/
def EngErr.va : EngErr → Word
  | .fault _ va => va
  | _ => 0

/-- The engine status of an ending (R253): 0 with a fault code, 6 DISCARDED, 7 POISONED. -/
def EngErr.status : EngErr → Nat
  | .fault _ _ => 0
  | .poison => 7
  | .discarded => 6

/-! ### Outstanding operations (R254, R292) -/

/-- Outstanding operations and entries of a thread in a queue. -/
def Thread.load_ (t : Thread) : DoneQ → Nat
  | .pass => t.outPass + t.passdone.length
  | .copy => t.outCpy + t.cpydone.length
  | .load => t.outDec + t.decdone.length
  | .probe => t.outPass + t.probeout.length

/-- A thread with one more operation outstanding and a ticket taken. -/
def Thread.begin_ (t : Thread) : DoneQ → Thread
  | .pass | .probe => { t.takeTicket with outPass := t.outPass + 1 }
  | .copy => { t.takeTicket with outCpy := t.outCpy + 1 }
  | .load => { t.takeTicket with outDec := t.outDec + 1 }

/-- The commit of an engine command: the ticket goes to gd, and an operation is outstanding. -/
def State.beginOp (s : State) (k : Nat) (d : Option Reg) (q : DoneQ) : State := match s.thread? k with
  | none => s
  | some t =>
    let s := s.setThread k (t.begin_ q)
    match d with
    | some d => s.setReg k d (t.ticket.zeroExtend 64)
    | none => s


end Sys2Proof.Machine
end

