-- ==== Sys2Proof/Machine/Copies.lean ====
section
/-! DEFINITION. Copies (R242 to R254): cpy, cpyh and cpyw, the blocks of the copy engine, and promises. -/
namespace Sys2Proof.Machine
open Sys2Proof

/-! ### What a copy moves -/

/-- The conversion descriptor of cpyw (R243): COUNT, RM, SAT, DTYPE, STYPE. -/
structure ConvDesc where
  count : Nat
  rm : Nat
  sat : Bool
  dtype : Nat
  stype : Nat
  deriving DecidableEq, Repr

/-- The fields of a conversion descriptor. -/
def convDesc (d : Word) : ConvDesc := ⟨fld d 32 32, fld d 21 3, d.getLsbD 20, fld d 15 5, fld d 10 5⟩

/-- The element type of a code of the descriptor. -/
def convType (n : Nat) : ElemTy := (ElemTy.ofCode n).getD .i8

/-- The element bytes of a side. -/
def elemBytes (t : ElemTy) (count : Nat) : Nat := count * t.width / 8

/-- All bytes of a side: the elements, then the scale records of a block type. -/
def sideBytes (t : ElemTy) (count : Nat) : Nat := elemBytes t count + (if t.isBlock then 3 * (count / 32) else 0)

/-- Whether R243 takes a conversion descriptor, with at most 2^34 destination bytes (R244). -/
def convOk (d : Word) : Bool :=
  let x := convDesc d
  let s := convType x.stype
  let t := convType x.dtype
  fld d 24 8 == 0 && fld d 0 10 == 0 && decide (1 ≤ x.count) && decide (x.rm ≤ 4) && decide (x.dtype ≤ 16) && decide (x.stype ≤ 16) &&
    (!(s.isBlock || t.isBlock) || x.count % 32 == 0) && (!(s == .e2m1 || t == .e2m1) || x.count % 2 == 0) &&
    decide (sideBytes t x.count ≤ 2 ^ 34)

/-- Whether a range lies wholly in a class that copies take, within its window (check 2 of R244). -/
def copyRange (s : State) (w : Who) (va : Word) (n : Nat) : Bool :=
  let cls := fld va 56 8
  if cls < 0x40 then decide (fld va 0 56 + n ≤ 2 ^ 56)
  else if cls == 0x40 || cls == 0x50 || cls == 0x60 then (placeOf s w .load va n).isOk
  else false

/-! ### Issue (R244) -/

/-- The dclk at which a thread's instruction issued: a parked one keeps it (R93), and so does one that its release holds (R224, R251). -/
def State.issuedAt (s : State) (t : Thread) : Nat := match t.heldSince, t.run with
  | some n, _ => n
  | none, .parked _ since => since
  | none, _ => s.cycOf t

/-- The PROMISE of a copy as a due dclk, counted from its issue (R251). -/
def dueOf (s : State) (t : Thread) (p : Option Word) : Option Nat := match p with
  | none => none
  | some p => if p = 0 then none else some (s.issuedAt t + min p.toNat (2 ^ 32 - 1))

/-- A missed promise noted with the thread, which takes it before it next issues (R251). -/
def State.missPromise (s : State) (b : Issuer) : State := s.owe b fun t => { t with promises := t.promises ++ [b.opr] }

/-- A copy that ends at its issue: an entry and a ticket (R37, R244), with PMISS where its promise ran out while it was parked (R251). -/
def copyAtOnce (s : State) (k : Nat) (t : Thread) (d : Reg) (b : Issuer) (status : Nat) (promise : Option Word) : Res :=
  let late : Bool := match dueOf s t promise with
    | some n => decide (n < s.cycOf t)
    | none => false
  let s := s.beginOp k (some d) .copy
  let s := if late then s.missPromise b else s
  .next (s.deliverEntry .copy b (entryBits b.opr.ticket status late 0 0) 0 0)

/-- Checks 5 and 6 of R244, and the start of a copy of n bytes to `dn` destination bytes: the order of R245 comes before the first read. -/
def startCopy (s : State) (k : Nat) (t : Thread) (d : Reg) (b : Issuer) (kind : CopyKind) (src dst : Word) (sn dn : Nat)
    (promise : Option Word) : Res :=
  let w := s.whoOf t
  if 16 ≤ t.load_ .copy then .park s .engine
  else if dn = 0 then copyAtOnce s k t d b 0 promise
  else orStay (s.awaitsGen t .part) (s.modThread k fun t => { t with heldSince := some (s.issuedAt t) }) <|
    let x := s.fresh
    match tryLocks x.2 w x.1 .copy [⟨src, sn, false⟩, ⟨dst, dn, true⟩] (fun _ => false) with
    | .error y => .park s y
    | .ok s' =>
      let s' := flushVirtual (engineOrder s' t) t dst dn
      let c := s'.cluster w.cluster
      let job : CopyJob := { key := x.1, by_ := b, kind := kind, src := src, dst := dst, len := dn, due := dueOf s t promise }
      .next ((s'.setCluster w.cluster { c with copies := c.copies ++ [job] }).beginOp k (some d) .copy)

/-- cpy and cpyw: check 2, then the start. -/
def copyRanges (s : State) (k : Nat) (t : Thread) (d : Reg) (b : Issuer) (kind : CopyKind) (src dst : Word) (sn dn : Nat)
    (promise : Option Word) : Res :=
  let w := s.whoOf t
  if !copyRange s w src sn then .trap s (fltAt fAddress src)
  else if !copyRange s w dst dn then .trap s (fltAt fAddress dst)
  else startCopy s k t d b kind src dst sn dn promise

/-- cpy (R242). -/
def execCpy (o : Copy) (s : State) : Host.Outcome State Fault Refusal :=
  issue (.cpy o) s fun s k t => orTrap (s.waitRx k) fun s =>
    let t := (s.thread? k).getD t
    let n := (t.ctx.gpr o.c).toNat
    if 2 ^ 34 < n then .trap s { code := fIllegal }
    else copyRanges s k t o.d (s.issuer k t (.cpy o)) .plain (t.ctx.gpr o.a) (t.ctx.gpr o.b) n n o.promise

/-- cpyw (R242, R243). -/
def execCpyw (o : Copy) (s : State) : Host.Outcome State Fault Refusal :=
  issue (.cpyw o) s fun s k t => orTrap (s.waitRx k) fun s =>
    let t := (s.thread? k).getD t
    let d := t.ctx.gpr o.c
    let x := convDesc d
    if !convOk d then .trap s { code := fIllegal }
    else copyRanges s k t o.d (s.issuer k t (.cpyw o)) (.convert d) (t.ctx.gpr o.a) (t.ctx.gpr o.b)
      (sideBytes (convType x.stype) x.count) (sideBytes (convType x.dtype) x.count) o.promise

/-- cpyh (R242): checks 3 and 4 come before check 2 (R244), so a STALE outcome does not wait for room in the thread's queue. -/
def execCpyh (o : Copy) (s : State) : Host.Outcome State Fault Refusal :=
  issue (.cpyh o) s fun s k t => orTrap (s.waitRx k) fun s =>
    let t := (s.thread? k).getD t
    let ga := t.ctx.gpr o.a
    let gb := t.ctx.gpr o.b
    let n := (t.ctx.gpr o.c).toNat
    let p := t.pcell.pkg
    let hs : BitVec 32 := ga.extractLsb' 0 32
    let hd : BitVec 32 := gb.extractLsb' 0 32
    let b := s.issuer k t (.cpyh o)
    if 2 ^ 34 < n then .trap s { code := fIllegal }
    else match s.handle p t.vf hs 2, s.handle p t.vf hd 2 with
      | some x, some y =>
        let src := x.1 + word (fld ga 32 32)
        let dst := y.1 + word (fld gb 32 32)
        if x.2 < fld ga 32 32 + n then .trap s (fltAt fAddress src)
        else if y.2 < fld gb 32 32 + n then .trap s (fltAt fAddress dst)
        else copyRanges s k t o.d b (.handles hs hd) src dst n n o.promise
      | _, _ => copyAtOnce s k t o.d b 1 o.promise

/-! ### Blocks (R245, R248, R249) -/

/-- The codes of elements in their bytes. -/
def codesOf (t : ElemTy) (count : Nat) (bs : List Byte) : List Nat :=
  let v := leVal bs
  (List.range count).map fun i => v / 2 ^ (t.width * i) % 2 ^ t.width

/-- The exact values of elements, and their codes: `recs` are the scale records of a block type. -/
def valuesOf (t : ElemTy) (nsm : Bool) (codes recs : List Nat) : List FVal :=
  codes.zipIdx.map fun x => if t.isBlock then decodeBlockElem t nsm (recs.getD (x.2 / 32) 0) x.1 else decodeElem t nsm x.1

/-- One element converted to a type that is no block type (R243). -/
def convertOne (x : ConvDesc) (nsm : Bool) (code : Nat) (v : FVal) : Nat :=
  let s := convType x.stype
  let t := convType x.dtype
  let rm := (RMode.ofCode x.rm).getD .rne
  if s.isBlock then
    (match fmtOf t nsm with
      | some f => (f.round rm false v).code
      | none => (floatToInt t rm v).code)
  else (convertElem s t nsm rm x.sat false code).code

/-- Values encoded as blocks of 32 (R214): element codes and scale records. Fuel bounds the blocks. -/
def encodeBlocks (t : ElemTy) (nsm : Bool) : Nat → List FVal → List Nat × List Nat
  | 0, _ => ([], [])
  | n + 1, vs =>
    if vs.isEmpty then ([], [])
    else
      let b := encodeBlock t nsm (vs.take 32)
      let r := encodeBlocks t nsm n (vs.drop 32)
      (b.1 ++ r.1, b.2.1 :: r.2)

/-- Elements converted: destination codes, and scale records of a block type. -/
def convertAll (x : ConvDesc) (nsm : Bool) (codes recs : List Nat) : List Nat × List Nat :=
  let vs := valuesOf (convType x.stype) nsm codes recs
  let t := convType x.dtype
  if t.isBlock then encodeBlocks t nsm (codes.length / 32 + 1) vs
  else ((codes.zip vs).map fun y => convertOne x nsm y.1 y.2, [])

/-- Codes as bytes. -/
def codeBytes (t : ElemTy) (codes : List Nat) : List Byte := leOf (codes.length * t.width / 8) (packNat t.width codes)

/-- The number of blocks of a copy. -/
def CopyJob.blocks (j : CopyJob) : Nat := match j.kind with
  | .convert d => (elemBytes (convType (convDesc d).dtype) (convDesc d).count + 4095) / 4096
  | _ => (j.len + 4095) / 4096

/-- Two writes of a block, checked together before the first. -/
def engWrite2 (s : State) (w : Who) (va vb : Word) (a b : List Byte) : Except EngErr State :=
  match engCheck s w vb b.length with
  | some e => .error e
  | none => (engWrite s w va a).bind fun s => engWrite s w vb b

/-- Block k of a conversion. -/
def convertBlock (s : State) (w : Who) (j : CopyJob) (x : ConvDesc) (k : Nat) : Except EngErr State := do
  let st := convType x.stype
  let dt := convType x.dtype
  let per := 4096 * 8 / dt.width
  let e0 := k * per
  let n := min per (x.count - e0)
  let src ← engRead s w (j.src + word (elemBytes st e0)) (elemBytes st n)
  let recs ← if st.isBlock then engRead s w (j.src + word (elemBytes st x.count + 3 * (e0 / 32))) (3 * (n / 32)) else .ok []
  let codes := codesOf st n src
  let recVals := (List.range (recs.length / 3)).map fun i => leVal ((recs.drop (3 * i)).take 3)
  let r := convertAll x j.by_.nsm codes recVals
  engWrite2 s w (j.dst + word (elemBytes dt e0)) (j.dst + word (elemBytes dt x.count + 3 * (e0 / 32)))
    (codeBytes dt r.1) (r.2.flatMap fun y => leOf 3 y)

/-- Block k of a copy: read whole, then written. -/
def copyBlockAt (s : State) (w : Who) (j : CopyJob) (k : Nat) : Except EngErr State := match j.kind with
  | .convert d => convertBlock s w j (convDesc d) k
  | _ => do
    let n := min 4096 (j.len - 4096 * k)
    let bs ← engRead s w (j.src + word (4096 * k)) n
    engWrite s w (j.dst + word (4096 * k)) bs

/-- The GEN and KIND parts of the check of a copy's handles repeated before a block after the first (R248). -/
def CopyJob.fresh (j : CopyJob) (s : State) : Bool := match j.kind with
  | .handles a b =>
    j.done == 0 || ((s.handleLive j.by_.cell.pkg j.by_.vf a 2).isSome && (s.handleLive j.by_.cell.pkg j.by_.vf b 2).isSome)
  | _ => true

/-- The ranges that block k of a copy reads. -/
def copySources (j : CopyJob) (k : Nat) : List (Word × Nat) := match j.kind with
  | .convert d =>
    let x := convDesc d
    let st := convType x.stype
    let e0 := k * (4096 * 8 / (convType x.dtype).width)
    let n := min (4096 * 8 / (convType x.dtype).width) (x.count - e0)
    (j.src + word (elemBytes st e0), elemBytes st n) ::
      if st.isBlock then [(j.src + word (elemBytes st x.count + 3 * (e0 / 32)), 3 * (n / 32))] else []
  | _ => [(j.src + word (4096 * k), min 4096 (j.len - 4096 * k))]

/-- The first range whose read fails, counted for the unit that stores it where an uncorrectable error is why (R469). -/
def State.noteCopy (s : State) (w : Who) (j : CopyJob) (k : Nat) : State :=
  match (copySources j k).find? fun p => (engRead s w p.1 p.2).toOption.isNone with
  | some p => s.engNote w p.1 p.2 j.by_.opr.pc
  | none => s

/-- A copy in progress, with its cluster. -/
def State.findCopy (s : State) (key : Nat) : Option (ClusterId × CopyJob) :=
  s.clusters.findSome? fun x => (x.2.copies.find? fun j => j.key == key).map fun j => (x.1, j)

/-- A copy's record replaced, or taken out. -/
def State.setCopy (s : State) (c : ClusterId) (key : Nat) (j : Option CopyJob) : State :=
  let x := s.cluster c
  s.setCluster c { x with copies := x.copies.flatMap fun y => if y.key = key then j.toList else [y] }

/-- A copy whose promise has run out without a note of it. -/
def State.overdue (s : State) (c : ClusterId) (j : CopyJob) : Bool :=
  !j.pmiss && (match j.due with
    | some d => decide (d < s.cyc c.pkg c.die)
    | none => false)

/-- The end of a copy (R250): its locks are released, then its entry is delivered, with PMISS where the promise had run out. -/
def State.endCopy (s : State) (c : ClusterId) (j : CopyJob) (status : Nat) (fcode : Nat) (va : Word) : State :=
  let late := s.overdue c j
  let j := { j with pmiss := j.pmiss || late }
  let s := if late then s.missPromise j.by_ else s
  ((s.setCopy c j.key none).dropLocks j.key).deliverEntry .copy j.by_ (entryBits j.by_.opr.ticket status j.pmiss fcode j.done) fcode va

/-- A block of a copy is processed (R245, R248, R249). -/
def execCopyBlock (copy : Nat) (s : State) : Host.Outcome State Fault Refusal :=
  .next (match s.findCopy copy with
    | none => s
    | some (c, j) =>
      if !j.fresh s then s.endCopy c j 2 0 0
      else match copyBlockAt s (s.whoFor j.by_) j j.done with
        | .error e => (s.noteCopy (s.whoFor j.by_) j j.done).endCopy c j e.status e.code e.va
        | .ok s =>
          let j := { j with done := j.done + 1 }
          if j.blocks ≤ j.done then s.endCopy c j 0 0 0 else s.setCopy c copy (some j))

/-! ### Promises (R251, R428) -/

/-- A copy's promise runs out before its entry is delivered (R251). -/
def execPromiseExpiry (copy : Nat) (s : State) : Host.Outcome State Fault Refusal :=
  .next (match s.findCopy copy with
    | none => s
    | some (c, j) => match j.due with
      | some d =>
        if j.pmiss || decide (s.cyc c.pkg c.die ≤ d) then s
        else (s.setCopy c copy (some { j with pmiss := true })).missPromise j.by_
      | none => s)

/-- The notice of a missed promise taken before the next instruction of a thread in a slot (R251, R428): not while UPC = 1 or PRIV = 1. -/
def execPromiseMissedUpcall (thread : Nat) (s : State) : Host.Outcome State Fault Refusal :=
  .next (match s.thread? thread with
    | none => s
    | some t => match t.promises with
      | [] => s
      | r :: rs =>
        if t.ctx.upc || t.ctx.priv || !t.goesOn || t.slot?.isNone || t.todo.isSome then s
        else takeFault (s.setThread thread { t with promises := rs }) thread
          { code := fPromise, detail := r.ticket.zeroExtend 64, opr := some r } {})

end Sys2Proof.Machine
end

