-- ==== Sys2Proof/Machine/Fetch.lean ====
section
/-! DEFINITION. Fetching an instruction (R118 to R120), safe points (R19 to R22), and a program placed by hand (log 2). -/
namespace Sys2Proof.Machine
open Sys2Proof

/-! ### Fetch -/

/-- One part of a fetch, within a 64-byte line: its bytes, from their home. A fetch takes no range lock (R118). A pc that is no multiple of
4 is fetched from as it stands (R96 raises nothing; DESIGN CHOICE, log 77). -/
def fetchPart (s : State) (t : Thread) (va : Word) (n : Nat) : Except (State × Flt) (List Byte × State) :=
  let w := s.whoOf t
  if !classOk .fetch (fld va 56 8) then .error (s, fltAt fAddress va)
  else match placeOf s w .fetch va n with
    | .error c => .error (s, fltAt c va)
    | .ok loc =>
      let s := s.fillTlb w.cell true loc
      match readAt s w loc n false with
      | .error c => .error (s.storedError w.cell loc.key n t.ctx.pc, fltAt c va)
      | .ok r => .ok r

/-- The bytes of a fetch, part by part. -/
def fetchParts (t : Thread) : State → List (Word × Nat) → Except (State × Flt) (List Byte × State)
  | s, [] => .ok ([], s)
  | s, p :: ps => do
    let r ← fetchPart s t p.1 p.2
    let q ← fetchParts t r.2 ps
    .ok (r.1 ++ q.1, q.2)

/-- n bytes fetched from an address, part by part. -/
def fetchBytes (s : State) (t : Thread) (va : Word) (n : Nat) : Except (State × Flt) (List Byte × State) :=
  fetchParts t s (parts va n)

/-- A fault of the fetch or the encoding, with the record of what was fetched. -/
structure FetchFlt where
  state : State
  flt : Flt
  own : OpRec

/-- The instruction at a thread's pc: the base word, then every part that L implies, then the encoding (R118, R119). FADDR of a fault is the
first byte of the line part that failed, in the fetch of the base word or in the one from pc + 4 on (DESIGN CHOICE, log 77). -/
def fetchInstr (s : State) (t : Thread) : Except FetchFlt (Instr × State) :=
  let pc := t.ctx.pc
  match fetchBytes s t pc 4 with
  | .error (s, f) => .error ⟨s, { f with len := some 0 }, {}⟩
  | .ok (b4, s) =>
    let base := BitVec.ofNat 32 (leNat b4)
    match fetchBytes s t (pc + 4) (lengthOf base - 4) with
    | .error (s, f) => .error ⟨s, f, { pc := pc, base := base }⟩
    | .ok (rest, s) =>
      let w := Words.ofBits base (word (leNat (rest.take 8))) (word (leNat ((rest.drop 8).take 8)))
      match decode w with
      | .ok i => .ok (i, s)
      | .error _ =>
        .error ⟨s, { code := fIllegal },
          { pc := pc, base := base, ext := w.ext.getD 0, lit := w.lit.getD 0 }⟩

/-! ### Safe points (R19 to R22) -/

/-- A word read as a load of the launch (R227); none on any fault, poisoned answer, or lock (R22). The line that such a load may bring into
the cell's ways is not kept (log 76). -/
def State.tableWord (s : State) (t : Thread) (va : Word) : Option Nat := match readData s t va 8 true with
  | .ok (bs, _) => some (leVal bs)
  | .error _ => none

/-- The entry of a sorted table with a value, by halving; fuel bounds the halvings. Entries from `lo` on and below `hi` must lie from `a` on
and below `b`: one that is read and does not breaks the ascending order of R19. DESIGN CHOICE (log 76): the spec names no search, so which
entries are read, and may fault or be ill-formed, follows from the halving. -/
def findEntry (get : Nat → Option Nat) (x : Nat) : Nat → Nat → Nat → Nat → Nat → Option Nat
  | 0, _, _, _, _ => none
  | fuel + 1, lo, hi, a, b =>
    if hi ≤ lo then none
    else
      let m := (lo + hi) / 2
      match get m with
      | none => none
      | some v =>
        if v < a ∨ b ≤ v then none
        else if v = x then some m else if v < x then findEntry get x fuel (m + 1) hi (v + 1) b else findEntry get x fuel lo m a v

/-- The live mask of the safe point at a thread's pc, if it is one (R19 to R22): bits [39:32] QLIVE, [31:16] VLIVE, [15:0]
GLIVE. -/
def State.liveMask (s : State) (t : Thread) : Option (BitVec 40) := match s.launch? t.launch with
  | none => none
  | some l =>
    let fr := l.ready.frameAddr
    let spcount := fld l.ready.frame 160 32
    let spoff := fld l.ready.frame 128 32
    let lmoff := fld l.ready.frame 192 32
    let ofs := (t.ctx.pc - l.ready.codeBase).toNat
    let get (i : Nat) : Option Nat := (s.tableWord t (fr + word (spoff + 8 * i))).bind fun v =>
      if v < l.ready.codeLen ∧ v % 4 = 0 then some v else none
    match findEntry get ofs 33 0 spcount 0 l.ready.codeLen with
    | none => none
    | some i => (s.tableWord t (fr + word (lmoff + 8 * i))).bind fun v =>
        if v < 2 ^ 40 then some (BitVec.ofNat 40 v) else none

/-! ### A program placed by hand (log 2) -/

/-- The pc of a placed program: code offset 0 of a frame at 0x4000 in class 0x00. -/
def placedPc : Word := 0x4040

/-- The partition of a placed program: one cluster, the wait limit 4,096, brood queues of 64 entries, low-water mark 4. -/
def placedReady : Ready where
  desc := 0x4000
  frame := BitVec.ofNat 512 (2 ^ 24 * 2 ^ 96 + 64 * 2 ^ 64 + 2 ^ 32 + 0x314D5246)
  wd := []
  part := BitVec.ofNat 256 (0x20000000 * 2 ^ 192 + 4096 * 2 ^ 96 + 2 ^ 64 + 6 * 2 ^ 48 + 4 * 2 ^ 32 + 1)
  clusters := [0]

/-- The launch of a placed program. -/
def placedLaunch : Launch where
  pkg := 0
  queue := 0
  vf := 1
  record := 0
  ring := 0
  phase := true
  ready := placedReady
  started := 0
  toWake := []

/-- The cell of a placed program. -/
def placedCell : PCell := ⟨0, 0, 0, 0⟩

/-- The virtual cell of a placed program. -/
def placedLcell : LCell := ⟨0, 0, 0, 0⟩

/-- The thread of a placed program: user privilege, slot 0 of flat cell 0, with the registers of R57 for a descriptor of eight scratch
ways and no arguments. -/
def placedThread (launch : Nat) : Thread where
  ctx := { pc := placedPc, tid := 1, wlim := 4096, g := (Vector.replicate 16 (0 : Word)).set 14 0x4000000000080000 }
  place := .slot placedCell 0
  vf := 1
  launch := launch

/-- The first bytes of HBM stack 0 that a placed program's page tables use: the level-4 table of function 1. -/
def placedTable : Nat := 2 ^ 35

/-- A page-table entry of function 1 in HBM. -/
def placedEntry (frame flags : Nat) : List Byte := leOf 8 (frame + 2 ^ 8 + 2 ^ 6 + flags)

/-- An instruction placed where the next step fetches (log 2): a live launch with one thread, the maps of its cell, a page table for
class 0x00, and the instruction's bytes, zeros after them. -/
def placeProgram (s : State) (bytes : List Byte) : State :=
  let k := s.nextKey
  let f := (s.pkg 0).fn 1
  let p := s.pkg 0
  let d := s.die 0 0
  let c := s.cluster ⟨0, 0, 0⟩
  let s := s.setPkg 0 { p with
    fns := putAt 1 { f with roots := f.roots.set 0 (word (placedTable + 0x10)) } p.fns }
  let s := s.setDie 0 0 { d with clusterMap := d.clusterMap.set 0 0x80, throttled := false, shut := false }
  let s := s.setCluster ⟨0, 0, 0⟩ { c with cellMap := c.cellMap.set 0 0x8000, locks := [], l2tlb := [] }
  let s := s.setCell placedCell { nscr := 8 }
  let s := s.setVcell placedLcell { isOpen := true, launch := k + 1 }
  let s := s.setLaunch (k + 1) placedLaunch
  let s := { s with
    threads := [(k, placedThread (k + 1))], nextKey := k + 2, agenda := [], pick := some k, cur := none, quiesces := []
    poison := [] }
  let hbm (off : Nat) : Nat := keyOf (.hbm 0 0) off
  let s := s.store (hbm placedTable) (placedEntry (placedTable + 0x20000) 1)
  let s := s.store (hbm (placedTable + 0x10000)) (leOf 2 0)
  let s := s.store (hbm (placedTable + 0x20000)) (placedEntry 0 0x27)
  let s := s.store (hbm (placedTable + 0x30000)) (leOf 2 0)
  s.store (hbm placedPc.toNat) (bytes ++ List.replicate (32 - bytes.length) 0)

end Sys2Proof.Machine
end

