-- ==== Sys2Proof/Machine/Homes.lean ====
section
/-! DEFINITION. Requests that can wait at a word's home: full/empty instructions, mailbox requests and barriers (R230 to R236, R357 to
R363, R406). -/
namespace Sys2Proof.Machine
open Sys2Proof

/-! ### Homes and park tables (R233) -/

/-- The slice of an offset of a slice-home or HBM-home page (R189). -/
def sliceNo (off : Nat) : Nat := (off / 2 ^ 6 ^^^ off / 2 ^ 11 ^^^ off / 2 ^ 16) % 32

/-- The home of a word by its key: a cell, or one slice of the die that holds the page (R189, R233). -/
def homeOf (key : Nat) : Home := match keySpace key with
  | .scratch c => .cell c
  | .slice p d => .slice p d (sliceNo (keyOff key))
  | .hbm p st => .slice p (st / 2) (sliceNo (keyOff key))
  | .passBuf c => .slice c.pkg c.die (sliceNo (keyOff key))
  | .host p => .slice p 0 (sliceNo (keyOff key))
  | .dom p => .slice p 0 (sliceNo (keyOff key))

/-- The entries of a home's park table: 64 for a cell, 256 for a slice (R233). -/
def tableSize : Home → Nat
  | .cell _ => 64
  | .slice _ _ _ => 256

/-- Whether a home's park table is full. -/
def State.tableFull (s : State) (h : Home) : Bool := decide (tableSize h ≤ (s.parked.filter fun p => p.req.home == h).length)

/-! ### Mailbox slots (R357, R358) -/

/-- MODE of a mailbox request: bit 0 of g[A] (R359). -/
def HomeReq.mode (r : HomeReq) : Bool := r.opr.va.getLsbD 0

/-- The control word that gpost writes (R358): v is the first register of the block. -/
def controlWord (flat : Nat) (v : VReg) (mode nsm : Bool) : Word :=
  word (flat % 2 ^ 20 * 2 ^ 44 + fld v 416 24 * 2 ^ 20 + fld v 264 8 * 2 ^ 12 + fld v 256 4 * 2 ^ 8 + bit mode * 2 + bit nsm)

/-- Four registers from the first (R261). -/
def blockAt (c : Ctx) (v : VNum) : List VReg := (List.range 4).map fun i => c.vr (v + BitVec.ofNat 4 i)

/-- Four registers written from the first. -/
def setBlock (c : Ctx) (v : VNum) (vs : List VReg) : Ctx :=
  (vs.zipIdx.take 4).foldl (fun c x => c.setVr (v + BitVec.ofNat 4 x.2) x.1) c

/-- The image of four registers. -/
def blockBytes (vs : List VReg) : List Byte := vs.flatMap fun v => leOf 64 v.toNat

/-- The block in the body of a slot, lane 14 of its first register being SENDER (R360). -/
def State.slotBody (s : State) (key : Nat) : List VReg :=
  let vs := (List.range 4).map fun i => BitVec.ofNat 512 (s.num (key + 64 + 64 * i) 64)
  let sender := s.num key 8 / 2 ^ 44
  match vs with
  | v :: l => putFld v 448 32 sender :: l
  | [] => []

/-! ### The wait condition and the effect of a request (R230, R360, R406) -/

/-- Whether a request can be served: its wait condition does not hold. -/
def State.servable (s : State) (r : HomeReq) : Bool := match r.instr with
  | .ldff _ | .ldfe _ | .stff _ => s.full r.key
  | .stef _ => !s.full r.key
  | .gpost _ _ => r.mode || !s.full r.key
  | .gtake _ _ => s.full r.key
  | .bar _ _ | .barScoped _ _ _ => decide (r.target.toNat ≤ s.num r.key 8)
  | _ => true

/-- The place that a request names. -/
def HomeReq.loc (r : HomeReq) : Loc :=
  { key := r.key, peer := r.peer, domain := match keySpace r.key with
      | .dom p => some p
      | _ => none }

/-- The home scope of a request for its thread (R232). -/
def State.reqScope (s : State) (t : Thread) (r : HomeReq) : Sys2Proof.Scope := homeScope (s.whoOf t) r.loc

/-- The bytes that a request acts on: a word, or a mailbox slot. -/
def HomeReq.len (r : HomeReq) : Nat := match r.instr with
  | .gpost _ _ | .gtake _ _ => 320
  | _ => 8

/-- What a home answers to a request that reaches it again (R233, R236): the limit of its scratch, then the state of its cell. -/
def HomeReq.answer (r : HomeReq) (s : State) (t : Thread) : Option Nat :=
  let w := s.whoOf t
  if fld r.va 56 8 < 0x40 then homeAnswer s w r.loc
  else match placeOf s w .load r.va r.len with
    | .error c => some c
    | .ok loc => homeAnswer s w loc

/-- The scope of a barrier (R406). -/
def barScope : Instr → Sys2Proof.Scope
  | .barScoped _ _ sc => sc
  | _ => .sys

/-- Whether a request is the wait of a bar that has become the thread's pending head (R406). -/
def HomeReq.isHead (r : HomeReq) (t : Thread) : Bool := match t.ctx.head with
  | some h => h.target.isSome && !h.isOpen && h.opr == r.opr
  | none => false

/-- A bar at its commit (R406, R407): the acquire, and RTSEL of the cell. A bar whose wait had become a pending head ends there, with
the pc unchanged. -/
def barDone (s : State) (k : Nat) (t : Thread) (r : HomeReq) : Res :=
  let s := t.acquire (barScope r.instr) s
  let sw := fld r.opr.vb 32 2
  let x := s.cell t.pcell
  let s := if 2 ≤ sw then s.setCell t.pcell { x with bank := sw == 3 } else s
  if r.isHead t then
    .stay (s.modThread k fun t => { t.modCtx Ctx.dropHead with run := .ready, req := none, answer := none, watch := none })
  else .next s

/-- TSTAT.AMB set by an asynchronous mailbox instruction (R363). -/
def State.markAmb (s : State) (k : Nat) (mode : Bool) : State :=
  if mode then s.modThread k fun t => t.modCtx (·.setTstat bitAmb true) else s

/-- The effect of a request that is served (R230, R360): one indivisible step at the home, then the thread's part. -/
def applyReq (s : State) (k : Nat) (t : Thread) (r : HomeReq) : Res :=
  let sc := s.reqScope t r
  let sent (s : State) : State := s.noteGen k (s.genOf (s.whoOf t) r.loc)
  let bad (n : Nat) : Bool := s.poisoned r.key n
  let load (d : Reg) (full : Bool) : Res :=
    if bad 8 then .trap (s.storedError t.pcell r.key 8 t.ctx.pc) (fltAt fUncorrectable r.va)
    else .next (t.acquire sc ((s.setFull r.key full).setReg k d (word (s.num r.key 8))))
  match r.instr with
  | .ldff o => load o.d true
  | .ldfe o => load o.d false
  | .stef _ | .stff _ => .next (sent ((s.storeFrom t.pcell r.key (leOf 8 r.opr.vd.toNat)).setFull r.key true))
  | .gpost _ _ =>
    let cw := controlWord t.flat (r.vals.headD 0) r.mode t.ctx.nsm
    let s := (s.storeFrom t.pcell r.key (leOf 8 cw.toNat)).storeFrom t.pcell (r.key + 64) (blockBytes r.vals)
    .next (sent ((s.setFull r.key true).markAmb k r.mode))
  | .gtake vd _ =>
    let cw := word (s.num r.key 8)
    if bad 320 then .trap (s.storedError t.pcell r.key 320 t.ctx.pc) (fltAt fUncorrectable r.va)
    else if cw.getLsbD 1 != r.mode then .trap s { code := fIllegal }
    else if cw.getLsbD 0 != t.ctx.nsm then .trap s { code := fNsm }
    else
      let s' := if r.mode then s else s.setFull r.key false
      let s' := s'.modThread k fun x => x.modCtx fun c => setBlock c vd (s.slotBody r.key)
      .next (t.acquire sc (s'.markAmb k r.mode))
  | .bar _ _ | .barScoped _ _ _ => barDone s k t r
  | _ => .next s

/-- Something done for a thread, also where its context is in memory (log 83): its record comes back for it. -/
def State.withSaved (s : State) (k : Nat) (f : State → State) : State := match look? k s.saved with
  | none => f s
  | some t =>
    let s := f { s with threads := putAt k t s.threads, saved := dropAt k s.saved }
    match s.thread? k with
    | none => s
    | some t => { s.dropThread k with saved := putAt k t s.saved }

/-- A parked request served: its entry leaves the table, and its instruction commits or traps. -/
def State.serve (s : State) (p : Parked) : State :=
  { s with parked := s.parked.filter fun q => q.thread != p.thread }.withSaved p.thread fun s => match s.thread? p.thread with
    | none => s
    | some t => settle p.req.instr p.thread t (applyReq s p.thread t p.req)

/-- The parked requests of a word examined in order of arrival until none can be served (R234). Fuel bounds the services. -/
def State.serveWord (s : State) (key : Nat) : Nat → State
  | 0 => s
  | fuel + 1 => match s.parked.find? fun p => p.req.key == key && s.servable p.req with
    | none => s
    | some p => (s.serve p).serveWord key fuel

/-- The parked requests of a word served after a change of it. -/
def State.wordChanged (s : State) (key : Nat) : State := s.serveWord key (s.parked.length + 1)

/-- What a part answered, with the requests of a word served once the part has committed. -/
def withService (key : Nat) : Res → Res
  | .next s => .next (s.wordChanged key)
  | .jump s pc => .jump (s.wordChanged key) pc
  | .stay s => .stay (s.wordChanged key)
  | r => r

/-- A request at its home (R233): served, parked, or refused by a full table. -/
def arrive (s : State) (k : Nat) (t : Thread) (r : HomeReq) : Res :=
  if s.servable r then withService r.key (applyReq s k t r)
  else
    let why : Why := match r.instr with
      | .bar _ _ | .barScoped _ _ _ => .bar
      | _ => .fullEmpty
    let since := match t.run with
      | .parked _ n | .refused n _ | .resent n => n
      | _ => s.cycOf t
    if s.tableFull r.home then
      .stay (s.modThread k fun t => { t with run := .refused since (s.cycOf t), req := some r })
    else
      let s := { s with parked := s.parked ++ [({ thread := k, req := r } : Parked)] }
      .stay (s.modThread k fun t => { t with run := .parked why since, req := some r })

/-! ### Full/empty instructions (R230, R231) -/

/-- A full/empty instruction from its address on: the checks of R178, the cell's own copy written back, the answer of the home, then
what it does there. -/
def feAccess (s : State) (k : Nat) (t : Thread) (i : Instr) (acc : Acc) (a : Reg) (d : Disp) (atHome : State → Loc → HomeReq → Res) :
    Res :=
  orTrap (s.waitRx k) fun s =>
  let t := (s.thread? k).getD t
  let va := effAddr t.ctx a d
  let w := s.whoOf t
  match resolve s w acc va 8 8 with
  | .error f => .trap s f
  | .ok loc =>
    let s := loc.settle (s.fillTlb w.cell false loc) w.cell 8
    match homeAnswer s w loc with
    | some c => .trap s (fltAt c va)
    | none => atHome s loc
        { instr := i, opr := recordOf i t.ctx 0, va := va, key := loc.key, home := homeOf loc.key, peer := loc.peer }

/-- ldff and ldfe: data and bit in one step (R230); a discarded page is full with data zero (R236). -/
def feLoad (i : Instr) (acc : Acc) (o : RMem) : Body := fun s k t =>
  feAccess s k t i acc o.a o.imm fun s loc r =>
    let t := (s.thread? k).getD t
    if loc.disc then .next (t.acquire (s.reqScope t r) (s.setReg k o.d 0)) else arrive s k t r

/-- stef and stff: the release at the home scope, then the request (R224, R230, R232). -/
def feStore (i : Instr) (o : RMem) : Body := fun s k t =>
  feAccess s k t i .feWrite o.a o.imm fun s _ r =>
    let t := (s.thread? k).getD t
    orStay (s.awaitsGen t (s.reqScope t r)) s (arrive (t.release (s.reqScope t r) s) k t r)

/-- feset and feclr (R230). -/
def feSet (i : Instr) (a : Reg) (d : Disp) (full : Bool) : Body := fun s k t =>
  feAccess s k t i .feWrite a d fun s _ r => .next ((s.setFull r.key full).wordChanged r.key)

/-- ldff (R230). -/
def execLdff (o : RMem) (s : State) : Host.Outcome State Fault Refusal := issue (.ldff o) s (feLoad (.ldff o) .feRead o)
/-- ldfe (R230). -/
def execLdfe (o : RMem) (s : State) : Host.Outcome State Fault Refusal := issue (.ldfe o) s (feLoad (.ldfe o) .feWrite o)
/-- stef (R230). -/
def execStef (o : RMem) (s : State) : Host.Outcome State Fault Refusal := issue (.stef o) s (feStore (.stef o) o)
/-- stff (R230). -/
def execStff (o : RMem) (s : State) : Host.Outcome State Fault Refusal := issue (.stff o) s (feStore (.stff o) o)
/-- feq: the bit, full for a discarded page (R230, R236). -/
def execFeq (o : RMem) (s : State) : Host.Outcome State Fault Refusal :=
  issue (.feq o) s fun s k t => feAccess s k t (.feq o) .feRead o.a o.imm fun s loc r =>
    .next (s.setReg k o.d (flag (loc.disc || s.full r.key)))
/-- feset (R230). -/
def execFeset (a : Reg) (imm : Disp) (s : State) : Host.Outcome State Fault Refusal :=
  issue (.feset a imm) s (feSet (.feset a imm) a imm true)
/-- feclr (R230). -/
def execFeclr (a : Reg) (imm : Disp) (s : State) : Host.Outcome State Fault Refusal :=
  issue (.feclr a imm) s (feSet (.feclr a imm) a imm false)

/-! ### Events at a home (R233 to R235) -/

/-- A re-sent request that reaches its home, which answers it as a new arrival (R233, R236), or a parked one whose wait is over. -/
def rearrive (s : State) (k : Nat) : State := match (s.thread? k).map fun t => ((t, t.run, t.req) : Thread × Run × Option HomeReq) with
  | some (t, .resent _, some r) => match r.answer s t with
    | some c => settle r.instr k t (.trap s (fltAt c r.va))
    | none => settle r.instr k t (arrive s k t r)
  | _ => match s.parked.find? fun p => p.thread == k && s.servable p.req with
    | some p => (s.serve p).wordChanged p.req.key
    | none => s

/-- A full/empty request reaches its home (R233). -/
def execFullEmptyRequest (thread : Nat) (s : State) : Host.Outcome State Fault Refusal := .next (rearrive s thread)

/-- A mailbox request reaches its home (R360). -/
def execMailboxRequest (thread : Nat) (s : State) : Host.Outcome State Fault Refusal := .next (rearrive s thread)

/-- A barrier's word reaches the target of a parked thread (R406). -/
def execBarrierArrival (thread : Nat) (s : State) : Host.Outcome State Fault Refusal := .next (rearrive s thread)

/-- A refused request is sent again; it counts as a new arrival (R233). -/
def execParkTableResend (thread : Nat) (s : State) : Host.Outcome State Fault Refusal :=
  .next (s.modThread thread fun t => match t.run with
    | .refused n m => if m + 64 ≤ s.cycOf t then { t with run := .resent n } else t
    | _ => t)

/-- A withdrawal reaches the home (R235): an entry still parked is removed and the answer is withdrawn. -/
def execWithdrawal (thread : Nat) (s : State) : Host.Outcome State Fault Refusal :=
  .next (match s.thread? thread with
    | some t =>
      if t.run == .withdrawing && t.answer.isNone then
        let parked := s.parked.any fun p => p.thread == thread
        { s with parked := s.parked.filter fun p => p.thread != thread }.setThread thread { t with answer := some (!parked) }
      else s
    | none => s)

/-- What waited, as DETAIL of WAIT_LIMIT says (R434). -/
def Why.detail : Why → Word
  | .fullEmpty => 0 | .queue => 1 | .engine => 2 | .gang => 3 | .fly => 4 | .wfw => 5 | .bar => 6 | .inline => 7 | .ways => 2
  | .held _ _ => 2

/-- The WAIT_LIMIT upcall of a thread, with TEPC at its instruction (R93); a
thread in flight is still at its source (R91). A bar's arrival stands: its wait becomes a pending head with
the pc at the next instruction (R406). -/
def State.waitLimit (s : State) (k : Nat) (t : Thread) (why : Why) : State :=
  match t.req with
  | some r => match r.instr with
    | .bar _ _ | .barScoped _ _ _ =>
      let h : Head := ⟨r.opr, 0, false, some r.target⟩
      let pc := if r.isHead t then t.ctx.pc else nextPc r.instr t.ctx
      let s := s.setThread k { t with ctx := { t.ctx with head := some h, pc := pc }, req := none, answer := none }
      takeFault s k { code := fWaitLimit, faddr := r.va, detail := Why.detail .bar, opr := some r.opr } {}
    | _ => takeFault (s.setThread k { t with req := none, answer := none }) k
        { code := fWaitLimit, faddr := r.va, detail := Why.detail why } r.opr
  | none =>
    let place : Place := match t.place with
      | .flying c n _ _ => .slot c n
      | p => p
    takeFault (s.setThread k { t with place := place }) k { code := fWaitLimit, detail := Why.detail why } t.waitOpr

/-- The error with which a home has ended a thread's request, taken as a fault when the thread's turn comes (R236): of the instruction at its
pc, or of the bar whose wait is its pending head. -/
def State.homeFault (s : State) (k : Nat) (t : Thread) : Option State := match t.homeErr, t.req with
  | some c, some r =>
    let f : Flt := { fltAt c r.va with opr := if r.isHead t then some r.opr else none }
    some ((takeFault (s.setThread k { t with homeErr := none, req := none }) k f r.opr).unyield k)
  | _, _ => none

/-- The home's answer reaches a thread that withdrew (R235): withdrawn takes WAIT_LIMIT; a request already served has committed. -/
def execWithdrawalAnswer (thread : Nat) (s : State) : Host.Outcome State Fault Refusal :=
  .next (match s.thread? thread with
    | some t => match t.run, t.answer with
      | .withdrawing, some false => if t.cached then s else s.waitLimit thread t (match t.req.map HomeReq.instr with
          | some (.bar _ _) | some (.barScoped _ _ _) => .bar
          | _ => .fullEmpty)
      | _, _ => s
    | none => s)

end Sys2Proof.Machine
end

