-- ==== Sys2Proof/Machine/Threads.lean ====
section
/-! DEFINITION. Tasks and threads: fork, join, tend (R161 to R164), yield, sleep, wfw, wake (R165 to R167), fly (R90, R91, R166), and the
events that follow them. -/
namespace Sys2Proof.Machine
open Sys2Proof

/-! ### Virtual cells of a thread -/

/-- The launch of a thread with its virtual cell and that cell's place. -/
structure Seat where
  launch : Launch
  cell : LCell
  place : VPlace
  deriving DecidableEq, Repr

/-- The seat of a flat number of a launch. -/
def State.seatAt (s : State) (launch flat : Nat) : Option Seat :=
  (s.launch? launch).bind fun l => (l.ready.lcell flat).bind fun c => (s.place c).map fun p => ⟨l, c, p⟩

/-- The seat of a thread. -/
def State.seat (s : State) (t : Thread) : Option Seat := if t.nurse then none else s.seatAt t.launch t.flat

/-- The deque entries of a virtual cell: 64 over 2^FOLD (R76). -/
def Seat.dequeCap (x : Seat) : Nat := 64 / 2 ^ x.place.fold

/-- The entries of a brood queue (R82). -/
def Ready.broodSize (r : Ready) : Nat := 2 ^ r.brlog2

/-- The address of entry i of a brood queue (R82). -/
def Ready.broodEntry (r : Ready) (flat i : Nat) : Word := r.brood + word ((flat * r.broodSize + i % r.broodSize) * 32)

/-- A virtual cell opened by a task or a flying thread (R187). -/
def VCell.opened (v : VCell) (launch : Nat) : VCell := { v with isOpen := true, launch := launch }

/-! ### fork (R162) -/

/-- The record at an address as four doubleword loads of the thread. -/
def readRecord (s : State) (t : Thread) (va : Word) : Except (State × Flt) (BitVec 256 × State) := do
  let a ← readData s t va 8 true
  let b ← readData a.2 t (va + 8) 8 true
  let c ← readData b.2 t (va + 16) 8 true
  let d ← readData c.2 t (va + 24) 8 true
  .ok (BitVec.ofNat 256 (leVal (a.1 ++ b.1 ++ c.1 ++ d.1)), d.2)

/-- The checks of R31: the offset that DETAIL gives (R434). Reserved bits [43:40] alone give 5, the byte that holds them (DESIGN CHOICE, log
80: R31 speaks of the byte, R434 of the field). -/
def badTask (r : BitVec 256) (codeLen : Nat) : Option Nat :=
  if fld r 35 5 ≠ 0 then some 4 else if fld r 40 4 ≠ 0 then some 5
  else if 5 ≤ fld r 32 3 then some 4
  else if fld r 0 32 % 4 ≠ 0 ∨ codeLen ≤ fld r 0 32 then some 0
  else if fld r 64 3 ≠ 0 then some 8
  else none

/-- How a fork places its child (R83, R84). -/
inductive ForkTo where
  | push | spill (k : Nat) | inline | wait
  deriving DecidableEq, Repr

/-- The choice of R83. -/
def forkTo (x : Seat) (v : VCell) (inl : Nat) : ForkTo :=
  let free := x.dequeCap - v.deque.length
  let k := min 16 v.deque.length
  if x.launch.ready.lwm ≤ free then .push
  else if k ≤ x.launch.ready.broodSize - (v.btail - v.bhead) then .spill k
  else if inl = 65535 then .wait else .inline

/-- Who a cell is when it accesses a brood queue: the region lies behind the tables of the launch's function (R82). -/
def broodWho (x : Seat) : Who :=
  { pkgWho x.cell.pkg x.launch.vf with cluster := clusterOf x.place.cell, cell := x.place.cell }

/-- The brood-queue entries of a spill translated (R82), with the fault of the first that fails. A home that would answer with an error is
met here too, so that no record is lost (DESIGN CHOICE, log 78). -/
def spillFault (s : State) (flat : Nat) (x : Seat) (v : VCell) (k : Nat) : Option Flt :=
  let w := broodWho x
  (List.range k).findSome? fun i =>
    let va := x.launch.ready.broodEntry flat (v.btail + i)
    match resolve s w .store va 32 32 with
    | .error f => some f
    | .ok loc => (homeAnswer s w loc).map fun c => fltAt c va

/-- The identity words that an inline run stores below ls, and an inner tend reads back (R162, R164). -/
def identityWord (c : Ctx) : Word := word (c.origin.toNat * 2 ^ 44 + c.domain.toNat * 2 ^ 32)

/-- A push into a virtual cell's own deque; it ends the wait of a thief (R80). -/
def VCell.push (v : VCell) (r : BitVec 256) : VCell := { v with deque := v.deque ++ [r], fails := 0, wait := 64, waitUntil := 0 }

/-- The k topmost records moved to the brood queue's tail, oldest first (R83). A write that meets an error after all moves the tail on with
the record unwritten (DESIGN CHOICE, log 78: the spec gives no outcome). -/
def State.spill (s : State) (flat : Nat) (x : Seat) (k : Nat) : State :=
  let v := s.vcell x.cell
  let w := broodWho x
  let s := (v.deque.take k).zipIdx.foldl (fun s r =>
    match cellStore s w (x.launch.ready.broodEntry flat (v.btail + r.2)) (leOf 32 r.1.toNat) with
    | .ok s => s
    | .error e => e.2) s
  s.setVcell x.cell { s.vcell x.cell with deque := v.deque.drop k, btail := v.btail + k }

/-- A record's fields (R29). -/
def taskJoin (r : BitVec 256) : Word := r.extractLsb' 64 64
/-- ENTRY (R29). -/
def taskEntry (r : BitVec 256) : Nat := fld r 0 32
/-- DOMAIN (R29). -/
def taskDomain (r : BitVec 256) : BitVec 3 := r.extractLsb' 32 3
/-- ORIGIN (R29). -/
def taskOrigin (r : BitVec 256) : BitVec 20 := r.extractLsb' 44 20

/-- An inline run (R84, R162): the forking task's identity goes below ls, then the child runs as a call. -/
def inlineRun (s : State) (k : Nat) (t : Thread) (x : Seat) (r : BitVec 256) (ret : Word) : Res :=
  let ls := t.ctx.gpr regLs
  orTrap (writeData s k t (ls - 16) (leOf 8 (identityWord t.ctx).toNat) true id) fun s =>
  orTrap (writeData s k t (ls - 8) (leOf 8 t.ctx.joinAddr.toNat) true id) fun s =>
  let s := s.modThread k fun t => t.modCtx fun c =>
    let c := ((c.setGpr 0 (r.extractLsb' 128 64)).setGpr 1 (r.extractLsb' 192 64)).setGpr regLr ret
    { (c.setGpr regLs (ls - 16)).setInl (c.inl + 1) with
      joinAddr := taskJoin r, origin := taskOrigin r, domain := taskDomain r }
  .jump (t.acquire .part s) (x.launch.ready.codeBase + word (taskEntry r))

/-- What the identity words of an inline run would meet, before anything changes. -/
def inlineFault (s : State) (t : Thread) : Option Flt :=
  let ls := t.ctx.gpr regLs
  match resolve s (s.whoOf t) .store (ls - 16) 8 8, resolve s (s.whoOf t) .store (ls - 8) 8 8 with
  | .error f, _ => some f
  | _, .error f => some f
  | _, _ => none

/-- fork once its record has passed its checks (R162). -/
def forkRecord (i : Instr) (s : State) (k : Nat) (t : Thread) (x : Seat) (r0 : BitVec 256) : Res :=
  let r := putFld r0 44 20 t.flat
  let v := s.vcell x.cell
  let how := forkTo x v t.ctx.inl
  let fault : Option Flt := match how with
    | .spill n => spillFault s t.flat x v n
    | .inline => inlineFault s t
    | _ => none
  orStay (s.awaitsGen t .part) s <|
  match how, fault with
  | .wait, _ => .park s .inline
  | _, some f => .trap s f
  | _, none =>
    let joined : Except (State × Flt) State :=
      if taskJoin r = 0 then .ok s else (rmw s k t .atomic (taskJoin r) 8 (fun n => n + 1) id).map Prod.snd
    orTrap joined fun s =>
    let s := t.release .part s
    match how with
    | .push => .next (s.setVcell x.cell ((s.vcell x.cell).push r))
    | .spill n =>
      let s := s.spill t.flat x n
      .next (s.setVcell x.cell ((s.vcell x.cell).push r))
    | _ => inlineRun s k t x r (nextPc i t.ctx)

/-- fork (R162). In a gang, and in a thread without a launch, it is illegal (R169). -/
def execFork (a : Reg) (s : State) : Host.Outcome State Fault Refusal :=
  issue (.fork a) s fun s k t =>
    let va := t.ctx.gpr a
    if t.inGang then .trap s { code := fIllegal }
    else if fld va 0 3 ≠ 0 then .trap s (fltAt fMisaligned va)
    else orTrap ((s.drainV k).waitRx k) fun s =>
      let t := (s.thread? k).getD t
      orTrap (readRecord s t va) fun r =>
      let codeLen := ((r.2.seat t).map fun x => x.launch.ready.codeLen).getD 0
      match badTask r.1 codeLen, r.2.seat t with
      | some n, _ => .trap r.2 { code := fIllegal, detail := word n }
      | none, none => .trap r.2 { code := fIllegal }
      | none, some x =>
        let cls := fld (taskJoin r.1) 56 8
        if taskJoin r.1 ≠ 0 ∧ 0x40 ≤ cls ∧ cls ≤ 0x47 ∧ taskDomain r.1 ≠ 0 then
          .trap r.2 (fltAt fAddress (taskJoin r.1))
        else forkRecord (.fork a) r.2 k t x r.1

/-! ### join (R161, R163) -/

/-- What join does to its word: done, suspend or conflict. -/
def joinWord (tid : BitVec 32) (w : Nat) : Nat × Option Bool :=
  let count := w % 2 ^ 32
  let waiter := w / 2 ^ 32
  if count = 0 then (if waiter = tid.toNat then (0, some true) else (w, some true))
  else if waiter = 0 ∨ waiter = tid.toNat then (tid.toNat * 2 ^ 32 + count, some false)
  else (w, none)

/-- A thread moved whole into the context cache of its cell (R163, R441): the entry is written now. -/
def State.toCache (s : State) (k : Nat) (resumable : Bool) (run : Run) : State :=
  let x := s.tick
  match x.2.thread? k with
  | none => x.2
  | some t =>
    (x.2.setThread k { t with place := .cache t.pcell resumable x.1, run := run, preempt := none, spilled := false }).spillOver t.pcell

/-- join (R163). -/
def execJoin (a : Reg) (s : State) : Host.Outcome State Fault Refusal :=
  issue (.join a) s fun s k t =>
    let va := t.ctx.gpr a
    if t.inGang then .trap s { code := fIllegal }
    else if fld va 0 3 ≠ 0 then .trap s (fltAt fMisaligned va)
    else orTrap ((s.drainV k).waitRx k) fun s =>
      let t := (s.thread? k).getD t
      orTrap (rmw s k t .atomic va 8 (fun w => (joinWord t.tid w).1) id) fun r =>
      match (joinWord t.tid r.1).2 with
      | none => .trap r.2 { code := fIllegal }
      | some true => .next (t.acquire .part r.2)
      | some false =>
        if t.ctx.wp then .stay (r.2.modThread k fun t => t.modCtx (·.setTstat bitWp false))
        else .stay ((r.2.toCache k false .suspended).modThread k fun t => { t with masks := BitVec.allOnes 40, forced := false })

/-! ### tend (R164) -/

/-- A wake sent (R165, R166). -/
def State.sendWake (s : State) (launch : Nat) (tid : BitVec 32) : State :=
  let x := s.fresh
  { x.2 with wakes := x.2.wakes ++ [⟨x.1, launch, tid⟩] }

/-- Every queue register unbound (R164). -/
def Ctx.unbindAll (c : Ctx) : Ctx := { c with q := Vector.replicate 8 none }

/-- The identity that an inner tend restores: the two words at ls. -/
def readIdentity (s : State) (t : Thread) : Except (State × Flt) ((Nat × Nat) × State) :=
  if t.ctx.inl = 0 then .ok ((0, 0), s)
  else do
    let a ← readData s t (t.ctx.gpr regLs) 8 true
    let b ← readData a.2 t (t.ctx.gpr regLs + 8) 8 true
    .ok ((leVal a.1, leVal b.1), b.2)

/-- tend (R164): queue registers are released, then the join word is decremented and a waiter woken, then an inner task's identity
is restored. -/
def execTend (s : State) : Host.Outcome State Fault Refusal :=
  issue .tend s fun s k t =>
    if t.inGang then .trap s { code := fIllegal }
    else orTrap ((s.drainV k).waitRx k) fun s =>
      let j := t.ctx.joinAddr
      orStay (j != 0 && s.awaitsGen ((s.thread? k).getD t) .part) s <|
      let s := s.modThread k fun t => t.modCtx Ctx.unbindAll
      let t := (s.thread? k).getD t
      let dec : Except (State × Flt) (Nat × State) :=
        if j = 0 then .ok (0, s) else rmw s k t .atomic j 8 (fun n => n + (2 ^ 64 - 1)) (t.release .part)
      orTrap dec fun r =>
      let waiter := r.1 / 2 ^ 32
      let s := if j ≠ 0 ∧ r.1 % 2 ^ 32 = 1 ∧ waiter ≠ 0 then r.2.sendWake t.launch (BitVec.ofNat 32 waiter) else r.2
      if t.ctx.inl = 0 then .stay ((s.keepHeld k).endThread k)
      else orTrap (readIdentity s ((s.thread? k).getD t)) fun id =>
        let w := word id.1.1
        .jump (id.2.modThread k fun t => t.modCtx fun c =>
          { (c.setGpr regLs (c.gpr regLs + 16)).setInl (c.inl - 1) with
            joinAddr := word id.1.2, origin := w.extractLsb' 44 20, domain := w.extractLsb' 32 3 }) (t.ctx.gpr regLr)

/-! ### yield, sleep, wfw, wake (R165) -/

/-- The other threads of a cell that are ready in its slots. -/
def State.readyOthers (s : State) (k : Nat) (c : PCell) : List Nat :=
  s.threads.filterMap fun x => if x.1 ≠ k ∧ x.2.inSlotOf c ∧ s.mayIssue x.2 then some x.1 else none

/-- Whether a resumable context waits for a slot of a cell. -/
def State.waitsForSlot (s : State) (c : PCell) : Bool := s.threads.any fun x => match x.2.place with
  | .cache c' true _ => c' == c
  | _ => false

/-- A yield: the thread waits for the others; where a context waits for a slot and the next instruction is a safe point, a pre-emption
is requested there. -/
def yieldBody (i : Instr) : Body := fun s k t =>
  if t.inGang then .trap s { code := fIllegal }
  else
    let s := s.commit k (nextPc i t.ctx)
    let others := s.readyOthers k t.pcell
    match s.thread? k with
    | none => .stay s
    | some t =>
      let ask := s.waitsForSlot t.pcell && (s.liveMask t).isSome && t.preempt.isNone
      .stay (s.setThread k { t with
        run := .yielded others, preempt := if ask then some (s.cycOf t) else t.preempt })

/-- yield (R165). -/
def execYield (s : State) : Host.Outcome State Fault Refusal := issue .yield s (yieldBody .yield)

/-- sleep: until the commit's dclk plus the count; 0 acts as yield (R165). It commits when the count has run out (R144). -/
def execSleep (a : Reg) (s : State) : Host.Outcome State Fault Refusal :=
  issue (.sleep a) s fun s k t =>
    let n := min (t.ctx.gpr a).toNat (2 ^ 32 - 1)
    if t.inGang then .trap s { code := fIllegal }
    else if n = 0 then yieldBody (.sleep a) s k t
    else .stay (s.modThread k fun t => { t with run := .sleeping (s.cycOf t + 9 + n) })

/-- wfw: passes and clears WP, or parks (R165). -/
def execWfw (s : State) : Host.Outcome State Fault Refusal :=
  issue .wfw s fun s k t =>
    if t.inGang then .trap s { code := fIllegal }
    else if t.ctx.wp then .next (s.modThread k fun t => t.modCtx (·.setTstat bitWp false))
    else .park s .wfw

/-- wake (R165). -/
def execWake (a : Reg) (s : State) : Host.Outcome State Fault Refusal :=
  issue (.wake a) s fun s _ t => .next (s.sendWake t.launch ((t.ctx.gpr a).extractLsb' 0 32))

/-- A wake reaches its thread (R165, R166): a thread parked in wfw commits, a suspended one becomes resumable, one that ctxld holds parked becomes
resumable too (R450), otherwise WP is set. A wake that finds no thread of its launch is discarded. -/
def execWakeDelivery (msg : Nat) (s : State) : Host.Outcome State Fault Refusal :=
  .next (match s.wakes.find? fun w => w.id == msg with
    | none => s
    | some w =>
      let s := { s with wakes := s.wakes.filter fun x => x.id != msg }
      match s.threads.find? fun x => x.2.tid == w.tid && x.2.launch == w.launch && !x.2.nurse with
      | none => s
      | some (k, t) => match t.run, t.place with
        | .parked .wfw _, _ => s.commit k (nextPc .wfw t.ctx)
        | .suspended, .cache c false _ =>
          let x := s.tick
          x.2.setThread k { t with place := .cache c true x.1, run := .ready }
        | _, .cache c false _ =>
          if t.gang = .none ∧ !(s.cell c).capped then s.tick.2.setThread k { t with place := .cache c true s.tick.1 }
          else s.setThread k (t.modCtx (·.setTstat bitWp true))
        | _, _ => s.setThread k (t.modCtx (·.setTstat bitWp true)))

/-- A sleeping thread's count has run out: its sleep commits (R144, R165). -/
def execSleepExpiry (thread : Nat) (s : State) : Host.Outcome State Fault Refusal :=
  .next (match s.thread? thread with
    | some t => match t.run with
      | .sleeping n => if n ≤ s.cycOf t then s.commit thread (nextPc (.sleep 0) t.ctx) else s
      | _ => s
    | none => s)

/-! ### fly (R90, R91, R166) -/

/-- Whether a thread's home cell can note where it is to run: no entry is needed at home, and otherwise it has one, or one of 64 is free
(R166). -/
def State.awayFree (s : State) (t : Thread) (flat : Nat) : Bool :=
  match s.seatAt t.launch (tidHome t.tid) with
  | none => true
  | some x =>
    let v := s.vcell x.cell
    tidHome t.tid == flat || (look? t.tid v.away).isSome || decide (v.away.length < 64)

/-- The away-table entry of a thread that runs, or is about to run, at a flat number. -/
def State.noteAway (s : State) (t : Thread) (flat : Nat) : State :=
  match s.seatAt t.launch (tidHome t.tid) with
  | none => s
  | some x =>
    let v := s.vcell x.cell
    s.setVcell x.cell { v with
      away := if tidHome t.tid = flat then dropAt t.tid v.away else putAt t.tid flat v.away }

/-- fly (R90): the thread leaves for another virtual cell; its slot stays parked until the message arrives (R91). Its away-table entry is taken
as it leaves, and one that its home needs no more is cleared at the arrival (R166). -/
def execFly (a : Reg) (s : State) : Host.Outcome State Fault Refusal :=
  issue (.fly a) s fun s k t =>
    let f := (t.ctx.gpr a).toNat
    match s.seat t, s.seatAt t.launch f with
    | some x, some y =>
      if t.inGang || t.ctx.q.toList.any Option.isSome then .trap s { code := fIllegal }
      else orTrap ((s.drainV k).waitRx k) fun s =>
        let t := (s.thread? k).getD t
        if f = t.flat then .next s
        else if !s.awayFree t f then .park s .fly
        else if !s.reaches x.cell.pkg (s.cell t.pcell).bank y.cell.pkg then .trap s { code := fUncorrectable }
        else orStay (s.awaitsGen t .part) s <| match t.place with
          | .slot c n =>
            let s := t.release .part s
            let s := if tidHome t.tid = f then s else s.noteAway t f
            .park (s.modThread k fun t => { t with place := .flying c n y.cell f }) .fly
          | _ => .park s .fly
    | _, _ => .trap s { code := fIllegal }

/-- A slot of the slot set that holds no thread and is not reserved (R73, R88); none while the cluster is being quiesced. -/
def State.freeSlot (s : State) (x : Seat) : Option Nat :=
  let v := s.vcell x.cell
  if s.still (clusterOf x.place.cell) then none
  else (List.range (if x.place.fold = 0 then x.launch.ready.slots else 16)).find? fun n =>
    !(s.threads.any fun y => y.2.slot? == some (x.place.cell, n)) && !(v.reserved.any fun r => r.1 == n)

/-- The context-cache entries that a physical cell holds on chip (R443). -/
def State.cacheCount (s : State) (c : PCell) : Nat := (s.onChip c).length

/-- A flying thread as it reads at its destination (R91). -/
def Ctx.landed (c : Ctx) (seg : Nat) : Ctx :=
  { c with
    v := Vector.replicate 16 0, q := Vector.replicate 8 none, vflags := 0, seg := word seg, head := none, vq := []
    pc := c.pc + 4 }

/-- A held fault context as it moves with a flight: to the backing region of the destination (R91, R443), its SEG that of the source, which
urte brings back (DESIGN CHOICE, log 79). -/
def FaultCtx.moved (f : FaultCtx) : FaultCtx := { f with spilled := true }

/-- A repeat record on another die's counter. -/
def Repeat.anew (now : Nat) (r : Repeat) : Repeat := { r with first := now }

/-- A wait on another die's counter: a limit begins anew, a sleep keeps what is left of its count. -/
def Run.anew (was now : Nat) : Run → Run
  | .parked w _ => .parked w now
  | .sleeping n => .sleeping (now + (n - was))
  | .refused _ _ => .refused now now
  | .resent _ => .resent now
  | r => r

/-- What a thread measures on its die's counter, which read `was`, as it goes on at a die whose counter reads `now`: no duration runs across
dies (R4), and each begins anew (DESIGN CHOICE, log 100). -/
def Thread.anew (t : Thread) (was now : Nat) : Thread :=
  { t with
    run := t.run.anew was now, preempt := t.preempt.map fun _ => now, watch := t.watch.map (Repeat.anew now)
    trapRep := t.trapRep.map (Repeat.anew now), slotSince := now, heldSince := t.heldSince.map fun _ => now
    fctx := t.fctx.map fun o => o.map fun f => { f with rep := f.rep.anew now } }

/-- Whether two cells are on one die (R4). -/
def sameDie (a b : PCell) : Bool := a.pkg == b.pkg && a.die == b.die

/-- A flying thread reaches its destination (R91): it takes a free slot, else an on-chip context-cache entry; where neither is free its
source slot stays parked. What it carries is whole: no mask of an earlier pre-emption stays with it (R21). -/
def execFlyArrival (thread : Nat) (s : State) : Host.Outcome State Fault Refusal :=
  .next (match s.thread? thread with
    | none => s
    | some t => match t.place with
      | .flying _ _ _ f => match s.seatAt t.launch f with
        | none => s
        | some y =>
          let land (p : Place) (s : State) : State :=
            let from_ := t.flat
            let t' := { t with
              ctx := t.ctx.landed (y.launch.ready.segOf y.place), place := p, flat := f, run := .ready, watch := none, masks := BitVec.allOnes 40
              forced := false, spilled := false, fctx := t.fctx.map fun o => o.map FaultCtx.moved
              slotSince := s.cyc y.cell.pkg y.cell.die }
            let t' := if sameDie t.pcell y.place.cell then t' else t'.anew (s.cycOf t) (s.cyc y.cell.pkg y.cell.die)
            let s := (s.setThread thread t').noteAway t f
            let s := s.setVcell y.cell ((s.vcell y.cell).opened t.launch)
            (acquireAt s y.place.cell .part).closeIfEmpty t.launch from_
          if (s.cell y.place.cell).capped then s
          else match s.freeSlot y with
            | some n => land (.slot y.place.cell n) s
            | none =>
              if s.cacheCount y.place.cell < 64 then
                let x := s.tick
                land (.cache y.place.cell true x.1) x.2
              else s
      | _ => s)

end Sys2Proof.Machine
end

