-- ==== Sys2Proof/Machine/Gang.lean ====
section
/-! DEFINITION. Gangs (R87 to R89, R168 to R170) and the thread serials that a start takes (R154). -/
namespace Sys2Proof.Machine
open Sys2Proof

/-! ### Serials (R154) -/

/-- The first serial after the last that is neither 0 nor held by a live thread of the same HOME and HSLOT. Fuel 256. -/
def nextSerial (live : List (BitVec 8)) : Nat → BitVec 8 → BitVec 8
  | 0, x => x + 1
  | fuel + 1, x => if x + 1 = 0 ∨ live.contains (x + 1) then nextSerial live fuel (x + 1) else x + 1

/-- A TID for a start in a slot of a virtual cell, and the state that has given it. -/
def State.newTid (s : State) (c : LCell) (flat slot : Nat) : Word × State :=
  let v := s.vcell c
  let live := s.threads.filterMap fun x =>
    if tidHome x.2.tid = flat ∧ fld x.2.tid 8 4 = slot ∧ !x.2.nurse ∧
        ((s.launch? x.2.launch).bind fun l => l.ready.lcell flat) = some c then some (x.2.tid.extractLsb' 0 8) else none
  let ser := nextSerial live 256 (v.serials.toList.getD slot 0)
  (word (flat % 2 ^ 20 * 2 ^ 12 + slot % 16 * 2 ^ 8 + ser.toNat),
    s.setVcell c { v with serials := setIdx v.serials slot ser })

/-! ### Formation (R87, R88, R168) -/

/-- The members of a gang. -/
def GangWidth.size : GangWidth → Nat
  | .two => 2 | .four => 4 | .eight => 8

/-- The seats of the other members of a gang of width w: unfolded cells of one launch. None where the leader's cell is in no such group
(R87), nor where the leader's cell is unfolded and another member's is folded or absent: gang raises ILLEGAL_INSN there too (DESIGN
CHOICE, log 81). -/
def State.gangSeats (s : State) (t : Thread) (w : Nat) : Option (List (Nat × Seat)) :=
  let f0 := t.flat / w * w
  let ms := (List.range w).filterMap fun i => (s.seatAt t.launch (f0 + i)).bind fun x =>
    if x.place.fold = 0 then some (f0 + i, x) else none
  if ms.length = w then some (ms.filter fun m => m.1 != t.flat) else none

/-- A member's slot reserved, where it holds no thread and no other gang has it (R88). A cell that its swarm message has not yet woken can be
reserved too; the wake then starts the thread of that slot in the context cache (DESIGN CHOICE, log 82). -/
def State.reserveSlot (s : State) (k slot : Nat) (x : Seat) : State :=
  let v := s.vcell x.cell
  let taken := s.threads.any fun y => y.2.slot? == some (x.place.cell, slot)
  if taken || (s.cell x.place.cell).capped || v.reserved.any (fun r => r.1 == slot) then s
  else s.setVcell x.cell { v with reserved := v.reserved ++ [(slot, k)] }

/-- Whether a leader holds the slot of a member. -/
def State.isReserved (s : State) (k slot : Nat) (x : Seat) : Bool := (s.vcell x.cell).reserved.contains (slot, k)

/-- A follower as it is formed (R168): the leader's registers with g3 and g4 its own, TSTAT with GFL, a TID of its own. -/
def followerOf (lead : Nat) (t : Thread) (slot f0 : Nat) (pc tid : Word) (m : Nat × Seat) : Thread :=
  let c := t.ctx
  { ctx := { pc := pc, tstat := putFld c.tstat bitGfl 1 1, tid := tid, seg := word (m.2.launch.ready.segOf m.2.place)
             wlim := word m.2.launch.ready.wlimdef
             g := (c.g.set 3 (word m.1)).set 4 (word (m.1 - f0)) }
    place := .slot m.2.place.cell slot, vf := t.vf, launch := t.launch, flat := m.1, vslot := slot, gang := .follower lead }

/-- The followers of a gang made one after the other. -/
def State.addFollowers (s : State) (lead : Nat) (t : Thread) (slot f0 : Nat) (pc : Word) :
    List (Nat × Seat) → List Nat × State
  | [] => ([], s)
  | m :: ms =>
    let x := s.newTid m.2.cell m.1 slot
    let f := x.2.fresh
    let u := { followerOf lead t slot f0 pc x.1 m with slotSince := s.cyc m.2.place.cell.pkg m.2.place.cell.die }
    let r := (f.2.setThread f.1 u).addFollowers lead t slot f0 pc ms
    (f.1 :: r.1, r.2)

/-- gang (R168): reserves the slots of the other members, waits until it has them all, then forms. -/
def execGang (w : GangWidth) (s : State) : Host.Outcome State Fault Refusal :=
  issue (.gang w) s fun s k t =>
    match t.place, s.seat t, s.gangSeats t (GangWidth.size w) with
    | .slot _ n, some x, some ms =>
      if t.inGang || x.place.fold != 0 || decide (x.launch.ready.slots ≤ n) then .trap s { code := fIllegal }
      else
        let s := s.drainV k
        let s := ms.foldl (fun s m => s.reserveSlot k n m.2) s
        if ms.all fun m => s.isReserved k n m.2 then
          let s := s.releaseSlots k
          let pc := nextPc (.gang w) t.ctx
          let r := s.addFollowers k ((s.thread? k).getD t) n (t.flat / (GangWidth.size w) * (GangWidth.size w)) pc ms
          .next (r.2.modThread k fun t => { t.modCtx (·.setTstat bitGld true) with gang := .leader r.1 })
        else .park s .gang
    | _, _, _ => .trap s { code := fIllegal }

/-- The seats that a thread waiting at gang still needs. -/
def State.waitedSeats (s : State) (t : Thread) : List (Nat × Seat) := match t.run, t.waitOpr.instr? with
  | .parked .gang _, some (.gang w) => (s.gangSeats t (GangWidth.size w)).getD []
  | _, _ => []

/-- A slot that has become free is reserved for a gang that waits for it (R88): the first waiting leader whose group holds the cell. -/
def execGangSlotReservation (cell : LCell) (slot : Nat) (s : State) : Host.Outcome State Fault Refusal :=
  let one (x : Nat × Thread) : Option (Nat × Seat) :=
    if x.2.slot?.map Prod.snd = some slot then
      ((s.waitedSeats x.2).find? fun m => m.2.cell == cell).map fun m => (x.1, m.2)
    else none
  .next (match s.threads.findSome? one with
    | some (k, x) => s.reserveSlot k slot x
    | none => s)

/-- ungang: the gang disbands once every member has committed; outside a gang it has no effect (R170). -/
def execUngang (s : State) : Host.Outcome State Fault Refusal :=
  issue .ungang s fun s k _ => .next ((s.drainV k).disband k)

end Sys2Proof.Machine
end

