-- ==== Sys2Proof/Machine/ControlRegs.lean ====
section
/-! DEFINITION. Control registers (R153 to R155, R173 to R175): crr, crw, crs and crc, the writes with rules of their own (WAYS R180, R181;
GROUP R182; WDESC R183; GPIV R353; TCAUSE R436), and the events that stand for them. -/
namespace Sys2Proof.Machine
open Sys2Proof

/-- What a control register reads for a thread (R173). -/
def State.readCreg (s : State) (t : Thread) : CReg → Word
  | .tstat => t.ctx.tstat
  | .tid => t.ctx.tid
  | .seg => t.ctx.seg
  | .ways => (s.cell t.pcell).nscr.zeroExtend 64
  | .group => (s.cell t.pcell).gsz.zeroExtend 64
  | .wlim => t.ctx.wlim
  | .cyc => word (s.cycOf t)
  | .gpiv => t.ctx.gpiv
  | .rtsel => flag (s.cell t.pcell).bank
  | .uvec => t.ctx.uvec
  | .tcause => t.ctx.tcause
  | .tepc => t.ctx.tepc
  | .trec => t.ctx.trec
  | .wdesc n => (s.cell t.pcell).wdesc.toList.getD (n.toNat - 1) 0
  | .tvec => (s.cell t.pcell).tvec

/-- A range of memory that reads zero again, with full/empty bits empty and no stored error. -/
def State.clearRange (s : State) (key n : Nat) : State :=
  let out (k : Nat) : Bool := decide (k < key) || decide (key + n ≤ k)
  { s with mem := s.mem.filter fun (x : Host.Cell) => out x.1, fe := s.fe.filter out, poison := s.poison.filter out }

/-! ### WAYS (R179 to R181) -/

/-- The bytes of a way. -/
def wayBytes : Nat := 2 ^ 16

/-- Whether a destination lock lies in ways m to n - 1 of a cell (R181). -/
def State.waysLocked (s : State) (c : PCell) (m n : Nat) : Bool :=
  let lo := keyOf (.scratch c) (m * wayBytes)
  s.clusters.any fun x => x.2.locks.any fun l => (l.isDst || l.kind == .registration) && !l.isGlobal && overlaps l.lo l.len lo ((n - m) * wayBytes)

/-- The lines in ways of a cell below m, which leave cache, written back and invalidated (R181). -/
def State.flushWays (s : State) (c : PCell) (m : Nat) : State := s.flushWhere fun p l => p == c && decide (l.way < m)

/-- Tile captures of a range of scratch that leaves cut short: their loads stop with ILLEGAL_ADDRESS, and their tile locks are released
(R322, R338). -/
def State.cutCaptures (s : State) (key n : Nat) : State :=
  let hit (l : BankLoad) : Bool := l.phase == 0 && s.clusters.any fun x => x.2.locks.any fun k =>
    k.owner == l.key + 1 && !k.isGlobal && overlaps k.lo k.len key n
  let out := s.omus.filterMap fun x => x.2.load.bind fun l => if hit l then some l.key else none
  let cut (l : BankLoad) : BankLoad := if hit l then { l with phase := 3, status := 0, fcode := fAddress, va := l.tile } else l
  out.foldl (fun s k => s.dropLocks (k + 1))
    { s with omus := s.omus.map fun (x : ClusterId × Omu) => (x.1, { x.2 with load := x.2.load.map cut }) }

/-- Requests parked on words of ways that leave scratch are answered ILLEGAL_ADDRESS (R181, R236). -/
def State.evictParked (s : State) (key n : Nat) : State :=
  s.answerParked (fun p => decide (key ≤ p.req.key) && decide (p.req.key < key + n)) fAddress

/-- Engine commands held for ways that have left scratch raise ILLEGAL_ADDRESS at their threads (R181). -/
def State.evictHeld (s : State) (c : PCell) : State :=
  let out := s.threads.filterMap fun x => match x.2.run with
    | .parked (.held c' va) _ => if c' = c then some (x.1, va, x.2.waitOpr) else none
    | _ => none
  out.foldl (fun s x => takeFault s x.1 (fltAt fAddress x.2.1) x.2.2) s

/-- The split of a cell changed to m scratch ways (R181 step 3). -/
def State.setWays (s : State) (c : PCell) (m : BitVec 5) : State :=
  let n := (s.cell c).nscr.toNat
  let lo := min n m.toNat
  let hi := max n m.toNat
  let s := if n < m.toNat then s.flushWays c m.toNat else s
  let s := s.clearRange (keyOf (.scratch c) (lo * wayBytes)) ((hi - lo) * wayBytes)
  let s := s.setCell c { s.cell c with nscr := m, waysPending := none }
  let key := keyOf (.scratch c) (lo * wayBytes)
  let len := (hi - lo) * wayBytes
  if m.toNat < n then ((s.cutCaptures key len).evictParked key len).evictHeld c else s

/-- A write of WAYS (R180, R181): refused values and folded cells fault, at user privilege with PRIVILEGE on a folded cell whatever the value
is (DESIGN CHOICE, log 93); a smaller split waits for locks in the leaving ways; a second
writer waits for the first without parking. -/
def writeWays (s : State) (k : Nat) (t : Thread) (v : Word) : Res :=
  let c := t.pcell
  let x := s.cell c
  let m : BitVec 5 := v.extractLsb' 0 5
  if (s.ownPlace t).fold ≠ 0 ∧ !t.ctx.priv then .trap s { code := fPrivilege }
  else if 16 < m.toNat then .trap s { code := fIllegal }
  else match x.waysPending with
    | some (j, _) =>
      if j = k then
        if s.waysLocked c m.toNat x.nscr.toNat then .park s .ways else .next (s.setWays c m)
      else .stay s
    | none =>
      if m = x.nscr then .next s
      else if m.toNat < x.nscr.toNat ∧ s.waysLocked c m.toNat x.nscr.toNat then
        .park (s.setCell c { x with waysPending := some (k, m) }) .ways
      else .next (s.setWays c m)

/-! ### Other registers -/

/-- The victim lines that a cell holds for other members go home (R182). -/
def State.dropVictims (s : State) (c : PCell) : State :=
  s.flushWhere fun m l => m == c && l.owner.isSome && l.owner != some c

/-- A write of GROUP (R182). -/
def State.writeGroup (s : State) (c : PCell) (v : Word) : State :=
  let s := s.dropVictims c
  s.setCell c { s.cell c with gsz := v.extractLsb' 0 2 }

/-- Whether a value is one that WDESC takes (R183). -/
def wdescOk (v : Word) : Bool :=
  [0, 1, 4, 5, 8, 9, 12, 13, 14, 15, 16].contains (fld v 0 5) &&
    fld v 8 5 == (if 15 ≤ fld v 0 5 then 5 else 0) && fld v 24 6 == 0

/-- A WDESC value with its reserved bits zero (R183). -/
def wdescMask (v : Word) : Word := v &&& 0xFFFFFFFFFF001F1F

/-- A write of WLIM: below 256 it stores 256 (R155). -/
def wlimValue (v : Word) : Word := word (max 256 (fld v 0 32))

/-- A write of GPIV: a negative number or a NaN stores 0 (R353). -/
def gpivValue (v : Word) : Word :=
  let x := fld v 0 32
  if v.getLsbD 31 || (f32.decode x).isNan then 0 else word x

/-- A write of TCAUSE: PHD 0 discards a pending head, PHD 1 without one is ignored (R436). -/
def Ctx.writeTcause (c : Ctx) (v : Word) : Ctx :=
  let base := v &&& 0xFFF
  match c.head with
  | some h =>
    if h.isOpen then { c with tcause := base }
    else if v.getLsbD 15 then { c with tcause := base ||| 0x8000 } else { c with tcause := base, head := none }
  | none => { c with tcause := base }

/-- A write of a control register by a thread (R174). Fields that are read-only or reserved ignore the bits written to them. -/
def writeCreg (s : State) (k : Nat) (t : Thread) (r : CReg) (v : Word) : Res :=
  let ctx (f : Ctx → Ctx) : Res := .next (s.modThread k fun t => t.modCtx f)
  match r with
  | .tstat => ctx fun c => { c with tstat := putFld c.tstat 4 1 (fld v 4 1) }
  | .tid => .next s
  | .cyc => .next s
  | .rtsel => .next s
  | .seg => if t.ctx.priv then ctx fun c => { c with seg := v &&& 0xF0000 } else .trap s { code := fPrivilege }
  | .ways => writeWays s k t v
  | .group => .next (s.writeGroup t.pcell v)
  | .wlim => ctx fun c => { c with wlim := wlimValue v }
  | .gpiv => ctx fun c => { c with gpiv := gpivValue v }
  | .uvec => ctx fun c => { c with uvec := alignDown v 2 }
  | .tcause => ctx fun c => c.writeTcause v
  | .tepc => ctx fun c => { c with tepc := v }
  | .trec => ctx fun c => { c with trec := alignDown v 7 }
  | .wdesc n =>
    if wdescOk v then
      let x := s.cell t.pcell
      .next (s.setCell t.pcell { x with wdesc := setIdx x.wdesc (n.toNat - 1) (wdescMask v) })
    else .trap s { code := fIllegal }
  | .tvec =>
    if t.ctx.priv then .next (s.setCell t.pcell { s.cell t.pcell with tvec := alignDown v 13 })
    else .trap s { code := fPrivilege }

/-- crr: CYC reads as of the issue (R173); TVEC is the supervisor's (R174). -/
def execCrr (d : Reg) (creg : CReg) (s : State) : Host.Outcome State Fault Refusal :=
  issue (.crr d creg) s fun s k t =>
    if creg == .tvec && !t.ctx.priv then .trap s { code := fPrivilege }
    else .next (s.setReg k d (s.readCreg t creg))
/-- crw (R173). -/
def execCrw (creg : CReg) (a : Reg) (s : State) : Host.Outcome State Fault Refusal :=
  issue (.crw creg a) s fun s k t => writeCreg s k t creg (t.ctx.gpr a)
/-- crs: value or g[A], read and written as one step (R173). -/
def execCrs (creg : CReg) (a : Reg) (s : State) : Host.Outcome State Fault Refusal :=
  issue (.crs creg a) s fun s k t => writeCreg s k t creg (s.readCreg t creg ||| t.ctx.gpr a)
/-- crc: value and not g[A] (R173). -/
def execCrc (creg : CReg) (a : Reg) (s : State) : Host.Outcome State Fault Refusal :=
  issue (.crc creg a) s fun s k t => writeCreg s k t creg (s.readCreg t creg &&& ~~~t.ctx.gpr a)

/-! ### The writes as events -/

/-- A write of a register by a live thread, apart from the instruction that makes it: the register takes its value, or the thread its
fault; where it has to wait, it parks, but a thread that waits already makes no such write. -/
def writeEvent (thread : Nat) (r : CReg) (v : Word) (s : State) : State := match s.thread? thread with
  | none => s
  | some t => match writeCreg s thread t r v with
    | .next s => s
    | .jump s _ => s
    | .stay s => s
    | .trap s f => takeFault s thread f {}
    | .park s' why => if t.goesOn then s'.parkOn thread why {} else s

/-- WAYS written (R180). -/
def execWaysWrite (thread : Nat) (value : Word) (s : State) : Host.Outcome State Fault Refusal :=
  .next (writeEvent thread .ways value s)
/-- GROUP written (R182). -/
def execGroupWrite (cell : PCell) (value : Word) (s : State) : Host.Outcome State Fault Refusal :=
  .next (s.writeGroup cell value)
/-- A WDESC register written (R183). -/
def execWdescWrite (thread : Nat) (n : BitVec 3) (value : Word) (s : State) : Host.Outcome State Fault Refusal :=
  .next (if n = 0 then s else writeEvent thread (.wdesc n) value s)
/-- WLIM written (R155). -/
def execWlimWrite (thread : Nat) (value : Word) (s : State) : Host.Outcome State Fault Refusal :=
  .next (writeEvent thread .wlim value s)
/-- GPIV written (R353). -/
def execGpivWrite (thread : Nat) (value : Word) (s : State) : Host.Outcome State Fault Refusal :=
  .next (writeEvent thread .gpiv value s)
/-- TCAUSE written (R436). -/
def execTcauseWrite (thread : Nat) (value : Word) (s : State) : Host.Outcome State Fault Refusal :=
  .next (writeEvent thread .tcause value s)

/-- A change of WAYS that waited for locks is carried out once they are released, and the write commits (R181). -/
def execWaysChange (cell : PCell) (s : State) : Host.Outcome State Fault Refusal :=
  let x := s.cell cell
  .next (match x.waysPending with
    | some (k, m) =>
      if s.waysLocked cell m.toNat x.nscr.toNat then s
      else
        let s := s.setWays cell m
        match s.thread? k with
        | some t => match t.run, t.waitOpr.instr? with
          | .parked .ways _, some i => s.commit k (nextPc i t.ctx)
          | .parked .ways _, none => s.setThread k { t with run := .ready }
          | _, _ => s
        | none => s
    | none => s)

end Sys2Proof.Machine
end

