-- ==== Sys2Proof/Machine/Shake.lean ====
section
/-! DEFINITION. SHAKE256, which measures, binds phase images and names certificates (R42, R289, R420), and CRC-32C over a block (R403).
The spec names both and gives neither's text: they are the published functions (log 15). -/
namespace Sys2Proof.Machine
open Sys2Proof

/-- The round constants of Keccak-f[1600]. -/
def keccakRc : List Word :=
  [0x0000000000000001, 0x0000000000008082, 0x800000000000808A, 0x8000000080008000, 0x000000000000808B, 0x0000000080000001,
   0x8000000080008081, 0x8000000000008009, 0x000000000000008A, 0x0000000000000088, 0x0000000080008009, 0x000000008000000A] ++
  [0x000000008000808B, 0x800000000000008B, 0x8000000000008089, 0x8000000000008003, 0x8000000000008002, 0x8000000000000080,
   0x000000000000800A, 0x800000008000000A, 0x8000000080008081, 0x8000000000008080, 0x0000000080000001, 0x8000000080008008]

/-- The rotation of lane (x, y), at index x + 5y. -/
def keccakRot : List Nat :=
  [0, 1, 62, 28, 27, 36, 44, 6, 55, 20, 3, 10, 43, 25, 39, 41, 45, 15, 21, 8, 18, 2, 61, 56, 14]

/-- A lane of the state. -/
def kLane (a : List Word) (x y : Nat) : Word := a.getD (x % 5 + 5 * (y % 5)) 0

/-- One round: theta, rho and pi, chi, iota. -/
def keccakRound (a : List Word) (rc : Word) : List Word :=
  let c := (List.range 5).map fun x => kLane a x 0 ^^^ kLane a x 1 ^^^ kLane a x 2 ^^^ kLane a x 3 ^^^ kLane a x 4
  let col (x : Nat) : Word := c.getD (x % 5) 0
  let a := (List.range 25).map fun i => a.getD i 0 ^^^ (col (i % 5 + 4) ^^^ (col (i % 5 + 1)).rotateLeft 1)
  -- lane (x, y) of b comes from lane (x + 3y, x), rotated
  let b := (List.range 25).map fun i =>
    let j := (i % 5 + 3 * (i / 5)) % 5 + 5 * (i % 5)
    (a.getD j 0).rotateLeft (keccakRot.getD j 0)
  (List.range 25).map fun i =>
    let x := i % 5
    let y := i / 5
    let v := kLane b x y ^^^ (~~~(kLane b (x + 1) y) &&& kLane b (x + 2) y)
    if i = 0 then v ^^^ rc else v

/-- Keccak-f[1600]. -/
def keccakF (a : List Word) : List Word := keccakRc.foldl keccakRound a

/-- The lanes of 136 bytes, zero above. -/
def blockLanes64 (bs : List Byte) : List Word := (List.range 25).map fun i => BitVec.ofNat 64 (leVal ((bs.drop (8 * i)).take 8))

/-- Blocks of 136 bytes absorbed in turn. Fuel bounds the blocks. -/
def absorb : Nat → List Word → List Byte → List Word
  | 0, a, _ => a
  | n + 1, a, bs =>
    if bs.isEmpty then a
    else absorb n (keccakF ((a.zip (blockLanes64 (bs.take 136))).map fun x => x.1 ^^^ x.2)) (bs.drop 136)

/-- A message padded to whole blocks: 1F, zeros, 80 in the last byte. -/
def shakePad (m : List Byte) : List Byte :=
  let z := 135 - m.length % 136
  if z = 0 then m ++ [0x9F] else m ++ [0x1F] ++ List.replicate (z - 1) 0 ++ [0x80]

/-- The first n bytes of SHAKE256, for n up to 136. -/
def shake256 (m : List Byte) (n : Nat) : List Byte :=
  let a := absorb (m.length / 136 + 1) (List.replicate 25 0) (shakePad m)
  (a.flatMap fun w => leOf 8 w.toNat).take n

/-- One bit of the reflected CRC-32C. -/
def crcBit (c : BitVec 32) : BitVec 32 := if c.getLsbD 0 then (c >>> 1) ^^^ 0x82F63B78 else c >>> 1

/-- One byte of CRC-32C. -/
def crcByte (c : BitVec 32) (b : Byte) : BitVec 32 :=
  let c := c ^^^ b.zeroExtend 32
  crcBit (crcBit (crcBit (crcBit (crcBit (crcBit (crcBit (crcBit c)))))))

/-- CRC-32C: all ones before and after (R399, R403). -/
def crc32c (bs : List Byte) : BitVec 32 := ~~~(bs.foldl crcByte (BitVec.allOnes 32))

end Sys2Proof.Machine
end

