-- ==== Sys2Proof/Machine/Fabric.lean ====
section
/-! DEFINITION. The package routers (R391 to R397, R402): packets on their way, combining, coding, multicast splitting and error replies. -/
namespace Sys2Proof.Machine
open Sys2Proof

/-! ### Packets -/

/-- The packages that a bit string names. -/
def bitsOf (b : BitVec 512) : List Nat := (List.range 512).filter fun k => b.getLsbD k

/-- The bit string of packages. -/
def bitsFrom (l : List Nat) : BitVec 512 := l.foldl (fun b k => b ||| (1#512 <<< k)) 0

/-- The destinations of a packet. -/
def Packet.dests (p : Packet) : List Nat := if p.mcast then bitsOf p.bits else [p.dst]

/-- The 256-byte flits that a packet takes on a link, 224 packet bytes each (R394, R411). -/
def Packet.flits (p : Packet) : Nat :=
  let cons := if p.kind == .block || p.kind == .coded then (4 * p.cons.length + 15) / 16 * 16 else 0
  (16 + (if p.mcast then 64 else 0) + cons + p.payload.length + 223) / 224

/-- A packet in the fabric. -/
def State.packet? (s : State) (id : Nat) : Option Packet := s.packets.find? fun p => p.id == id

/-- A packet taken out. -/
def State.dropPacket (s : State) (id : Nat) : State := { s with packets := s.packets.filter fun p => p.id != id }

/-- A packet put into the fabric under a fresh name. -/
def State.addPacket (s : State) (p : Packet) : State :=
  let x := s.fresh
  { x.2 with packets := x.2.packets ++ [{ p with id := x.1 }] }

/-- A packet injected at its source under the generation of the package (R416), of which so many answers are awaited. -/
def State.inject (s : State) (answers : Nat) (p : Packet) : State :=
  let x := s.pkg p.src
  let s := s.setPkg p.src { x with outstanding := putAt x.gen (lookD 0 x.gen x.outstanding + answers) x.outstanding }
  s.addPacket { p with at_ := p.src, hops := 0, gen := x.gen, delivered := false }

/-! ### Answers (R393, R408) -/

/-- The package of the thread that issued a fabric operation. -/
def State.fopHome (s : State) (key : Nat) : Option Nat := (s.fops.find? fun f => f.key == key).map fun f => f.by_.cell.pkg

/-- The operations that await an answer of a destination of a packet, each with its plan entry. -/
def Packet.askers (p : Packet) (d : Nat) : List (Nat × Nat) := match p.kind with
  | .multicast => [(p.op, p.entry)]
  | .block | .coded => (p.cons.filter fun c => c.dsts.getLsbD d).map fun c => (c.op, c.entry)
  | .reduction => p.subs.map fun k => (k, 0)
  | _ => []

/-- The generation of the packet whose answer an operation awaits from a destination. -/
def Fop.genFor (f : Fop) (x : Nat × Nat) : BitVec 16 := lookD f.gen x f.gens

/-- One awaited answer moved to the present generation of its package, the packet being sent again (R416). -/
def State.regen (s : State) (key : Nat) (x : Nat × Nat) : State := match s.fops.find? fun f => f.key == key with
  | none => s
  | some f =>
    if !f.waiting.contains x then s
    else
      let k := f.by_.cell.pkg
      let s := s.ackGen k (f.genFor x)
      let p := s.pkg k
      let s := s.setPkg k { p with outstanding := putAt p.gen (lookD 0 p.gen p.outstanding + 1) p.outstanding }
      { s with fops := s.fops.map fun y => if y.key = key then { y with gens := putAt x p.gen y.gens } else y }

/-- A packet injected again for answers that are awaited already: it is stamped with the present generation of its source (R416). -/
def State.sendAgain (s : State) (p : Packet) : State :=
  let s := p.dests.foldl (fun s d => (p.askers d).foldl (fun s x => s.regen x.1 (x.2, d)) s) s
  s.addPacket { p with gen := (s.pkg p.src).gen, delivered := false }

/-- The answers of a destination put on their way to the operations of a packet, in the destination's generation (R416). -/
def State.answerAll (s : State) (p : Packet) (d : Nat) (f : Packet → Packet) : State :=
  (p.askers d).foldl (fun s x => match s.fopHome x.1 with
    | none => s
    | some h =>
      s.addPacket (f { id := 0, at_ := d, kind := .ack, op := x.1, entry := x.2, gen := (s.pkg d).gen, src := d, dst := h, vf := p.vf
                       bank := p.bank })) s

/-- The error reply for a destination that a router cannot reach (R393). It reaches its requester from there (log 18). -/
def State.errorReply (s : State) (p : Packet) (d : Nat) : State := match p.kind with
  | .ack | .error => s.addPacket { p with kind := .error, at_ := p.dst, delivered := true, poison := true }
  | .fallback =>
    s.addPacket { p with kind := .error, at_ := p.src, delivered := true, poison := true, dst := p.src, src := d }
  | _ => s.answerAll p d fun a => { a with kind := .error, at_ := a.dst, delivered := true, poison := true }

/-! ### Combining (R396) -/

/-- xsum_add of two 32-byte records, where a malformed one enters as R279 gives. -/
def xsumJoin (a b : List Byte) : List Byte :=
  leOf 32 ((xsumEnter (BitVec.ofNat 256 (leVal a))).combine (xsumEnter (BitVec.ofNat 256 (leVal b)))).toBits.toNat

/-- The wait buffer of a router: 512 requests. -/
def waitBuffer : Nat := 512

/-- A port over which flits still run: up, or in DRAIN (R419). -/
def PortRegs.onLink (r : PortRegs) : Bool := r.isUp || r.state == psDrain

/-- The port at the other end of a circuit, where each names the other (log 19). -/
def State.peerPort (s : State) (a q : Nat) : Option (Nat × Nat) :=
  let r := (s.pkg a).port q
  let b := r.peer.toNat
  r.mate.bind fun i =>
    let o := (s.pkg b).port i
    if r.onLink && o.onLink && o.mate == some q && o.peer.toNat == a then some (b, i) else none

/-- The links that a packet has crossed for a destination: of a coded one, those of the constituents for it (R391). -/
def Packet.hopsTo (p : Packet) (d : Nat) : Nat :=
  if p.kind == .coded then ((p.cons.filter fun c => c.dsts.getLsbD d).map Con.hops).foldl max 0 else p.hops

/-- The blocks of a package's decode buffer (R403). -/
def decodeBuffer : Nat := 64

/-- Whether the decode buffer of a package is full: it holds the coded packets that have been delivered there (R403). -/
def State.decodeFull (s : State) (k : Nat) : Bool :=
  decide (decodeBuffer ≤ (s.packets.filter fun x => x.at_ == k && x.delivered && x.kind == .coded).length)

/-- The way of a packet to a destination now: a port must be OPEN and have room in its replay buffer (R412, R417), its peer's port up too
(R419), and its flit counter must stay below 2^48, or nothing be unacknowledged so that its key can be updated first (R414). A packet crosses
three routers at most (R391): one that has crossed two links and would leave again cannot go on. A coded packet waits before a full decode
buffer (R403). -/
def State.hop (s : State) (p : Packet) (d : Nat) : Way := match (s.pkg p.at_).way p.at_ p.bank d with
  | .port q =>
    let r := (s.pkg p.at_).port q
    if 2 ≤ p.hopsTo d then .gone
    else if r.state = psOpen ∧ r.unacked.length + p.flits ≤ 1024 ∧ (r.txc + p.flits < 2 ^ 48 ∨ r.unacked = []) ∧
        ((s.peerPort p.at_ q).map fun x => ((s.pkg x.1).port x.2).isUp) = some true then .port q
    else .held
  | .here => if p.kind == .coded && s.decodeFull p.at_ then .held else .here
  | w => w

/-- A reduction combined with the others that wait at its router for a port to the same home, unless the wait buffer is full. -/
def State.combine (s : State) (p : Packet) : Packet × State :=
  let here (x : Packet) : Bool := x.at_ == p.at_ && !x.delivered && x.kind == .reduction
  let alike (x : Packet) : Bool :=
    here x && x.id != p.id && x.vf == p.vf && x.bank == p.bank && x.dst == p.dst && x.addr == p.addr
  if p.kind != .reduction || s.hop p p.dst == .here || decide (waitBuffer < (s.packets.filter here).length) then (p, s)
  else
    let xs := s.packets.filter alike
    (xs.foldl (fun p x => { p with payload := xsumJoin p.payload x.payload, subs := p.subs ++ x.subs, hops := max p.hops x.hops }) p,
      { s with packets := s.packets.filter fun x => !alike x })

/-! ### Links -/

/-- A key update of the sending direction of a port whose flits are all acknowledged (R414): TXC restarts at 0 at both ends. -/
def State.updateKey (s : State) (a q : Nat) : State :=
  let s' := s.modPort a q fun r => { r with txc := 0 }
  match s.peerPort a q with
  | some (b, i) => s'.modPort b i fun r => { r with rxNext := 0 }
  | none => s'

/-- Both ends of a port carry a flit that is not idle (R417). -/
def State.carries (s : State) (a q : Nat) : State :=
  let s' := s.modPort a q fun r => { r with idle := s.clock }
  match s.peerPort a q with
  | some (b, i) => s'.modPort b i fun r => { r with idle := s.clock }
  | none => s'

/-- Flits sent on a port: each takes the next TXC and its place in the replay buffer (R412, R414). -/
def State.sendFlits (s : State) (a q : Nat) (l : List Flit) : State :=
  (s.modPort a q fun r => { r with
    unacked := r.unacked ++ l.zipIdx.map (fun x => (r.txc + x.2, x.1)), txc := r.txc + l.length
    ackAt := if r.unacked.isEmpty then s.clock else r.ackAt }).carries a q

/-- A packet sent on a port, whose key is updated before its counter would reach 2^48. -/
def State.sendOn (s : State) (a q : Nat) (p : Packet) : State :=
  let n := p.flits
  let s := if 2 ^ 48 ≤ ((s.pkg a).port q).txc + n then s.updateKey a q else s
  s.sendFlits a q (List.replicate (n - 1) .part ++ [.last { p with at_ := a, delivered := false }])

/-- A packet that has come over a link to a router. -/
def State.arriveOn (s : State) (b : Nat) (p : Packet) : State :=
  s.addPacket { p with at_ := b, hops := p.hops + 1, cons := p.cons.map (fun c => { c with hops := c.hops + 1 }), delivered := false }

/-- The destinations of a packet whose way is a port. -/
def State.throughPort (s : State) (p : Packet) (q : Nat) : List Nat := p.dests.filter fun d => s.hop p d == .port q

/-! ### Coding (R401, R402) -/

/-- Whether the side-information table of a port says that a package holds a block. -/
def State.sitHolds (s : State) (a q d xid vf bid : Nat) : Bool := (s.pkg a).sit.any fun e =>
  e.port == q && e.pkg == d && e.xid == xid && e.vf == vf && decide (e.lo ≤ bid) && decide (bid ≤ e.hi)

/-- Whether a package has a registration of an exchange that refuses coded blocks. -/
def State.refusesCode (s : State) (d xid : Nat) : Bool := (s.pkg d).regs.any fun r => r.xid == xid && r.desc.getLsbD 8

/-- The one constituent of an uncoded block. -/
def Packet.con (p : Packet) : Con := p.cons.headD ⟨0, 0, 0, 0, 0, 0⟩

/-- Whether two blocks queued at a port may be coded together. -/
def State.codesWith (s : State) (q : Nat) (p r : Packet) : Bool :=
  let dp := s.throughPort p q
  let dr := s.throughPort r q
  r.kind == .block && !r.viaFallback && !r.poison && r.vf == p.vf && r.xid == p.xid && r.bank == p.bank && r.gen == p.gen && r.nsm == p.nsm &&
    r.payload.length == p.payload.length && !dr.isEmpty && (dp.all fun d => !dr.contains d) &&
    (dp.all fun d => s.sitHolds p.at_ q d p.xid p.vf r.con.bid) && (dr.all fun d => s.sitHolds p.at_ q d p.xid p.vf p.con.bid) &&
    (dp ++ dr).all fun d => !s.refusesCode d p.xid

/-- The blocks queued with one at its port that are coded with it: at most three, each fitting all before it. Whether a router codes is
its own choice, a free value. -/
def State.partners (s : State) (q : Nat) (p : Packet) : List Packet :=
  if p.kind != .block || p.viaFallback || p.poison || decide (Config.freeValue s.free % 2 = 0) then []
  else
    let near := s.packets.filter fun r => r.at_ == p.at_ && !r.delivered && r.id != p.id
    near.foldl (fun acc r => if acc.length < 3 ∧ (p :: acc).all (fun x => s.codesWith q x r) then acc ++ [r] else acc) []

/-- The XOR of two payloads. -/
def xorBytes (a b : List Byte) : List Byte := a.zipWith (· ^^^ ·) b

/-- Constituents in ascending order of origin and block id. -/
def insertCon (c : Con) : List Con → List Con
  | [] => [c]
  | x :: l => if c.origin < x.origin ∨ (c.origin = x.origin ∧ c.bid < x.bid) then c :: x :: l else x :: insertCon c l

/-- Blocks as one coded packet. -/
def codedOf (s : State) (q : Nat) (p : Packet) (rs : List Packet) : Packet :=
  let one (x : Packet) : Con := { x.con with dsts := bitsFrom (s.throughPort x q), hops := x.hops }
  { p with
    kind := .coded, mcast := true, bits := (p :: rs).foldl (fun b x => b ||| (one x).dsts) 0
    cons := (p :: rs).foldl (fun l x => insertCon (one x) l) []
    payload := rs.foldl (fun b x => xorBytes b x.payload) p.payload }

/-- What remains of a packet once its destinations through a port are served. -/
def State.trimPacket (s : State) (id : Nat) (done : BitVec 512) : State :=
  { s with packets := s.packets.flatMap fun x =>
      if x.id = id then (if x.bits &&& ~~~done = 0 then [] else [{ x with bits := x.bits &&& ~~~done }]) else [x] }

/-- A packet sent on a port with its destinations there, coded with others where the router does so. -/
def State.forward (s : State) (p : Packet) (q : Nat) : State :=
  let rs := s.partners q p
  let s' := { s with free := s.free + 1 }
  if rs.isEmpty then s'.sendOn p.at_ q (if p.mcast then { p with bits := bitsFrom (s.throughPort p q) } else p)
  else
    let s' := rs.foldl (fun s' r => s'.trimPacket r.id (bitsFrom (s.throughPort r q))) s'
    s'.sendOn p.at_ q (codedOf s q p rs)

/-! ### A router takes a packet (R393, R396, R397) -/

/-- The copy of a packet that is delivered at its router. -/
def Packet.here (p : Packet) : Packet :=
  { p with delivered := true, bits := if p.mcast then bitsFrom [p.at_] else p.bits }

/-- A packet routed: delivered here, answered with an error, held, or sent on, each destination once. -/
def State.routePacket (s : State) (p0 : Packet) : State :=
  let x := s.combine p0
  let p := x.1
  let ds := p.dests
  let s := x.2.dropPacket p.id
  let held := ds.filter fun d => x.2.hop p d == .held
  let ports := (ds.filterMap fun d => match x.2.hop p d with
    | .port q => some q
    | _ => none).eraseDups
  let s := if held.isEmpty then s else { s with packets := s.packets ++ [if p.mcast then { p with bits := bitsFrom held } else p] }
  let s := if ds.any fun d => x.2.hop p d == .here then s.addPacket p.here else s
  let s := (ds.filter fun d => x.2.hop p d == .gone).foldl (fun s d => s.errorReply p d) s
  ports.foldl (fun s q => s.forward p q) s

/-- Whether a router can do something with a packet now. -/
def State.canRoute (s : State) (p : Packet) : Bool := !p.delivered && p.dests.any fun d => s.hop p d != .held

/-- A router takes a packet. -/
def execRouterPacket (packet : Nat) (s : State) : Host.Outcome State Fault Refusal :=
  .next (match s.packet? packet with
    | some p => if s.canRoute p then s.routePacket p else s
    | none => s)

end Sys2Proof.Machine
end

