-- ==== Sys2Proof/Machine/Launch.lean ====
section
/-! DEFINITION. Launching (R45 to R59): host writes to queue windows and to control space, validation of a launch record (R18, R26, R28, R53,
R68), admission, and the wake of a cell. -/
namespace Sys2Proof.Machine
open Sys2Proof

/-! ### Queue windows (R46 to R48) -/

/-- The global number of a function's queue by its local index (R46). -/
def Package.queueOf (p : Package) (vf i : Nat) : Option Nat := ((List.range 1024).filter fun q => (p.queue q).vf == vf)[i]?

/-- A 16-bit count that saturates. -/
def satInc (n : BitVec 16) : BitVec 16 := if n = 0xFFFF then n else n + 1

/-- A window write that is discarded and counted in MALF (R47). -/
def State.malformed (s : State) (pkg q : Nat) : State :=
  let x := (s.pkg pkg).queue q
  s.setQueue pkg q { x with malf := satInc x.malf }

/-- What a host write to a queue window does; outside recovery the package responds (R40). -/
def State.window (s : State) (pkg vf qlocal : Nat) (f : Nat → State) : State :=
  match (s.pkg pkg).queueOf vf qlocal with
  | some q => if (s.pkg pkg).boot = 0x00FF then f q else s
  | none => s

/-- A launch write captured: into a disabled queue it is malformed, into a full FIFO it is lost with an OVERRUN record (R47, R48). -/
def State.capture (s : State) (pkg q : Nat) (r : BitVec 512) : State :=
  let x := (s.pkg pkg).queue q
  if !x.en then s.malformed pkg q
  else if x.fifo.length < 16 then s.setQueue pkg q { x with fifo := x.fifo ++ [r] }
  else (s.setQueue pkg q { x with ovr := satInc x.ovr }).recordNow pkg q r 0x05

/-- A launch write (R48). -/
def execLaunchWrite (pkg vf qlocal : Nat) (rec : BitVec 512) (s : State) : Host.Outcome State Fault Refusal :=
  .next (s.window pkg vf qlocal fun q => s.capture pkg q rec)

/-- A malformed write (R47). -/
def execMalformedWrite (pkg vf qlocal : Nat) (s : State) : Host.Outcome State Fault Refusal :=
  .next (s.window pkg vf qlocal fun q => s.malformed pkg q)

/-- A byte that the host reads in a queue window (R46): QSTAT in bytes 0 to 7, zero elsewhere. A package whose start-up has not succeeded does not
respond (R40); what the host then reads is a free value (log 90). -/
def State.windowByte (s : State) (pkg vf qlocal off : Nat) : Byte :=
  if (s.pkg pkg).boot ≠ 0x00FF then BitVec.ofNat 8 (Config.freeValue (s.free + off))
  else match (s.pkg pkg).queueOf vf qlocal with
  | some q => if off < 8 then ((s.pkg pkg).queue q).qstat.extractLsb' (8 * off) 8 else 0
  | none => 0

/-- A write of CRHEAD through the window (R46, R47, R52): bits [15:0] of the 8 bytes become CRHEAD, the others have no effect (DESIGN CHOICE,
log 90). -/
def execCrheadWrite (pkg vf qlocal : Nat) (value : Word) (s : State) : Host.Outcome State Fault Refusal :=
  .next (s.window pkg vf qlocal fun q =>
    let x := (s.pkg pkg).queue q
    if x.en then s.setQueue pkg q { x with crhead := value.extractLsb' 0 16 } else s.malformed pkg q)

/-- A host write to a queue window is one of the three, by its offset and its bytes (R46, R47, R52). -/
def windowWrite (pkg vf qlocal off : Nat) (bs : List Byte) (s : State) : Host.Outcome State Fault Refusal :=
  if off = 0 ∧ bs.length = 64 then execLaunchWrite pkg vf qlocal (BitVec.ofNat 512 (leVal bs)) s
  else if off = 0x40 ∧ bs.length = 8 then execCrheadWrite pkg vf qlocal (word (leVal bs)) s
  else execMalformedWrite pkg vf qlocal s

/-! ### Writes of the supervisor on the host (R50) -/

/-- A write through BAR 2 of the physical function. -/
def State.hostWrite (s : State) (pkg : Nat) (r : CtlReg) (v : Word) : State :=
  if (s.pkg pkg).boot = 0x00FF then s.ctlWrite pkg none v r else s

/-- A write of QCTL that sets EN (R51). -/
def execQueueEnable (pkg q : Nat) (qctl : Word) (s : State) : Host.Outcome State Fault Refusal :=
  .next (if q < 1024 ∧ qctl.getLsbD 31 then s.hostWrite pkg (.qctl q) qctl else s)

/-- A write of QCTL that clears EN (R51). -/
def execQueueDisable (pkg q : Nat) (qctl : Word) (s : State) : Host.Outcome State Fault Refusal :=
  .next (if q < 1024 ∧ !qctl.getLsbD 31 then s.hostWrite pkg (.qctl q) qctl else s)

/-- A write of any register of control space (R50). -/
def execRegisterWrite (pkg off : Nat) (value : Word) (s : State) : Host.Outcome State Fault Refusal :=
  .next (match ctlReg off with
    | some r => s.hostWrite pkg r value
    | none => s)

/-- A write of PORTSTAT (R421). -/
def execPortstatWrite (pkg port : Nat) (value : Word) (s : State) : Host.Outcome State Fault Refusal :=
  .next (if port < 32 then s.hostWrite pkg (.portstat port) value else s)

/-! ### The fields of a launch record (R27) -/

/-- PRIO. -/
def recPrio (r : BitVec 512) : Nat := fld r 8 3
/-- KHANDLE. -/
def recHandle (r : BitVec 512) : BitVec 32 := r.extractLsb' 32 32
/-- PARTID. -/
def recPart (r : BitVec 512) : Nat := fld r 192 16
/-- NCELLS. -/
def recCells (r : BitVec 512) : Nat := fld r 208 16

/-- The lesser of two offsets, where they are given. -/
def lesser : Option Nat → Option Nat → Option Nat
  | some a, some b => some (min a b)
  | some a, none => some a
  | none, b => b

/-- The lowest offset of a list of those whose case holds. -/
def lowest (l : List (Nat × Bool)) : Option Nat := l.foldl (fun acc x => if x.2 then lesser acc (some x.1) else acc) none

/-! ### Partitions (R66 to R68) -/

/-- The partition that an entry names (R68): no other partition of the function shares a logical cluster with it. -/
def State.partition (s : State) (pkg vf i : Nat) : Option (BitVec 256 × List (BitVec 32)) := match s.partEntry pkg vf i with
  | none => none
  | some x =>
    let others := (List.range ((s.pkg pkg).fn vf).ptsize.toNat).filter fun j => j != i
    if others.any fun j => match s.partEntry pkg vf j with
        | some y => y.2.any fun c => (x.2.map clusterOrder).contains (clusterOrder c)
        | none => false
    then none else some x

/-! ### Kernel descriptor and frame header (R18, R26) -/

/-- The lowest offending byte of a kernel descriptor (R25, R26), with whether a WDESC image was refused or could not be read. -/
def descBad (d : BitVec 256) (wdBad : Bool) : Option Nat :=
  lesser (lowReserved d [(109, 19), (160, 32)])
    (lowest [(8, fld d 64 2 != 0), (12, decide (4 < fld d 101 3)), (13, decide (16 < fld d 104 5)), (16, fld d 128 6 != 0), (24, wdBad)])

/-- The parts of a frame: the byte of the offset's field, the offset, the length (R18). -/
def frameParts (h : BitVec 512) : List (Nat × Nat × Nat) :=
  [(0, 0, 64), (8, fld h 64 32, fld h 96 32), (16, fld h 128 32, 8 * fld h 160 32), (24, fld h 192 32, 8 * fld h 160 32),
    (28, fld h 224 32, fld h 256 32), (36, fld h 288 32, fld h 320 32)]

/-- The offending byte of two parts that overlap: the lower offset field, or the other's where one is the header. -/
def overlapByte (a b : Nat × Nat × Nat) : Option Nat :=
  if overlaps a.2.1 a.2.2 b.2.1 b.2.2 then some (if a.1 = 0 then b.1 else min a.1 b.1) else none

/-- The lowest offending byte among the overlaps of a list of parts. -/
def overlapsBad : List (Nat × Nat × Nat) → Option Nat
  | [] => none
  | a :: l => l.foldl (fun acc b => lesser acc (overlapByte a b)) (overlapsBad l)

/-- The lowest byte in which n bytes of a header from an offset differ from a value. -/
def differsAt (h : BitVec 512) (off n v : Nat) : Option Nat :=
  ((List.range n).find? fun i => fld h (8 * (off + i)) 8 != v / 256 ^ i % 256).map fun i => off + i

/-- The offending byte of a frame header by the first case of R18 that applies. -/
def frameBad (h : BitVec 512) : Option Nat :=
  let multiple (b lo n : Nat) : Nat × Bool := (b, fld h lo 32 % n != 0)
  let limits := lowest [multiple 8 64 64, (12, fld h 96 32 % 4 != 0 || decide (2 ^ 24 < fld h 96 32)), multiple 16 128 8,
    (20, fld h 160 32 == 0 || decide (65536 < fld h 160 32)), multiple 24 192 8, multiple 28 224 8, multiple 32 256 8, multiple 36 288 8,
    multiple 40 320 8]
  match lesser (differsAt h 0 4 0x314D5246) (differsAt h 4 2 1), lowReserved h [(48, 16), (352, 160)] with
  | some n, _ => some n
  | none, some n => some n
  | none, none => match limits with
    | some n => some n
    | none => overlapsBad (frameParts h)

/-! ### Validation (R53) -/

/-- How validation ends: a record's STATUS, REASON and DETAIL, or a ready launch. -/
abbrev Verdict := Except (Nat × Nat × Word) Ready

/-- DETAIL of a failure that lies in no field (R53): bit 63 with a fault code. -/
def unreadable (code : Nat) : Word := word (2 ^ 63 + code)

/-- Checks 8 to 10, with the descriptor and its WDESC images. -/
def State.checkFrame (s : State) (pkg vf : Nat) (d : BitVec 256) (wd : List Word) (p : BitVec 256 × List (BitVec 32)) : Verdict :=
  let va : Word := d.extractLsb' 0 64
  if fld va 0 6 ≠ 0 then .error (1, 7, unreadable fMisaligned)
  else match s.launchRead pkg vf va 64 with
    | .error c => .error (1, 7, unreadable c)
    | .ok bs =>
      let h := BitVec.ofNat 512 (leVal bs)
      match frameBad h with
      | some n => .error (1, 7, word n)
      | none =>
        if fld h 96 32 ≤ fld d 64 32 then .error (1, 6, 8)
        else if fld d 104 5 * 65536 < fld d 128 32 * (fld d 96 4 + 1) then .error (1, 8, 0)
        else .ok ⟨d, h, wd, p.1, p.2⟩

/-- The seven WDESC images of a descriptor: none of them with WDTAB 0; an error where one is refused or cannot be read (R26). -/
def State.wdImages (s : State) (pkg vf : Nat) (d : BitVec 256) : Option (List Word) :=
  let va : Word := d.extractLsb' 192 64
  if va = 0 then some []
  else match s.launchRead pkg vf va 56 with
    | .error _ => none
    | .ok bs =>
      let l := (List.range 7).map fun i => word (leVal ((bs.drop (8 * i)).take 8))
      if l.all wdescOk then some (l.map wdescMask) else none

/-- Checks 6 and 7, and what follows. -/
def State.checkKernel (s : State) (pkg vf : Nat) (r : BitVec 512) (p : BitVec 256 × List (BitVec 32)) : Verdict :=
  match s.handle pkg vf (recHandle r) 1 with
  | none => .error (2, 0, 0)
  | some (base, _) =>
    if fld base 0 5 ≠ 0 then .error (1, 6, unreadable fMisaligned)
    else match s.launchRead pkg vf base 32 with
      | .error c => .error (1, 6, unreadable c)
      | .ok bs =>
        let d := BitVec.ofNat 256 (leVal bs)
        let wd := s.wdImages pkg vf d
        match descBad d wd.isNone with
        | some n => .error (1, 6, word n)
        | none => s.checkFrame pkg vf d (wd.getD []) p

/-- The checks of R53 in order. DETAIL is 0 for the REASONs for which R53 gives none, and REASON and DETAIL are 0 for the statuses to which R61
gives neither (DESIGN CHOICE, log 91). -/
def State.validate (s : State) (pkg : Nat) (x : Queue) (r : BitVec 512) : Verdict :=
  if fld r 0 8 ≠ 1 then .error (1, 1, 0)
  else match lowReserved r [(11, 7), (19, 13), (224, 32), (384, 64), (480, 32)] with
    | some n => .error (1, 2, word n)
    | none =>
      if x.pmax < recPrio r then .error (1, 3, 0)
      else match s.partition pkg x.vf (recPart r) with
        | none => .error (1, 4, 0)
        | some p => if 32 * p.2.length < recCells r then .error (1, 5, 0) else s.checkKernel pkg x.vf r p

/-- The head of a queue reserves a ring entry and is validated (R53, R54); one that fails leaves with its record. -/
def execRingEntryReservation (pkg q : Nat) (s : State) : Host.Outcome State Fault Refusal :=
  .next (
    let x := (s.pkg pkg).queue q
    match x.head, x.fifo with
    | none, r :: rest =>
      if x.isFull then s
      else
        let e := x.reserve
        match s.validate pkg x r with
        | .ok y => s.setQueue pkg q { e.2.2 with head := some (e.1, e.2.1, some y) }
        | .error v => (s.setQueue pkg q { e.2.2 with fifo := rest }).writeRecord pkg q e.1 e.2.1 r v.1 v.2.1 v.2.2 0
    | _, _ => s)

/-! ### Admission (R55) -/

/-- Whether a partition of a function has a live launch. -/
def State.partBusy (s : State) (pkg vf part : Nat) : Bool :=
  s.launches.any fun x => x.2.pkg == pkg && x.2.vf == vf && recPart x.2.record == part

/-- Whether every cell of a ready launch's partition is present and can hold its scratch ways (R85, R473; log 20). -/
def State.partComplete (s : State) (r : Ready) : Bool := (List.range r.cells).all fun f => match (r.lcell f).bind s.place with
  | some pl => decide (r.scrways * 2 ^ pl.fold ≤ 16) && !(s.cell pl.cell).capped
  | none => false

/-- A ready launch with its partition's entry and cluster list as they are at admission (R66); where the table no longer gives the partition,
or has too few cells for the record, those that validation read stay (DESIGN CHOICE, log 89). -/
def State.atAdmission (s : State) (pkg vf : Nat) (r : BitVec 512) (y : Ready) : Ready := match s.partition pkg vf (recPart r) with
  | some p => if 32 * p.2.length < recCells r then y else { y with part := p.1, clusters := p.2 }
  | none => y

/-- The ready heads whose partitions are free: priority, queue, ring entry, record and what is admitted. -/
def State.admissible (s : State) (pkg : Nat) : List (Nat × Nat × Nat × Bool × BitVec 512 × Ready) :=
  (s.pkg pkg).queues.filterMap fun x => match x.2.head, x.2.fifo with
    | some (i, ph, some y0), r :: _ =>
      let y := s.atAdmission pkg x.2.vf r y0
      if s.partBusy pkg x.2.vf (recPart r) || !s.partComplete y then none else some (recPrio r, x.1, i, ph, r, y)
    | _, _ => none

/-- The choice of R55: the highest priority, then the first queue at or after the round-robin pointer. -/
def State.toAdmit (s : State) (pkg : Nat) : Option (Nat × Nat × Nat × Bool × BitVec 512 × Ready) :=
  let l := s.admissible pkg
  let top := (l.map Prod.fst).foldl max 0
  let dist (q : Nat) : Nat := (q + 1024 - (s.pkg pkg).rr % 1024) % 1024
  let l := l.filter fun x => x.1 == top
  let near := (l.map fun x => dist x.2.1).foldl min 1024
  l.find? fun x => dist x.2.1 == near

/-- NCELLS_eff (R57). -/
def cellsEff (record : BitVec 512) (r : Ready) : Nat := if recCells record = 0 then r.cells else recCells record

/-- The virtual cells of a partition as a launch that has been admitted finds them: closed and empty, j = 0 (R75, R78). -/
def State.claimCells (s : State) (key : Nat) (r : Ready) : State :=
  (List.range r.cells).foldl (fun s f => match r.lcell f with
    | some c => s.setVcell c { launch := key, serials := (s.vcell c).serials }
    | none => s) s

/-- A launch is admitted (R55, R57): it leaves its queue, and its swarm message goes out. -/
def execLaunchAdmission (pkg : Nat) (s : State) : Host.Outcome State Fault Refusal :=
  .next (match s.toAdmit pkg with
    | none => s
    | some (_, q, i, ph, r, y) =>
      let x := (s.pkg pkg).queue q
      let s := s.setQueue pkg q { x with fifo := x.fifo.drop 1, head := none }
      let s := s.modPkg pkg fun p => { p with rr := (q + 1) % 1024 }
      let f := s.fresh
      let l : Launch := {
        pkg := pkg, queue := q, vf := x.vf, record := r, ring := i, phase := ph, ready := y, started := s.cyc pkg 0
        toWake := List.range (cellsEff r y) }
      (f.2.claimCells f.1 y).setLaunch f.1 l)

/-! ### Wake (R57, R58) -/

/-- The general registers of a thread that a swarm message starts (R57). -/
def wakeRegs (l : Launch) (flat slot : Nat) : Vector Word 16 :=
  #v[l.record.extractLsb' 64 64, l.record.extractLsb' 128 64, l.record.extractLsb' 256 64, word flat, word slot,
    word (cellsEff l.record l.ready), 0, 0, 0, 0, 0, 0, 0, 0,
    0x4000000000000000 + word (l.ready.scrways * 65536) - word (l.ready.stack * slot), 0]

/-- TSTAT at a start: NSM from the descriptor (R57). -/
def startTstat (r : Ready) : Word := if r.nsm then 0x10 else 0

/-- The context of a thread that a swarm message starts (R57): a task without a join word, of its own cell. Its SEG is the virtual cell's
(R85): 0, as the table of R57 gives it, wherever the cell is not folded (DEDUCED, log 86). -/
def wakeCtx (l : Launch) (flat slot : Nat) (tid : Word) (seg : Nat) : Ctx :=
  { pc := l.ready.codeBase + word l.ready.entry, tstat := startTstat l.ready, tid := tid, seg := word seg, wlim := word l.ready.wlimdef
    g := wakeRegs l flat slot, joinAddr := 0, origin := BitVec.ofNat 20 flat, domain := l.ready.domain }

/-- Where a starting thread goes: its own slot on an unfolded cell, unless a gang holds it (R88); on a folded one any free slot; else the
context cache (R86). -/
def State.startPlace (s : State) (x : Seat) (slot : Nat) : Place × State :=
  let busy (n : Nat) : Bool := s.still (clusterOf x.place.cell) || (s.threads.any fun y => y.2.slot? == some (x.place.cell, n)) ||
    ((s.vcell x.cell).reserved.any fun r => r.1 == n)
  let free : Option Nat := if x.place.fold = 0 then (if busy slot then none else some slot) else (List.range 16).find? fun n => !busy n
  match free with
  | some n => (.slot x.place.cell n, s)
  | none =>
    let y := s.tick
    (.cache x.place.cell true y.1, y.2)

/-- One thread of a wake started. -/
def State.startThread (s : State) (key : Nat) (l : Launch) (x : Seat) (flat slot : Nat) : State :=
  let tid := s.newTid x.cell flat slot
  let f := tid.2.fresh
  let pl := f.2.startPlace x slot
  pl.2.setThread f.1 { ctx := wakeCtx l flat slot tid.1 (l.ready.segOf x.place), place := pl.1, vf := l.vf, launch := key, flat := flat
                       vslot := slot, slotSince := s.cyc x.cell.pkg x.cell.die }

/-- The default values of WDESC1 to WDESC7 (R185). -/
def wdescDefault : Vector Word 7 := ({} : Cell).wdesc

/-- WDESC1 to WDESC7 of a launch: its images, or the defaults. -/
def Ready.wdescs (r : Ready) : Vector Word 7 :=
  if r.wd.length = 7 then Vector.ofFn fun (i : Fin 7) => r.wd.getD i 0 else wdescDefault

/-- A cell of a launch woken: its ways and WDESC set, its virtual cell open and empty, its threads started (R57). -/
def State.wakeCell (s : State) (key : Nat) (l : Launch) (x : Seat) (flat : Nat) : State :=
  let c := x.place.cell
  let m : BitVec 5 := BitVec.ofNat 5 (l.ready.scrways * 2 ^ x.place.fold)
  let s := s.flushAll c
  let s := if m = (s.cell c).nscr then s.setCell c { s.cell c with waysPending := none } else s.setWays c m
  let s := s.setCell c { s.cell c with wdesc := l.ready.wdescs }
  let s := s.setVcell x.cell ((s.vcell x.cell).opened key)
  (List.range l.ready.slots).foldl (fun s slot => s.startThread key l x flat slot) s

/-- A cell receives the swarm message of its launch (R57). -/
def execSwarmMessage (launch flat : Nat) (s : State) : Host.Outcome State Fault Refusal :=
  .next (match s.launch? launch, s.seatAt launch flat with
    | some l, some x =>
      if l.toWake.contains flat && l.ending.isNone then
        (s.setLaunch launch { l with toWake := l.toWake.filter fun n => n != flat }).wakeCell launch l x flat
      else s
    | _, _ => s)

end Sys2Proof.Machine
end

