-- ==== Sys2Proof/Machine/Barrier.lean ====
section
/-! DEFINITION. Barriers (R406, R407) and the re-issue of a pending head (R147): rte and urte bring it back. -/
namespace Sys2Proof.Machine
open Sys2Proof

/-- Whether g[B] is one that bar takes (R406). -/
def barOk (gb : Word) : Bool := fld gb 32 2 != 1 && fld gb 34 30 == 0 && fld gb 0 32 != 0

/-- The target of an arrival (R406). -/
def barTarget (old n : Nat) : Word := word ((old / n + 1) * n)

/-- bar (R406), outside gangs (R410): the check of g[B], the checks of g[A], the release (R224), one arrival, and the wait. -/
def barBody (i : Instr) (a b : Reg) : Body := aloneBody fun s k t =>
  let gb := t.ctx.gpr b
  let va := t.ctx.gpr a
  if !barOk gb then .trap s { code := fIllegal }
  else orTrap (s.waitRx k) fun s =>
    let t := (s.thread? k).getD t
    let w := s.whoOf t
    orStay (s.awaitsGen t (barScope i)) s <|
    orTrap (rmw s k t .atomic va 8 (fun n => n + 1) (t.release (barScope i))) fun r =>
    match resolve s w .atomic va 8 8 with
    | .error f => .trap s f
    | .ok loc =>
      let q : HomeReq := { instr := i, opr := recordOf i t.ctx 0, va := va, key := loc.key, home := homeOf loc.key,
                           peer := loc.peer, target := barTarget r.1 (fld gb 0 32) }
      arrive (r.2.wordChanged loc.key) k t q

/-- bar at system scope (R406). -/
def execBar (a b : Reg) (s : State) : Host.Outcome State Fault Refusal := issue (.bar a b) s (barBody (.bar a b) a b)
/-- bar at a scope of its own (R406). -/
def execBarScoped (a b : Reg) (scope : Sys2Proof.Scope) (s : State) : Host.Outcome State Fault Refusal :=
  issue (.barScoped a b scope) s (barBody (.barScoped a b scope) a b)

/-- The wait of a bar entered again with its captured target (R406). -/
def rewait (s : State) (k : Nat) (t : Thread) (i : Instr) (h : Head) (target : Word) : Res :=
  let w := s.whoOf t
  match resolve s w .atomic h.opr.va 8 8 with
  | .error f => .trap s { f with opr := some h.opr }
  | .ok loc => match homeAnswer s w loc with
    | some c => .trap s { fltAt c h.opr.va with opr := some h.opr }
    | none => arrive s k t { instr := i, opr := h.opr, va := h.opr.va, key := loc.key, home := homeOf loc.key,
                                   peer := loc.peer, target := target }

/-- The pending head of a thread issued again (R147): its access is the one that R439 watches. Where its release waits (R224) it is the open
head of a window with no instruction left, which ends before the next one. -/
def resumeHead (s : State) (k : Nat) : State := match s.thread? k with
  | none => s
  | some t => match t.ctx.head with
    | none => s
    | some h => match h.target, h.opr.instr? with
      | some n, some i => settle i k t (rewait s k t i h n)
      | some _, none => s
      | none, _ => match performHead s k t h with
        | .error (s, f) => takeFault s k f {}
        | .ok s =>
          let wait (c : Ctx) : Ctx := if c.head = some h then { c with head := some { h with left := 0, isOpen := true } } else c
          s.modThread k fun t => { t.modCtx wait with watch := none }

end Sys2Proof.Machine
end

