-- ==== Sys2Proof/Machine/MemInstr.lean ====
section
/-! DEFINITION. Loads and stores (R226 to R229), atomics (R237 to R241) and fences (R223 to R225). -/
namespace Sys2Proof.Machine
open Sys2Proof

/-! ### Loads and stores (R226) -/

/-- ldb: 1 byte, sign-extended (R226). -/
def execLdb (o : Load) (s : State) : Host.Outcome State Fault Refusal :=
  issue (.ldb o) s (withLook (.ldb o) o.la (!(extD o.ext).rx) (loadBody 1 true o))
/-- ldh: 2 bytes, sign-extended (R226). -/
def execLdh (o : Load) (s : State) : Host.Outcome State Fault Refusal :=
  issue (.ldh o) s (withLook (.ldh o) o.la (!(extD o.ext).rx) (loadBody 2 true o))
/-- ldw: 4 bytes, sign-extended (R226). -/
def execLdw (o : Load) (s : State) : Host.Outcome State Fault Refusal :=
  issue (.ldw o) s (withLook (.ldw o) o.la (!(extD o.ext).rx) (loadBody 4 true o))
/-- ldd: 8 bytes, as they are (R226). -/
def execLdd (o : Load) (s : State) : Host.Outcome State Fault Refusal :=
  issue (.ldd o) s (withLook (.ldd o) o.la (!(extD o.ext).rx) (loadBody 8 true o))
/-- ldbn: 1 byte, zero-extended (R226). -/
def execLdbn (o : Load) (s : State) : Host.Outcome State Fault Refusal :=
  issue (.ldbn o) s (withLook (.ldbn o) o.la (!(extD o.ext).rx) (loadBody 1 false o))
/-- ldhn: 2 bytes, zero-extended (R226). -/
def execLdhn (o : Load) (s : State) : Host.Outcome State Fault Refusal :=
  issue (.ldhn o) s (withLook (.ldhn o) o.la (!(extD o.ext).rx) (loadBody 2 false o))
/-- ldwn: 4 bytes, zero-extended (R226). -/
def execLdwn (o : Load) (s : State) : Host.Outcome State Fault Refusal :=
  issue (.ldwn o) s (withLook (.ldwn o) o.la (!(extD o.ext).rx) (loadBody 4 false o))
/-- stb: the 1 low byte of gd (R226). -/
def execStb (o : Store) (s : State) : Host.Outcome State Fault Refusal :=
  issue (.stb o) s (storeBody (.stb o) 1 o)
/-- sth: the 2 low bytes of gd (R226). -/
def execSth (o : Store) (s : State) : Host.Outcome State Fault Refusal :=
  issue (.sth o) s (storeBody (.sth o) 2 o)
/-- stw: the 4 low bytes of gd (R226). -/
def execStw (o : Store) (s : State) : Host.Outcome State Fault Refusal :=
  issue (.stw o) s (storeBody (.stw o) 4 o)
/-- std: the 8 low bytes of gd (R226). -/
def execStd (o : Store) (s : State) : Host.Outcome State Fault Refusal :=
  issue (.std o) s (storeBody (.std o) 8 o)

/-! ### Atomics (R238, R241) -/

/-- afadd: old + b (R238). -/
def execAfadd (o : Atomic) (s : State) : Host.Outcome State Fault Refusal :=
  issue (.afadd o) s (withLook (.afadd o) o.la true (atomic1 64 o (fun w a b => (a + b) % 2 ^ w)))
/-- afand: old and b (R238). -/
def execAfand (o : Atomic) (s : State) : Host.Outcome State Fault Refusal :=
  issue (.afand o) s (withLook (.afand o) o.la true (atomic1 64 o (fun _ a b => a &&& b)))
/-- afor: old or b (R238). -/
def execAfor (o : Atomic) (s : State) : Host.Outcome State Fault Refusal :=
  issue (.afor o) s (withLook (.afor o) o.la true (atomic1 64 o (fun _ a b => a ||| b)))
/-- afxor: old xor b (R238). -/
def execAfxor (o : Atomic) (s : State) : Host.Outcome State Fault Refusal :=
  issue (.afxor o) s (withLook (.afxor o) o.la true (atomic1 64 o (fun _ a b => a ^^^ b)))
/-- afmin: the lesser, signed (R238). -/
def execAfmin (o : Atomic) (s : State) : Host.Outcome State Fault Refusal :=
  issue (.afmin o) s (withLook (.afmin o) o.la true (atomic1 64 o minS))
/-- afmax: the greater, signed (R238). -/
def execAfmax (o : Atomic) (s : State) : Host.Outcome State Fault Refusal :=
  issue (.afmax o) s (withLook (.afmax o) o.la true (atomic1 64 o maxS))
/-- afminn: the lesser, unsigned (R238). -/
def execAfminn (o : Atomic) (s : State) : Host.Outcome State Fault Refusal :=
  issue (.afminn o) s (withLook (.afminn o) o.la true (atomic1 64 o (fun _ a b => min a b)))
/-- afmaxn: the greater, unsigned (R238). -/
def execAfmaxn (o : Atomic) (s : State) : Host.Outcome State Fault Refusal :=
  issue (.afmaxn o) s (withLook (.afmaxn o) o.la true (atomic1 64 o (fun _ a b => max a b)))
/-- aswap: b (R238). -/
def execAswap (o : Atomic) (s : State) : Host.Outcome State Fault Refusal :=
  issue (.aswap o) s (withLook (.aswap o) o.la true (atomic1 64 o (fun _ _ b => b)))
/-- acas: c where old = b (R238). -/
def execAcas (o : Cas) (s : State) : Host.Outcome State Fault Refusal :=
  issue (.acas o) s (withLook (.acas o) o.la true (casBody 64 o))
/-- axadd: a contribution to an XSUM record (R241). -/
def execAxadd (o : Atomic) (s : State) : Host.Outcome State Fault Refusal :=
  issue (.axadd o) s (withLook (.axadd o) o.la true (axaddBody o))
/-- afadd.w: old + b (R238). -/
def execAfaddW (o : Atomic) (s : State) : Host.Outcome State Fault Refusal :=
  issue (.afaddW o) s (withLook (.afaddW o) o.la true (atomic1 32 o (fun w a b => (a + b) % 2 ^ w)))
/-- afand.w: old and b (R238). -/
def execAfandW (o : Atomic) (s : State) : Host.Outcome State Fault Refusal :=
  issue (.afandW o) s (withLook (.afandW o) o.la true (atomic1 32 o (fun _ a b => a &&& b)))
/-- afor.w: old or b (R238). -/
def execAforW (o : Atomic) (s : State) : Host.Outcome State Fault Refusal :=
  issue (.aforW o) s (withLook (.aforW o) o.la true (atomic1 32 o (fun _ a b => a ||| b)))
/-- afxor.w: old xor b (R238). -/
def execAfxorW (o : Atomic) (s : State) : Host.Outcome State Fault Refusal :=
  issue (.afxorW o) s (withLook (.afxorW o) o.la true (atomic1 32 o (fun _ a b => a ^^^ b)))
/-- afmin.w: the lesser, signed (R238). -/
def execAfminW (o : Atomic) (s : State) : Host.Outcome State Fault Refusal :=
  issue (.afminW o) s (withLook (.afminW o) o.la true (atomic1 32 o minS))
/-- afmax.w: the greater, signed (R238). -/
def execAfmaxW (o : Atomic) (s : State) : Host.Outcome State Fault Refusal :=
  issue (.afmaxW o) s (withLook (.afmaxW o) o.la true (atomic1 32 o maxS))
/-- afminn.w: the lesser, unsigned (R238). -/
def execAfminnW (o : Atomic) (s : State) : Host.Outcome State Fault Refusal :=
  issue (.afminnW o) s (withLook (.afminnW o) o.la true (atomic1 32 o (fun _ a b => min a b)))
/-- afmaxn.w: the greater, unsigned (R238). -/
def execAfmaxnW (o : Atomic) (s : State) : Host.Outcome State Fault Refusal :=
  issue (.afmaxnW o) s (withLook (.afmaxnW o) o.la true (atomic1 32 o (fun _ a b => max a b)))
/-- aswap.w: b (R238). -/
def execAswapW (o : Atomic) (s : State) : Host.Outcome State Fault Refusal :=
  issue (.aswapW o) s (withLook (.aswapW o) o.la true (atomic1 32 o (fun _ _ b => b)))
/-- acas.w: c where old = b (R238). -/
def execAcasW (o : Cas) (s : State) : Host.Outcome State Fault Refusal :=
  issue (.acasW o) s (withLook (.acasW o) o.la true (casBody 32 o))

/-! ### Fences (R223 to R225) -/

/-- A fence (R223, R224): relaxed stores acknowledged, then the release and the acquire that ORD names. -/
def fenceBody (ord : Ord) (sc : Sys2Proof.Scope) : Body := fun s k t =>
  orTrap (s.waitRx k) fun s =>
  let t := (s.thread? k).getD t
  orStay (ordRel ord && s.awaitsGen t sc) s <|
  let s := if ordRel ord then t.release sc s else s
  .next (if ordAcq ord then t.acquire sc s else s)

/-- Whether a TLB entry is one that a tlbi removes (R452). -/
def Tlbi.takes (x : Tlbi) (e : TlbEntry) : Bool :=
  e.vf == x.vf && (x.every || (e.hits x.vf x.va && (x.size == 3 || e.level == x.size + 1)))

/-- The physical clusters that a function or partition scope of a thread contains; none for the other scopes. -/
def State.scopePhys (s : State) (t : Thread) (sc : Nat) : List ClusterId :=
  (s.scopeClusters t (match sc with
    | 2 => .fn
    | 3 => .part
    | _ => .thr)).filterMap fun x => s.physCluster x.1 x.2.1 x.2.2

/-- Whether a cluster lies within a scope of a thread (R194, R452): its own cluster, die or package, the clusters of its function or
partition, or the domain. -/
def inScope (sc : Nat) (own : ClusterId) (ks : List ClusterId) (c : ClusterId) : Bool := match sc with
  | 6 | 8 => c == own
  | 5 => c.pkg == own.pkg && c.die == own.die
  | 4 => c.pkg == own.pkg
  | 2 | 3 => c == own || ks.contains c
  | _ => true

/-- Whether a tlbi reaches the TLBs of a cell: at cell scope only those of the cell that sent it. -/
def Tlbi.reaches (x : Tlbi) (c : PCell) : Bool :=
  if x.scope = 8 then c == x.cell else inScope x.scope (clusterOf x.cell) x.clusters (clusterOf c)

/-- The removals of a tlbi done in every TLB within its scope (R225, R452). -/
def State.applyTlbi (s : State) (x : Tlbi) : State :=
  { s with
    cells := s.cells.map fun (y : PCell × Cell) => if x.reaches y.1 then
        (y.1, { y.2 with itlb := y.2.itlb.filter fun e => !x.takes e, dtlb := y.2.dtlb.filter fun e => !x.takes e })
      else y
    clusters := s.clusters.map fun (y : ClusterId × Cluster) => if inScope x.scope (clusterOf x.cell) x.clusters y.1 then
        (y.1, { y.2 with l2tlb := y.2.l2tlb.filter fun e => !x.takes e })
      else y }

/-- Every removal that the given threads have sent and that is not yet done. -/
def State.tlbisOf (s : State) (who : Nat → Bool) : List Tlbi := s.clusters.flatMap fun y => y.2.tlbis.filter fun x => who x.thread

/-- The removals that the given threads have sent done, wherever they were sent from (R225, R452). -/
def State.applyTlbis (s : State) (who : Nat → Bool) : State :=
  let s' := (s.tlbisOf who).foldl State.applyTlbi s
  { s' with clusters := s'.clusters.map fun (y : ClusterId × Cluster) => (y.1, { y.2 with tlbis := y.2.tlbis.filter fun x => !who x.thread }) }

/-- A tfence (R225): the release of R223 and R224, and every earlier tlbi of the thread done. -/
def tfenceBody (sc : Sys2Proof.Scope) : Body := fun s k t =>
  orTrap (s.waitRx k) fun s =>
  let t := (s.thread? k).getD t
  orStay (s.awaitsGen t sc) s <| .next ((t.release sc s).applyTlbis (· == k))

/-- fence: ORD 3 at system scope (R223). -/
def execFence (s : State) : Host.Outcome State Fault Refusal := issue .fence s (fenceBody .both .sys)
/-- fence with an extension word (R223). -/
def execFenceExt (ord : Ord) (scope : Sys2Proof.Scope) (s : State) : Host.Outcome State Fault Refusal :=
  issue (.fenceExt ord scope) s (fenceBody ord scope)
/-- tfence at system scope (R225). -/
def execTfence (s : State) : Host.Outcome State Fault Refusal := issue .tfence s (tfenceBody .sys)
/-- tfence with an extension word (R225). -/
def execTfenceExt (scope : Sys2Proof.Scope) (s : State) : Host.Outcome State Fault Refusal :=
  issue (.tfenceExt scope) s (tfenceBody scope)

end Sys2Proof.Machine
end

