-- ==== Sys2Proof/Machine/System.lean ====
section
/-! DEFINITION. System instructions (R446 to R454): trap, rte, urte, ctxsv and ctxld with the memory image of a context (R445), halt, tlbi,
cap and scrub. -/
namespace Sys2Proof.Machine
open Sys2Proof

/-! ### What every system instruction checks first (R120, R446) -/

/-- A supervisor instruction: PRIVILEGE at user privilege, then ILLEGAL_INSN in a gang. -/
def superBody (b : Body) : Body := fun s k t =>
  if !t.ctx.priv then .trap s { code := fPrivilege }
  else if t.inGang then .trap s { code := fIllegal }
  else b s k t

/-! ### trap, rte, urte, halt -/

/-- trap (R447): it commits, then its code is taken with TEPC at the next instruction. -/
def execTrap (n : BitVec 4) (s : State) : Host.Outcome State Fault Refusal :=
  issue (.trap n) s (aloneBody fun s k t =>
    let own := recordOf (.trap n) t.ctx 0
    .stay (takeFault (s.commit k (nextPc (.trap n) t.ctx)) k { code := fTrap, detail := n.zeroExtend 64 } own))

/-- g0 to g15 from 128 bytes. -/
def gprsOf (bs : List Byte) : Vector Word 16 := Vector.ofFn fun (i : Fin 16) => word (leVal ((bs.drop (8 * i)).take 8))

/-- Whether a trap is one from which the firmware resumes (R465): UNCORRECTABLE at a class 0x50 address of a logical cell that has been restarted
since. -/
def State.covered (s : State) (l : Launch) (x : Trapped) : Bool :=
  x.code == fUncorrectable && fld x.faddr 56 8 == 0x50 &&
    (match l.ready.lcell (fld x.faddr 36 20) with
      | some c => ((s.vcell c).restarted.map fun n => decide (x.at_ < n)).getD false
      | none => false)

/-- A launch does not end for the traps of a thread from which its handler resumes it (R465). -/
def State.clearTrap (s : State) (t : Thread) : State := match s.launch? t.launch with
  | some l =>
    if t.nurse then s
    else s.setLaunch t.launch { l with trapped := l.trapped.filter fun x => !(x.tid == t.ctx.tid && s.covered l x) }
  | none => s

/-- rte (R448). The saved registers are read as the thread's cell has them. -/
def execRte (s : State) : Host.Outcome State Fault Refusal :=
  issue .rte s (superBody fun s k t =>
    match t.slot? with
    | none => .stay s
    | some (c, n) =>
      let va := recordArea (s.cell c).tbase n + 128
      match cellRead s { s.whoOf t with sup := true } va 128 with
      | .error e => .trap s (fltAt e va)
      | .ok (bs, s) =>
        let s := s.clearTrap t
        let s := s.modThread k fun t => { t with
          ctx := { t.ctx with
            g := gprsOf bs, pc := t.ctx.tepc, tstat := putFld t.ctx.tstat bitPriv 1 (bit t.nurse) }
          watch := t.trapRep, run := .ready }
        .stay (resumeHead s k))

/-- A thread with a fault context restored (R449): its TSTAT is the context's, but for WP, which stays as now, and UPC, which is cleared. -/
def Thread.restore (t : Thread) (i : Nat) (x : FaultCtx) : Thread :=
  let ts := putFld (putFld x.ctx.tstat bitWp 1 (bit t.ctx.wp)) bitUpc 1 0
  { t with ctx := { x.ctx with tstat := ts }, fctx := setIdx t.fctx i none, watch := some x.rep, run := .ready }

/-- urte (R449). -/
def execUrte (s : State) : Host.Outcome State Fault Refusal :=
  issue .urte s (aloneBody fun s k t =>
    let f := t.ctx.fctxSel
    if !t.ctx.upc || (4 ≤ f && f ≤ 14) then .trap s { code := fIllegal }
    else if f = 15 then
      .jump (s.modThread k fun t => t.modCtx (·.setTstat bitUpc false)) t.ctx.tepc
    else match t.fctx.toList.getD f none with
      | none => .trap s { code := fIllegal }
      | some x =>
        let s := (s.drainV k).modThread k fun t => t.restore f x
        .stay (resumeHead (s.unyield k) k))

/-- halt (R451). -/
def execHalt (s : State) : Host.Outcome State Fault Refusal :=
  issue .halt s (superBody fun s k _ => .stay ((s.drainRx k).endThread k))

/-! ### The image of a context (R445) -/

/-- 128 bytes of a completion queue's entries. -/
def queueBytes (l : List Word) : List Byte :=
  let bs := (l.take 16).flatMap fun (x : Word) => leOf 8 x.toNat
  bs ++ List.replicate (128 - bs.length) 0

/-- Registers that a mask leaves out read as zero (R21). -/
def keepMasked {n m : Nat} (mask : BitVec 40) (first : Nat) (v : Vector (BitVec m) n) : Vector (BitVec m) n :=
  Vector.ofFn fun (i : Fin n) => if mask.getLsbD (first + i) then v.get i else 0

/-- A context with the registers outside a live mask as they read after resumption (R21). -/
def Ctx.masked (c : Ctx) (mask : BitVec 40) : Ctx :=
  { c with
    g := keepMasked mask 0 c.g, v := keepMasked mask 16 c.v
    q := Vector.ofFn fun (i : Fin 8) => if mask.getLsbD (32 + i) then c.q.get i else none }

/-- Bytes 0x050 to 0x07F of an image. -/
def imageFlags (t : Thread) : List Byte :=
  let head := bit t.ctx.head.isSome + 2 * bit (t.req.isSome)
  leOf 8 (bit t.forced * 2 ^ 40 + t.ctx.vflags.toNat * 2 ^ 32 + t.seq.toNat) ++
    t.ctx.q.toList.map (fun (p : Option Port) => BitVec.ofNat 8 (match p with
      | some p => 128 + (portCode p).toNat
      | none => 0)) ++
    leOf 8 t.masks.toNat ++ leOf 8 head ++
    leOf 8 (t.passdone.length + t.cpydone.length * 2 ^ 8 + t.decdone.length * 2 ^ 16 + t.probeout.length * 2 ^ 24) ++
    List.replicate 8 0

/-- The 2,048 bytes that ctxsv writes (R445). -/
def imageBytes (t : Thread) : List Byte :=
  let c := t.ctx.masked t.masks
  leOf 8 c.pc.toNat ++ leOf 8 c.tstat.toNat ++ leOf 8 c.tid.toNat ++ leOf 8 c.seg.toNat ++ leOf 8 c.wlim.toNat ++
    leOf 8 c.tcause.toNat ++ leOf 8 c.tepc.toNat ++ leOf 8 c.trec.toNat ++ leOf 8 c.uvec.toNat ++ leOf 8 c.gpiv.toNat ++
    imageFlags { t with ctx := c } ++ ((c.head.map Head.opr).getD {}).bytes ++
    leOf 8 (c.origin.toNat * 2 ^ 44 + c.domain.toNat * 2 ^ 32) ++ leOf 8 c.joinAddr.toNat ++ List.replicate 48 0 ++
    c.gprBytes ++ List.replicate 128 0 ++ c.v.toList.flatMap (fun v => leOf 64 v.toNat) ++
    queueBytes t.passdone ++ queueBytes t.cpydone ++ queueBytes t.decdone ++ queueBytes t.probeout

/-- Whether byte n of an image is reserved (R445). -/
def imageReserved (n : Nat) : Bool :=
  (n == 0x056) || (n == 0x057) || (0x065 ≤ n && n < 0x068) || (0x069 ≤ n && n < 0x070) || (0x074 ≤ n && n < 0x080) ||
    (0x0C0 ≤ n && n < 0x0C4) || (0x0D0 ≤ n && n < 0x100) || (0x180 ≤ n && n < 0x200)

/-- The offset of the first reserved byte of an image that is not zero. -/
def imageBad (bs : List Byte) : Option Nat :=
  (List.range 2048).find? fun n => imageReserved n && bs.getD n 0 != 0

/-- A word of an image. -/
def imageWord (bs : List Byte) (off : Nat) : Word := word (leVal ((bs.drop off).take 8))

/-- The operand record in an image. -/
def imageRec (bs : List Byte) : OpRec :=
  let w (o : Nat) : Word := imageWord bs (0x80 + o)
  { pc := w 0, base := (w 8).extractLsb' 0 32, ticket := (w 8).extractLsb' 32 32, ext := w 16, lit := w 24, vd := w 32, va := w 40
    vb := w 48, vc := w 56 }

/-- A completion queue of an image. -/
def imageQueue (bs : List Byte) (off n : Nat) : List Word := (List.range (min n 16)).map fun i => imageWord bs (off + 8 * i)

/-- TSTAT without its reserved bits (R153). -/
def tstatMask : Word := 0xFFFF000003E00110

/-- The context in an image; reserved bits of its registers are ignored as at a write (R11), and so is a WLIM or GPIV that no write stores
(R155, R353). -/
def imageCtx (bs : List Byte) : Ctx :=
  let w := imageWord bs
  let held := (w 0x68).getLsbD 0
  { pc := w 0x00, tstat := w 0x08 &&& tstatMask, tid := word (fld (w 0x10) 0 32), seg := w 0x18 &&& 0xF0000, wlim := wlimValue (w 0x20)
    tcause := (w 0x28 &&& 0xFFF) ||| word (bit held * 2 ^ 15), tepc := w 0x30, trec := alignDown (w 0x38) 7, uvec := alignDown (w 0x40) 2
    gpiv := gpivValue (w 0x48)
    g := Vector.ofFn fun (i : Fin 16) => w (0x100 + 8 * i)
    v := Vector.ofFn fun (i : Fin 16) => BitVec.ofNat 512 (leVal ((bs.drop (0x200 + 64 * i)).take 64))
    q := Vector.ofFn fun (i : Fin 8) =>
      let b := bs.getD (0x58 + i) 0
      if b.getLsbD 7 then portOf (b.extractLsb' 0 4) else none
    vflags := BitVec.ofNat 4 (fld (w 0x50) 32 4)
    origin := (w 0xC0).extractLsb' 44 20, domain := (w 0xC0).extractLsb' 32 3, joinAddr := w 0xC8
    head := if held then some ⟨imageRec bs, 0, false, none⟩ else none }

/-- The thread in an image, for a launch, in a context cache. -/
def imageThread (bs : List Byte) (place : Place) (run : Run) (vf launch flat : Nat) : Thread :=
  let w := imageWord bs
  let n := w 0x70
  { ctx := (imageCtx bs).masked ((w 0x60).extractLsb' 0 40)
    seq := (w 0x50).extractLsb' 0 28
    passdone := imageQueue bs 0x600 (fld n 0 5), cpydone := imageQueue bs 0x680 (fld n 8 5)
    decdone := imageQueue bs 0x700 (fld n 16 5), probeout := imageQueue bs 0x780 (fld n 24 5)
    run := run, place := place, vf := vf, launch := launch, flat := flat, vslot := fld (w 0x10) 8 4
    forced := (w 0x50).getLsbD 40, masks := (w 0x60).extractLsb' 0 40 }

/-- What a removed context leaves behind under its TID: its record, the entries in its image left out. -/
def Thread.leftBehind (t : Thread) : Thread := { t with passdone := [], cpydone := [], decdone := [], probeout := [] }

/-- A thread loaded from an image with what went on under its TID meanwhile (R166, R406, R445; log 83): entries and outstanding operations,
the target of a bar whose wait is a pending head, and, where the image says that it was parked, its request, or the outcome of a request
that was served. -/
def Thread.rejoin (u old : Thread) (parked : Bool) : Thread :=
  let head := u.ctx.head.map fun h => { h with target := old.ctx.head.bind Head.target }
  let u := { u with
    ctx := { u.ctx with head := head }
    passdone := u.passdone ++ old.passdone, cpydone := u.cpydone ++ old.cpydone, decdone := u.decdone ++ old.decdone
    probeout := u.probeout ++ old.probeout, outPass := old.outPass, outCpy := old.outCpy, outDec := old.outDec, engFlts := old.engFlts
    promises := old.promises, gens := old.gens, rxErrs := old.rxErrs, homeErr := old.homeErr, vErr := old.vErr }
  if !parked then u
  else if old.req.isSome then { u with req := old.req, answer := old.answer, waitOpr := old.waitOpr, run := old.run }
  else { u with ctx := old.ctx, run := old.run }

/-! ### ctxsv and ctxld (R450) -/

/-- The logical cluster in which a thread executes: of its virtual cell, or the one that its nurse's cluster holds. -/
def State.ownLcl (s : State) (t : Thread) : Option (Nat × Nat × Nat) := match s.lcellOf t with
  | some c => if t.nurse then (s.whoOf t).nurseLcl else some (c.pkg, c.die, c.lcl)
  | none => (s.whoOf t).nurseLcl

/-- The launch whose partition holds a logical cell, and the cell's flat number. -/
def State.launchOf (s : State) (c : LCell) : Option (Nat × Launch × Nat) :=
  s.launches.findSome? fun x =>
    ((List.range x.2.ready.cells).find? fun f => x.2.ready.lcell f == some c).map fun f => (x.1, x.2, f)

/-- The parts of a context image checked as accesses of a thread (R178): the first fault. -/
def rangeFault (s : State) (t : Thread) (acc : Acc) (va : Word) (n : Nat) : Option Flt :=
  (parts va n).findSome? fun p => match resolve s (s.whoOf t) acc p.1 p.2 64 with
    | .error f => some f
    | .ok _ => none

/-- The checks that ctxsv and ctxld share: the selector's unused bits, CELL, the image's alignment and its range; then what follows with
the logical cell and its place. -/
def ctxChecks (s : State) (t : Thread) (acc : Acc) (va sel unused : Word) (f : LCell → VPlace → Res) : Res :=
  if sel &&& unused ≠ 0 ∨ 32 ≤ fld sel 32 16 then .trap s { code := fIllegal }
  else if fld va 0 6 ≠ 0 then .trap s (fltAt fMisaligned va)
  else match rangeFault s t acc va 2048 with
    | some e => .trap s e
    | none => match s.ownLcl t with
      | none => .trap s { code := fIllegal, detail := 1 }
      | some (p, d, l) => match s.place ⟨p, d, l, fld sel 32 16⟩ with
        | none => .trap s { code := fIllegal, detail := 1 }
        | some pl => f ⟨p, d, l, fld sel 32 16⟩ pl

/-- A reason of R450 as a fault. -/
def ctxReason (n : Nat) : Flt := { code := fIllegal, detail := word n }

/-- A thread's entry removed from a context cache: its request stays at its home, its engine work goes on under its TID, and its virtual
cell may close. -/
def State.removeEntry (s : State) (k : Nat) (t : Thread) : State :=
  { s.dropThread k with saved := putAt k t.leftBehind (s.saved.filter fun x => !(x.2.tid == t.tid && x.2.launch == t.launch))
    }.closeIfEmpty t.launch t.flat

/-- Whether a thread's context is an entry of a cell's context cache. -/
def Thread.cachedAt (t : Thread) (c : PCell) : Bool := match t.place with
  | .cache c' _ _ => c' == c
  | _ => false

/-- The thread of a TID in a cell, in its context cache or in a slot. -/
def State.findTid (s : State) (c : PCell) (tid : BitVec 32) (cached : Bool) : Option (Nat × Thread) :=
  s.threads.find? fun x => x.2.tid == tid && !x.2.nurse && (if cached then x.2.cachedAt c else x.2.inSlotOf c)

/-- ctxsv (R450). With PRE the running thread is asked for its pre-emption, and the instruction waits without parking. -/
def execCtxsv (a b : Reg) (s : State) : Host.Outcome State Fault Refusal :=
  issue (.ctxsv a b) s (superBody fun s k t =>
    let va := t.ctx.gpr a
    let sel := t.ctx.gpr b
    let tid := sel.extractLsb' 0 32
    ctxChecks s t .store va sel 0xFFFA000000000000 fun c pl =>
      match s.findTid pl.cell tid true with
      | some (j, u) =>
        if u.fctx.toList.any Option.isSome then .trap s (ctxReason 2)
        else orTrap (s.waitRx k) fun s =>
          orStay (s.awaitsGen ((s.thread? k).getD t) .sys) s <|
          match cellStore (t.release .sys s) (s.whoOf t) va (imageBytes u) with
          | .error e => .trap e.2 (fltAt e.1 va)
          | .ok s => .next (if sel.getLsbD 48 then s.removeEntry j u else s)
      | none =>
        if (s.vcell c).held.any fun h => h.1 == tid then .trap s (ctxReason 2)
        else if !sel.getLsbD 50 then .trap s (ctxReason 1)
        else match s.findTid pl.cell tid false with
          | some (j, u) => .stay (s.setThread j { u with preempt := some (u.preempt.getD (s.cycOf u)) })
          | none => .stay s)

/-- ctxld (R450): the image becomes an entry of the named cell's context cache, which spills first where it is full (R443). Where the table of
the thread's home cell has no room for it (R166), the instruction waits (DESIGN CHOICE, log 84). -/
def execCtxld (a b : Reg) (s : State) : Host.Outcome State Fault Refusal :=
  issue (.ctxld a b) s (superBody fun s k t =>
    let va := t.ctx.gpr a
    let sel := t.ctx.gpr b
    ctxChecks s t .load va sel 0xFFFE000000000000 fun c pl =>
      orTrap (s.waitRx k) fun s =>
      match cellRead s (s.whoOf t) va 2048 with
      | .error e => .trap s (fltAt e va)
      | .ok (bs, s) =>
        let l := s.launchOf c
        let tid := (imageWord bs 0x10).extractLsb' 0 32
        match imageBad bs with
        | some n => .trap s (ctxReason n)
        | none =>
          if tid ≠ sel.extractLsb' 0 32 then .trap s { code := fIllegal }
          else if s.threads.any fun x => x.2.tid == tid && !x.2.nurse && some x.2.launch == l.map Prod.fst then
            .trap s (ctxReason 3)
          else match l with
            | none => .trap s { code := fIllegal }
            | some (j, x, f) =>
              let z := s.tick
              let run : Run := if sel.getLsbD 48 then .ready else .suspended
              let u := imageThread bs (.cache pl.cell (sel.getLsbD 48) z.1) run x.vf j f
              orStay (!s.awayFree u f) s <|
              let y : Nat × Thread × State := match s.saved.find? fun y => y.2.tid == tid && y.2.launch == j with
                | some (n, old) =>
                  let v := u.rejoin old ((imageWord bs 0x68).getLsbD 1)
                  (n, if sameDie old.pcell pl.cell then v else v.anew (s.cycOf old) (s.cycOf v), { z.2 with saved := dropAt n z.2.saved })
                | none => (z.2.fresh.1, u, z.2.fresh.2)
              let s := (y.2.2.setThread y.1 y.2.1).setVcell c ((z.2.vcell c).opened j)
              .next (((s.noteAway u f).spillOver pl.cell).drainRx k))

/-! ### tlbi, cap, scrub -/

/-- Whether g[B] is one that tlbi takes with an address (R452). -/
def tlbiOk (va ctl : Word) : Bool :=
  fld ctl 17 47 == 0 && fld ctl 6 2 == 0 && fld ctl 1 3 == 0 && decide (fld ctl 12 5 ≤ 16) &&
    (decide (fld ctl 8 4 ≤ 6) || fld ctl 8 4 == 8) && (!ctl.getLsbD 0 || va == 0)

/-- tlbi (R452): the request is sent; the removal comes at a free time, at the latest with the tfence that awaits it (log 38). -/
def execTlbi (a b : Reg) (s : State) : Host.Outcome State Fault Refusal :=
  issue (.tlbi a b) s (superBody fun s k t =>
    let va := t.ctx.gpr a
    let ctl := t.ctx.gpr b
    if !tlbiOk va ctl then .trap s { code := fIllegal }
    else
      let c := clusterOf t.pcell
      let x := s.cluster c
      let r : Tlbi := ⟨k, fld ctl 12 5, va, fld ctl 4 2, ctl.getLsbD 0, max 1 (fld ctl 8 4), t.pcell, s.scopePhys t (max 1 (fld ctl 8 4))⟩
      .next (s.setCluster c { x with tlbis := x.tlbis ++ [r] }))

/-- cap (R453). The cause in the log: 1 where the cell's pipeline or vector unit has a lasting fault, else 2 (R468). -/
def execCap (a : Reg) (s : State) : Host.Outcome State Fault Refusal :=
  issue (.cap a) s (superBody fun s _ t =>
    let v := t.ctx.gpr a
    if !t.nurse || fld v 5 59 ≠ 0 then .trap s { code := fIllegal }
    else
      let c : PCell := { t.pcell with cell := fld v 0 5 }
      let lasting := 3 ≤ lookD 0 (Monitored.pipeline c) s.counts ∨ 3 ≤ lookD 0 (Monitored.vector c) s.counts
      .next (s.capCell c (if lasting then 1 else 2)))

/-- Whether words of a space have a full/empty bit (R181, R191). -/
def hasFe : Space → Bool
  | .scratch _ | .slice _ _ | .hbm _ _ => true
  | _ => false

/-- 64 bytes scrubbed at their place: zeros, check bits rewritten, full/empty bits set (R454). -/
def scrubLine (s : State) (w : Who) (loc : Loc) (full : Bool) : Except Nat State :=
  (writeAt s w loc (List.replicate 64 0) false).map fun s =>
    let s := { s with poison := s.poison.filter fun k => decide (k < loc.key) || decide (loc.key + 64 ≤ k) }
    let keys := (List.range 8).map fun i => loc.key + 8 * i
    let s := if hasFe (keySpace loc.key) then keys.foldl (fun s k => s.setFull k full) s else s
    keys.foldl State.wordChanged s

/-- The lines of a scrub one after the other. -/
def scrubLines (w : Who) (full : Bool) : State → List Word → Except (State × Flt) State
  | s, [] => .ok s
  | s, va :: l => match resolve s w .store va 64 64 with
    | .error f => .error (s, f)
    | .ok loc => match scrubLine (loc.settle s w.cell 64) w loc full with
      | .error c => .error (s, fltAt c va)
      | .ok s => scrubLines w full s l

/-- Whether scrub takes the class of an address (R454). -/
def scrubClass (va : Word) : Bool :=
  let c := fld va 56 8
  decide (c < 0x40) || c == 0x40 || c == 0x50 || c == 0x60

/-- scrub (R454): every line is checked before the first is written. -/
def execScrub (a b : Reg) (s : State) : Host.Outcome State Fault Refusal :=
  issue (.scrub a b) s (superBody fun s k t =>
    let va := t.ctx.gpr a
    let ctl := t.ctx.gpr b
    let n := fld ctl 0 32
    if ctl.getLsbD 63 || fld ctl 32 30 ≠ 0 then .trap s { code := fIllegal }
    else if !scrubClass va then .trap s (fltAt fAddress va)
    else if fld va 0 6 ≠ 0 ∨ n % 64 ≠ 0 then .trap s (fltAt fMisaligned va)
    else orTrap (s.waitRx k) fun s =>
      let t := (s.thread? k).getD t
      match rangeFault s t .store va n with
      | some f => .trap s f
      | none =>
        orTrap (scrubLines (s.whoOf t) (ctl.getLsbD 62) s ((List.range (n / 64)).map fun i => va + word (64 * i))) fun s => .next s)

end Sys2Proof.Machine
end

