-- ==== Sys2Proof/Machine/Place.lean ====
section
/-! DEFINITION. Tasks and where they run (R73 to R86): task starts and refills, contexts that resume, steals, and time slices. -/
namespace Sys2Proof.Machine
open Sys2Proof

/-! ### Free slots (R73, R74) -/

/-- Whether a physical slot is free: it holds no thread, is not reserved for a gang, and its cell is neither capped nor being quiesced. -/
def State.slotFree (s : State) (x : Seat) (n : Nat) : Bool :=
  decide (n < 16) && !(s.cell x.place.cell).capped && !s.still (clusterOf x.place.cell) && !(s.threads.any fun y => y.2.slot? == some (x.place.cell, n)) &&
    !((s.vcell x.cell).reserved.any fun r => r.1 == n)

/-- Whether a virtual slot of a virtual cell is free: on an unfolded cell the physical slot is; on a folded one no context that runs or could
run has it (R86). -/
def State.vslotFree (s : State) (x : Seat) (key flat n : Nat) : Bool :=
  decide (n < x.launch.ready.slots) &&
    if x.place.fold = 0 then s.slotFree x n
    else !(s.cell x.place.cell).capped && !s.still (clusterOf x.place.cell) && !(s.threads.any fun y => y.2.at_ key flat && y.2.vslot == n && y.2.run != .suspended)

/-- A virtual cell's seat with its launch's name and flat number, where its launch is live and not ending. -/
def State.seatOf (s : State) (c : LCell) : Option (Nat × Nat × Seat) := match s.launchOf c with
  | none => none
  | some (k, l, f) => if l.ending.isSome then none else (s.seatAt k f).map fun x => (k, f, x)

/-! ### Refills (R82, R83) -/

/-- The launch unit told of a brood queue that cannot be read (R82): the launch will end with the fault code and the address. -/
def State.broodFault (s : State) (key code : Nat) (va : Word) : State := match s.launch? key with
  | some l => s.setLaunch key { l with trapped := l.trapped ++ [{ code := code, tid := 0, tepc := va }] }
  | none => s

/-- One record of a brood queue read through the function's tables: a discarded page is a fault here. -/
def State.broodRecord (s : State) (x : Seat) (flat i : Nat) : Except (Nat × Word) (BitVec 256) :=
  let va := x.launch.ready.broodEntry flat i
  let w := broodWho x
  match placeOf s w .load va 32 with
  | .error c => .error (c, va)
  | .ok loc =>
    if loc.disc then .error (fDiscarded, va)
    else match readAt s w loc 32 false with
      | .error c => .error (c, va)
      | .ok (bs, _) => .ok (BitVec.ofNat 256 (leVal bs))

/-- Records of a brood queue from an index on. -/
def State.broodRecords (s : State) (x : Seat) (flat i : Nat) : Nat → Except (Nat × Word) (List (BitVec 256))
  | 0 => .ok []
  | n + 1 => do
    let r ← s.broodRecord x flat i
    let l ← s.broodRecords x flat (i + 1) n
    .ok (r :: l)

/-- A deque refilled with the youngest records of the brood queue (R83). -/
def State.refill (s : State) (key flat : Nat) (x : Seat) : State :=
  let v := s.vcell x.cell
  let n := min 16 (v.btail - v.bhead)
  if !v.deque.isEmpty || n = 0 then s
  else match s.broodRecords x flat (v.btail - n) n with
    | .error e => s.broodFault key e.1 e.2
    | .ok l => s.setVcell x.cell { v with deque := l, btail := v.btail - n }

/-! ### Task starts (R74) -/

/-- The context of a task started in a slot (R57, R74). -/
def taskCtx (l : Launch) (r : BitVec 256) (flat slot : Nat) (tid : Word) (seg : Nat) : Ctx :=
  let c := wakeCtx l flat slot tid seg
  { c with
    pc := l.ready.codeBase + word (taskEntry r), g := (c.g.set 0 (r.extractLsb' 128 64)).set 1 (r.extractLsb' 192 64)
    joinAddr := taskJoin r, origin := taskOrigin r, domain := taskDomain r }

/-- A task started in a virtual slot, with the acquire that pairs with its fork (R162). -/
def State.startTask (s : State) (key flat slot : Nat) (x : Seat) (r : BitVec 256) : State :=
  let s := acquireAt s x.place.cell .part
  let s := s.setVcell x.cell ((s.vcell x.cell).opened key)
  let tid := s.newTid x.cell flat slot
  let f := tid.2.fresh
  let pl := f.2.startPlace x slot
  pl.2.setThread f.1 { ctx := taskCtx x.launch r flat slot tid.1 (x.launch.ready.segOf x.place), place := pl.1, vf := x.launch.vf
                       launch := key, flat := flat, vslot := slot, slotSince := s.cyc x.cell.pkg x.cell.die }

/-- A free slot takes the bottom record of its deque, refilled from the brood queue where it is empty (R74). -/
def execTaskStart (cell : LCell) (slot : Nat) (s : State) : Host.Outcome State Fault Refusal :=
  .next (match s.seatOf cell with
    | none => s
    | some (key, flat, x) =>
      if !s.vslotFree x key flat slot then s
      else
        let s := s.refill key flat x
        let v := s.vcell cell
        match v.deque.getLast? with
        | none => s
        | some r => (s.setVcell cell { v with deque := v.deque.dropLast }).startTask key flat slot x r)

/-! ### Contexts that resume (R74, R86, R89, R443) -/

/-- A resumable entry of a context cache, with its stamp. -/
def Thread.waitingAt (t : Thread) (c : PCell) : Option Nat := match t.place with
  | .cache c' true n => if c' = c then some n else none
  | _ => none

/-- A context put back into a slot: registers outside its live mask read as zero, and the mask is spent (R21, R442). -/
def Thread.resumed (t : Thread) (c : PCell) (n now : Nat) : Thread :=
  { t with
    ctx := if t.forced then t.ctx else t.ctx.masked t.masks
    place := .slot c n, slotSince := now, preempt := none, masks := BitVec.allOnes 40, forced := false, spilled := false }

/-- A slot of a physical cell that holds no thread and no reservation. -/
def State.openSlot (s : State) (c : PCell) (n : Nat) : Bool :=
  decide (n < 16) && !(s.cell c).capped && !s.still (clusterOf c) && !(s.threads.any fun y => y.2.slot? == some (c, n)) &&
    !(s.vcells.any fun v => v.2.reserved.any (fun r => r.1 == n) && (s.place v.1).map VPlace.cell == some c)

/-- How many slots of its cell a thread may run in: the slot set of its launch, or on a folded cell all sixteen (R73, R86). -/
def State.slotBound (s : State) (t : Thread) : Nat := match s.seat t with
  | some x => if x.place.fold = 0 then x.launch.ready.slots else 16
  | none => 16

/-- The slot in which a crew resumes: the given one for a thread alone, slot k of every cell for a gang, which its followers keep (R87,
R89). -/
def State.crewSlot (s : State) (crew : List Nat) (n : Nat) : Nat := match crew with
  | _ :: m :: _ => ((s.thread? m).map Thread.vslot).getD n
  | _ => n

/-- Whether every member of a crew finds its slot free. -/
def State.crewFits (s : State) (crew : List Nat) (n : Nat) : Bool := crew.all fun m => match s.thread? m with
  | some t => decide (n < s.slotBound t) && s.openSlot t.pcell (s.crewSlot crew n)
  | none => false

/-- Whether a cell's tasks come before its resumable contexts: it is not folded and has records (R74). -/
def State.hasTasks (s : State) (t : Thread) : Bool := match s.seat t with
  | some x => x.place.fold == 0 && (!(s.vcell x.cell).deque.isEmpty || (s.vcell x.cell).bhead != (s.vcell x.cell).btail)
  | none => false

/-- A context resumes with its pending head issued again first (R147). -/
def State.resumeAll (s : State) (crew : List Nat) (n : Nat) : State :=
  let slot := s.crewSlot crew n
  crew.foldl (fun s m => match s.thread? m with
    | some t =>
      let s := s.setThread m (t.resumed t.pcell slot (s.cycOf t))
      if t.run = .ready ∧ t.homeErr.isNone then resumeHead s m else s
    | none => s) s

/-- The resumable contexts of a cell that a free slot can take now, each with the stamp of its entry: a gang's leader where every member finds its
slot free (R89), and none of a virtual cell whose tasks come first. -/
def State.resumable (s : State) (c : PCell) (slot : Nat) : List (Nat × Nat × Thread) := s.threads.filterMap fun x =>
  (x.2.waitingAt c).bind fun n => if !s.hasTasks x.2 && s.crewFits (x.2.crew x.1) slot then some (n, x) else none

/-- The one of them that has waited longest (R74, R443). -/
def State.longest (s : State) (c : PCell) (slot : Nat) : Option (Nat × Thread) :=
  let l := s.resumable c slot
  let m := (l.map Prod.fst).foldl min ((l.head?.map Prod.fst).getD 0)
  (l.find? fun x => x.1 == m).map Prod.snd

/-- A free slot takes the resumable context that has waited longest (R74, R86, R443). -/
def execContextResume (cell : PCell) (slot : Nat) (s : State) : Host.Outcome State Fault Refusal :=
  .next (match s.longest cell slot with
    | none => s
    | some (k, t) => s.resumeAll (t.crew k) slot)

/-! ### Time slices (R86) -/

/-- The contexts of a cell that could run but have no slot. -/
def State.waiters (s : State) (c : PCell) : Nat := (s.threads.filter fun x => (x.2.waitingAt c).isSome).length

/-- The free slots of a cell that a context without a slot may take. -/
def State.freeSlots (s : State) (c : PCell) : Nat :=
  let bound := ((s.threads.filter fun x => (x.2.waitingAt c).isSome).map fun x => s.slotBound x.2).foldl max 0
  ((List.range bound).filter fun n => s.openSlot c n).length

/-- Whether a thread has held its slot for a time slice while contexts wait. -/
def State.sliceOver (s : State) (t : Thread) : Bool :=
  t.slot?.isSome && !t.nurse && t.preempt.isNone && decide (s.freeSlots t.pcell < s.waiters t.pcell) &&
    decide (t.slotSince + 65536 ≤ s.cycOf t)

/-- A thread that has held its slot for 65,536 dclk is asked for its pre-emption (R86, R440). -/
def execTimesliceExpiry (thread : Nat) (s : State) : Host.Outcome State Fault Refusal :=
  .next (s.modThread thread fun t => if s.sliceOver t then { t with preempt := some (s.cycOf t) } else t)

/-! ### Steals (R75, R78 to R81) -/

/-- A level of the steal table, and the attempts made at it before attempt j (R78). -/
def stealLevel (j : Nat) : Nat × Nat :=
  if j % 4 < 3 then (1, 3 * (j / 4) + j % 4) else (2 + j / 4 % 3, j / 4 / 3)

/-- The lowest flat number and the number of cells of the partition at a level that contain a cell: 1 cluster, 2 die, 3 package, 4 partition
(R69, R78). -/
def Ready.levelRange (r : Ready) (level flat : Nat) : Nat × Nat :=
  let mine := (r.clusters[flat / 32]?).map clusterEntry
  let near (e : BitVec 32) : Bool := match mine with
    | none => false
    | some m => match level with
      | 1 => clusterEntry e == m
      | 2 => (clusterEntry e).1 == m.1 && (clusterEntry e).2.1 == m.2.1
      | 3 => (clusterEntry e).1 == m.1
      | _ => true
  let l := (List.range r.ncl).filter fun i => match r.clusters[i]? with
    | some e => near e
    | none => false
  (32 * l.headD 0, 32 * l.length)

/-- The victim of attempt j of a thief (R78); none where the level has one cell. -/
def Ready.victim (r : Ready) (flat j : Nat) : Option Nat :=
  let x := stealLevel j
  let y := r.levelRange x.1 flat
  if y.2 ≤ 1 then none else some (y.1 + ((flat - y.1) + 1 + (flat + x.2) % (y.2 - 1)) % y.2)

/-- Whether a virtual cell is idle (R75). On a folded cell only its own contexts in the shared cache count (DESIGN CHOICE, log 87). -/
def State.idleCell (s : State) (key flat : Nat) (x : Seat) : Bool :=
  let v := s.vcell x.cell
  v.isOpen && v.launch == key && v.deque.isEmpty && v.bhead == v.btail && !(s.cell x.place.cell).capped &&
    !(s.threads.any fun y => y.2.at_ key flat && (y.2.waitingAt x.place.cell).isSome) &&
    (List.range x.launch.ready.slots).any fun n => s.vslotFree x key flat n

/-- A thief that has received NONE (R80): after four in a row it waits, twice as long each time up to 4,096 dclk. -/
def VCell.noLuck (v : VCell) (now : Nat) : VCell :=
  let n := v.fails + 1
  if n % 4 = 0 then { v with stealing := false, fails := n, waitUntil := now + v.wait, wait := min 4096 (2 * v.wait) }
  else { v with stealing := false, fails := n }

/-- Whether a virtual cell may attempt a steal now. -/
def State.maySteal (s : State) (key flat : Nat) (x : Seat) : Bool :=
  let v := s.vcell x.cell
  s.idleCell key flat x && !v.stealing && decide (v.waitUntil ≤ s.cyc x.cell.pkg x.cell.die)

/-- A steal attempt (R78). -/
def execStealAttempt (thief : LCell) (s : State) : Host.Outcome State Fault Refusal :=
  .next (match s.seatOf thief with
    | none => s
    | some (key, flat, x) =>
      if !s.maySteal key flat x then s
      else
        let v := s.vcell thief
        let now := s.cyc thief.pkg thief.die
        match x.launch.ready.victim flat v.j with
        | none => s.setVcell thief ({ v with j := v.j + 1 }.noLuck now)
        | some y =>
          let f := s.fresh
          { (f.2.setVcell thief { v with j := v.j + 1, stealing := true }) with steals := f.2.steals ++ [⟨f.1, key, flat, y, none⟩] })

/-- Whether a record's steal domain contains a thief (R30, R79). -/
def Ready.eligible (r : Ready) (rec : BitVec 256) (thief : Nat) : Bool :=
  let d := (taskDomain rec).toNat
  let y := r.levelRange d (taskOrigin rec).toNat
  decide (d ≠ 0) && decide (y.1 ≤ thief) && decide (thief < y.1 + y.2)

/-- The search of R79: the brood queue's head, then the deque from the top. -/
def State.stealFrom (s : State) (key thief victim : Nat) (x : Seat) : Option (BitVec 256) × State :=
  let v := s.vcell x.cell
  let onChip (s : State) : Option (BitVec 256) × State :=
    match v.deque.findIdx? fun r => x.launch.ready.eligible r thief with
    | some i => (v.deque[i]?, (s.setVcell x.cell { v with deque := v.deque.eraseIdx i }).closeIfEmpty key victim)
    | none => (none, s)
  if (s.cell x.place.cell).capped then (none, s)
  else if v.bhead = v.btail then onChip s
  else match s.broodRecord x victim v.bhead with
    | .error e => (none, s.broodFault key e.1 e.2)
    | .ok r =>
      if x.launch.ready.eligible r thief then (some r, (s.setVcell x.cell { v with bhead := v.bhead + 1 }).closeIfEmpty key victim)
      else onChip s

/-- A victim answers a steal request (R79). A thief's record is on its way from then on. -/
def execStealRequest (msg : Nat) (s : State) : Host.Outcome State Fault Refusal :=
  .next (match s.steals.find? fun m => m.id == msg && m.answer.isNone with
    | none => s
    | some m =>
      let r : Option (BitVec 256) × State := match s.seatAt m.launch m.victim with
        | none => (none, s)
        | some x => s.stealFrom m.launch m.thief m.victim x
      { r.2 with steals := r.2.steals.map fun y => if y.id = msg then { y with answer := some r.1 } else y })

/-- A virtual slot of a thief that is free for a stolen record. -/
def State.thiefSlot (s : State) (m : StealMsg) (x : Seat) : Option Nat :=
  (List.range x.launch.ready.slots).find? fun n => s.vslotFree x m.launch m.thief n

/-- Whether a thief can take its answer: a record needs a free slot or a free entry of its deque (R76). -/
def State.canTake (s : State) (m : StealMsg) : Bool := match m.answer, s.seatAt m.launch m.thief with
  | some (some _), some x => (s.thiefSlot m x).isSome || decide ((s.vcell x.cell).deque.length < x.dequeCap)
  | _, _ => true

/-- A thief receives its answer (R80, R81): a record starts in a free slot, or else goes into the thief's deque; where that is full, it
waits (R76). -/
def execStealAnswer (msg : Nat) (s : State) : Host.Outcome State Fault Refusal :=
  .next (match s.steals.find? fun m => m.id == msg && m.answer.isSome && s.canTake m with
    | none => s
    | some m =>
      let s := { s with steals := s.steals.filter fun y => y.id != msg }
      match s.seatAt m.launch m.thief with
      | none => s
      | some x =>
        let v := s.vcell x.cell
        match m.answer with
        | some (some r) =>
          let s := s.setVcell x.cell { v with stealing := false, fails := 0, wait := 64, waitUntil := 0 }
          (match s.thiefSlot m x with
            | some n => s.startTask m.launch m.thief n x r
            | none => s.setVcell x.cell (((s.vcell x.cell).push r).opened m.launch))
        | _ => s.setVcell x.cell (v.noLuck (s.cyc x.cell.pkg x.cell.die)))

end Sys2Proof.Machine
end

