-- ==== Sys2Proof/Machine/Schedule.lean ====
section
/-! DEFINITION. What steps next (log 1): the clock, the threads that can issue (R140 to R142), what comes before an instruction
(R428), the timers that have run out, and the events that are due. -/
namespace Sys2Proof.Machine
open Sys2Proof

/-- The instructions and events that check a handle (R37). -/
def checksHandle : Instr → Bool
  | .cpyh _ | .pbank _ _ _ | .pdec _ _ _ | .copyBlock _ | .imageBlockRead _ | .decompositionComplete _ | .ringEntryReservation _ _ => true
  | _ => false

/-- A state in which an instruction or event is about to check a handle, if it does (R38). -/
def State.noting (s : State) (i : Instr) : State := if checksHandle i then { s with checked := some s.clock } else s

/-- The removals of tlbis that are on their way take effect at a free time (R452, log 38). -/
def State.lateTlbis (s : State) : State :=
  if (s.tlbisOf fun _ => true).isEmpty then s
  else if Config.freeValue s.free % 2 = 0 then { s with free := s.free + 1 }
  else { s with free := s.free + 1 }.applyTlbis fun _ => true

/-- The dclk that pass with a step (log 5): at least one after a check of a handle, so that a free of the same dclk has come first (R38). -/
def State.gap (s : State) : Nat := if s.checked = some s.clock then max 1 (s.gaps.headD 1) else s.gaps.headD 1

/-- The clock of a step, and what has taken effect by then. -/
def State.passTime (s : State) : State := { s with clock := s.clock + s.gap, gaps := s.gaps.drop 1 }.lateTlbis

/-- Whether a thread could issue now (R140), in a slot of a cell that issues. -/
def State.inSlot (s : State) (t : Thread) : Bool := match t.place with
  | .slot c _ =>
    let d := s.die c.pkg c.die
    !(s.cell c).capped && !d.shut && !(d.throttled && Config.withhold (s.cyc c.pkg c.die))
  | _ => false

/-- Whether a thread issues when its turn comes: a ready one, and a yielded one when the others have issued (R165). Parked threads that wait
for the cell's own state look again (log 7). -/
def State.issues (s : State) (t : Thread) : Bool :=
  s.inSlot t && (match t.run with
    | .ready => s.mayIssue t
    | .yielded l => l.all fun m => !(((s.thread? m).map fun x => s.mayIssue x && s.inSlot x).getD false)
    | .parked .fullEmpty _ | .parked .bar _ | .parked .ways _ => false
    | .parked _ _ => true
    | _ => false)

/-- Whether a pre-emption is asked of a thread: of a gang's leader also by a request that was raised on a member, and of a follower never by
itself (R89, R440). -/
def State.asked (s : State) (t : Thread) : Bool := match t.gang with
  | .none => t.preempt.isSome
  | .leader ms => t.preempt.isSome || ms.any fun m => ((s.thread? m).map fun u => u.preempt.isSome).getD false
  | .follower _ => false

/-- Whether a pre-emption request is honoured at a thread's next instruction (R428, R440): no window open, user privilege, no
follower, and a safe point. -/
def State.honours (s : State) (t : Thread) : Bool :=
  s.asked t && !t.ctx.priv && t.ctx.opened.isNone && (s.liveMask t).isSome

/-- Whether nothing keeps a thread from a forced save of a quiesce: it holds a slot, also while it waits to fly, at user privilege, with no
window open (R72, R440). -/
def Thread.takeable (t : Thread) : Bool := t.slot?.isSome && !t.ctx.priv && t.ctx.opened.isNone

/-- Whether a quiesce of its cluster takes a thread now, a gang with its leader (R72, R440). A nurse is not taken. -/
def State.taken (s : State) (t : Thread) : Bool :=
  !t.nurse && s.still (clusterOf t.pcell) && t.takeable && (match t.gang with
    | .follower _ => false
    | .none => true
    | .leader ms => ms.all fun m => ((s.thread? m).map Thread.takeable).getD true)

/-- What comes before a thread's next instruction. -/
inductive Prior where
  | forcedSave | preemption | accessCompletion | promiseMissedUpcall
  deriving DecidableEq, Repr

/-- The event that comes before a thread's next instruction: the save of a quiesce (R72), its pre-emption, or the notice of a missed promise
(R428). An open window is closed first; an instruction that a gang's leader has delivered is not held up. -/
def State.before (s : State) (t : Thread) : Option Prior :=
  if s.taken t then some .forcedSave
  else if !t.goesOn || t.todo.isSome then none
  else if s.honours t then some .preemption
  else if !t.promises.isEmpty && !t.ctx.upc && !t.ctx.priv then
    some (if t.ctx.opened.isSome then .accessCompletion else .promiseMissedUpcall)
  else none

/-- The cells with a thread that issues, each once. -/
def State.issuingCells (s : State) : List PCell :=
  (s.threads.filterMap fun x => if s.issues x.2 then some x.2.pcell else none).eraseDups

/-- Whether a thread in a slot of a cell is ready (R140), or waits and looks again. -/
def State.seenIn (s : State) (c : PCell) (ready : Bool) (x : Nat × Thread) : Option (Nat × Nat) := match x.2.place with
  | .slot c' n => if c' = c ∧ s.issues x.2 ∧ x.2.goesOn = ready then some (x.1, n) else none
  | _ => none

/-- The first ready slot of a cell at or after the rotation pointer, with its thread (R141). -/
def State.readyTurn (s : State) (c : PCell) : Option (Nat × Nat) :=
  let ready := s.threads.filterMap (s.seenIn c true)
  (List.range 16).findSome? fun i => ready.find? fun y => y.2 = ((s.cell c).rot + i) % 16

/-- The rotation pointer set past a slot that issues (R141). -/
def State.turned (s : State) (c : PCell) (slot : Nat) : State := s.setCell c { s.cell c with rot := (slot + 1) % 16 }

/-- The thread of a cell that has the next turn, with its slot: the first ready one (R141), and in every other turn a thread that waits and
looks again (log 1). -/
def State.turnOf (s : State) (c : PCell) : Option (Nat × Nat) :=
  let x := s.cell c
  let waiting := s.threads.filterMap (s.seenIn c false)
  let next := s.readyTurn c
  let look := waiting[x.poll / 2 % waiting.length]?
  if x.poll % 2 = 0 then next <|> look else look <|> next

/-! ### What a quiesce waits for (R72, R440) -/

/-- A logical cluster by package, die and LCL. -/
structure Lcl where
  pkg : Nat
  die : Nat
  lcl : Nat
  deriving DecidableEq, Repr

/-- A logical cell of a logical cluster. -/
def Lcl.cell (x : Lcl) (j : Nat) : LCell := ⟨x.pkg, x.die, x.lcl, j⟩
/-- Whether a logical cell is one of a logical cluster. -/
def Lcl.has (x : Lcl) (c : LCell) : Bool := c.pkg == x.pkg && c.die == x.die && c.lcl == x.lcl

/-- The threads of a logical cluster (R72). -/
def State.threadsOf (s : State) (x : Lcl) : List (Nat × Thread) :=
  s.threads.filter fun y => !y.2.nurse && ((s.lcellOf y.2).map x.has).getD false

/-- Whether the engines of a cluster have drained: copies, a load, a streaming pass, and fabric operations (R254, R298, R338, R410). -/
def State.enginesIdle (s : State) (x : Lcl) (k : ClusterId) : Bool :=
  (s.cluster k).copies.isEmpty && (s.omu k).load.isNone && (s.omu k).passes.isEmpty && (s.omu k).stream.isEmpty &&
    !(s.fops.any fun f => x.has f.by_.cell) &&
    !(s.pkgs.any fun p => (p.2.topo.toList ++ p.2.topoQ).any fun c => x.has c.by_.cell)

/-- Whether a quiesce of a logical cluster can be completed now: no thread is left in a slot, and the engines have drained. -/
def State.quiet (s : State) (x : Lcl) (k : ClusterId) : Bool := (s.threadsOf x).all (fun y => y.2.cached) && s.enginesIdle x k

/-- What a step does. -/
inductive Choice where
  | event (i : Instr)
  | thread (k : Nat)
  | idle
  deriving DecidableEq, Repr

end Sys2Proof.Machine
end

