-- ==== Sys2Proof/Machine/Contexts.lean ====
section
/-! DEFINITION. What interrupts a thread between its instructions: pre-emption and forced saves (R440 to R443), the checker's retry (R151), answers
that return (R144, R228), page walks (R196, R198), and the wait limit (R93, R235). -/
namespace Sys2Proof.Machine
open Sys2Proof

/-! ### Saves (R440 to R443) -/

/-- A thread stopped and put into its cell's context cache with the registers that a mask names (R441, R442). A thread that yielded has
committed its yield; a parked or sleeping one keeps its wait. The least recently written entry beyond 64 spills (R443). -/
def State.shelve (s : State) (resumable : Bool) (masks : BitVec 40) (forced : Bool) (k : Nat) : State :=
  let x := (s.stopThread k).tick
  match x.2.thread? k with
  | none => x.2
  | some t =>
    ((x.2.setThread k { t with
      place := .cache t.pcell resumable x.1, masks := masks, forced := forced, spilled := false, preempt := none
      run := if t.goesOn then .ready else t.run }).spillOver t.pcell).unyield k

/-- A follower that is done takes its leader's pc (R169). -/
def Thread.align (pc : Word) (t : Thread) : Thread := if t.todo.isNone then t.modCtx fun c => c.setPc pc else t

/-- A thread saved with the followers that it leads (R89): the leader's entry resumes them all. -/
def State.shelveCrew (s : State) (k : Nat) (t : Thread) (masks : BitVec 40) (forced : Bool) : State :=
  match t.gang with
  | .leader ms =>
    ms.foldl (fun s m => (s.modThread m (Thread.align t.ctx.pc)).shelve false masks forced m) (s.shelve true masks forced k)
  | _ => s.shelve true masks forced k

/-- A save of a thread or gang. A member whose vector unit has found an error takes the trap at this stop instead of the save, its own request
withdrawn (R259, R260). -/
def State.saveCrew (s : State) (k : Nat) (t : Thread) (masks : BitVec 40) (forced : Bool) : State :=
  match (t.crew k).find? fun m => ((s.thread? m).map fun u => u.vErr.isSome).getD false with
  | some m => (takeFault (s.unpark fun p => p.thread == m) m { code := fUncorrectable } {}).unyield m
  | none => s.shelveCrew k t masks forced

/-- Whether a thread stands between two instructions in a slot, and every member of its gang with it; a follower does not stop by
itself. -/
def State.between (s : State) (t : Thread) : Bool :=
  t.slot?.isSome && t.goesOn && t.todo.isNone && (match t.gang with
    | .none => true
    | .follower _ => false
    | .leader ms => s.allDone ms)

/-- A pre-emption at a safe point (R441): the live mask says which registers are kept. -/
def execPreemption (thread : Nat) (s : State) : Host.Outcome State Fault Refusal :=
  .next (match s.thread? thread with
    | none => s
    | some t => match s.liveMask t with
      | none => s
      | some m => if s.between t && s.honours t then s.saveCrew thread t m false else s)

/-- Whether a forced save may be made now: for a quiesce (R72), or for a request that was not honoured within 2^20 dclk (R442) where R440 allows
it: no window, user privilege, no gang, between instructions or asleep. -/
def State.forcedDue (s : State) (t : Thread) : Bool :=
  let free : Bool := match t.run with
    | .ready | .yielded _ | .sleeping _ => true
    | _ => false
  s.taken t || (match t.preempt with
    | none => false
    | some n => decide (n + 2 ^ 20 ≤ s.cycOf t) && free && t.gang == .none && t.takeable && (match t.place with
      | .slot _ _ => true
      | _ => false))

/-- A forced save (R442): every register is kept. -/
def execForcedSave (thread : Nat) (s : State) : Host.Outcome State Fault Refusal :=
  .next (match s.thread? thread with
    | none => s
    | some t => if s.forcedDue t then s.saveCrew thread t (BitVec.allOnes 40) true else s)

/-! ### The checker (R151) -/

/-- The unit that counts a second mismatch of an instruction: the vector unit for a Gaussian one, which it executes (R349, R469). -/
def checkedUnit (i : Instr) (c : PCell) : Monitored := if (encode i).op = 0x2C then .vector c else .pipeline c

/-- The fault of a second mismatch, with the operand record of the instruction that was discarded. -/
def State.mismatch (s : State) (k : Nat) (t : Thread) : State :=
  let got : Except FetchFlt (Instr × State) := match t.todo with
    | some i => .ok (i, s)
    | none => fetchInstr s t
  match got with
  | .error e => raiseAt e.state k t e.flt e.own
  | .ok (i, s) => (raiseAt s k t { code := fUncorrectable } (recordOf i t.ctx 0)).countEvent (checkedUnit i t.pcell) t.ctx.pc

/-- The checker discards an instruction of the slot that has its cell's turn: nothing of it happens, and it executes once more at the slot's
next turn, where it commits, or mismatches again (R151). At any other slot there is nothing to discard. -/
def execCheckerRetry (thread : Nat) (mismatch : Bool) (s : State) : Host.Outcome State Fault Refusal :=
  .next (match s.thread? thread with
    | none => s
    | some t => match s.readyTurn t.pcell with
      | some (k, n) =>
        if k = thread ∧ t.retry.isNone then (s.setThread thread { t with retry := some mismatch }).turned t.pcell n else s
      | none => s)

/-- The answer to the access of a thread's head returns: it is performed, or its fault is taken with TEPC at the next instruction (R145,
R147). Every other access commits in the step that issues it (log 7). -/
def execAccessCompletion (thread : Nat) (s : State) : Host.Outcome State Fault Refusal :=
  .next (match s.thread? thread with
    | none => s
    | some t => match t.ctx.opened with
      | none => s
      | some h => match performHead s thread t h with
        | .error (s, f) => (takeFault s thread f h.opr).unyield thread
        | .ok s => s)

/-- The n-th of a thread's unacknowledged relaxed stores is acknowledged (R228); stores to the same bytes go in their order. -/
def execRelaxedStoreAck (thread n : Nat) (s : State) : Host.Outcome State Fault Refusal :=
  .next (match (s.thread? thread).bind fun t => (t.rx[n]?).map fun x => (t, x) with
    | none => s
    | some (t, x) =>
      if (t.rx.take n).any fun y => overlaps y.span.1 y.span.2 x.span.1 x.span.2 then s
      else (s.ackStore thread x).modThread thread fun t => { t with rx := t.rx.eraseIdx n })

/-- A TLB miss of a cell served by a walk (R196, R198): a leaf enters the TLBs. A walk that faults leaves nothing behind, and the access that
missed takes its fault. -/
def execPageWalk (cell : PCell) (vf : Nat) (va : Word) (kind : AccessKind) (s : State) : Host.Outcome State Fault Refusal :=
  .next (
    let w := { pkgWho cell.pkg vf with cluster := clusterOf cell, cell := cell }
    match translate s w (kind == .fetch) va with
    | .error _ => s
    | .ok (_, true) => s
    | .ok (e, false) => s.fillTlb cell (kind == .fetch) { key := 0, entry := some e })

/-! ### The wait limit (R93, R181, R235) -/

/-- Whether WLIM has run out since an issue (R93, R235). -/
def State.limitOver (s : State) (t : Thread) (since : Nat) : Bool := decide (since + fld t.ctx.wlim 0 32 ≤ s.cycOf t)

/-- The writer of WAYS gives up (R181): WAYS is unchanged. -/
def State.waysBusy (s : State) (k : Nat) (t : Thread) : State :=
  let x := s.cell t.pcell
  let s := if (x.waysPending.map Prod.fst) = some k then s.setCell t.pcell { x with waysPending := none } else s
  takeFault s k { code := fWaysBusy } t.waitOpr

/-- A parked thread's limit has run out (R93): a request parked at a home is withdrawn first (R235), a refused one has no entry to
withdraw, and every other wait ends at once. A thread in a context cache takes the upcall once it is back in a slot. -/
def execWaitLimitExpiry (thread : Nat) (s : State) : Host.Outcome State Fault Refusal :=
  .next (match s.thread? thread with
    | none => s
    | some t => match t.run with
      | .parked why since =>
        if !s.limitOver t since then s
        else match why with
          | .fullEmpty | .bar => s.setThread thread { t with run := .withdrawing, answer := none }
          | .ways => if t.cached then s else s.waysBusy thread t
          | .fly => if t.cached then s else (s.noteAway t t.flat).waitLimit thread t .fly
          | w => if t.cached then s else s.waitLimit thread t w
      | .refused since _ | .resent since =>
        if s.limitOver t since && !t.cached then s.waitLimit thread t .fullEmpty else s
      | _ => s)

end Sys2Proof.Machine
end

