-- ==== Sys2Proof/Machine/Ports.lean ====
section
/-! DEFINITION. Fabric ports and their links (R411 to R417, R420, R421), and the topology commands (R418, R419). -/
namespace Sys2Proof.Machine
open Sys2Proof

/-- ERRS counts one more, saturating. -/
def PortRegs.err (r : PortRegs) : PortRegs := { r with errs := if r.errs = 0xFFFF then r.errs else r.errs + 1 }

/-! ### DRAIN to OPEN (R419, R420) -/

/-- Ports moved from the start of a sequence. -/
def State.startMove (s : State) (k : Nat) (qs : List Nat) (m : PortMove) : State :=
  qs.foldl (fun s q => s.modPort k q fun r => { r.enter psDrain s.clock with move := some m, code := none }) s

/-- A port has drained (R419): with the last port of its command G advances; a port lost on the way (R415) is not waited for. -/
def execPortDrainComplete (pkg port : Nat) (s : State) : Host.Outcome State Fault Refusal :=
  .next (
    let r := (s.pkg pkg).port port
    if r.state ≠ psDrain ∨ !r.unacked.isEmpty then s
    else
      let s := s.modPort pkg port fun r => r.enter psClosed s.clock
      let mates := if r.move = some .retrain then [port] else (((s.pkg pkg).topo.map Topo.ports).getD [port])
      if mates.all fun q => ((s.pkg pkg).port q).rests then s.dueAdvance pkg else s)

/-- The switch matrix has set the coupler (R419). -/
def execPortSwitchComplete (pkg port : Nat) (s : State) : Host.Outcome State Fault Refusal :=
  .next (match (s.pkg pkg).topo with
    | some c =>
      if ((s.pkg pkg).port port).state = psSwitch ∧ c.ports.contains port then
        s.modPort pkg port fun r => { r.enter psTrain s.clock with coupler := some (c.coupler port) }
      else s
    | none => s)

/-- The lanes of a bit string. -/
def laneBits (l : BitVec 16) : Nat := ((List.range 16).filter fun i => l.getLsbD i).length

/-- An event of a port's entry into DOWN (R468, R469): counted, and KIND 0x0A logged with the lanes that remain. -/
def State.logDown (s : State) (k q lanes : Nat) : State :=
  let s := s.countEvent (.port k q) 0
  s.logEvent k (q / 8) 0x0A (word lanes) (locBits k (q / 8) 0 0 q) (s.countOf (.port k q))

/-- A port that has failed to train goes DOWN. -/
def State.trainDown (s : State) (k q lanes : Nat) : State :=
  ((s.modPort k q fun r => { r.enter psDown s.clock with move := none }).logDown k q lanes).settleTopo k

/-- Training has ended (R419): fewer than 4 lanes give DOWN; otherwise both directions agree on LITE (DESIGN CHOICE, log 19). -/
def execPortTrainComplete (pkg port : Nat) (lanes : BitVec 16) (s : State) : Host.Outcome State Fault Refusal :=
  .next (
    if ((s.pkg pkg).port port).state ≠ psTrain then s
    else
      let s := s.modPort pkg port fun r => { r with lanes := lanes }
      if laneBits lanes < 4 then s.trainDown pkg port (laneBits lanes)
      else s.modPort pkg port fun r => { r.enter psAuth s.clock with txm := false, rxMode := false, dual := false })

/-- No peer after 2^24 dclk in TRAIN (R419). -/
def execTrainTimeout (pkg port : Nat) (s : State) : Host.Outcome State Fault Refusal :=
  .next (
    let r := (s.pkg pkg).port port
    if r.state = psTrain ∧ r.since + 2 ^ 24 ≤ s.clock then
      (s.modPort pkg port fun r => { r with lanes := 0 }).trainDown pkg port 0
    else s)

/-- Whether a key-cache entry has not expired (R420). -/
def State.keyLives (s : State) (k : Nat) (e : CacheKey) : Bool := decide (s.cyc k 0 < e.made + 2 ^ 40)

/-- The key cache with an entry for a peer made, in place of the least recently used of 32. -/
def addKey32 (l : List CacheKey) (e : CacheKey) : List CacheKey :=
  if l.length < 32 then l ++ [e]
  else
    let oldest := (l.map CacheKey.used).foldl min ((l.head?.map CacheKey.used).getD 0)
    match l.findIdx? fun x => x.used == oldest with
    | some i => l.eraseIdx i ++ [e]
    | none => l ++ [e]

/-- A leaf of the port identity key noted as used before a signature (R43, R420). -/
def Flash.useLeaf (f : Flash) : Flash := { f with portLeaf := f.portLeaf + 1 }

/-- The key exchange with a peer (R420): a hit of the key cache, else the full exchange, which uses a leaf of the port identity key, noted in
flash first. The answer says whether it was a hit. -/
def State.exchangeKeys (s : State) (k : Nat) (leaf : List Byte) : Bool × State :=
  let d : BitVec 512 := BitVec.ofNat 512 (leVal (shake256 leaf 64))
  let p := s.pkg k
  let now := s.cyc k 0
  if p.keys.any fun e => e.digest == d && s.keyLives k e then
    (true, s.setPkg k { p with keys := p.keys.map fun e => if e.digest = d then { e with used := now } else e })
  else
    let rest := p.keys.filter fun e => e.digest != d
    (false, s.setPkg k { p with
      keys := addKey32 rest ⟨d, now, now⟩, flash := p.flash.useLeaf })

/-- The port at the other end of a port that opens: one of the peer's that leads here and has no mate or this one (log 19). -/
def State.findMate (s : State) (a q b : Nat) : Option Nat :=
  let toward := (List.range 32).filter fun i => ((s.pkg b).port i).onLink && ((s.pkg b).port i).peer.toNat == a
  let has (m : Option Nat) (i : Nat) : Bool := ((s.pkg b).port i).mate == m
  (toward.find? (has (some q))) <|> (toward.find? (has none))

/-- The two ends of a circuit joined with new keys (R414): both counters start at 0, and flits that the other end still keeps are sent again under
them (log 19). -/
def State.joinPorts (s : State) (a q b : Nat) : State := match s.findMate a q b with
  | none => s
  | some i =>
    (s.modPort a q fun r => { r with mate := some i }).modPort b i fun r => { r with
      mate := some q, unacked := r.unacked.zipIdx.map (fun x => (x.2, x.1.2)), txc := r.unacked.length, rxNext := 0, lost := false }

/-- AUTH ends (R419 to R421): the port opens under the present generation, or is CLOSED with AFAIL. A failure without a key of the peer has
used a leaf (DESIGN CHOICE, log 19). -/
def execPortAuth (pkg port : Nat) (ok : Bool) (peer : Nat) (leaf : List Byte) (s : State) : Host.Outcome State Fault Refusal :=
  .next (
    if ((s.pkg pkg).port port).state ≠ psAuth then s
    else if !ok then
      let hit : Bool := (s.exchangeKeys pkg leaf).1
      let s := if hit then s else s.modPkg pkg fun p => { p with flash := p.flash.useLeaf }
      (s.modPort pkg port fun r => { r.enter psClosed s.clock with move := none, afail := true }).settleTopo pkg
    else
      let x := s.exchangeKeys pkg leaf
      let s := x.2.modPort pkg port fun r => { r.enter psOpen s.clock with
        move := none, peer := BitVec.ofNat 9 peer, pgen := (x.2.pkg pkg).gen, khit := x.1, mate := none, lost := false, unacked := [], txc := 0
        rxNext := 0, tagFails := 0, newMode := 0, dual := false, code := none, idle := s.clock }
      (s.joinPorts pkg port (peer % 512)).settleTopo pkg)

/-- Key-cache entries expire (R420). -/
def execKeyCacheExpiry (pkg : Nat) (s : State) : Host.Outcome State Fault Refusal :=
  .next (s.modPkg pkg fun p => { p with keys := p.keys.filter fun e => s.keyLives pkg e })

/-! ### Flits (R411, R412, R414) -/

/-- SEQ, ACK, MODE, NAK and CTRL of a trailer (R411). -/
structure Trailer where
  seq : Nat
  ack : Nat
  mode : Bool
  nak : Bool
  ctrl : Bool
  deriving DecidableEq, Repr

/-- The fields of a trailer. -/
def trailerOf (t : BitVec 128) : Trailer := ⟨fld t 116 12, fld t 104 12, t.getLsbD 103, t.getLsbD 102, t.getLsbD 101⟩

/-- A trailer with an acknowledgement and nothing else. -/
def ackTrailer (seq ack : Nat) (mode : Bool) : BitVec 128 :=
  BitVec.ofNat 128 (seq % 4096 * 2 ^ 116 + ack % 4096 * 2 ^ 104 + bit mode * 2 ^ 103)

/-- The flits that ACK leaves in the replay buffer: those from the next SEQ that the peer expects. -/
def PortRegs.acked (r : PortRegs) (ack : Nat) : List (Nat × Flit) :=
  match r.unacked.findIdx? fun x => x.1 % 4096 == ack with
  | some i => r.unacked.drop i
  | none => if r.txc % 4096 = ack then [] else r.unacked

/-- The TXC that a SEQ stands for (R414): from 2,047 below to 2,048 above the next one expected; none where no value with that SEQ lies
there. -/
def PortRegs.rxTxc (r : PortRegs) (seq : Nat) : Option Nat :=
  let up := (seq + 4096 - r.rxNext % 4096) % 4096
  if up ≤ 2048 then some (r.rxNext + up)
  else if 4096 - up ≤ r.rxNext then some (r.rxNext - (4096 - up)) else none

/-- A flit discarded: ERRS counts it, and the receiver owes a NAK (R412). -/
def PortRegs.badFlit (r : PortRegs) (tag : Bool) : PortRegs :=
  let r := { r.err with newMode := 0, lost := true }
  if tag then { r with tagFails := r.tagFails + 1 } else r

/-- A good flit: ACK frees the replay buffer, NAK counts a replay, and the dual-mode window closes after 1,024 flits of the new mode (R412,
R413). -/
def PortRegs.goodFlit (r : PortRegs) (t : Trailer) (now : Nat) : PortRegs :=
  let left := r.acked t.ack
  let r := { r with unacked := left, ackAt := (if left.length < r.unacked.length then now else r.ackAt), tagFails := 0 }
  let r := if t.nak then { r.err with ackAt := now } else r
  let n := if t.mode = r.rxMode then r.newMode + 1 else 0
  if r.dual then { r with newMode := n % 1024, dual := n < 1024 } else r

/-- The trailer of a NAK (R411, R412). -/
def nakTrailer (r : PortRegs) : BitVec 128 := ackTrailer r.txc r.rxNext r.txm ||| (1 <<< 102)

/-- The trailer of a flit of the replay buffer (R411). -/
def flitTrailer (r : PortRegs) (x : Nat × Flit) : BitVec 128 :=
  ackTrailer x.1 r.rxNext r.txm ||| (if x.2 == .control then 1 <<< 101 else 0)

/-- The other end replays (R412): what it has discarded comes again. -/
def State.replay (s : State) (k q : Nat) : State := match s.peerPort k q with
  | some (a, i) => s.modPort a i fun r => { r with lost := false }
  | none => s

/-- A good flit takes its place in the sequence where it is the next one expected (R411, R414): a flit of the sender's replay buffer, of which
the last one of a packet brings it to the router, or an idle flit, which takes the sender's next TXC as it comes. Another flit brings only its
trailer (log 19). -/
def State.inSequence (s : State) (k q txc : Nat) : State :=
  if ((s.pkg k).port q).rxNext ≠ txc then s
  else
    let s' := s.modPort k q fun r => { r with rxNext := txc + 1 }
    match s.peerPort k q with
    | none => s'
    | some (a, i) =>
      let o := (s.pkg a).port i
      match o.unacked.find? fun x => x.1 == txc with
      | some (_, .last p) => (s'.carries k q).arriveOn k p
      | some _ => s'.carries k q
      | none => if o.txc = txc ∧ txc + 1 < 2 ^ 48 then s'.modPort a i fun r => { r with txc := txc + 1 } else s

/-- A key update that the counter of a port calls for (R414), once every flit of the old key is acknowledged. -/
def State.keyDue (s : State) (a q : Nat) : State :=
  let r := (s.pkg a).port q
  if r.isUp && r.unacked.isEmpty && decide (2 ^ 48 ≤ r.txc + 1) then s.updateKey a q else s

/-- The same at both ends of a port. -/
def State.keysDue (s : State) (a q : Nat) : State := match s.peerPort a q with
  | some (b, i) => (s.keyDue a q).keyDue b i
  | none => s.keyDue a q

/-- A flit discarded; sixteen consecutive tag failures close and retrain the port (R412). -/
def State.discardFlit (s : State) (k q : Nat) (tag : Bool) : State :=
  let s := s.modPort k q fun r => r.badFlit tag
  if 16 ≤ ((s.pkg k).port q).tagFails then (s.modPort k q fun r => { r with tagFails := 0 }).startMove k [q] .retrain else s

/-- A port receives a flit (R412 to R414, R419). A port that is not open discards it. One that fails its decoding or tag, whose MODE is not the
receiver's outside its dual-mode window (R413), or with a reserved bit of the trailer that is not zero, is discarded too, and the receiver owes a
NAK (log 19). A NAK makes the sender replay. -/
def execFlitReceive (pkg port : Nat) (flit : BitVec 128) (decodes tagOk : Bool) (s : State) : Host.Outcome State Fault Refusal :=
  .next (
    let r := (s.pkg pkg).port port
    let t := trailerOf flit
    if !r.onLink then s
    else if !decodes || fld flit 0 101 != 0 || (t.mode != r.rxMode && !r.dual) then s.discardFlit pkg port false
    else match tagOk, r.rxTxc t.seq with
      | true, some txc =>
        let s := s.modPort pkg port fun r => r.goodFlit t s.clock
        let s := if t.nak then s.replay pkg port else s
        ((if t.ctrl || t.nak then s.carries pkg port else s).inSequence pkg port txc).keysDue pkg port
      | _, _ => s.discardFlit pkg port true)

/-- No progress of ACK for 4,096 dclk: a replay from the oldest unacknowledged flit (R412). -/
def execReplayTimeout (pkg port : Nat) (s : State) : Host.Outcome State Fault Refusal :=
  .next (
    let r := (s.pkg pkg).port port
    if !r.unacked.isEmpty && decide (r.ackAt + 4096 ≤ s.clock) then
      (s.modPort pkg port fun r => { r.err with ackAt := s.clock }).replay pkg port
    else s)

/-! ### Line codes and keys (R413, R414) -/

/-- A control flit sent to the other end (R411, R417): it takes its TXC and its place in the replay buffer, where that has room. What it asks for
comes to the other end as an event of its own (log 19). -/
def State.sendControl (s : State) (k q : Nat) (what : Nat → Nat → Instr) : State := match s.peerPort k q with
  | some (a, i) =>
    let r := (s.pkg k).port q
    if 1024 ≤ r.unacked.length ∨ 2 ^ 48 ≤ r.txc + 1 then s
    else { s with agenda := s.agenda ++ [what a i] }.sendFlits k q [.control]
  | none => s

/-- A responder takes a code request: it accepts both modes and acknowledges (R413). -/
def execCodeRequest (pkg port : Nat) (mode : Bool) (s : State) : Host.Outcome State Fault Refusal :=
  .next (
    let r := (s.pkg pkg).port port
    if !r.isUp then s
    else
      (s.modPort pkg port fun r => if r.dual && r.rxMode == mode then r else { r with dual := true, rxMode := mode, newMode := 0 }).sendControl
        pkg port .codeAcknowledgement)

/-- The initiator takes the acknowledgement and switches its transmitter (R413). -/
def execCodeAcknowledgement (pkg port : Nat) (s : State) : Host.Outcome State Fault Refusal :=
  .next (match ((s.pkg pkg).port port).code with
    | some m => (s.modPort pkg port fun r => { r with txm := m, code := none }).settleTopo pkg
    | none => s)

/-- A code request sent to the other end. -/
def State.sendCode (s : State) (k q : Nat) (m : Bool) : State := s.sendControl k q fun a i => .codeRequest a i m

/-- No acknowledgement after 8,192 dclk: the request is sent again (R413). -/
def execCodeRequestRetry (pkg port : Nat) (s : State) : Host.Outcome State Fault Refusal :=
  .next (
    let r := (s.pkg pkg).port port
    match r.code with
    | some m =>
      if r.codeAt + 8192 ≤ s.clock then (s.modPort pkg port fun r => { r with codeAt := s.clock }).sendCode pkg port m else s
    | none => s)

/-- A key update of the sending direction (R414): with every flit of the old key acknowledged, TXC restarts at 0 at both ends. -/
def execKeyUpdate (pkg port : Nat) (s : State) : Host.Outcome State Fault Refusal :=
  .next (
    let r := (s.pkg pkg).port port
    if !r.isUp || !r.unacked.isEmpty then s else s.updateKey pkg port)

/-! ### Lanes and power (R415, R417) -/

/-- A packet of a port that is lost (R415): requests that may be repeated, and answers, are injected again, in the generation of that moment
(R416); the others are answered POISONED. -/
def State.resolvePacket (s : State) (p : Packet) : State := match p.kind with
  | .reduction | .fallback => p.dests.foldl (fun s d => s.errorReply p d) s
  | .ack | .error => s.addPacket p
  | _ => s.sendAgain p

/-- The loss of a port (R415): its packets are resolved, and the loss acts as a CLOSE. -/
def State.losePort (s : State) (k q : Nat) : State :=
  let r := (s.pkg k).port q
  let s := s.modPort k q fun r => { r.enter psDown s.clock with unacked := [], move := none, code := none, lost := false }
  let held := r.unacked.filterMap fun x => match x.2 with
    | .last p => some p
    | _ => none
  let s := held.foldl State.resolvePacket s
  ((s.logDown k q (laneBits r.lanes)).dueAdvance k).settleTopo k

/-- Lanes lose their comb lines (R415): replay restarts on the others; with fewer than 4 the port goes DOWN. -/
def State.dropLanes (s : State) (k q : Nat) (lost : BitVec 16) : State :=
  let r := (s.pkg k).port q
  if r.lanes &&& lost = 0 then s
  else
    let s := s.modPort k q fun r => { r with lanes := r.lanes &&& ~~~lost }
    if !r.isUp && r.state != psDrain then s
    else if laneBits (r.lanes &&& ~~~lost) < 4 then s.losePort k q
    else if r.unacked.isEmpty then s
    else (s.modPort k q fun r => { r.err with ackAt := s.clock }).replay k q

/-- Lanes whose comb lines are lost drop out (R415). -/
def execLaneLoss (pkg port : Nat) (lost : BitVec 16) (s : State) : Host.Outcome State Fault Refusal := .next (s.dropLanes pkg port lost)

/-- Whether a comb line carries a fabric wavelength (R5, R391). -/
def Package.hasWave (p : Package) (w : Nat) : Bool := p.lines.any fun x => x.2 == .wave w

/-- A wavelength without a line given a spare one, where one is left (R415, R477). -/
def Package.giveWave (p : Package) (w : Nat) : Package :=
  if p.hasWave w then p
  else match p.lines.find? fun x => x.2 == .spare with
    | some (n, _) => { p with lines := putAt n (.wave w) p.lines }
    | none => p

/-- Spare lines rejoin the lanes of a port that is up (R415): the lanes of wavelengths that have a line again. -/
def execSpareLineRejoin (pkg port : Nat) (lanes : BitVec 16) (s : State) : Host.Outcome State Fault Refusal :=
  .next (if ((s.pkg pkg).port port).isUp then
      let ws := (List.range 16).filter fun w => lanes.getLsbD w
      let s := s.modPkg pkg fun p => ws.foldl Package.giveWave p
      let back := (ws.filter fun w => (s.pkg pkg).hasWave w).foldl (fun (b : BitVec 16) w => b ||| (1#16 <<< w)) 0
      s.modPort pkg port fun r => { r with lanes := r.lanes ||| back }
    else s)

/-- A port idle for 2^IW dclk powers down; IW = 0 forbids it (R417, R418). -/
def execPowerDown (pkg port : Nat) (s : State) : Host.Outcome State Fault Refusal :=
  .next (
    let r := (s.pkg pkg).port port
    if r.state = psOpen ∧ r.iw ≠ 0 ∧ r.unacked = [] ∧ r.idle + 2 ^ r.iw ≤ s.clock then
      s.modPort pkg port fun r => r.enter psAsleep s.clock
    else s)

/-- An ASLEEP port awake. -/
def PortRegs.woken (r : PortRegs) (now : Nat) : PortRegs := if r.state = psAsleep then { r.enter psOpen now with idle := now } else r

/-- A port wakes, and wakes its peer by a control flit (R417). -/
def execPortWake (pkg port : Nat) (s : State) : Host.Outcome State Fault Refusal :=
  .next (
    let asleep := decide (((s.pkg pkg).port port).state = psAsleep)
    let s := s.modPort pkg port fun r => r.woken s.clock
    match s.peerPort pkg port with
    | some (a, q) =>
      let s := s.modPort a q fun r => r.woken s.clock
      if asleep then s.sendFlits pkg port [.control] else s
    | none => s)

/-! ### topo (R418) -/

/-- The offset of the lowest byte of a topology descriptor with a reserved value, a CMAP that is no permutation, or a PARAM out of range. -/
def topoBad (p : Package) (d : BitVec 512) : Option Nat :=
  let c : Topo := ⟨0, ⟨0, 0, 0, 0, ⟨0, 0, 0, 0⟩, false, false, {}, 0⟩, d, []⟩
  let rsv (n : Nat) : Nat :=
    if n = 0 then 0xF0 else if n = 1 then 0xFE else if 3 ≤ n ∧ n < 12 then 0xFF else if 16 ≤ n ∧ n < 40 then 0xFF
    else if 48 ≤ n then 0x88 else 0
  let couplers (q : Nat) : Nat := if c.ports.contains q then c.coupler q else (p.port q).coupler.getD (q % 8)
  let clash (q : Nat) : Bool := c.cmd == 0 && c.ports.contains q &&
    (List.range 8).any fun i => q / 8 * 8 + i != q && couplers (q / 8 * 8 + i) == c.coupler q
  let param : Bool := (c.cmd == 2 && decide (1 < c.param)) ||
    (c.cmd == 3 && c.param != 0 && (decide (c.param < 10) || decide (24 < c.param)))
  (List.range 64).find? fun n =>
    (fld d (8 * n) 8 &&& rsv n) != 0 || (n == 0 && decide (4 < c.cmd)) || (n == 2 && param) ||
      (decide (48 ≤ n) && (clash (2 * (n - 48)) || clash (2 * (n - 48) + 1)))

/-- Whether a route code is reserved (R392). -/
def routeCodeBad (c : Nat) : Bool := decide (32 ≤ c) && decide (c < 62)

/-- The offset of the lowest bad byte of a route-bank image for a package (R418). -/
def imageRouteBad (k : Nat) (img : List (BitVec 16)) : Option Nat :=
  img.zipIdx.findSome? fun x =>
    if fld x.1 6 2 ≠ 0 ∨ routeCodeBad (fld x.1 0 6) ∨ (x.2 = k ∧ fld x.1 0 6 ≠ 62) then some (2 * x.2)
    else if fld x.1 14 2 ≠ 0 ∨ routeCodeBad (fld x.1 8 6) then some (2 * x.2 + 1) else none

/-- The two-byte entries of a bank image. -/
def routeEntries (bs : List Byte) : List (BitVec 16) := (List.range 512).map fun i => BitVec.ofNat 16 (leVal ((bs.drop (2 * i)).take 2))

/-- n bytes that an instruction reads as its descriptor, under R178 with an alignment. -/
def readDesc (s : State) (t : Thread) (va : Word) (n align : Nat) : Except (State × Flt) (List Byte × State) :=
  let w := s.whoOf t
  let one (acc : List Byte × State) (p : Word × Nat) : Except (State × Flt) (List Byte × State) :=
    match resolve acc.2 w .load p.1 p.2 (if p.1 = va then align else 1) with
    | .error f => .error (acc.2, f)
    | .ok loc =>
      let s := acc.2.fillTlb w.cell false loc
      match readAt s w loc p.2 false with
      | .error c => .error (s.storedError w.cell loc.key p.2 t.ctx.pc, fltAt c p.1)
      | .ok (bs, s) => .ok (acc.1 ++ bs, s)
  (parts va n).foldlM one ([], s)

/-- An ILLEGAL_INSN that names a byte. -/
def badByte (n : Nat) : Flt := { code := fIllegal, detail := word n }

/-- The image that a LOADRT reads at issue; nothing for another command. -/
def topoImage (s : State) (t : Thread) (d : BitVec 512) : Except (State × Flt) (List (BitVec 16) × State) :=
  if fld d 0 4 ≠ 1 then .ok ([], s)
  else (readDesc s t (d.extractLsb' 320 64) 1024 64).bind fun r =>
    let img := routeEntries r.1
    match imageRouteBad t.pcell.pkg img with
    | some n => .error (r.2, badByte n)
    | none => .ok (img, r.2)

/-- topo (R418). -/
def execTopo (d a : Reg) (s : State) : Host.Outcome State Fault Refusal :=
  issue (.topo d a) s (superBody <| engineBody fun s k t =>
    let pkg := t.pcell.pkg
    orTrap (readDesc s t (t.ctx.gpr a) 64 64) fun r =>
    let desc : BitVec 512 := BitVec.ofNat 512 (leVal r.1)
    match topoBad (r.2.pkg pkg) desc with
    | some n => .trap r.2 (badByte n)
    | none => orTrap (topoImage r.2 t desc) fun x =>
      let s := x.2
      if decide (8 ≤ (s.pkg pkg).topoQ.length) || decide (16 ≤ t.load_ .copy) then .park s .engine
      else
        let y := s.fresh
        let c : Topo := ⟨y.1, s.issuer k t (.topo d a), desc, x.1⟩
        .next ((y.2.modPkg pkg fun p => { p with topoQ := p.topoQ ++ [c] }).beginOp k (some d) .copy))

/-! ### The commands run (R418, R419) -/

/-- The command at the head of the topology queue taken, where none runs and the head is of the wanted kind. -/
def State.takeTopo (s : State) (k cmd : Nat) (f : State → Topo → State) : State :=
  match (s.pkg k).topo, (s.pkg k).topoQ with
  | none, c :: l => if c.cmd = cmd then f (s.modPkg k fun p => { p with topoQ := l, topo := some c }) c else s
  | _, _ => s

/-- A bank image as a table of the entries that differ from 0x3F3F (PRIM and ALT unreachable). -/
def bankOf (img : List (BitVec 16)) : List (Nat × BitVec 16) :=
  img.zipIdx.filterMap fun x => if x.1 = 0x3F3F then none else some (x.2, x.1)

/-- LOADRT writes its bank (R418). -/
def execLoadrt (pkg : Nat) (s : State) : Host.Outcome State Fault Refusal :=
  .next (s.takeTopo pkg 1 fun s c =>
    let s := s.modPkg pkg fun p => if c.desc.getLsbD 8 then { p with routes1 := bankOf c.image } else { p with routes0 := bankOf c.image }
    s.endTopo pkg c 0)

/-- CODE sends a code request on each port that is up (R413, R418). -/
def execCode (pkg : Nat) (s : State) : Host.Outcome State Fault Refusal :=
  .next (s.takeTopo pkg 2 fun s c =>
    let m := c.param % 2 == 1
    let up := c.ports.filter fun q => ((s.pkg pkg).port q).isUp
    let s := up.foldl (fun s q => (s.modPort pkg q fun r => { r with code := some m, codeAt := s.clock }).sendCode pkg q m) s
    s.settleTopo pkg)

/-- POWER sets IW (R417, R418). -/
def execPower (pkg : Nat) (s : State) : Host.Outcome State Fault Refusal :=
  .next (s.takeTopo pkg 3 fun s c =>
    (c.ports.foldl (fun s q => s.modPort pkg q fun r => { r with iw := c.param }) s).endTopo pkg c 0)

/-- RECONF starts (R419). -/
def execReconf (pkg : Nat) (s : State) : Host.Outcome State Fault Refusal :=
  .next (s.takeTopo pkg 0 fun s c => (s.startMove pkg c.ports .reconf).settleTopo pkg)

/-- CLOSE starts (R419). -/
def execClose (pkg : Nat) (s : State) : Host.Outcome State Fault Refusal :=
  .next (s.takeTopo pkg 4 fun s c => (s.startMove pkg c.ports .close).settleTopo pkg)

end Sys2Proof.Machine
end

