-- ==== Sys2Proof/Machine/Exchange.lean ====
section
/-! DEFINITION. Multicast (R398), coded exchanges (R399 to R404), exact reductions (R405) and the completion of fabric operations
(R408). -/
namespace Sys2Proof.Machine
open Sys2Proof

/-! ### The cells and clusters of a partition on a package (R398) -/

/-- The positions in the cluster list of the clusters on a package; they follow one another (R67). -/
def Ready.spotsOn (r : Ready) (k : Nat) : List Nat := (List.range r.ncl).filter fun i => match r.clusters[i]? with
  | some e => (clusterEntry e).1 == k
  | none => false

/-- The virtual cell with an index among those of a package. -/
def Ready.cellOn (r : Ready) (k i : Nat) : Option LCell :=
  if i < 32 * (r.spotsOn k).length then r.lcell (32 * (r.spotsOn k).headD 0 + i) else none

/-- The logical cluster with an index among those of a package. -/
def Ready.clusterOn (r : Ready) (k i : Nat) : Option (Nat × Nat × Nat) :=
  ((r.spotsOn k)[i]?.bind fun j => r.clusters[j]?).map clusterEntry

/-! ### Completion (R404, R408) -/

/-- What an answer of a destination says to an operation. -/
def Fop.answered (f : Fop) (entry d code : Nat) (poison refused : Bool) : Fop :=
  if !f.waiting.contains (entry, d) then f
  else { f with
    waiting := f.waiting.filter fun x => x != (entry, d)
    bad := if code ≠ 0 || poison || refused then f.bad ++ [(entry, d)] else f.bad
    poisoned := f.poisoned || poison
    errs := if code = 0 then f.errs else f.errs ++ [(d, code)] }

/-- The fault code of the lowest-numbered failing package. -/
def Fop.fcode (f : Fop) : Nat :=
  let low := (f.errs.map Prod.fst).foldl min 512
  ((f.errs.find? fun x => x.1 == low).map Prod.snd).getD 0

/-- COUNT (R408): packages, plan entries, or the record, without those that failed. -/
def Fop.done (f : Fop) : Nat := f.count - (match f.kind with
  | .mst => (f.bad.map Prod.snd).eraseDups.length
  | .shuf => (f.bad.map Prod.fst).eraseDups.length
  | .xred => f.bad.length)

/-- The side information of a registration removed at every port (R401). -/
def State.unadvertise (s : State) (k : Nat) (r : Registration) : State :=
  { s with pkgs := s.pkgs.map fun (x : Nat × Package) =>
      (x.1, { x.2 with sit := x.2.sit.filter fun e => !(e.pkg == k && e.xid == r.xid) }) }

/-- A registration ended (R399, R401): its lock and its side information go, and fallback requests that it still awaits are resolved (R416). -/
def State.endReg (s : State) (k : Nat) (r : Registration) : State :=
  let s := ((s.modPkg k fun p => { p with regs := p.regs.filter fun x => x.key != r.key }).dropLocks r.key).unadvertise k r
  r.asked.foldl (fun s x => s.ackGen k x.2) s

/-- WANT of a table entry. -/
def entryWant (e : BitVec 128) : Bool := e.getLsbD 80
/-- Whether a registration lists a block to be received. -/
def Registration.wants (r : Registration) : Bool := r.table.any entryWant

/-- Registrations that have completed end once no shuf of their cell and exchange is outstanding (R399); one that wants no block is there
for a shuf, and ends when one has completed (R404, log 18). -/
def State.endRegs (s : State) (k : Nat) : State :=
  let ended (r : Registration) : Bool :=
    r.complete && (r.wants || r.sent) && !(s.fops.any fun f => f.kind == .shuf && f.xid == r.xid && f.by_.cell == r.by_.cell)
  ((s.pkg k).regs.filter ended).foldl (fun s r => s.endReg k r) s

/-- A shuf noted in the registration that it sent blocks of. -/
def State.noteShuf (s : State) (f : Fop) : State :=
  if f.kind != .shuf then s
  else s.modPkg f.by_.cell.pkg fun p => { p with regs := p.regs.map fun r =>
    if r.xid = f.xid ∧ r.by_.cell = f.by_.cell then { r with sent := true } else r }

/-- A fabric operation ends: its lock is released, then its entry is delivered. -/
def State.endFop (s : State) (f : Fop) : State :=
  let s := (s.noteShuf f)
  let s := { s with fops := s.fops.filter fun x => x.key != f.key }.dropLocks f.key
  let s := s.deliverEntry .copy f.by_ (entryBits f.by_.opr.ticket (if f.poisoned then 7 else 0) false f.fcode f.done) f.fcode 0
  s.endRegs f.by_.cell.pkg

/-- An operation replaced, or ended where nothing is awaited. -/
def State.putFop (s : State) (f : Fop) : State :=
  if f.waiting.isEmpty then s.endFop f else { s with fops := s.fops.map fun x => if x.key = f.key then f else x }

/-- A registration changed. -/
def State.modReg (s : State) (k xid : Nat) (f : Registration → Registration) : State :=
  s.modPkg k fun p => { p with regs := p.regs.map fun r => if r.xid = xid then f r else r }

/-- A live registration of an exchange. -/
def State.reg? (s : State) (k xid : Nat) : Option Registration := (s.pkg k).regs.find? fun r => r.xid == xid

/-- A fallback request of a block resolved, once, in its generation (R416). -/
def State.resolveAsk (s : State) (k xid bid : Nat) : State := match s.reg? k xid with
  | none => s
  | some r => match look? bid r.asked with
    | some g => (s.modReg k xid fun r => { r with asked := dropAt bid r.asked }).ackGen k g
    | none => s

/-! ### Registrations (R399) -/

/-- BID of a table entry. -/
def entryBid (e : BitVec 128) : Nat := fld e 64 16
/-- OFS of a table entry. -/
def entryOfs (e : BitVec 128) : Nat := fld e 0 64
/-- CRC of a table entry. -/
def entryCrc (e : BitVec 128) : BitVec 32 := e.extractLsb' 96 32
/-- The block size of a registration. -/
def Registration.size (r : Registration) : Nat := 2 ^ (fld r.desc 4 4 + 8)
/-- SIDE. -/
def Registration.side (r : Registration) : Word := r.desc.extractLsb' 64 64
/-- NARROW. -/
def Registration.narrow (r : Registration) : Bool := r.desc.getLsbD 9
/-- The entry of a block, held or wanted. -/
def Registration.find (r : Registration) (want : Bool) (bid : Nat) : Option (BitVec 128) :=
  r.table.find? fun e => entryWant e == want && entryBid e == bid

/-- A held block read by its registration's engine. -/
def State.readHeld (s : State) (r : Registration) (bid : Nat) : Except EngErr (List Byte) := match r.find false bid with
  | none => .error .poison
  | some e => engRead s (s.whoFor r.by_) (r.side + word (entryOfs e)) r.size

/-- A held block's read that an uncorrectable error stops, counted for the unit that stores it (R469), for the command at a pc. -/
def State.noteHeld (s : State) (r : Registration) (bid : Nat) (pc : Word) : State := match r.find false bid with
  | none => s
  | some e => s.engNote (s.whoFor r.by_) (r.side + word (entryOfs e)) r.size pc

/-- The issuing pc of a fabric operation, where it is still there. -/
def State.opPc (s : State) (key : Nat) : Word := ((s.fops.find? fun f => f.key == key).map fun f => f.by_.opr.pc).getD 0

/-- A registration completes when every wanted block has been written or refused (R404). -/
def State.settleReg (s : State) (k xid : Nat) : State := match s.reg? k xid with
  | none => s
  | some r =>
    if r.complete || !((r.table.filter entryWant).all fun e => r.done.contains (entryBid e)) then s
    else
      let status := if r.poisoned then 7 else if 0 < r.missed then 5 else 0
      let s := s.modReg k xid fun r => { r with complete := true }
      (s.deliverEntry .copy r.by_ (entryBits r.by_.opr.ticket status false r.err r.missed) r.err r.side).endRegs k

/-! ### mst (R398) -/

/-- SRC. -/
def mstSrc (d : BitVec 512) : Word := d.extractLsb' 0 64
/-- DOFS. -/
def mstOfs (d : BitVec 512) : Nat := fld d 64 64
/-- LEN. -/
def mstLen (d : BitVec 512) : Nat := fld d 128 28
/-- DKIND. -/
def mstPass (d : BitVec 512) : Bool := d.getLsbD 156
/-- CIDX. -/
def mstIdx (d : BitVec 512) : Nat := fld d 160 16

/-- The ILLEGAL_INSN cases of mst. -/
def mstBad (d dst : BitVec 512) : Bool :=
  fld d 176 336 != 0 || fld d 158 2 != 0 || decide (mstLen d < 64) || decide (2 ^ 20 < mstLen d) || mstLen d % 64 != 0 || dst == 0 ||
    fld d 0 6 != 0 || mstOfs d % 64 != 0

/-- Whether every destination package has the cell or cluster of CIDX. -/
def mstReaches (r : Option Ready) (d dst : BitVec 512) : Bool := match r with
  | none => false
  | some r => (bitsOf dst).all fun k => decide (mstIdx d < (r.spotsOn k).length * (if mstPass d then 1 else 32))

/-- The parts of at most 64 KiB in which a source travels (LEN, R394). -/
def mstParts (n : Nat) : List Nat := List.range ((n + 65535) / 65536)

/-- The engine's part of mst: the source is translated whole, read, then sent; a fault or poison sends nothing. -/
def mstSend (s : State) (k : Nat) (d : Reg) (f : Fop) (dst : BitVec 512) : State :=
  let s1 := s.beginOp k (some d) .copy
  let w := s.whoFor f.by_
  let read : Except EngErr (List Byte) := match engFault s w (mstSrc f.desc) (mstLen f.desc) with
    | some e => .error e
    | none => engRead s w (mstSrc f.desc) (mstLen f.desc)
  match read with
  | .error e =>
    ((s1.dropLocks f.key).engNote w (mstSrc f.desc) (mstLen f.desc) f.by_.opr.pc).deliverEntry .copy f.by_
      (entryBits f.by_.opr.ticket e.status false e.code 0) e.code e.va
  | .ok bs =>
    let n := (bitsOf dst).length
    let ps := mstParts (mstLen f.desc)
    let f := { f with count := n, waiting := ps.flatMap fun i => (bitsOf dst).map fun p => (i, p) }
    ps.foldl (fun s i => s.inject n { id := 0, at_ := 0, kind := .multicast, op := f.key, entry := i, src := f.by_.cell.pkg, dst := 0
                                      mcast := true, bits := dst, vf := f.by_.vf, bank := f.by_.bank, nsm := f.by_.nsm
                                      addr := mstOfs f.desc + 65536 * i, payload := (bs.drop (65536 * i)).take 65536 })
      { s1 with fops := s1.fops ++ [f] }

/-- mst (R398). -/
def execMst (d a : Reg) (s : State) : Host.Outcome State Fault Refusal :=
  issue (.mst d a) s (aloneBody <| engineBody fun s k t =>
    let w := s.whoOf t
    orTrap (readDesc s t (t.ctx.gpr a) 128 64) fun r =>
    let s := r.2
    let desc : BitVec 512 := BitVec.ofNat 512 (leVal (r.1.take 64))
    let dst : BitVec 512 := BitVec.ofNat 512 (leVal (r.1.drop 64))
    if mstBad desc dst then .trap s { code := fIllegal }
    else if !copyRange s w (mstSrc desc) (mstLen desc) then .trap s (fltAt fAddress (mstSrc desc))
    else if !mstReaches w.ready desc dst then .trap s (fltAt fAddress 0)
    else if 16 ≤ t.load_ .copy then .park s .engine
    else
      let x := s.fresh
      match tryLocks x.2 w x.1 .copy [⟨mstSrc desc, mstLen desc, false⟩] (fun _ => false) with
      | .error y => .park s y
      | .ok s => .next (mstSend s k d ⟨x.1, .mst, s.issuer k t (.mst d a), desc, 0, [], [], false, [], 0, (s.pkg t.pcell.pkg).gen, []⟩ dst))

/-- Where multicast data goes on a package, and what the destination answers instead: capped, closed, beyond the limit (R398). -/
def State.mstPlace (s : State) (f : Fop) (k ofs n : Nat) : Except (Nat × Bool) Nat :=
  match (s.launch? f.by_.launch).map Launch.ready with
  | none => .error (fPeerExited, false)
  | some r =>
    if mstPass f.desc then
      match (r.clusterOn k (mstIdx f.desc)).bind fun x => s.physCluster x.1 x.2.1 x.2.2 with
      | none => .error (0, true)
      | some c => if ofs + n ≤ 2 ^ 23 then .ok (keyOf (.passBuf c) ofs) else .error (fAddress, false)
    else match (r.cellOn k (mstIdx f.desc)).bind fun c => (s.place c).map fun pl => (c, pl) with
      | none => .error (0, true)
      | some (c, pl) =>
        if (s.cell pl.cell).capped then .error (0, true)
        else if !(s.vcell c).isOpen then .error (fPeerExited, false)
        else if s.scratchLimit pl < ofs + n then .error (fAddress, false)
        else .ok (keyOf (.scratch pl.cell) (r.segOf pl + ofs))

/-- NSM of the launch that an operation belongs to. -/
def State.launchNsm (s : State) (b : Issuer) : Bool := match s.launch? b.launch with
  | some l => l.ready.nsm
  | none => false

/-- A destination writes its copy of multicast data, or answers with an error (R398). -/
def execMulticastData (packet : Nat) (s : State) : Host.Outcome State Fault Refusal :=
  .next (match s.packet? packet with
    | none => s
    | some p => match p.kind, p.delivered, s.fops.find? fun f => f.key == p.op with
      | .multicast, true, some f =>
        let s' := s.dropPacket packet
        match s.mstPlace f p.at_ p.addr p.payload.length with
        | .error e => s'.answerAll p p.at_ fun a => { a with code := e.1, poison := e.2 }
        | .ok key =>
          if f.desc.getLsbD 157 && p.nsm != s.launchNsm f.by_ then s'.answerAll p p.at_ fun a => { a with code := fNsm }
          else (s'.store key p.payload).answerAll p p.at_ id
      | .multicast, true, none => s.dropPacket packet
      | _, _, _ => s)

/-! ### shufset (R399) -/

/-- Check 1: reserved fields, NENT and BLKLOG2. -/
def setBad (d : BitVec 512) : Bool :=
  fld d 256 256 != 0 || fld d 32 32 != 0 || fld d 10 6 != 0 || fld d 0 4 != 0 || decide (8 < fld d 4 4)

/-- Check 3: reserved fields, unique ids, blocks within the side store and apart from each other. -/
def tableBad (size sideLen : Nat) : List (BitVec 128) → Bool
  | [] => false
  | e :: l =>
    fld e 81 15 != 0 || entryOfs e % 64 != 0 || decide (sideLen < entryOfs e + size) ||
      l.any (fun x => entryBid x == entryBid e || overlaps (entryOfs x) size (entryOfs e) size) || tableBad size sideLen l

/-- Check 4: the side store lies in scratch, or on global pages homed in a slice or HBM of the package. -/
def sideOk (s : State) (w : Who) (acc : Acc) (side : Word) (n : Nat) : Bool :=
  let cls := fld side 56 8
  if fld side 0 6 ≠ 0 then false
  else if cls = 0x40 then decide (fld side 0 56 + n ≤ w.limit)
  else if 0x40 ≤ cls ∨ 2 ^ 56 < fld side 0 56 + n then false
  else (List.range ((fld side 0 14 + n + 16383) / 16384)).all fun i =>
    match placeOf s w acc (if i = 0 then side else alignDown side 14 + word (16384 * i)) 1 with
    | .error _ => false
    | .ok loc => match keySpace loc.key with
      | .slice p _ => p == w.cluster.pkg
      | .hbm p _ => p == w.cluster.pkg
      | _ => false

/-- The maximal runs of consecutive ids in a rising list, as first and last. -/
def runsOf : List Nat → List (Nat × Nat)
  | [] => []
  | b :: l => match runsOf l with
    | (lo, hi) :: r => if lo = b + 1 then (b, hi) :: r else (b, b) :: (lo, hi) :: r
    | [] => [(b, b)]

/-- An id put into a rising list. -/
def insertId (b : Nat) : List Nat → List Nat
  | [] => [b]
  | x :: l => if b ≤ x then b :: x :: l else x :: insertId b l

/-- The ports of a package by which a bank reaches another. -/
def Package.portsTo (p : Package) (self dst : Nat) : List Nat :=
  ([false, true].filterMap fun b => match p.way self b dst with
    | .port q => some q
    | _ => none).eraseDups

/-- The runs of a registration's held blocks advertised to every port that reaches its package, as far as the tables of 256 entries have
room (R401). -/
def State.advertise (s : State) (k vf : Nat) (r : Registration) : State :=
  let runs := runsOf ((r.table.filter fun e => !entryWant e).foldl (fun l e => insertId (entryBid e) l) [])
  let add (p : Package) (q : Nat) : Package := runs.foldl (fun p x =>
    if (p.sit.filter fun e => e.port == q).length < 256 then { p with sit := p.sit ++ [⟨q, k, r.xid, x.1, x.2, vf⟩] } else p) p
  { s with pkgs := s.pkgs.map fun (x : Nat × Package) => (x.1, (x.2.portsTo x.1 k).foldl add x.2) }

/-- shufset from its block table on: checks 3 to 6. -/
def setRegister (i : Instr) (d : Reg) (desc : BitVec 512) (table : List (BitVec 128)) (va : Word) : Body := fun s k t =>
  let w := s.whoOf t
  let pkg := t.pcell.pkg
  let x := s.fresh
  let r : Registration := { key := x.1, by_ := s.issuer k t i, xid := fld desc 16 8, desc := desc, table := table }
  let len := fld desc 128 64
  let acc : Acc := if table.any entryWant then .store else .load
  if tableBad r.size len table then .trap s { code := fIllegal }
  else if !sideOk s w acc r.side len then .trap s (fltAt fAddress r.side)
  else if (s.reg? pkg r.xid).isSome then .trap s (fltAt fAddress va)
  else if decide (16 ≤ (s.pkg pkg).regs.length) || decide (16 ≤ t.load_ .copy) then .park s .engine
  else match s.heldBy w [⟨r.side, len, true⟩] with
    | some (c, h) => .park s (.held c h)
    | none => match tryLocks x.2 w x.1 .registration [⟨r.side, len, false⟩] (fun _ => false) with
      | .error y => .park s y
      | .ok s =>
        let s := s.modPkg pkg fun p => { p with regs := p.regs ++ [r] }
        .next (((s.advertise pkg t.vf r).beginOp k (some d) .copy).settleReg pkg r.xid)

/-- A list of 16-byte entries. -/
def entriesOf (bs : List Byte) : List (BitVec 128) :=
  (List.range (bs.length / 16)).map fun i => BitVec.ofNat 128 (leVal ((bs.drop (16 * i)).take 16))

/-- shufset (R399). -/
def execShufset (d a : Reg) (s : State) : Host.Outcome State Fault Refusal :=
  issue (.shufset d a) s (aloneBody <| engineBody fun s k t =>
    let va := t.ctx.gpr a
    orTrap (readDesc s t va 64 64) fun r =>
    let desc : BitVec 512 := BitVec.ofNat 512 (leVal r.1)
    if setBad desc then .trap r.2 { code := fIllegal }
    else orTrap (readDesc r.2 t (desc.extractLsb' 192 64) (16 * (fld desc 24 8 + 1)) 16) fun y =>
      setRegister (.shufset d a) d desc (entriesOf y.1) va y.2 k t)

/-! ### shuf (R400) -/

/-- A plan entry: its destinations and its block. -/
def planOf (bs : List Byte) : List (BitVec 512 × Nat) := (List.range (bs.length / 128)).map fun i =>
  (BitVec.ofNat 512 (leVal ((bs.drop (128 * i)).take 64)), leVal ((bs.drop (128 * i + 64)).take 2))

/-- Whether a plan entry has a reserved byte that is not zero, or names the sender's package. -/
def planBad (k : Nat) (bs : List Byte) : Bool := (List.range (bs.length / 128)).any fun i =>
  leVal ((bs.drop (128 * i + 66)).take 62) != 0 || ((BitVec.ofNat 512 (leVal ((bs.drop (128 * i)).take 64))).getLsbD k)

/-- The blocks of a plan sent, each once (R400); a block whose read fails goes out as poisoned. -/
def planSend (s : State) (f : Fop) (r : Registration) (plan : List (BitVec 512 × Nat)) : State :=
  plan.zipIdx.foldl (fun s x =>
    let bs := s.readHeld r x.1.2
    (s.noteHeld r x.1.2 f.by_.opr.pc).inject (bitsOf x.1.1).length
      { id := 0, at_ := 0, kind := .block, op := f.key, entry := x.2, src := f.by_.cell.pkg, dst := 0, mcast := true, bits := x.1.1
        xid := r.xid, vf := f.by_.vf, bank := f.by_.bank, nsm := f.by_.nsm
        cons := [⟨f.by_.cell.pkg, x.1.2, f.key, x.2, x.1.1, 0⟩], poison := !bs.isOk
        payload := match bs with
          | .ok bs => bs
          | .error _ => [] }) s

/-- shuf from its plan on. -/
def planPost (i : Instr) (d : Reg) (xid : Nat) (plan : List (BitVec 512 × Nat)) (va : Word) : Body := fun s k t =>
  let pkg := t.pcell.pkg
  match s.reg? pkg xid with
  | none => .trap s (fltAt fAddress va)
  | some r =>
    if r.by_.cell ≠ s.cellFor t ∨ !(plan.all fun x => (r.find false x.2).isSome) then .trap s (fltAt fAddress va)
    else if 16 ≤ t.load_ .copy then .park s .engine
    else
      let x := s.fresh
      let waiting := plan.zipIdx.flatMap fun y => (bitsOf y.1.1).map fun p => (y.2, p)
      let f : Fop := { key := x.1, kind := .shuf, by_ := s.issuer k t i, desc := 0, count := plan.length, waiting := waiting, xid := xid,
                         gen := (s.pkg pkg).gen }
      let s := x.2.beginOp k (some d) .copy
      .next (((planSend { s with fops := s.fops ++ [f] } f r plan)).putFop f)

/-- shuf (R400). -/
def execShuf (d a : Reg) (s : State) : Host.Outcome State Fault Refusal :=
  issue (.shuf d a) s (aloneBody <| engineBody fun s k t =>
    let va := t.ctx.gpr a
    orTrap (readDesc s t va 64 64) fun h =>
    let hd : BitVec 512 := BitVec.ofNat 512 (leVal h.1)
    if fld hd 28 484 ≠ 0 ∨ fld hd 8 8 ≠ 0 then .trap h.2 { code := fIllegal }
    else orTrap (readDesc h.2 t (va + 64) (128 * (fld hd 16 12 + 1)) 64) fun r =>
      if planBad t.pcell.pkg r.1 then .trap r.2 { code := fIllegal }
      else planPost (.shuf d a) d (fld hd 0 8) (planOf r.1) va r.2 k t)

/-! ### Blocks at their receivers (R400, R403) -/

/-- A wanted block that has arrived: written, refused, or discarded because it was written before (R403). `bytes` are none where no bytes
came. -/
def State.takeBlock (s : State) (k : Nat) (r : Registration) (p : Packet) (bid : Nat) (bytes : List Byte) : State :=
  match r.find true bid with
  | none => s
  | some e =>
    if r.done.contains bid then s
    else
      let end_ (s : State) (f : Registration → Registration) : State :=
        (s.modReg k r.xid fun r => f { r with done := r.done ++ [bid] }).settleReg k r.xid
      if p.poison then end_ s fun r => { r with poisoned := true }
      else if r.narrow && p.nsm != r.by_.nsm then end_ s fun r => { r with err := fNsm }
      else if bytes.length ≠ r.size then end_ s fun r => { r with err := fAddress }
      else match engWrite s { s.whoFor r.by_ with vf := p.vf } (r.side + word (entryOfs e)) bytes with
        | .error x => end_ s fun r => { r with err := if x.code = 0 then fDiscarded else x.code }
        | .ok s => end_ s fun r => { r with missed := r.missed + (if p.viaFallback then 1 else 0) }

/-- Whether a fabric operation belongs to a launch that is being ended (R464, R479). -/
def State.opEnds (s : State) (key : Nat) : Bool := s.fops.any fun f =>
  f.key == key && ((s.launch? f.by_.launch).map fun l => l.ending.isSome).getD false

/-- A block refused by a package without a registration: the sender holds it until it sends it again (R400). The plan of a launch that is being
ended sends no more. -/
def State.refuseBlock (s : State) (p : Packet) (c : Con) (bytes : List Byte) : State :=
  if s.opEnds c.op then s.answerAll { p with cons := [c] } p.at_ fun a => { a with poison := true }
  else s.addPacket { p with
    kind := .block, at_ := c.origin, src := c.origin, hops := 0, delivered := true, mcast := true, bits := bitsFrom [p.at_], op := c.op, entry := c.entry
    cons := [{ c with dsts := bitsFrom [p.at_] }], refused := some s.clock, payload := bytes }

/-- An uncoded block reaches a destination (R400, R403). -/
def execShuffleBlock (packet : Nat) (s : State) : Host.Outcome State Fault Refusal :=
  .next (match s.packet? packet with
    | none => s
    | some p =>
      if p.kind != .block || !p.delivered || p.refused.isSome then s
      else
        let s' := s.dropPacket packet
        match s.reg? p.at_ p.xid with
        | none => s'.refuseBlock p p.con p.payload
        | some r => (s'.takeBlock p.at_ r p p.con.bid p.payload).answerAll p p.at_ id)

/-- A refused block is sent again after 1,024 dclk (R400), in the generation of that moment (R416). -/
def execShuffleResend (packet : Nat) (s : State) : Host.Outcome State Fault Refusal :=
  .next (match s.packet? packet with
    | none => s
    | some p => match p.refused with
      | some n =>
        if n + 1024 ≤ s.clock then (s.dropPacket packet).sendAgain { p with refused := none } else s
      | none => s)

/-- The other constituents of a coded packet taken out with the receiver's own blocks; none is a decode miss (R403). -/
def State.decodeWith (s : State) (r : Registration) (p : Packet) (mine : Con) : Option (List Byte) :=
  (p.cons.filter fun c => c != mine).foldl (fun acc c => acc.bind fun bs =>
    match r.find false c.bid with
    | none => none
    | some e =>
      let va := r.side + word (entryOfs e)
      let w := s.whoFor r.by_
      let kept : Bool := (parts va r.size).all fun x => match placeOf s w .load x.1 x.2 with
        | .ok loc => !loc.disc
        | .error _ => false
      match engRead s w va r.size with
      | .ok own => if kept && crc32c own == entryCrc e then some (xorBytes bs own) else none
      | .error _ => none) (some p.payload)

/-- A coded packet reaches a receiver (R403): the wanted block is unpicked and written, or asked for from its origin. -/
def execCodedShuffle (packet : Nat) (s : State) : Host.Outcome State Fault Refusal :=
  .next (match s.packet? packet with
    | none => s
    | some p =>
      if p.kind != .coded || !p.delivered then s
      else
        let s' := s.dropPacket packet
        let k := p.at_
        match s.reg? k p.xid with
        | none => (p.cons.filter fun c => c.dsts.getLsbD k).foldl (fun s' c => match s.reg? c.origin p.xid with
            | some o => (match s.readHeld o c.bid with
              | .ok bs => s'.refuseBlock p c bs
              | .error _ => (s'.noteHeld o c.bid (s.opPc c.op)).refuseBlock { p with poison := true } c [])
            | none => s'.answerAll { p with cons := [c] } k fun a => { a with poison := true }) s'
        | some r => match p.cons.find? fun c => (r.find true c.bid).isSome with
          | none => s'.answerAll p k id
          | some c =>
            if r.done.contains c.bid then s'.answerAll p k id
            else match s.decodeWith r p c with
              | some bs => (s'.takeBlock k r p c.bid bs).answerAll p k id
              | none =>
                let s' := match (p.cons.filter fun x => x != c).find? fun x => !(s.readHeld r x.bid).isOk with
                  | some x => s'.noteHeld r x.bid (s.opPc c.op)
                  | none => s'
                if (look? c.bid r.asked).isSome then s'
                else
                  let s' := s'.modReg k p.xid fun r => { r with asked := putAt c.bid (s'.pkg k).gen r.asked }
                  s'.inject 1 { id := 0, at_ := k, kind := .fallback, src := k, dst := c.origin, xid := p.xid, vf := p.vf, bank := p.bank
                                cons := [{ c with dsts := bitsFrom [k] }] })

/-- A fallback request reaches the origin, which sends the block again, uncoded (R403), with the NSM of the shuf that sent it (R207). The request
is resolved in its generation, and the answer that is awaited goes over to that of the new block (R416). -/
def execFallbackRequest (packet : Nat) (s : State) : Host.Outcome State Fault Refusal :=
  .next (match s.packet? packet with
    | none => s
    | some p =>
      if p.kind != .fallback || !p.delivered then s
      else
        let s' := s.dropPacket packet
        let c := p.con
        let bs : Except EngErr (List Byte) := match s.reg? p.at_ p.xid with
          | some r => s.readHeld r c.bid
          | none => .error .poison
        let nsm : Bool := ((s.fops.find? fun f => f.key == c.op).map fun f => f.by_.nsm).getD false
        let block : Packet := {
          id := 0, at_ := p.at_, kind := .block, op := c.op, entry := c.entry, src := p.at_, dst := p.src, mcast := true
          bits := bitsFrom [p.src], xid := p.xid, vf := p.vf, bank := p.bank, nsm := nsm, cons := [c], viaFallback := true
          poison := !bs.isOk
          payload := match bs with
            | .ok bs => bs
            | .error _ => [] }
        let s' := match s.reg? p.at_ p.xid with
          | some r => s'.noteHeld r c.bid (s.opPc c.op)
          | none => s'
        (s'.resolveAsk p.src p.xid c.bid).sendAgain block)

/-! ### xred (R405) -/

/-- The home that xred reduces into: the key and the package; a page homed in a slice, in HBM or on a domain package. -/
def xredHome (s : State) (t : Thread) (va : Word) : Except Flt (Nat × Nat) :=
  if 0x40 ≤ fld va 56 8 then .error (fltAt fAddress va)
  else match resolve s (s.whoOf t) .store va 32 32 with
    | .error f => .error f
    | .ok loc => match keySpace loc.key with
      | .slice p _ => .ok (loc.key, p)
      | .hbm p _ => .ok (loc.key, p)
      | .dom p => .ok (loc.key, p)
      | _ => .error (fltAt fAddress va)

/-- Whether xred takes a record address: the places of the vlds row of R267 (R405). -/
def xredClass (va : Word) : Bool :=
  let c := fld va 56 8
  decide (c < 0x40) || c == 0x40 || c == 0x50 || c == 0x60

/-- xred (R405): the record at SRC is read as by vlds (R267). -/
def execXred (d a : Reg) (s : State) : Host.Outcome State Fault Refusal :=
  issue (.xred d a) s (aloneBody <| engineBody fun s k t =>
    orTrap (readDesc s t (t.ctx.gpr a) 16 16) fun r =>
    if !xredClass (imageWord r.1 0) then .trap r.2 (fltAt fAddress (imageWord r.1 0)) else
    orTrap (readDesc r.2 t (imageWord r.1 0) 32 32) fun x =>
    match xredHome x.2 t (imageWord r.1 8) with
    | .error f => .trap x.2 f
    | .ok h =>
      if 16 ≤ t.load_ .copy then .park x.2 .engine
      else
        let y := x.2.fresh
        let b := x.2.issuer k t (.xred d a)
        let f : Fop := { key := y.1, kind := .xred, by_ := b, desc := 0, count := 1, waiting := [(0, h.2)],
                         gen := (x.2.pkg t.pcell.pkg).gen }
        let s := y.2.beginOp k (some d) .copy
        .next ({ s with fops := s.fops ++ [f] }.inject 1
          { id := 0, at_ := 0, kind := .reduction, op := y.1, src := t.pcell.pkg, dst := h.2, vf := t.vf, bank := b.bank, nsm := b.nsm
            addr := h.1, subs := [y.1], payload := x.1 }))

/-- A reduction reaches its home (R405): xsum_add in one indivisible step; a malformed record is left as it is. -/
def execXsumReduction (packet : Nat) (s : State) : Host.Outcome State Fault Refusal :=
  .next (match s.packet? packet with
    | none => s
    | some p =>
      if p.kind != .reduction || !p.delivered then s
      else
        let s' := s.dropPacket packet
        if s.poisoned p.addr 32 then (s'.storedFar p.addr 32 (s.opPc p.op)).answerAll p p.at_ fun a => { a with poison := true }
        else if xsumMalformed (BitVec.ofNat 256 (s.num p.addr 32)) then s'.answerAll p p.at_ fun a => { a with refused := some 0 }
        else (s'.store p.addr (xsumJoin (s.bytes p.addr 32) p.payload)).answerAll p p.at_ id)

/-! ### Acknowledgements (R408, R416) -/

/-- An answer reaches its source (R408): with the last one the operation's entry is delivered. A fallback request that was answered with an
error leaves its block refused. -/
def execAcknowledgement (packet : Nat) (s : State) : Host.Outcome State Fault Refusal :=
  .next (match s.packet? packet with
    | none => s
    | some p =>
      if (p.kind != .ack && p.kind != .error) || !p.delivered then s
      else
        let s' := s.dropPacket packet
        match p.cons with
        | c :: _ => match s.reg? p.at_ p.xid with
          | some r =>
            ((s'.resolveAsk p.at_ p.xid c.bid).takeBlock p.at_ r { p with poison := true } c.bid []).answerAll
              { p with kind := .block, bits := c.dsts } p.at_ id
          | none => s'
        | [] => match s.fops.find? fun f => f.key == p.op with
          | none => s'
          | some f =>
            if f.waiting.contains (p.entry, p.src) then
              (s'.putFop (f.answered p.entry p.src p.code p.poison p.refused.isSome)).ackGen p.at_ (f.genFor (p.entry, p.src))
            else s')

end Sys2Proof.Machine
end

