-- ==== Sys2Proof/Machine/Omu.lean ====
section
/-! DEFINITION. The banks of an OMU (R285 to R291): pbank and pdec with the events of a load (R320 to R324), pcal (R332 to R334) and pstat (R335,
R336). -/
namespace Sys2Proof.Machine
open Sys2Proof

/-! ### Banks and tiles -/

/-- A bank of an OMU. -/
def Omu.bank (o : Omu) (b : Bool) : Bank := if b then o.b1 else o.b0
/-- A bank of an OMU replaced. -/
def Omu.setBank (o : Omu) (b : Bool) (x : Bank) : Omu := if b then { o with b1 := x } else { o with b0 := x }
/-- An OMU changed. -/
def State.modOmu (s : State) (c : ClusterId) (f : Omu → Omu) : State := s.setOmu c (f (s.omu c))

/-- The bytes of a weight tile (R287). -/
def tileSize (wfmt : Nat) : Nat := match wfmt with
  | 0 => 9728
  | 1 => 17920
  | _ => 16384

/-- A number in bytes of a list. -/
def bytesAt (bs : List Byte) (off n : Nat) : Nat := leVal ((bs.drop off).take n)

/-- The 128 elements of row i of a tile (R287): its element bytes, and in EB2 and EB4 its four scale records. -/
def tileRow (wfmt : Nat) (nsm : Bool) (tile : List Byte) (i : Nat) : List FVal :=
  let n := if wfmt = 0 then 64 else 128
  let es := (tile.drop (n * i)).take n
  let rs := (tile.drop (128 * n + 12 * i)).take 12
  (List.range 128).map fun j =>
    let r := bytesAt rs (3 * (j / 32)) 3
    let b := (es.getD (if wfmt = 0 then j / 2 else j) 0).toNat
    match wfmt with
    | 0 => decodeBlockElem .eb2 nsm r (if j % 2 = 0 then b % 16 else b / 16)
    | 1 => decodeBlockElem .eb4 nsm r b
    | _ => decodeElem .e4m3 nsm b

/-- The rows of a tile. -/
def tileRows (wfmt : Nat) (nsm : Bool) (tile : List Byte) : List (List FVal) := (List.range 128).map (tileRow wfmt nsm tile)

/-- Whether a tile holds a NaN, an infinity or a NaN block (R287). -/
def tileBad (wfmt : Nat) (nsm : Bool) (tile : List Byte) : Bool := (tileRows wfmt nsm tile).any fun r => r.any FVal.isSpecial

/-- TDIGEST of a tile (R289). -/
def tileDigest (tile : List Byte) (nsm : Bool) : List Byte := shake256 (tile ++ [BitVec.ofNat 8 (bit nsm)]) 16

/-- The bytes of a phase image. -/
def imageSize : Nat := 49152

/-- Whether pbank takes an image for a tile (R289). -/
def imageOk (img tile : List Byte) (wfmt : Nat) (nsm : Bool) : Bool :=
  bytesAt img 0 4 == 0x31494850 && bytesAt img 4 2 == 1 && bytesAt img 6 2 == wfmt + 4 * bit nsm &&
    bytesAt img 9 7 == 0 && (img.drop 16).take 16 == tileDigest tile nsm && bytesAt img 32 96 == 0 &&
    (List.range 128).all fun i => bytesAt img (48896 + 2 * i) 2 != 0x8000

/-- The header of the image that the decomposition engine makes (R289, R291). -/
def imageHeader (tile : List Byte) (wfmt : Nat) (nsm : Bool) (gexp : BitVec 8) : List Byte :=
  leOf 4 0x31494850 ++ leOf 2 1 ++ leOf 2 (wfmt + 4 * bit nsm) ++ leOf 8 gexp.toNat ++ tileDigest tile nsm ++ List.replicate 96 0

/-- The bytes of an image's mesh codes (R288). -/
def meshSize : Nat := 48768

/-- Free values as the 128 gains of a decomposition, within what R291 fixes: each of magnitude below 1, and since GEXP is the smallest such
exponent, the largest of a tile that is not zero is at least one half. The singular values of a tile of zeros are 0, and so are its gains. -/
def gainsOf (zero : Bool) (vs : List Nat) : List Nat :=
  let gs := vs.map fun v => if zero then 0 else if v % 2 ^ 16 = 0x8000 then 0x7FFF else v % 2 ^ 16
  let large (g : Nat) : Bool := decide (0x4000 ≤ g) && decide (g ≤ 0xC000)
  if zero || gs.any large then gs else gs.set 0 0x4000

/-- The least power-of-two exponent among finite values that are not 0. -/
def leastExp (xs : List FVal) : Int := (xs.filterMap fun x => match x with
  | .fin _ p _ e => if p = 0 then none else some e
  | _ => none).foldl min 4096

/-- The smallest g with σ < 2^g, where σ² = x × 2^(2e - 20) and x is not 0. -/
def expOver (x : Nat) (e : Int) : Int := e - 10 + ((Nat.log2 x / 2 : Nat) : Int) + 1

/-- The exponents that GEXP of a tile with elements `xs` can take (R291): its largest singular value is at least the magnitude of any element
and at most the root of the sum of their squares, with a part in 1,024 for FP32's rounding (log 16). -/
def gexpRange (xs : List FVal) : Int × Int :=
  let e := leastExp xs
  let sq := xs.map fun x => match x with
    | .fin _ p _ f => (p * 2 ^ (f - e).toNat) ^ 2
    | _ => 0
  (expOver (sq.foldl max 0 * 1023 * 2 ^ 10) e, expOver (sq.foldl (· + ·) 0 * 1025 * 2 ^ 10) e)

/-- GEXP of a decomposition: a free value within its range. -/
def gexpOf (xs : List FVal) (free : BitVec 8) : BitVec 8 :=
  if xs.all FVal.isZero then free
  else
    let r := gexpRange xs
    BitVec.ofInt 8 (max (-128) (min 127 (r.1 + ((free.toNat % ((r.2 - r.1).toNat + 1) : Nat) : Int))))

/-- The image of a tile's decomposition (log 16). -/
def decompose (tile : List Byte) (wfmt : Nat) (nsm : Bool) : List Byte :=
  let f : BitVec 2 := BitVec.ofNat 2 wfmt
  let codes := (Config.phaseCodes tile f nsm ++ List.replicate (imageSize - 128) 0).take (imageSize - 128)
  let xs := (tileRows wfmt nsm tile).flatten
  let gains := gainsOf (xs.all FVal.isZero) ((List.range 128).map fun i => bytesAt codes (meshSize + 2 * i) 2)
  imageHeader tile wfmt nsm (gexpOf xs (Config.phaseGexp tile f nsm)) ++ codes.take meshSize ++ gains.flatMap (leOf 2)

/-! ### pbank and pdec (R320, R321) -/

/-- Whether a swap marker is queued. -/
def Omu.swapQueued (o : Omu) : Bool := o.queue.any fun e => e.post == .swap

/-- A load from check 5 on: the parks, the locks, and the start (R321, R322). The tile's lock has a name of its own, the load's plus one. -/
def startLoad (s : State) (k : Nat) (t : Thread) (d : Reg) (b : Issuer) (decomp : Bool) (tile : Word) (wfmt : Nat) (h : BitVec 32)
    (base : Word) : Res :=
  let w := s.whoOf t
  let o := s.omu w.cluster
  if 16 ≤ t.load_ .load ∨ o.load.isSome ∨ o.swapQueued then .park s .engine
  else
    let x := s.fresh
    let y := x.2.fresh
    let img : List Want := if decomp && h == 0 then [] else [⟨base, imageSize, decomp⟩]
    match tryLocks y.2 w x.1 .load img (fun _ => false) with
    | .error e => .park s e
    | .ok s1 => match tryLocks s1 w y.1 .load [⟨tile, tileSize wfmt, false⟩] (fun l => l.owner == x.1) with
      | .error e => .park s e
      | .ok s2 =>
        let l : BankLoad := { key := x.1, by_ := b, decomp := decomp, tile := tile, wfmt := BitVec.ofNat 2 wfmt, handle := h
                              base := base, bank := !o.act }
        let s3 := (if decomp && h != 0 then flushVirtual s2 t base imageSize else s2).modOmu w.cluster fun o =>
          { o.setBank l.bank { o.bank l.bank with binding := none } with load := some l }
        .next (s3.beginOp k (some d) .load)

/-- pbank and pdec (R321): checks 1 to 5, after the order of R319. A STALE outcome does not wait for room in the thread's queue. -/
def loadCmd (i : Instr) (decomp : Bool) (d a b : Reg) : Body := fun s k t =>
  if t.inGang then .trap s { code := fIllegal }
  else engineBody (fun s k t =>
    let tile := t.ctx.gpr a
    let desc := t.ctx.gpr b
    let h : BitVec 32 := desc.extractLsb' 0 32
    let wfmt := fld desc 32 2
    let y := s.issuer k t i
    if fld tile 0 6 ≠ 0 then .trap s (fltAt fMisaligned tile)
    else if fld tile 56 8 ≠ 0x40 then .trap s (fltAt fAddress tile)
    else if fld desc 34 30 ≠ 0 ∨ wfmt = 3 ∨ (!decomp && h == 0) then .trap s { code := fIllegal }
    else if h = 0 then startLoad s k t d y decomp tile wfmt 0 0
    else match s.handle t.pcell.pkg t.vf h 3 with
      | none =>
        let bank := !(s.omu (clusterOf t.pcell)).act
        .next ((s.beginOp k (some d) .load).deliverEntry .load y (entryBits y.opr.ticket 1 bank 0 0) 0 0)
      | some x =>
        if x.2 < imageSize then .trap s (fltAt fAddress x.1) else startLoad s k t d y decomp tile wfmt h x.1) s k t

/-- pbank (R320). -/
def execPbank (d a b : Reg) (s : State) : Host.Outcome State Fault Refusal :=
  issue (.pbank d a b) s (loadCmd (.pbank d a b) false d a b)
/-- pdec (R320). -/
def execPdec (d a b : Reg) (s : State) : Host.Outcome State Fault Refusal :=
  issue (.pdec d a b) s (loadCmd (.pdec d a b) true d a b)

/-! ### The steps of a load (R322, R324) -/

/-- A load brought to its end with a status and a fault, which loadCompletion delivers. -/
def BankLoad.ending (l : BankLoad) (status fcode : Nat) : BankLoad := { l with phase := 3, status := status, fcode := fcode }

/-- An ending from an engine's error, with the address that faulted. -/
def BankLoad.failed (l : BankLoad) (e : EngErr) : BankLoad := { l.ending e.status e.code with va := e.va }

/-- The load of an OMU replaced. -/
def State.setLoad (s : State) (c : ClusterId) (l : BankLoad) : State := s.modOmu c fun o => { o with load := some l }

/-- The bank of a load bound with a tile and an image (R286). -/
def State.bindBank (s : State) (c : ClusterId) (l : BankLoad) (image : List Byte) : State := s.modOmu c fun o =>
  o.setBank l.bank { binding := some { cell := l.by_.cell, tile := l.tile, wfmt := l.wfmt, nsm := l.by_.nsm }
                     tile := l.captured, gexp := BitVec.ofNat 8 (bytesAt image 8 1), image := image }

/-- The capture of a load's tile ends (R322): the tile's lock is released. -/
def execTileCaptureEnd (omu : ClusterId) (s : State) : Host.Outcome State Fault Refusal :=
  .next (match (s.omu omu).load with
    | none => s
    | some l =>
      if l.phase ≠ 0 then s
      else
        let n := tileSize l.wfmt.toNat
        match engRead s (s.whoFor l.by_) l.tile n with
        | .error e => ((s.dropLocks (l.key + 1)).engNote (s.whoFor l.by_) l.tile n l.by_.opr.pc).setLoad omu (l.failed e)
        | .ok bs =>
          let s := (s.dropLocks (l.key + 1)).modOmu omu fun o => o.setBank l.bank { o.bank l.bank with tile := bs }
          if tileBad l.wfmt.toNat l.by_.nsm bs then s.setLoad omu (l.ending 7 0)
          else s.setLoad omu { l with captured := bs, phase := if l.decomp then 2 else 1 })

/-- Whether the handle of a load still passes the GEN and KIND parts of R37. -/
def BankLoad.fresh (l : BankLoad) (s : State) : Bool := (s.handleLive l.by_.cell.pkg l.by_.vf l.handle 3).isSome

/-- pbank reads a block of its image; after the last, the header decides (R289, R322). -/
def execImageBlockRead (omu : ClusterId) (s : State) : Host.Outcome State Fault Refusal :=
  .next (match (s.omu omu).load with
    | none => s
    | some l =>
      if l.phase ≠ 1 then s
      else if l.image.length ≠ 0 && !l.fresh s then s.setLoad omu (l.ending 2 0)
      else match engRead s (s.whoFor l.by_) (l.base + word l.image.length) 4096 with
        | .error e => (s.engNote (s.whoFor l.by_) (l.base + word l.image.length) 4096 l.by_.opr.pc).setLoad omu (l.failed e)
        | .ok bs =>
          let l := { l with image := l.image ++ bs }
          if l.image.length < imageSize then s.setLoad omu l
          else if imageOk l.image l.captured l.wfmt.toNat l.by_.nsm then
            (s.bindBank omu l l.image).setLoad omu { l.ending 0 0 with bound := true }
          else s.setLoad omu (l.ending 1 0))

/-- The decomposition of a pdec completes (R291, R322): the bank is bound, and the image is written where the descriptor names a
destination. A write that the home answers POISONED ends the load with that status (DESIGN CHOICE, log 98). -/
def execDecompositionComplete (omu : ClusterId) (s : State) : Host.Outcome State Fault Refusal :=
  .next (match (s.omu omu).load with
    | none => s
    | some l =>
      if l.phase ≠ 2 then s
      else
        let img := decompose l.captured l.wfmt.toNat l.by_.nsm
        let s := s.bindBank omu l img
        let ok : BankLoad := { l.ending 0 0 with bound := true, image := img }
        if l.handle = 0 then s.setLoad omu ok
        else if !l.fresh s then s.setLoad omu { ok with status := 2 }
        else match engWrite s (s.whoFor l.by_) l.base img with
          | .error e => s.setLoad omu { ok with status := e.status, fcode := e.code, va := e.va }
          | .ok s => s.setLoad omu ok)

/-- GEXP in a load's entry (R323). -/
def BankLoad.gexpOut (l : BankLoad) (o : Omu) : Nat :=
  if (l.status = 0 ∧ l.fcode = 0) ∨ (l.status = 2 ∧ l.decomp) then (o.bank l.bank).gexp.toNat else 0

/-- A load ends (R322 step 5): its locks are released, then its entry is delivered. -/
def execLoadCompletion (omu : ClusterId) (s : State) : Host.Outcome State Fault Refusal :=
  .next (match (s.omu omu).load with
    | none => s
    | some l =>
      if l.phase ≠ 3 then s
      else
        let e := entryBits l.by_.opr.ticket l.status l.bank l.fcode (l.gexpOut (s.omu omu))
        let s := ((s.dropLocks l.key).dropLocks (l.key + 1)).modOmu omu fun o => { o with load := none }
        s.deliverEntry .load l.by_ e l.fcode l.va)

/-! ### pcal and pstat -/

/-- A calibration entry (R333). -/
def Omu.calAt (o : Omu) (n : Nat) : BitVec 16 := lookD 0 n o.cal

/-- Two 16-bit values added with saturation. -/
def satAdd (a b : BitVec 16) : BitVec 16 := BitVec.ofInt 16 (max (-32768) (min 32767 (a.toInt + b.toInt)))

/-- pcal (R332, R334): a commit ends DRIFTED (R312). -/
def execPcal (a b : Reg) (s : State) : Host.Outcome State Fault Refusal :=
  issue (.pcal a b) s fun s _ t =>
    let n := t.ctx.gpr a
    let v := t.ctx.gpr b
    if t.inGang then .trap s { code := fIllegal }
    else if fld v 17 47 ≠ 0 then .trap s { code := fIllegal }
    else if 32640 ≤ n.toNat then .trap s (fltAt fAddress n)
    else
      let x : BitVec 16 := v.extractLsb' 0 16
      .next (s.modOmu (clusterOf t.pcell) fun o =>
        { o with
          cal := putAt n.toNat (if v.getLsbD 16 then satAdd (o.calAt n.toNat) x else x) o.cal
          state := if o.state = 2 then 0 else o.state, maxerr := 0 })

/-- OMUSTAT (R336). -/
def Omu.omustat (o : Omu) : Word :=
  word (o.queue.length * 2 ^ 48 + o.cb.toNat * 2 ^ 36 + (o.cb.toNat - 1) * 2 ^ 32 + bit o.load.isSome * 2 ^ 23 +
    bit o.swapQueued * 2 ^ 22 + bit o.b1.binding.isSome * 2 ^ 21 + bit o.b0.binding.isSome * 2 ^ 20 + bit o.act * 2 ^ 19 +
    o.state * 2 ^ 16 + bit o.uspr * 2 ^ 9 + bit o.vspr * 2 ^ 8 + o.carr.toNat)

/-- DRIFTSTAT (R336). -/
def Omu.driftstat (o : Omu) : Word :=
  word (min o.lasterr 0xFFFF * 2 ^ 48 + min o.maxerr 0xFFFF * 2 ^ 32 + min o.guard 0xFFFF * 2 ^ 16 + o.sidx % 64 * 2 ^ 8 + min o.dcnt 255)

/-- RESSTAT (R336). -/
def Omu.resstat (o : Omu) : Word := o.flagged ++ o.written

/-- pstat (R335). -/
def execPstat (d a : Reg) (s : State) : Host.Outcome State Fault Refusal :=
  issue (.pstat d a) s fun s k t =>
    let n := (t.ctx.gpr a).toNat
    let o := s.omu (clusterOf t.pcell)
    if n = 0 then .next (s.setReg k d o.omustat)
    else if n = 1 then .next (s.setReg k d o.driftstat)
    else if n = 2 then .next (s.setReg k d o.resstat)
    else if n < 0x10000 then .trap s { code := fIllegal }
    else if 32640 ≤ n - 0x10000 then .trap s (fltAt fAddress (t.ctx.gpr a))
    else .next (s.setReg k d ((o.calAt (n - 0x10000)).signExtend 64))

end Sys2Proof.Machine
end

