-- ==== Sys2Proof/Machine/Pass.lean ====
section
/-! DEFINITION. Posting to the pass scheduler: pass records (R32, R33, R292, R293, R326), pswap (R325), probe (R329) and pabort (R331), and how a
pass completes (R295, R327, R328). -/
namespace Sys2Proof.Machine
open Sys2Proof

/-! ### Pass records (R32) -/

/-- A field of a pass record, or of a descriptor of 512 bits. -/
abbrev Rec := BitVec 512
/-- PASSID. -/
def Rec.passid (r : Rec) : Nat := fld r 0 16
/-- TWAIT. -/
def Rec.twait (r : Rec) : Nat := fld r 16 8
/-- TSIG. -/
def Rec.tsig (r : Rec) : Nat := fld r 24 8
/-- BANK. -/
def Rec.bank (r : Rec) : Bool := r.getLsbD 32
/-- DIR. -/
def Rec.dir (r : Rec) : Bool := r.getLsbD 34
/-- E. -/
def Rec.e (r : Rec) : Nat := fld r 35 4
/-- IFMT. -/
def Rec.ifmt (r : Rec) : Nat := fld r 39 3
/-- WFMT. -/
def Rec.wfmt (r : Rec) : Nat := fld r 42 2
/-- SP24. -/
def Rec.sp24 (r : Rec) : Bool := r.getLsbD 44
/-- LIVE. -/
def Rec.live (r : Rec) : Bool := r.getLsbD 45
/-- SCOUT. -/
def Rec.scout (r : Rec) : Nat := fld r 48 16
/-- TILE. -/
def Rec.tile (r : Rec) : Word := r.extractLsb' 64 64
/-- INADDR. -/
def Rec.inAddr (r : Rec) : Word := r.extractLsb' 128 64
/-- IDXADDR. -/
def Rec.idxAddr (r : Rec) : Word := r.extractLsb' 192 64
/-- LIVEADDR. -/
def Rec.liveAddr (r : Rec) : Word := r.extractLsb' 256 64
/-- METAADDR. -/
def Rec.metaAddr (r : Rec) : Word := r.extractLsb' 320 64
/-- OUTADDR. -/
def Rec.outAddr (r : Rec) : Word := r.extractLsb' 384 64
/-- OSCALE. -/
def Rec.oscale (r : Rec) : Nat := fld r 448 24
/-- VCOUNT. -/
def Rec.vcount (r : Rec) : Nat := fld r 472 16

/-- The stride of an input row (R299). -/
def Rec.stride (r : Rec) : Nat :=
  (if r.sp24 then [64, 128, 64, 128] else [128, 192, 128, 256]).getD r.ifmt 0

/-- The bytes of a row's elements (R299). -/
def Rec.rowElems (r : Rec) : Nat := if r.sp24 then [32, 64, 64, 128].getD r.ifmt 0 else [64, 128, 128, 256].getD r.ifmt 0

/-- The scale records of a row (R299). -/
def Rec.rowRecs (r : Rec) : Nat := if r.ifmt < 2 then (if r.sp24 then 2 else 4) else 0

/-- The first byte of the half (ping or pong) that an address lies in (R188). -/
def halfOf (va : Word) : Word := alignDown va 22

/-- The ILLEGAL_INSN row of R33. -/
def Rec.illFormed (r : Rec) : Bool :=
  fld r 488 24 != 0 || fld r 46 2 != 0 || r.getLsbD 33 || r.wfmt == 3 || decide (3 < r.ifmt) || decide (r.e < 3) || decide (9 < r.e) ||
    r.scout == 0 || r.vcount == 0 || scaleX r.oscale == 255 || scaleS r.oscale != 0

/-- The address checks of R33: each field that the record uses, its class before its alignment. -/
def Rec.badAddr (r : Rec) : Option Flt :=
  let one (used : Bool) (va : Word) (cls : Option Nat) (bits : Nat) : Option Flt :=
    if !used then none
    else if (match cls with
        | some c => fld va 56 8 != c
        | none => false) then some (fltAt fAddress va)
    else if fld va 0 bits ≠ 0 then some (fltAt fMisaligned va) else none
  [one true r.tile (some 0x40) 6, one true r.inAddr (some 0x60) 6, one (r.idxAddr != 0) r.idxAddr none 3,
    one r.live r.liveAddr none 3, one r.sp24 r.metaAddr none 6, one true r.outAddr none 6].findSome? id

/-- The ranges that a post locks (R293). -/
def Rec.wants (r : Rec) : List Want :=
  let n := r.vcount
  [(if r.idxAddr = 0 then ⟨r.inAddr, n * r.stride, false⟩ else ⟨halfOf r.inAddr, 2 ^ 22, false⟩),
    ⟨r.idxAddr, if r.idxAddr = 0 then 0 else 4 * n, false⟩, ⟨r.liveAddr, if r.live then 8 * ((n + 63) / 64) else 0, false⟩,
    ⟨r.metaAddr, if r.sp24 then 16 * n else 0, false⟩, ⟨r.outAddr, 320 * n, true⟩]

/-! ### Posting (R292, R293, R326) -/

/-- The depth of the post queue. -/
def postDepth : Nat := 32

/-- An entry placed in the post queue of a cluster. -/
def State.pushPost (s : State) (c : ClusterId) (e : PostEntry) : State := s.modOmu c fun o => { o with queue := o.queue ++ [e] }

/-- The parks of R292 for a thread that posts to a cluster's scheduler. -/
def postFull (s : State) (t : Thread) (c : ClusterId) : Bool :=
  decide (postDepth ≤ (s.omu c).queue.length) || decide (16 ≤ t.load_ .pass)

/-- A pass record that has been read and has passed its checks, from the parks on (R292, R293, R326). A post that parks keeps the record. -/
def postRecord (i : Instr) (d : Option Reg) (r : Rec) : Body := fun s k t =>
  let c := clusterOf t.pcell
  let wait (why : Why) : Res := .park (s.modThread k fun t => { t with posted := some r }) why
  if postFull s t c then wait .engine
  else
    let x := s.fresh
    let own := (s.cluster c).locks
    match tryLocks x.2 (s.whoOf t) x.1 .pass r.wants (fun l => l.kind == .pass && own.contains l) with
    | .error y => wait y
    | .ok s =>
      let s := flushVirtual s t r.outAddr (320 * r.vcount)
      .next ((s.pushPost c ⟨x.1, .pass r, s.issuer k t i, []⟩).beginOp k d .pass)

/-- A pass record posted from an address: the order of R319, the read and the checks of R33, then the parks of R292 and the locks of R293. gd
takes the ticket, where there is one. A parked post has read its record. -/
def postPass (i : Instr) (d : Option Reg) (va : Word) : Body := engineBody fun s k t =>
  match t.posted with
  | some r => postRecord i d r s k t
  | none =>
  let w := s.whoOf t
  match resolve s w .load va 64 64 with
  | .error f => .trap s f
  | .ok loc => match readAt s w loc 64 false with
    | .error c => .trap (s.storedError w.cell loc.key 64 t.ctx.pc) (fltAt c va)
    | .ok (bs, s) =>
      let r : Rec := BitVec.ofNat 512 (leVal bs)
      if r.illFormed then .trap s { code := fIllegal }
      else match r.badAddr with
        | some f => .trap s f
        | none => postRecord i d r s k t

/-- pass (R326). -/
def execPass (d a : Reg) (s : State) : Host.Outcome State Fault Refusal :=
  issue (.pass d a) s fun s k t =>
    if t.inGang then .trap s { code := fIllegal } else postPass (.pass d a) (some d) (t.ctx.gpr a) s k t

/-- pswap: the post parks while the queue is full (R292). The marker takes no post-count entry of the thread, so that how many passes are
outstanding does not hold it (R325; DEDUCED, log 99). -/
def execPswap (s : State) : Host.Outcome State Fault Refusal :=
  issue .pswap s fun s k t =>
    if t.inGang then .trap s { code := fIllegal }
    else orTrap (s.waitRx k) fun s =>
      let t := (s.thread? k).getD t
      let c := clusterOf t.pcell
      if postDepth ≤ (s.omu c).queue.length then .park s .engine
      else
        let x := s.fresh
        .next (x.2.pushPost c ⟨x.1, .swap, s.issuer k t .pswap, []⟩)

/-- The PIF vector of a probe captured at its post (R329): none for the next scout, empty where its bytes are poisoned. -/
def probePif (s : State) (w : Who) (pa : Word) : Except Flt (Option (List Byte)) :=
  if pa = 0 then .ok none
  else match placeOf s w .load pa 264 with
    | .error c => .error (fltAt c pa)
    | .ok loc =>
      if s.poisoned loc.key 264 then .ok (some [])
      else
        let bs := s.bytes loc.key 264
        if bytesAt bs 256 8 / 2 ^ 25 ≠ 0 then .error { code := fIllegal } else .ok (some bs)

/-- probe (R329), under the parks of R292. -/
def execProbe (d a : Reg) (s : State) : Host.Outcome State Fault Refusal :=
  issue (.probe d a) s fun s k t =>
    if t.inGang then .trap s { code := fIllegal }
    else engineBody (fun s k t =>
      let v := t.ctx.gpr a
      let pa := alignDown v 6
      let w := s.whoOf t
      if fld v 1 5 ≠ 0 then .trap s { code := fIllegal }
      else if pa ≠ 0 ∧ fld pa 56 8 ≠ 0x40 then .trap s (fltAt fAddress pa)
      else if postFull s t w.cluster then .park s .engine
      else if !(s.locksFree w.cluster ((lockOf s w 0 .pass ⟨pa, if pa = 0 then 0 else 264, false⟩).toList) fun _ => false) then
        .park s .engine
      else match probePif s w pa with
        | .error f => .trap s f
        | .ok p =>
          let x := s.fresh
          .next ((x.2.pushPost w.cluster ⟨x.1, .probe (v.getLsbD 0) p, s.issuer k t (.probe d a), []⟩).beginOp k (some d) .probe)) s k t

/-! ### Completion (R295, R327, R328) -/

/-- The pass completion entry (R327). -/
def passEntry (r : Rec) (ticket : BitVec 32) (status rsn fcode first : Nat) : Nat :=
  r.passid * 2 ^ 48 + first % 2 ^ 16 * 2 ^ 32 + status % 8 * 2 ^ 29 + rsn % 4 * 2 ^ 27 + fcode % 32 * 2 ^ 22 + ticket.toNat % 2 ^ 22

/-- A pass completed: its locks are released, then its entry is delivered. -/
def State.endPass (s : State) (c : ClusterId) (p : Pass) : State :=
  let s := (s.dropLocks p.key).modOmu c fun o => { o with passes := o.passes.filter fun q => q.key != p.key }
  s.deliverEntry .pass p.by_ (passEntry p.record p.by_.opr.ticket p.status p.rsn p.fcode p.written) p.fcode p.va

/-- A posted pass that has not started, as a pass that ends. -/
def PostEntry.ended (e : PostEntry) (r : Rec) (status rsn fcode : Nat) (va : Word) : Pass :=
  { key := e.key, record := r, by_ := e.by_, status := status, rsn := rsn, fcode := fcode, va := va }

/-- The entry of PROBEOUT (R330). -/
def State.endProbe (s : State) (b : Issuer) (status : Nat) (dir : Bool) (err : Nat) : State :=
  s.deliverEntry .probe b (entryBits b.opr.ticket status dir 0 (min err 0xFFFF)) 0 0

/-- A probe's entry ends, and after it the probes that wait behind it (R342). -/
def State.endProbes (s : State) (e : PostEntry) (status : Nat) (dir : Bool) (err : Nat) : State :=
  e.behind.foldl (fun s b => s.endProbe b.1 0 b.2 0) (s.endProbe e.by_ status dir err)

/-! ### The head of the post queue (R294, R312) -/

/-- Whether a record waits for its tag (R34, R294). -/
def Omu.tagWaits (o : Omu) (r : Rec) : Bool := r.twait != 0 && o.passes.any fun p => Rec.tsig p.record == r.twait

/-- Whether a pass at the head of the post queue may start (R294, R298). -/
def State.startable (s : State) (c : ClusterId) : Bool := match (s.omu c).queue with
  | ⟨_, .pass r, _, _⟩ :: _ => !(s.omu c).tagWaits r && !s.still c
  | _ => false

/-- An ended stream with no startable head leaves the OMU idle (R312). -/
def State.settleOmu (s : State) (c : ClusterId) : State := s.modOmu c fun o =>
  { o with state := if o.state = 1 ∧ o.stream.isEmpty ∧ o.passes.isEmpty ∧ !s.startable c then 0 else o.state }

/-! ### pabort (R331) -/

/-- Whether an entry of a thread is one that g[A] selects. -/
def abortHits (k : Nat) (t : Thread) (g : Word) (b : Issuer) : Bool :=
  (b.thread == k || (b.tid == t.tid && b.launch == t.launch)) && (g == 0 || b.opr.ticket == g.extractLsb' 0 32)

/-- Whether two commands come from one thread. -/
def Issuer.same (a b : Issuer) : Bool := a.thread == b.thread || (a.tid == b.tid && a.launch == b.launch)

/-- The last probe of the same thread queued before an entry. -/
def Omu.probeBefore (o : Omu) (e : PostEntry) : Option Nat :=
  ((o.queue.takeWhile fun x => x.key != e.key).filter fun x => x.by_.same e.by_ && (match x.post with
    | .probe _ _ => true
    | _ => false)).getLast?.map PostEntry.key

/-- A queued entry withdrawn (R331). A probe's entry keeps its place behind that of an earlier probe of its thread (R342). -/
def State.abortQueued (s : State) (c : ClusterId) (e : PostEntry) : State :=
  let o := s.omu c
  let s := s.modOmu c fun o => { o with queue := o.queue.filter fun x => x.key != e.key }
  let s := match e.post with
    | .pass r => s.endPass c (e.ended r 0 2 0 0)
    | .probe dir _ => match o.probeBefore e with
      | none => s.endProbes e 0 dir 0
      | some k => s.modOmu c fun o => { o with queue := o.queue.map fun (x : PostEntry) =>
          if x.key = k then { x with behind := x.behind ++ (e.by_, dir) :: e.behind } else x }
    | .swap => s
  s.settleOmu c

/-- The pass that an item of the stream belongs to. -/
def StreamItem.pass : StreamItem → Nat
  | .vec p _ _ _ _ => p
  | .scout p _ => p
  | .stop p _ _ _ => p
  | .done p => p

/-- What has streamed of a pass, with its closing scout: the last item, where that is a scout, or one more (R308, R331). -/
def closeStream (p : Nat) (l : List StreamItem) : List StreamItem := match l.getLast? with
  | some (.scout q _) => l.dropLast ++ [.scout q true]
  | _ => l ++ [.scout p true]

/-- A streaming pass aborted (R331): no further item of it streams but a closing scout. How many of its items have streamed by then is a free
value (log 57); a pass of which all have, which has stopped, behind which another streams, or which streams no scout (R308) is left as it
is. -/
def State.abortStream (s : State) (c : ClusterId) (p : Pass) : State :=
  let l := (s.omu c).stream
  let mine := l.filter fun x => x.pass == p.key
  let m := Config.freeValue s.free % (mine.length + 1)
  let last := ((l.getLast?).map StreamItem.pass) == some p.key
  if !last || mine.contains (.done p.key) || p.cut || decide (p.status ≠ 0) || decide (p.fcode ≠ 0) ||
      decide (p.rsn ≠ 0) || decide (m = mine.length) then s
  else State.modOmu { s with free := s.free + 1 } c fun o => { o with
    stream := (l.filter fun x => x.pass != p.key) ++ closeStream p.key (mine.take m)
    passes := o.passes.map fun q => if q.key = p.key then { q with rsn := 2 } else q }

/-- pabort (R331): it commits once every pass that it has stopped has completed. -/
def execPabort (a : Reg) (s : State) : Host.Outcome State Fault Refusal :=
  issue (.pabort a) s fun s k t =>
    let g := t.ctx.gpr a
    if t.inGang then .trap s { code := fIllegal }
    else if fld g 32 32 ≠ 0 then .trap s { code := fIllegal }
    else
      let c := clusterOf t.pcell
      let o := s.omu c
      let swaps (e : PostEntry) : Bool := e.post == .swap
      let s := (o.queue.filter fun e => abortHits k t g e.by_ && !swaps e).foldl (fun s e => s.abortQueued c e) s
      let s := (o.passes.filter fun p => abortHits k t g p.by_).foldl (fun s p => s.abortStream c p) s
      orStay ((s.omu c).passes.any fun p => abortHits k t g p.by_ && p.rsn == 2) s (.next s)

end Sys2Proof.Machine
end

