-- ==== Sys2Proof/Machine/Stream.lean ====
section
/-! DEFINITION. The stream of an OMU: the start of a pass with its gather and outputs (R295, R299 to R303), scouts, verdicts and commitment (R305
to R312), swaps, probes, losses and recalibration (R296, R315, R330). -/
namespace Sys2Proof.Machine
open Sys2Proof

/-! ### Gather (R299 to R302) -/

/-- A vector as the gather unit finds it. -/
inductive VecRead where
  | dead
  | pif (p : Pif)
  | stop (e : EngErr)

/-- The element type of an input format. -/
def inType (ifmt : Nat) : ElemTy := [ElemTy.eb2, .eb4, .e4m3, .bf16].getD ifmt .bf16

/-- Element i of a row's bytes. -/
def rowElem (r : Rec) (nsm : Bool) (row : List Byte) (i : Nat) : FVal :=
  let t := inType r.ifmt
  let w := t.width
  let v := bytesAt row (i * w / 8) (max 1 (w / 8))
  let c := if w = 4 then (if i % 2 = 0 then v % 16 else v / 16) else v
  if t.isBlock then decodeBlockElem t nsm (bytesAt row (r.rowElems + 3 * (i / 32)) 3) c else decodeElem t nsm c

/-- The two lanes of group n in 2:4 metadata (R301). -/
def metaLanes (m n : Nat) : Nat × Nat := (m / 2 ^ (4 * n) % 4, m / 2 ^ (4 * n + 2) % 4)

/-- The 128 lanes of a compressed row; none where a group has a ≥ b (R301). -/
def expand24 (m : Nat) (el : Nat → FVal) : Option (List FVal) :=
  if (List.range 32).any fun n => decide ((metaLanes m n).2 ≤ (metaLanes m n).1) then none
  else some ((List.range 128).map fun l =>
    let n := l / 4
    let ab := metaLanes m n
    if l % 4 = ab.1 then el (2 * n) else if l % 4 = ab.2 then el (2 * n + 1) else FVal.zero)

/-- An invalid vector (R215, R301). -/
def badPif : Pif := ⟨List.replicate 128 0, 127, true⟩

/-- Row number of vector v (R299). -/
def rowNo (s : State) (w : Who) (r : Rec) (v : Nat) : Except EngErr Nat :=
  if r.idxAddr = 0 then .ok v else (engRead s w (r.idxAddr + word (4 * v)) 4).map leVal

/-- Vector v of a pass latched (R299 to R302), where its row lies wholly in the half of INADDR. -/
def latchVec (s : State) (w : Who) (nsm : Bool) (r : Rec) (v : Nat) : Except EngErr Pif := do
  let n ← rowNo s w r v
  let off := fld r.inAddr 0 23 + n * r.stride
  if fld (halfOf r.inAddr) 0 23 + 2 ^ 22 < off + r.stride then .error (.fault fAddress (r.inAddr + word (n * r.stride)))
  else
    let row ← engRead s w (r.inAddr + word (n * r.stride)) (r.rowElems + 3 * r.rowRecs)
    if r.sp24 then
      let m ← engRead s w (r.metaAddr + word (16 * v)) 16
      match expand24 (leVal m) (rowElem r nsm row) with
      | some xs => .ok (latchPif xs)
      | none => .ok badPif
    else .ok (latchPif ((List.range 128).map (rowElem r nsm row)))

/-- Whether vector v is live (R300). -/
def isLiveVec (s : State) (w : Who) (r : Rec) (v : Nat) : Except EngErr Bool :=
  if !r.live then .ok true
  else (engRead s w (r.liveAddr + word (v / 8)) 1).map fun bs => leVal bs / 2 ^ (v % 8) % 2 == 1

/-- The places that vector v of a pass is read from, in order. -/
def vecPlaces (s : State) (w : Who) (r : Rec) (v : Nat) : List (Word × Nat) :=
  (if r.live then [(r.liveAddr + word (v / 8), 1)] else []) ++ (if r.idxAddr = 0 then [] else [(r.idxAddr + word (4 * v), 4)]) ++
    (match rowNo s w r v with
    | .ok n => [(r.inAddr + word (n * r.stride), r.rowElems + 3 * r.rowRecs)]
    | .error _ => []) ++ (if r.sp24 then [(r.metaAddr + word (16 * v), 16)] else [])

/-- The first of them whose read fails, counted for the unit that stores it where an uncorrectable error is why (R469). -/
def State.noteVec (s : State) (w : Who) (r : Rec) (v : Nat) (pc : Word) : State :=
  match (vecPlaces s w r v).find? fun p => (engRead s w p.1 p.2).toOption.isNone with
  | some p => s.engNote w p.1 p.2 pc
  | none => s

/-- Vector v of a pass, and its output's address (R310). -/
def readVec (s : State) (w : Who) (nsm : Bool) (r : Rec) (v : Nat) : VecRead :=
  let got : Except EngErr VecRead := do
    let live ← isLiveVec s w r v
    if live then (latchVec s w nsm r v).map .pif else .ok .dead
  match got with
  | .error e => .stop e
  | .ok x => match engCheck s w (r.outAddr + word (320 * v)) 320 with
    | some (.fault c va) => if c = fUncorrectable ∨ c = fPeerExited then x else .stop (.fault c va)
    | some .discarded => .stop .discarded
    | some .poison | none => x

/-- The error that an output write is answered with: POISONED is UNCORRECTABLE there (R310, R328). -/
def EngErr.ofOutput (e : EngErr) (va : Word) : EngErr := match e with
  | .poison => .fault fUncorrectable va
  | e => e

/-! ### Outputs (R216, R217, R303) -/

/-- The matrix of a pass (R303, R313): the rows of the tile store, or its columns in reverse. -/
def passMatrix (b : Bank) (nsm dir : Bool) (wfmt : Nat) : List (List FVal) :=
  let m := tileRows wfmt nsm b.tile
  if dir then (List.range 128).map fun j => m.map fun r => r.getD j FVal.zero else m

/-- The exact product of a row of the matrix and the lanes, times the unit (R303). -/
def rowProduct (p : Pif) (row : List FVal) : FVal :=
  let sum := (row.zip p.lanes).foldl (fun acc x => (addExact .rne acc (mulExact x.1 (FVal.ofInt x.2)).1).1) FVal.zero
  (mulExact sum (.fin false 1 1 ((p.x : Int) - 127))).1

/-- A pass-output block of 32 outputs (R217). -/
def pobBytes (r : Rec) (inv : Bool) (os : List (Int × Bool)) : List Byte :=
  let sat := ofDigits 2 (os.map fun o => bit o.2)
  os.flatMap (fun o => leOf 2 (wrapTo 16 o.1)) ++
    leOf 16 (bit inv * 2 ^ 64 + sat * 2 ^ 32 + r.e * 2 ^ 24 + r.oscale)

/-- The 320 output bytes of a vector (R303). -/
def vecOut (m : List (List FVal)) (r : Rec) (x : VecRead) : List Byte :=
  let zero : List (Int × Bool) := List.replicate 32 (0, false)
  let o (p : Pif) (row : List FVal) : Int × Bool := roundE r.oscale r.e (rowProduct p row)
  (List.range 4).flatMap fun k => match x with
    | .pif p => if p.inv then pobBytes r true zero else pobBytes r false (((m.drop (32 * k)).take 32).map (o p))
    | _ => pobBytes r false zero

/-! ### The items of a pass (R308) -/

/-- The stream of a pass as it grows: items, whether the opening scout has streamed, and live vectors since the last scout. -/
structure Build where
  items : List StreamItem := []
  open_ : Bool := false
  since : Nat := 0
  stopped : Bool := false

/-- One vector joins the stream: a scout comes before the first live vector, and before the next one after every s. A pass that stops before
any live, valid vector streams an opening scout too (DESIGN CHOICE, log 96). -/
def addVec (s : State) (w : Who) (m : List (List FVal)) (nsm : Bool) (key : Nat) (r : Rec) (x : Build) (v : Nat) : Build :=
  if x.stopped then x
  else match readVec s w nsm r v with
    | .stop e =>
      let first := if x.open_ then [] else [StreamItem.scout key false]
      { x with items := x.items ++ first ++ [.stop key e.status e.code e.va], stopped := true }
    | .dead => { x with items := x.items ++ [.vec key v false 127 (vecOut m r .dead)] }
    | .pif p =>
      let out := vecOut m r (.pif p)
      if p.inv then { x with items := x.items ++ [.vec key v false 127 out] }
      else if !x.open_ then { x with items := x.items ++ [.scout key false, .vec key v true p.x out], open_ := true, since := 1 }
      else if min r.scout 4096 ≤ x.since then { x with items := x.items ++ [.scout key false, .vec key v true p.x out], since := 1 }
      else { x with items := x.items ++ [.vec key v true p.x out], since := x.since + 1 }

/-- The whole stream of a pass, with its closing scout, or with its end where it streams none. -/
def passItems (s : State) (w : Who) (bank : Bank) (nsm : Bool) (key : Nat) (r : Rec) : List StreamItem :=
  let x := (List.range r.vcount).foldl (addVec s w (passMatrix bank nsm r.dir r.wfmt) nsm key r) {}
  if x.stopped then x.items else if x.open_ then x.items ++ [.scout key true] else x.items ++ [.done key]

/-! ### Window guards (R305) -/

/-- An error in quanta of a vector: e × y_fs ÷ q, for the latched exponent X of the vector. -/
def errQuanta (b : Bank) (r : Rec) (x err : Nat) : FVal :=
  overScale r.oscale (.fin false err 1 (b.gexp.toInt + 13 + (x : Int) - 127 - 16 + (r.e : Int) - 1))

/-- a ≤ b for values that are not negative. -/
def leVal_ (a b : FVal) : Bool := cmpNum a b != .gt

/-- 1 / 128 quanta. -/
def halfGuard : FVal := .fin false 1 1 (-7)

/-- The window guard of a vector in units of 2^-16 quanta (R305, R336), rounded up (DESIGN CHOICE, log 97). -/
def guardUnits (b : Bank) (r : Rec) (x err : Nat) : Nat := match errQuanta b r x err with
  | .fin _ p q e => max 1024 (roundAt .rup false p q (e + 17) 0).1
  | _ => 1024

/-! ### Commitment (R309) -/

/-- The live vectors among items. -/
def liveCount (items : List StreamItem) : Nat := items.countP fun x => match x with
  | .vec _ _ live _ _ => live
  | _ => false

/-- Outputs of affected vectors that the resolver has recomputed by then: a free number of them (R336; log 58). -/
def State.strayFlags (s : State) (c : ClusterId) (items : List StreamItem) : State :=
  { s with free := s.free + 1 }.modOmu c fun o =>
    { o with flagged := o.flagged + BitVec.ofNat 32 (Config.freeValue s.free % (128 * liveCount items + 1)) }

/-- A pass that streams or awaits verdicts. -/
def Omu.pass? (o : Omu) (key : Nat) : Option Pass := o.passes.find? fun p => p.key == key

/-- A pass's record changed. -/
def Omu.modPass (o : Omu) (key : Nat) (f : Pass → Pass) : Omu :=
  { o with passes := o.passes.map fun p => if p.key = key then f p else p }

/-- The outputs of a live vector that the resolver recomputed (R305, R336): all 128 with a guard of half a quantum or more, else a free
number (log 58). -/
def flaggedOf (o : Omu) (r : Rec) (x free : Nat) : Nat :=
  if 0x8000 ≤ guardUnits (o.bank o.act) r x o.lastPass then 128 else Config.freeValue free % 129

/-- The outputs of a vector written. Where the write is answered with an error, the pass stops there (R310). -/
def commitVec (c : ClusterId) (s : State) (x : StreamItem) : State := match x with
  | .vec key v live x out => match (s.omu c).pass? key with
    | none => s
    | some p =>
      if p.cut || v != p.written then s
      else match engWrite s (s.whoFor p.by_) (Rec.outAddr p.record + word (320 * v)) out with
        | .error e =>
          let e := e.ofOutput (Rec.outAddr p.record + word (320 * v))
          s.modOmu c fun o => o.modPass key fun p => { p with status := e.status, fcode := e.code, va := e.va, rsn := 0, cut := true }
        | .ok s =>
          let flags := if live then flaggedOf (s.omu c) p.record x s.free else 0
          { s with free := s.free + 1 }.modOmu c fun o =>
            { o.modPass key fun p => { p with written := p.written + 1 } with
              written := o.written + 128, flagged := o.flagged + BitVec.ofNat 32 flags }
  | _ => s

/-- Passes at the head of the stream that need no verdict: their outputs are written, and they complete (R308), with no closing scout where
a write was answered with an error (DESIGN CHOICE, log 96). Fuel bounds the passes. -/
def drainStream (c : ClusterId) : Nat → State → State
  | 0, s => s
  | n + 1, s =>
    let items := (s.omu c).stream
    let dead := items.takeWhile fun x => match x with
      | .vec _ _ _ _ _ => true
      | _ => false
    match items[dead.length]? with
    | some (.done key) =>
      let s := dead.foldl (commitVec c) s
      let s := s.modOmu c fun o => { o with stream := o.stream.drop (dead.length + 1) }
      match (s.omu c).pass? key with
      | some p => drainStream c n (s.endPass c p)
      | none => s
    | _ => s

/-- The stream after a commitment (R308, R312). -/
def settleStream (c : ClusterId) (s : State) : State := (drainStream c ((s.omu c).stream.length + 1) s).settleOmu c

/-! ### Failure (R307, R311) -/

/-- Whether a pass failed a check of R295 and only waits for earlier passes of its thread (R342). -/
def Omu.refused (o : Omu) (p : Pass) : Bool :=
  decide ((p.status, p.rsn, p.fcode) ≠ (0, 0, 0)) && o.stream.all fun x => x.pass != p.key || x == .done p.key

/-- A failure of a scout or an audit: affected passes end with `status`, and with `flush` so do, with DRIFT, the passes that have not
started. One that a check of R295 refused ends as the check says. -/
def failStream (s : State) (c : ClusterId) (status : Nat) (flush : Bool) (next : Nat) : State :=
  let o := s.omu c
  let s := (s.strayFlags c o.stream).modOmu c fun o => { o with stream := [], state := next }
  let s := o.passes.foldl (fun s p =>
    s.endPass c (if o.refused p then p else { p with status := status, fcode := 0, rsn := 0, va := 0 })) s
  if !flush then s
  else o.queue.foldl (fun s e => match e.post with
    | .pass r =>
      (s.modOmu c fun o => { o with queue := o.queue.filter fun x => x.key != e.key }).endPass c (e.ended r 3 0 0 0)
    | _ => s) s

/-- A scout or audit failure counted (R336). -/
def State.countDrift (s : State) (c : ClusterId) : State := s.modOmu c fun o => { o with dcnt := min 255 (o.dcnt + 1) }

/-! ### The start of a pass (R294, R295) -/

/-- The largest E that the OMU takes (R304). -/
def Omu.emax (o : Omu) : Nat := o.cb.toNat - 1

/-- Check 6 of R295. -/
def Rec.badPlace (r : Rec) : Option Word :=
  let ok (va : Word) : Bool := let c := fld va 56 8; decide (c ≤ 0x40) || c == 0x50 || c == 0x60
  if !ok r.outAddr then some r.outAddr
  else if r.idxAddr ≠ 0 ∧ !ok r.idxAddr then some r.idxAddr
  else if r.live && !ok r.liveAddr then some r.liveAddr
  else if r.sp24 && !ok r.metaAddr then some r.metaAddr
  else if r.idxAddr = 0 ∧ 2 ^ 22 < fld r.inAddr 0 22 + r.vcount * r.stride then some r.inAddr
  else none

/-- The checks of R295: STATUS, RSN and fault code of the first that fails, with the fault's address. -/
def startCheck (o : Omu) (b : Issuer) (r : Rec) : Option (Nat × Nat × Nat × Word) :=
  let k := o.bank o.act
  if o.state = 2 then some (3, 0, 0, 0)
  else if r.bank ≠ o.act then some (1, 0, 0, 0)
  else match k.binding with
    | none => some (1, 0, 0, 0)
    | some x =>
      if x.cell ≠ b.cell ∨ x.tile ≠ r.tile ∨ x.wfmt.toNat ≠ r.wfmt then some (1, 0, 0, 0)
      else if x.nsm ≠ b.nsm then some (0, 0, fNsm, 0)
      else if o.emax < r.e then some (3, 1, 0, 0)
      else r.badPlace.map fun va => (0, 0, fAddress, va)

/-- The pass at the head of the post queue starts (R295). One that a check refuses completes at once, or where an earlier pass of its thread
has not completed, after it in stream order (R342). Nothing starts while the cluster is being quiesced (R298). -/
def execPassStart (omu : ClusterId) (s : State) : Host.Outcome State Fault Refusal :=
  .next (let o := s.omu omu
    match o.queue with
    | e :: es => match e.post with
      | .pass r =>
        if o.state = 3 ∨ o.tagWaits r ∨ s.still omu then s
        else
          let s := s.modOmu omu fun o => { o with queue := es }
          match startCheck o e.by_ r with
          | some x =>
            let p := e.ended r x.1 x.2.1 x.2.2.1 x.2.2.2
            if o.passes.any fun q => q.by_.thread == e.by_.thread then
              settleStream omu (s.modOmu omu fun o => { o with stream := o.stream ++ [.done p.key], passes := o.passes ++ [p] })
            else (s.endPass omu p).settleOmu omu
          | none =>
            let w := s.whoFor e.by_
            let items := passItems s w (o.bank o.act) e.by_.nsm e.key r
            let v := items.countP fun x => match x with
              | .vec _ _ _ _ _ => true
              | _ => false
            let s := if items.any (fun x => match x with
              | .stop _ _ _ _ => true
              | _ => false) then s.noteVec w r v e.by_.opr.pc else s
            settleStream omu (s.modOmu omu fun o => { o with
              stream := o.stream ++ items, passes := o.passes ++ [e.ended r 0 0 0 0], state := 1 })
      | _ => s
    | [] => s)

/-! ### Verdicts (R305, R309) -/

/-- Whether a live vector accepts a scout's error: at most half its window guard, or 1/128 quanta. -/
def accepts (b : Bank) (last err : Nat) (r : Rec) (x : Nat) : Bool :=
  leVal_ (errQuanta b r x err) halfGuard || decide (err ≤ last)

/-- The items of the stream before its first scout, the scout, and those after; none where a stop comes first. -/
def splitScout : List StreamItem → Option (List StreamItem × (Nat × Bool) × List StreamItem)
  | [] => none
  | .scout p b :: l => some ([], (p, b), l)
  | .vec p v live x out :: l => (splitScout l).map fun r => (.vec p v live x out :: r.1, r.2)
  | _ :: _ => none

/-- The live vectors among items, with their records. -/
def liveOf (o : Omu) (items : List StreamItem) : List (Rec × Nat) :=
  items.filterMap fun x => match x with
    | .vec p _ true u _ => (o.pass? p).map fun q => (q.record, u)
    | _ => none

/-- The next scout-table entry's exponent (R308). -/
def Omu.scoutX (o : Omu) : Nat := ((o.scouts[o.sidx % 64]?).map Prod.snd).getD 127

/-- A scout that passes: what streamed before it is written, and its pass completes where it closes it (R309). A pass that a write stopped
streams a closing scout of its own (R310). -/
def commitScout (s : State) (c : ClusterId) (before : List StreamItem) (sc : Nat × Bool) (rest : List StreamItem) : State :=
  let s := before.foldl (commitVec c) s
  let o := s.omu c
  let hurt := o.passes.filter fun p => p.cut && before.any fun x => x.pass == p.key
  let stray := (before ++ rest).filter fun x => hurt.any fun p => x.pass == p.key && (match x with
    | .vec _ v _ _ _ => decide (p.written ≤ v)
    | _ => false)
  let s := (s.strayFlags c stray).modOmu c fun o => { o with
    stream := hurt.foldl (fun l p => .scout p.key true :: l.filter fun x => x.pass != p.key) rest }
  let ended := sc.2 && !(hurt.any fun p => p.key == sc.1)
  let s := match (s.omu c).pass? sc.1 with
    | some p => if ended then s.endPass c p else s
    | none => s
  settleStream c s

/-- A scout's verdict (R309, R311). -/
def execScoutVerdict (omu : ClusterId) (err : Nat) (s : State) : Host.Outcome State Fault Refusal :=
  .next (let o := s.omu omu
    match splitScout o.stream with
    | none => s
    | some (before, sc, rest) => match o.pass? sc.1 with
      | none => s
      | some p =>
        let b := o.bank o.act
        let ls := liveOf o before
        let ok := if ls.isEmpty then leVal_ (errQuanta b p.record o.scoutX err) halfGuard
          else ls.all fun x => accepts b o.lastPass err x.1 x.2
        let seen := min err 0xFFFF
        let s := s.modOmu omu fun o => { o with
          lasterr := seen, maxerr := max o.maxerr seen, sidx := (o.sidx + 1) % 64
          guard := match ls.getLast? with
            | some x => min 0xFFFF (guardUnits b x.1 x.2 o.lastPass)
            | none => o.guard }
        if ok then (commitScout s omu before sc rest).modOmu omu fun o => { o with lastPass := err }
        else failStream (s.countDrift omu) omu 3 true 2)

/-- The issuing pc of the pass whose output the resolver checks, chosen at random among those that have streamed (R307, R468). -/
def auditPc (o : Omu) (free : Nat) : Word :=
  let ps := o.stream.filterMap fun x => o.pass? x.pass
  ((ps[Config.freeValue free % ps.length]?).map fun p => p.by_.opr.pc).getD 0

/-- The resolver checks an unflagged output (R307): a mismatch is an event of the resolver (R469) and ends the stream with AUDIT. -/
def execResolverAudit (omu : ClusterId) (mismatch : Bool) (s : State) : Host.Outcome State Fault Refusal :=
  .next (if mismatch && !(s.omu omu).stream.isEmpty then
      failStream (({ s with free := s.free + 1 }.countDrift omu).countEvent (.resolver omu) (auditPc (s.omu omu) s.free)) omu 4 true 2
    else s)

/-- A pass stops at a vector (R310): a closing scout streams. -/
def execPassStop (omu : ClusterId) (s : State) : Host.Outcome State Fault Refusal :=
  .next (match (s.omu omu).stream.findSome? fun x => match x with
      | .stop p st f va => some (p, st, f, va)
      | _ => none with
    | none => s
    | some (key, st, f, va) => s.modOmu omu fun o =>
      { o.modPass key fun p => { p with status := st, fcode := f, va := va } with
        stream := o.stream.map fun x => if x == .stop key st f va then .scout key true else x })

/-! ### Swaps and probes (R296, R330) -/

/-- A swap marker at the head (R296): the banks exchange their roles. -/
def execBankSwap (omu : ClusterId) (s : State) : Host.Outcome State Fault Refusal :=
  .next (let o := s.omu omu
    match o.queue with
    | e :: es =>
      if e.post = .swap ∧ !s.still omu ∧ o.load.isNone ∧ o.stream.isEmpty ∧ o.state ≠ 3 then s.setOmu omu { o with queue := es, act := !o.act }
      else s
    | [] => s)

/-- A probe at the head streams (R330). -/
def execProbeStart (omu : ClusterId) (err : Nat) (s : State) : Host.Outcome State Fault Refusal :=
  .next (let o := s.omu omu
    match o.queue with
    | e :: es => match e.post with
      | .probe dir pif =>
        if o.state = 1 ∨ o.state = 3 ∨ s.still omu then s
        else
          let s := s.setOmu omu { o with queue := es }
          if pif = some [] then s.endProbes e 7 dir 0
          else if (o.bank o.act).binding.isNone then s.endProbes e 1 dir 0
          else
            let inv := (pif.map fun bs => bytesAt bs 256 8 / 2 ^ 24 % 2 == 1).getD false
            let x := if inv then 0 else min err 0xFFFF
            (s.modOmu omu fun o => { o with lasterr := x, maxerr := max o.maxerr x }).endProbes e 0 dir x
      | _ => s
    | [] => s)

/-! ### Losses and recalibration (R315) -/

/-- An OMU becomes unavailable (R312, R315): posted entries stay queued, KIND 0x08 is logged. -/
def State.loseOmu (s : State) (c : ClusterId) (cause : Nat) : State :=
  if (s.omu c).state = 3 then s
  else (failStream s c 3 false 3).logEvent c.pkg c.die 0x08 (word cause) (locBits c.pkg c.die c.cl 0 0) 0

/-- An OMU without its carrier (R315): the comb line that carried it is lost. -/
def State.dropCarrier (s : State) (c : ClusterId) : State :=
  let p := s.pkg c.pkg
  let s := s.setPkg c.pkg { p with lines := p.lines.map fun (x : Nat × LineUse) => if x.2 = .carrier c then (x.1, .lost) else x }
  (s.modOmu c fun o => { o with carrLost := true }).loseOmu c 1

/-- The OMU's carrier line is lost (R315). -/
def execCarrierLoss (omu : ClusterId) (s : State) : Host.Outcome State Fault Refusal := .next (s.dropCarrier omu)
/-- A mesh leaves its set point by more than 0.5 K (R315). -/
def execThermalLoss (omu : ClusterId) (s : State) : Host.Outcome State Fault Refusal :=
  .next ((s.modOmu omu fun o => { o with hot := true }).loseOmu omu 2)

/-- A lost carrier is given a spare line, where one is left (R315). -/
def State.spareCarrier (s : State) (c : ClusterId) : State :=
  let p := s.pkg c.pkg
  match p.lines.find? fun x => x.2 == .spare with
  | some (n, _) =>
    if (s.omu c).carrLost then
      (s.setPkg c.pkg { p with lines := putAt n (.carrier c) p.lines }).modOmu c fun o =>
        { o with carr := BitVec.ofNat 6 n, carrLost := false }
    else s
  | none => s

/-- The Comb assigns a spare line (R315). -/
def execSpareLineAssignment (omu : ClusterId) (s : State) : Host.Outcome State Fault Refusal := .next (s.spareCarrier omu)

/-- A calibration published (R304, R314, R315): the whole table, the scouts and CB, which is at most 12 (R336). A spare port pair that it puts in
service stays so until package reset (R476). -/
def Omu.calibrated (o : Omu) (x : Calibration) : Omu :=
  { o with cb := if 12 < x.cb.toNat then 12 else x.cb, uspr := o.uspr || x.uspr, vspr := o.vspr || x.vspr
           cal := x.entries, scouts := x.scouts, state := 0, maxerr := 0, hot := false }

/-- The nurse recalibrates an unavailable OMU whose carrier is back (R315): KIND 0x09. -/
def execOmuRecalibration (omu : ClusterId) (cal : Calibration) (s : State) : Host.Outcome State Fault Refusal :=
  .next (let o := s.omu omu
    if o.state = 3 ∧ !o.carrLost then
      (s.setOmu omu (o.calibrated cal)).logEvent omu.pkg omu.die 0x09 (word (if o.hot then 2 else 1))
        (locBits omu.pkg omu.die omu.cl 0 0) 0
    else s)

end Sys2Proof.Machine
end

