-- ==== Sys2Proof/Machine/Retire.lean ====
section
/-! DEFINITION. How a launch ends (R463 to R465) and the function-level reset (R478 to R480). -/
namespace Sys2Proof.Machine
open Sys2Proof

/-! ### Engine operations of a launch -/

/-- Whether an engine holds an operation of the issuers given that has not completed (R463). -/
def State.engineWork (s : State) (mine : Issuer → Bool) : Bool :=
  (s.clusters.any fun x => x.2.copies.any fun j => mine j.by_) ||
  (s.omus.any fun x => ((x.2.load.map fun l => mine l.by_).getD false) || (x.2.queue.any fun e => mine e.by_) ||
    (x.2.passes.any fun p => mine p.by_)) ||
  (s.fops.any fun f => mine f.by_) || (s.pkgs.any fun x => (x.2.topo.toList ++ x.2.topoQ).any fun c => mine c.by_) ||
  (s.pkgs.any fun x => x.2.regs.any fun r => !r.complete && mine r.by_)

/-- The copies of a cluster that are to stop, stopped before their next block (R479). -/
def State.stopCopies (s : State) (mine : Issuer → Bool) : State :=
  s.clusters.foldl (fun s x => (x.2.copies.filter fun j => mine j.by_).foldl (fun s j => (s.setCopy x.1 j.key none).dropLocks j.key) s) s

/-- The posted entries of an OMU removed, and its streaming passes stopped as by pabort (R479). -/
def State.stopPasses (s : State) (mine : Issuer → Bool) : State :=
  s.omus.foldl (fun s x =>
    let s := (x.2.queue.filter fun e => mine e.by_).foldl (fun s e => s.abortQueued x.1 e) s
    (x.2.passes.filter fun p => mine p.by_).foldl (fun s p => s.abortStream x.1 p) s) s

/-- Registrations ended (R479). -/
def State.stopRegs (s : State) (mine : Issuer → Bool) : State :=
  s.pkgs.foldl (fun s x => (x.2.regs.filter fun r => mine r.by_).foldl (fun s r => s.endReg x.1 r) s) s

/-- Engine operations stopped (R464, R479 step 3): loads run to their end, and packets already sent are answered. -/
def State.stopEngines (s : State) (mine : Issuer → Bool) : State := ((s.stopCopies mine).stopPasses mine).stopRegs mine

/-! ### Retirement (R463, R63) -/

/-- Whether a launch has nothing left to do: every cell woken and closed, no task on its way to a thief, and no engine operation. -/
def State.retires (s : State) (key : Nat) (l : Launch) : Bool :=
  l.toWake.isEmpty && ((l.trapped.all fun x => s.covered l x) || l.ending.isSome) && !(s.vcells.any fun x => x.2.isOpen && x.2.launch == key) &&
    !(s.threads.any fun x => !x.2.nurse && x.2.launch == key) &&
    !(s.steals.any fun m => m.launch == key && ((m.answer.bind id).isSome)) && !s.engineWork fun b => b.launch == key

/-- Every store of a launch made visible at system scope: the dirty bytes of its cells go home (R63). -/
def State.settleLaunch (s : State) (l : Launch) : State :=
  (List.range l.ready.cells).foldl (fun s f => match (l.ready.lcell f).bind s.place with
    | some pl => s.cleanAll pl.cell
    | none => s) s

/-- What is kept under the TIDs of a launch whose contexts are in memory, with its requests at their homes, gone. -/
def State.dropSaved (s : State) (key : Nat) : State :=
  let gone := (s.saved.filter fun x => x.2.launch == key).map Prod.fst
  { s with saved := s.saved.filter fun x => x.2.launch != key, parked := s.parked.filter fun p => !gone.contains p.thread }

/-- The launch gone: its partition is free, and messages to its threads find none. -/
def State.dropLaunch (s : State) (key : Nat) : State :=
  { s.dropSaved key with
    launches := dropAt key s.launches, steals := s.steals.filter fun m => m.launch != key, wakes := s.wakes.filter fun w => w.launch != key
    vcells := s.vcells.map fun (x : LCell × VCell) => if x.2.launch = key then (x.1, { serials := x.2.serials }) else x }

/-- A launch retires (R463): STATUS OK, or how the supervisor ended it; CYCLES counts from its admission. A registration that waits for a
shuf ends with it (log 18). -/
def execLaunchRetirement (launch : Nat) (s : State) : Host.Outcome State Fault Refusal :=
  .next (match s.launch? launch with
    | none => s
    | some l =>
      if !s.retires launch l then s
      else
        let how := l.ending.getD (0, 0, 0)
        if how.1 = 4 then s
        else
          let s := s.settleLaunch l
          let s := s.writeRecord l.pkg l.queue l.ring l.phase l.record how.1 how.2.1 how.2.2 (s.cyc l.pkg 0 - l.started)
          (s.stopRegs fun b => b.launch == launch).dropLaunch launch)

/-! ### The end of a launch (R464) -/

/-- The deques and brood queues of a launch emptied (R464, R479). -/
def State.emptyCells (s : State) (key : Nat) : State :=
  { s.dropSaved key with
    steals := s.steals.filter fun m => m.launch != key
    vcells := s.vcells.map fun (x : LCell × VCell) =>
      if x.2.launch = key then
        (x.1, { x.2 with deque := [], bhead := x.2.btail, stealing := false, reserved := [], away := [], held := [], isOpen := false })
      else x }

/-- A launch ended: its threads halted, its queues emptied, its engine operations stopped. Its record follows when the engines are
done. -/
def State.endLaunch (s : State) (key : Nat) (l : Launch) (status reason : Nat) (detail : Word) : State :=
  let s := s.setLaunch key { l with toWake := [], ending := some (status, reason, detail) }
  let ks := s.threads.filterMap fun x => if !x.2.nurse && x.2.launch == key then some x.1 else none
  let s := ks.foldl (fun s k => (s.drainRx k).endThread k) s
  (s.emptyCells key).stopEngines fun b => b.launch == key

/-- The supervisor firmware ends a launch (R464) for the first of its traps that R465 does not cover: REASON is the fault code, DETAIL the
trapping thread's TID and the low half of its TEPC. -/
def execLaunchEnd (launch : Nat) (s : State) : Host.Outcome State Fault Refusal :=
  .next (match s.launch? launch with
    | none => s
    | some l => match l.trapped.find? fun x => !s.covered l x, l.ending with
      | some x, none => s.endLaunch launch l 3 x.code (word (fld x.tid 0 32 * 2 ^ 32 + fld x.tepc 0 32))
      | _, _ => s)

/-! ### Function-level reset (R478 to R480) -/

/-- The live launches of a function. -/
def State.fnLaunches (s : State) (pkg vf : Nat) : List (Nat × Launch) := s.launches.filter fun x => x.2.pkg == pkg && x.2.vf == vf

/-- Step 1 for one queue: EN = 0, and a FLUSHED record for every captured launch. -/
def State.flrQueue (s : State) (pkg q : Nat) : State :=
  let s := s.flushQueue pkg q
  let x := (s.pkg pkg).queue q
  s.setQueue pkg q { x with qctl := putFld x.qctl 31 1 0 }

/-- Steps 1 to 3 for one live launch: a RESET record; its threads are halted, with their relaxed stores performed at their homes (step 4) and no
answer kept, its tasks are gone, its engines stop. -/
def State.flrLaunch (s : State) (x : Nat × Launch) : State :=
  let l := x.2
  let s := s.writeRecord l.pkg l.queue l.ring l.phase l.record 4 0 0 (s.cyc l.pkg 0 - l.started)
  let s := s.setLaunch x.1 { l with toWake := [], ending := some (4, 0, 0) }
  let ks := s.threads.filterMap fun y => if !y.2.nurse && y.2.launch == x.1 then some y.1 else none
  ((ks.foldl (fun s k => (s.drainRx k).endThread k) s).emptyCells x.1).stopEngines fun b => b.launch == x.1

/-- A function-level reset begins (R479, steps 1 to 3). -/
def execFunctionLevelReset (pkg vf : Nat) (s : State) : Host.Outcome State Fault Refusal :=
  .next (
    let qs := (s.pkg pkg).queues.filterMap fun x => if x.2.vf = vf ∧ x.2.en then some x.1 else none
    let s := qs.foldl (fun s q => s.flrQueue pkg q) s
    let s := (s.fnLaunches pkg vf).foldl State.flrLaunch s
    if s.flrs.contains ⟨pkg, vf⟩ then s else { s with flrs := s.flrs ++ [⟨pkg, vf⟩] })

/-- Whether a packet tagged with a function is on its way, at a router or on a link. -/
def State.carriesFor (s : State) (vf : Nat) : Bool :=
  (s.packets.any fun p => p.vf == vf) || s.pkgs.any fun x => x.2.ports.any fun q => q.2.unacked.any fun f => match f.2 with
    | .last p => p.vf == vf
    | _ => false

/-- Whether everything that a function sent has been answered (R479, step 4). -/
def State.drained (s : State) (pkg vf : Nat) : Bool :=
  !((s.fnLaunches pkg vf).any fun x => s.engineWork fun b => b.launch == x.1) && !s.carriesFor vf

/-- A worker cell scrubbed (R479, step 5): SRAM zero and empty, lines discarded, registers as R185 has them. A capped cell stays
capped (R474). -/
def State.scrubCell (s : State) (c : PCell) : State :=
  let s := s.clearRange (keyOf (.scratch c) 0) (16 * wayBytes)
  let x := s.cell c
  s.setCell c { x with nscr := 0, waysPending := none, gsz := 0, bank := false, wdesc := wdescDefault, lines := [] }

/-- The entries of a function gone from a list of translations. -/
def dropVf (vf : Nat) (l : List TlbEntry) : List TlbEntry := l.filter fun e => e.vf != vf

/-- A bank that a cell of the given logical cluster bound, unbound and cleared. -/
def Bank.unbind (b : Bank) (pkg die lcl : Nat) : Bank := match b.binding with
  | some y => if y.cell.pkg = pkg ∧ y.cell.die = die ∧ y.cell.lcl = lcl then {} else b
  | none => b

/-- A logical cluster of the function scrubbed (R479, step 5). -/
def State.scrubCluster (s : State) (vf : Nat) (x : Nat × Nat × Nat) : State :=
  match s.physCluster x.1 x.2.1 x.2.2 with
  | none => s
  | some k =>
    let cells := ((s.cluster k).cellMap.toList.filter fun e => e.getLsbD 15).map fun e => (⟨k.pkg, k.die, k.cl, fld e 0 5⟩ : PCell)
    let s := cells.foldl State.scrubCell s
    let s := cells.foldl (fun s c =>
      let y := s.cell c
      s.setCell c { y with itlb := dropVf vf y.itlb, dtlb := dropVf vf y.dtlb }) s
    let y := s.cluster k
    let s := s.setCluster k { y with l2tlb := dropVf vf y.l2tlb }
    let s := s.clearRange (keyOf (.passBuf k) 0) (2 ^ 23)
    s.modOmu k fun o => { o with b0 := o.b0.unbind x.1 x.2.1 x.2.2, b1 := o.b1.unbind x.1 x.2.1 x.2.2 }

/-- The drain of a function is complete (R479, steps 4 to 6): its cells are scrubbed and KIND 0x0F is logged. -/
def execFlrDrainComplete (pkg vf : Nat) (s : State) : Host.Outcome State Fault Refusal :=
  .next (
    if !s.flrs.contains ⟨pkg, vf⟩ || !s.drained pkg vf then s
    else
      let cl := s.fnClusters pkg vf ++ (s.fnLaunches pkg vf).flatMap fun x => x.2.ready.clusters.map clusterEntry
      let s := (s.fnLaunches pkg vf).foldl (fun s x => s.dropLaunch x.1) s
      let s := cl.eraseDups.foldl (fun s c => s.scrubCluster vf c) s
      let s := { s with flrs := s.flrs.filter fun f => f != (⟨pkg, vf⟩ : Flr) }
      s.logEvent pkg 0 0x0F (word vf) (locBits pkg 0 0 0 0) 0)

end Sys2Proof.Machine
end

