-- ==== Sys2Proof/Machine/Remap.lean ====
section
/-! DEFINITION. The quiesce of a logical cluster and the change of its maps (R72, R236, R298, R380, R410, R444), and the restart of a capped cell
(R471 to R474). -/
namespace Sys2Proof.Machine
open Sys2Proof

/-! ### The move (R72, R236, R444) -/

/-- A range of keys that moves. -/
structure Move where
  src : Nat
  len : Nat
  dst : Nat
  deriving DecidableEq, Repr

/-- Where a key goes. -/
def moved (ms : List Move) (key : Nat) : Option Nat :=
  (ms.find? fun m => decide (m.src ≤ key) && decide (key < m.src + m.len)).map fun m => m.dst + (key - m.src)

/-- An entry of a cell map as a place in a physical cluster (R70). -/
def entryPlace (k : ClusterId) (e : BitVec 16) : Option VPlace :=
  if e.getLsbD 15 then some ⟨⟨k.pkg, k.die, k.cl, fld e 0 5⟩, fld e 13 2, fld e 11 2⟩ else none

/-- SCRWAYS of the launch on a logical cell, or what its scratch limit comes to (R85). -/
def State.waysOf (s : State) (c : LCell) (pl : VPlace) : Nat := match s.launchOf c with
  | some (_, l, _) => l.ready.scrways
  | none => s.scratchLimit pl / wayBytes

/-- The logical cells that move, with their old and new places. -/
def State.pairs (s : State) (x : Lcl) (k : ClusterId) (map : List (BitVec 16)) : List (Nat × VPlace × VPlace) :=
  (List.range 32).filterMap fun j => match s.place (x.cell j), (map[j]?).bind (entryPlace k) with
    | some a, some b => some (j, a, b)
    | _, _ => none

/-- Whether the virtual cells of a physical cell move together, as they are: then its ways move with them. -/
def movesWhole (ps : List (Nat × VPlace × VPlace)) (y : Nat × VPlace × VPlace) : Bool :=
  ps.all fun z => z.2.2.cell != y.2.2.cell || (z.2.1.cell == y.2.1.cell && z.2.1.fold == z.2.2.fold && z.2.1.vidx == z.2.2.vidx)

/-- NSCR of a physical cell after the move: what it was, its one cell's ways, or SCRWAYS times its virtual cells (R57, R85). -/
def State.newWays (s : State) (x : Lcl) (ps : List (Nat × VPlace × VPlace)) (y : Nat × VPlace × VPlace) : BitVec 5 :=
  if movesWhole ps y then (s.cell y.2.1.cell).nscr
  else
    let u := if y.2.2.fold = 0 then (s.scratchLimit y.2.1 + wayBytes - 1) / wayBytes else s.waysOf (x.cell y.1) y.2.1
    BitVec.ofNat 5 (min 16 (u * 2 ^ y.2.2.fold))

/-- Whether a logical cell has room at its new place: SCRWAYS × 2^FOLD is at most 16 for the launch on it (R85), and where it comes to share
a physical cell its scratch fits in SCRWAYS ways (DESIGN CHOICE, log 23). -/
def State.hasRoom (s : State) (x : Lcl) (ps : List (Nat × VPlace × VPlace)) (y : Nat × VPlace × VPlace) : Bool :=
  match s.launchOf (x.cell y.1) with
  | none => true
  | some (_, l, _) => movesWhole ps y ||
      (decide (l.ready.scrways * 2 ^ y.2.2.fold ≤ 16) && (y.2.2.fold == 0 || decide (s.scratchLimit y.2.1 ≤ l.ready.scrways * wayBytes)))

/-- The ranges of scratch that move, and the pass buffer where the physical cluster changes. -/
def State.moves (s : State) (x : Lcl) (old new : ClusterId) (ps : List (Nat × VPlace × VPlace)) : List Move :=
  ps.map (fun y =>
    let u := s.waysOf (x.cell y.1) y.2.1 * wayBytes
    ⟨keyOf (.scratch y.2.1.cell) (y.2.1.vidx * u), s.scratchLimit y.2.1, keyOf (.scratch y.2.2.cell) (y.2.2.vidx * u)⟩) ++
  (if old = new then [] else [⟨keyOf (.passBuf old) 0, 2 ^ 23, keyOf (.passBuf new) 0⟩])

/-- Memory, full/empty bits and stored errors moved; what the cells held otherwise is gone. -/
def State.moveMem (s : State) (cells : List PCell) (ms : List Move) : State :=
  let bytes := s.mem.filterMap fun (x : Host.Cell) => (moved ms x.1).map fun k => (k, x.2)
  let fe := s.fe.filterMap (moved ms)
  let poison := s.poison.filterMap (moved ms)
  let s := cells.foldl (fun s c => s.clearRange (keyOf (.scratch c) 0) (16 * wayBytes)) s
  let s := ms.foldl (fun s m => s.clearRange m.src m.len) s
  { s with mem := bytes.foldl (fun m x => writeBytes m x.1 [x.2]) s.mem, fe := fe.foldl addKey s.fe
           poison := poison.foldl addKey s.poison }

/-- A request at a home that has moved: forwarded in place (R236). -/
def HomeReq.forward (ms : List Move) (r : HomeReq) : HomeReq := match moved ms r.key with
  | some k => { r with key := k, home := homeOf k }
  | none => r

/-- A relaxed store on its way to a home that has moved. -/
def RxStore.forward (ms : List Move) (x : RxStore) : RxStore := { x with key := (moved ms x.key).getD x.key }

/-- A thread with its request and its relaxed stores forwarded. -/
def Thread.forward (ms : List Move) (t : Thread) : Thread :=
  { t with req := t.req.map (HomeReq.forward ms), rx := t.rx.map (RxStore.forward ms) }

/-- Requests at homes or on their way, and locks of moved ranges, named anew. -/
def State.forwardHomes (s : State) (ms : List Move) : State :=
  { s with
    parked := s.parked.map fun (p : Parked) => { p with req := p.req.forward ms }
    threads := s.threads.map fun (x : Nat × Thread) => (x.1, x.2.forward ms)
    saved := s.saved.map fun (x : Nat × Thread) => (x.1, x.2.forward ms)
    clusters := s.clusters.map fun (x : ClusterId × Cluster) => (x.1, { x.2 with
      locks := x.2.locks.map fun (l : Lock) => if l.isGlobal then l else { l with lo := (moved ms l.lo).getD l.lo } }) }

/-- The registers of the physical cells after the move: those of the cells that came, with nothing cached. -/
def State.moveRegs (s s0 : State) (x : Lcl) (ps : List (Nat × VPlace × VPlace)) (left : List PCell) : State :=
  let s := left.foldl (fun s c => s.setCell c { capped := (s0.cell c).capped, tvec := (s0.cell c).tvec }) s
  ps.reverse.foldl (fun s y =>
    s.setCell y.2.2.cell { s0.cell y.2.1.cell with
      nscr := s0.newWays x ps y, waysPending := none, lines := [], itlb := [], dtlb := [], capped := (s0.cell y.2.2.cell).capped }) s

/-- A thread at its new cell, with its fault contexts: SEG is the new virtual cell's (R85, R444). -/
def Thread.moveTo (t : Thread) (r : Ready) (pl : VPlace) : Thread :=
  let seg (c : Ctx) : Ctx := { c with seg := word (r.segOf pl) }
  let place : Place := match t.place with
    | .slot _ n => .slot pl.cell n
    | .cache _ b n => .cache pl.cell b n
    | .flying _ n d f => .flying pl.cell n d f
  { t with ctx := seg t.ctx, place := place, fctx := t.fctx.map fun (o : Option FaultCtx) => o.map fun f => { f with ctx := seg f.ctx } }

/-- The threads of a logical cluster at their new cells. -/
def State.moveThreads (s : State) (x : Lcl) (ps : List (Nat × VPlace × VPlace)) : State :=
  (s.threadsOf x).foldl (fun s y => match s.lcellOf y.2, s.launch? y.2.launch with
    | some c, some l => match ps.find? fun p => p.1 == c.c with
      | some p => s.modThread y.1 fun t => t.moveTo l.ready p.2.2
      | none => s
    | _, _ => s) s

/-- The cluster's own tables and its OMU's work at the new physical cluster (R298): the banks are loaded from the moved images there. -/
def State.moveUnits (s : State) (old new : ClusterId) : State :=
  if old = new then s
  else
    let a := s.cluster old
    let s := s.setCluster new { s.cluster new with locks := (s.cluster new).locks ++ a.locks, tlbis := (s.cluster new).tlbis ++ a.tlbis }
    let s := s.setCluster old { a with locks := [], tlbis := [], cellMap := Vector.replicate 32 0 }
    let o := s.omu old
    let s := s.modOmu new fun n => { n with act := o.act, b0 := o.b0, b1 := o.b1, queue := n.queue ++ o.queue }
    s.modOmu old fun o => { o with b0 := {}, b1 := {}, queue := [], state := if o.state = 1 then 0 else o.state }

/-- The maps written (R70, R72). -/
def State.writeMaps (s : State) (x : Lcl) (new : ClusterId) (map : List (BitVec 16)) : State :=
  let d := s.die x.pkg x.die
  let s := s.setDie x.pkg x.die { d with clusterMap := setIdx d.clusterMap x.lcl (BitVec.ofNat 8 (0x80 + new.cl)) }
  let c := s.cluster new
  s.setCluster new { c with cellMap := Vector.ofFn fun (i : Fin 32) => (map.getD i 0) &&& 0xF81F }

/-- Each element of a list once, in order of first appearance. -/
def once (l : List PCell) : List PCell := l.foldl (fun acc c => if acc.contains c then acc else acc ++ [c]) []

/-- Records beyond the deque of a virtual cell, which a grown FOLD has made smaller (R76), moved to its brood queue as a fork would spill them, as
far as that has room and its home takes them (R77; DESIGN CHOICE, log 23). -/
def State.fitDeque (s : State) (x : Lcl) (j : Nat) : State := match (s.launchOf (x.cell j)).bind fun l => (s.seatAt l.1 l.2.2).map fun y => (l.2.2, y) with
  | none => s
  | some (flat, y) =>
    let v := s.vcell y.cell
    let n := min (v.deque.length - y.dequeCap) (y.launch.ready.broodSize - (v.btail - v.bhead))
    if (spillFault s flat y v n).isSome then s else s.spill flat y n

/-- The side information of the registrations of a logical cluster advertised anew (R410). -/
def State.readvertise (s : State) (x : Lcl) : State :=
  ((s.pkg x.pkg).regs.filter fun r => x.has r.by_.cell).foldl (fun s r => (s.unadvertise x.pkg r).advertise x.pkg r.by_.vf r) s

/-- A quiesce of a logical cluster is over. -/
def State.endQuiesce (s : State) (x : Lcl) : State :=
  { s with quiesces := s.quiesces.filter fun q => !(q.pkg == x.pkg && q.die == x.die && q.lcl == x.lcl) }

/-- Steps 1 to 4 of R72 for a logical cluster that is quiet: write-back of every cache way (R380), copies, maps; then the quiesce is over. -/
def State.remap (s : State) (x : Lcl) (old new : ClusterId) (map : List (BitVec 16)) : State :=
  let ps := s.pairs x new map
  let from_ := once (ps.map fun y => y.2.1.cell)
  let into := once (ps.map fun y => y.2.2.cell)
  let s := from_.foldl State.flushAll s
  let ms := s.moves x old new ps
  let s1 := ((s.moveMem (once (from_ ++ into)) ms).forwardHomes ms).moveRegs s x ps (from_.filter fun c => !into.contains c)
  let s := (((s1.moveThreads x ps).moveUnits old new).writeMaps x new map).endQuiesce x
  into.foldl State.spillAll (((List.range 32).foldl (fun s j => s.fitDeque x j) s).readvertise x)

/-! ### Maps that fit -/

/-- Whether a cell map can take the place of one in force (R70, R85): every present cell stays present and has room, FOLD and VIDX agree, no two
cells have one place, and no target is capped. -/
def State.mapOk (s : State) (x : Lcl) (k : ClusterId) (map : List (BitVec 16)) : Bool :=
  let es := map.filter fun e => e.getLsbD 15
  map.length == 32 && ((List.range 32).all fun j => (s.place (x.cell j)).isNone || ((map.getD j 0).getLsbD 15)) &&
    (es.all fun e => decide (fld e 13 2 < 3) && decide (fld e 11 2 < 2 ^ fld e 13 2) && !(s.cell ⟨k.pkg, k.die, k.cl, fld e 0 5⟩).capped &&
      (es.all fun e' => fld e' 0 5 != fld e 0 5 || fld e' 13 2 == fld e 13 2)) &&
    decide ((es.map fun e => (fld e 0 5, fld e 11 2)).Nodup) && (s.pairs x k map).all (s.hasRoom x (s.pairs x k map))

/-- Whether a physical cluster is free for a logical cluster: no other one is mapped to it. -/
def State.canHost (s : State) (x : Lcl) (k : ClusterId) : Bool :=
  decide (k.cl < 8) && (List.range 8).all fun l => l == x.lcl || s.physCluster x.pkg x.die l != some k

/-! ### CELL_RESTART (R473) -/

/-- The logical cluster that a physical cluster serves. -/
def State.lclOf (s : State) (k : ClusterId) : Option Lcl :=
  ((List.range 8).find? fun l => s.physCluster k.pkg k.die l == some k).map fun l => ⟨k.pkg, k.die, l⟩

/-- The logical cells of a cell map on a physical cell. -/
def cellsOn (map : List (BitVec 16)) (n : Nat) : List Nat :=
  (List.range 32).filter fun j => (map.getD j 0).getLsbD 15 && fld (map.getD j 0) 0 5 == n

/-- A cell-map entry. -/
def mapEntry (n fold vidx : Nat) : BitVec 16 := BitVec.ofNat 16 (2 ^ 15 + fold * 2 ^ 13 + vidx * 2 ^ 11 + n)

/-- A spare cell of a cluster: listed by the configuration image, named by no entry, and not capped. -/
def State.spareIn (s : State) (k : ClusterId) (map : List (BitVec 16)) : Option Nat :=
  (List.range 32).find? fun n =>
    (s.pkg k.pkg).spares.contains ⟨k.pkg, k.die, k.cl, n⟩ && (cellsOn map n).isEmpty && !(s.cell ⟨k.pkg, k.die, k.cl, n⟩).capped

/-- A map with one more logical cell on a sibling whose FOLD grows (R85), at the next VIDX; none where it cannot grow (R473). -/
def State.growOn (s : State) (x : Lcl) (k : ClusterId) (map : List (BitVec 16)) (j n : Nat) : Option (List (BitVec 16)) :=
  let here := cellsOn map n
  match here.head? with
  | none => none
  | some i =>
    let fold := fld (map.getD i 0) 13 2 + 1
    let regrow (l : List (BitVec 16)) (i : Nat) : List (BitVec 16) := l.set i (mapEntry n fold (fld (map.getD i 0) 11 2))
    let new := (here.foldl regrow map).set j (mapEntry n fold here.length)
    let ps := s.pairs x k new
    if (s.cell ⟨k.pkg, k.die, k.cl, n⟩).capped || decide (2 < fold) || !ps.all (s.hasRoom x ps) then none else some new

/-- A map with the logical cells of a capped cell at their target (R473 step 2): a spare takes them as they are; otherwise each goes to the
lowest sibling whose FOLD can grow. -/
def State.retarget (s : State) (x : Lcl) (k : ClusterId) (map : List (BitVec 16)) (n : Nat) : Option (List (BitVec 16)) :=
  let js := cellsOn map n
  match s.spareIn k map with
  | some t => some (js.foldl (fun l j => l.set j (mapEntry t (fld (map.getD j 0) 13 2) (fld (map.getD j 0) 11 2))) map)
  | none => js.foldl (fun acc j => acc.bind fun l => (List.range 32).findSome? fun i => if i = n then none else s.growOn x k l j i) (some map)

/-- The threads of a restarted cell: held vector commands run, and each is resumable unless it was suspended (R472, R473). -/
def State.unseal (s : State) (x : Lcl) (js : List Nat) : State :=
  (s.threadsOf x).foldl (fun s y =>
    if ((s.lcellOf y.2).map fun c => js.contains c.c).getD false then
      (s.drainV y.1).modThread y.1 fun t => match t.place, t.gang with
        | .cache c _ n, .none | .cache c _ n, .leader _ => { t with place := .cache c (t.run != .suspended) n }
        | _, _ => t
    else s) s

/-- Where no target exists, the nurse ends the launch (R473): REASON 0x10, TID 0. -/
def State.endHomeless (s : State) (x : Lcl) (js : List Nat) : State := match js.findSome? fun j => s.launchOf (x.cell j) with
  | some (key, l, _) => if l.ending.isSome then s else s.endLaunch key l 3 fUncorrectable 0
  | none => s

/-- The capped cells of a cluster that still serve logical cells, in ascending number (R474). -/
def State.cappedOn (s : State) (k : ClusterId) (map : List (BitVec 16)) : List Nat :=
  (List.range 32).filter fun n => (s.cell ⟨k.pkg, k.die, k.cl, n⟩).capped && !(cellsOn map n).isEmpty

/-- The logical cells of a capped cell at their new places (R473 steps 4 and 5): KIND 0x04 for each, and their threads go on. -/
def State.restarted (s : State) (x : Lcl) (k : ClusterId) (n : Nat) (js : List Nat) (new : List (BitVec 16)) : State :=
  (js.foldl (fun s j =>
    let e := new.getD j 0
    let s := s.logEvent k.pkg k.die 0x04 (word (fld e 0 5 * 2 ^ 16 + fld e 13 2 * 2 ^ 12)) (locBits k.pkg k.die k.cl n 0) 0
    s.setVcell (x.cell j) { s.vcell (x.cell j) with restarted := some s.clock }) s).unseal x js

/-- The logical cells of one capped cell restarted in a cluster that is quiet (R473 steps 2 to 5). -/
def State.restartCell (s : State) (x : Lcl) (k : ClusterId) (n : Nat) : State :=
  let map := (s.cluster k).cellMap.toList
  let js := cellsOn map n
  match s.retarget x k map n with
  | none => s.endHomeless x js
  | some new => (s.remap x k k new).restarted x k n js new

/-- Every capped cell of a quiet cluster restarted, in ascending number (R474). -/
def State.restartAll (s : State) (x : Lcl) (k : ClusterId) : State :=
  ((s.cappedOn k (s.cluster k).cellMap.toList).foldl (fun s n => s.restartCell x k n) s).endQuiesce x

/-- New maps for a quiet cluster, which leave no logical cell on a capped cell: those that were on one are restarted by it (R474). -/
def State.remapAll (s : State) (x : Lcl) (k new : ClusterId) (map : List (BitVec 16)) : State :=
  let old := (s.cluster k).cellMap.toList
  (s.cappedOn k old).foldl (fun s n => s.restarted x k n (cellsOn old n) map) (s.remap x k new map)

/-! ### Quiesces (R72, R440) -/

/-- What the quiesce that is under way in a logical cluster is for. -/
def State.goalOf (s : State) (x : Lcl) : Option QuiesceGoal :=
  (s.quiesces.find? fun q => q.pkg == x.pkg && q.die == x.die && q.lcl == x.lcl).map Quiesce.goal

/-- A quiesce raised: until it is over, each thread is taken by a forced save as soon as R440 allows. -/
def State.quiesce (s : State) (x : Lcl) (g : QuiesceGoal) : State :=
  if (s.goalOf x).isSome then s else { s with quiesces := s.quiesces ++ [⟨x.pkg, x.die, x.lcl, g⟩] }

/-- Whether the goal of a quiesce can be reached: maps that fit, or a capped cell to restart. -/
def State.reachable (s : State) (x : Lcl) (k : ClusterId) : QuiesceGoal → Bool
  | .maps target map => s.canHost x ⟨x.pkg, x.die, target⟩ && s.mapOk x ⟨x.pkg, x.die, target⟩ map
  | .restart => !(s.cappedOn k (s.cluster k).cellMap.toList).isEmpty

/-- A quiesce whose goal is reached, or is given up for its other one. -/
def State.reach (s : State) (x : Lcl) (k : ClusterId) : QuiesceGoal → State
  | .maps target map => s.remapAll x k ⟨x.pkg, x.die, target⟩ map
  | .restart => s.restartAll x k

/-- A quiesce raised or carried on: its goal is reached once the cluster is quiet. One whose maps no longer fit restarts the capped cells that
there are (R474), and one that has nothing to restart is given up (log 23). -/
def State.carryOn (s : State) (x : Lcl) (g : QuiesceGoal) : State := match s.physCluster x.pkg x.die x.lcl with
  | none => s.endQuiesce x
  | some k =>
    let g := if s.reachable x k g then g else .restart
    if !s.reachable x k g then s.endQuiesce x
    else if !s.quiet x k then s.quiesce x g
    else s.reach x k g

/-- The nurse quiesces a logical cluster and writes its maps (R72); where a quiesce is under way there, it is carried on. -/
def execClusterQuiesce (pkg die lcl target : Nat) (cellMap : List (BitVec 16)) (s : State) : Host.Outcome State Fault Refusal :=
  .next (let x : Lcl := ⟨pkg, die, lcl⟩
    s.carryOn x ((s.goalOf x).getD (.maps target cellMap)))

/-- The restart of the logical cells of a capped cell (R473), with those of every other capped cell of its cluster; it joins a quiesce that is
under way (R474). -/
def execCellRestart (cell : PCell) (s : State) : Host.Outcome State Fault Refusal :=
  .next (let k := clusterOf cell
    match s.lclOf k with
    | none => s
    | some x =>
      if (s.cappedOn k (s.cluster k).cellMap.toList).contains cell.cell then s.carryOn x ((s.goalOf x).getD .restart) else s)

end Sys2Proof.Machine
end

