-- ==== Sys2Proof/Machine/Boot.lean ====
section
/-! DEFINITION. Start-up, attestation, management and reset of a package (R39 to R43, R64, R65, R392). -/
namespace Sys2Proof.Machine
open Sys2Proof

/-! ### Measurements (R42) -/

/-- The 64 bytes of a measurement register. -/
def measBytes (m : BitVec 512) : List Byte := leOf 64 m.toNat

/-- A measurement register extended with a digest: SHAKE256 of both, 512 bits. -/
def Package.extend (p : Package) (n : Nat) (digest : List Byte) : Package :=
  { p with meas := setIdx p.meas n (BitVec.ofNat 512 (leVal (shake256 (measBytes (p.meas.toList.getD n 0) ++ digest) 64))) }

/-- The digest of an image as a measurement takes it (log 14). -/
def digestOf (bs : List Byte) : List Byte := shake256 bs 64

/-- The supervisor firmware extends one of MEAS3 to MEAS15 (R42). -/
def execMeasurementExtend (pkg : Nat) (n : BitVec 4) (digest : List Byte) (s : State) : Host.Outcome State Fault Refusal :=
  .next (if (s.pkg pkg).boot = 0x00FF ∧ 3 ≤ n.toNat then s.modPkg pkg fun p => p.extend n.toNat digest else s)

/-! ### The stages of start-up (R39) -/

/-- A start-up that goes on or ends in recovery: the failing stage (R40). -/
abbrev Stage := Except (Nat × State) State

/-- Whether an image's signature verifies and its SVN is not barred (R39 stage 2). -/
def Flash.accepts (f : Flash) (i : ConfigImage) : Bool := Config.xmssValid i.body i.sig && decide (f.rollback ≤ i.svn)

/-- The usable slots in the order in which start-up tries them: the higher SVN first, slot A on a tie. The flag marks slot B. -/
def Flash.slots (f : Flash) : List (Bool × ConfigImage) :=
  let a := (f.slotA.filter ConfigImage.usable).toList.map fun i => (false, i)
  let b := (f.slotB.filter ConfigImage.usable).toList.map fun i => (true, i)
  match a, b with
  | [x], [y] => if y.2.svn ≤ x.2.svn then [x, y] else [y, x]
  | _, _ => a ++ b

/-- Stages 1 and 2: an image selected and verified. -/
def Flash.select (f : Flash) : Except Nat (Bool × ConfigImage) := match f.slots with
  | [] => .error 1
  | l => match l.find? fun x => f.accepts x.2 with
    | some x => .ok x
    | none => .error 2

/-- The clusters of a package. -/
def clustersOf (k : Nat) : List ClusterId :=
  (List.range 4).flatMap fun d => (List.range 8).map fun c => ⟨k, d, c⟩

/-- A route-bank entry without its reserved bits (R11, R392). -/
def routeMask (e : BitVec 16) : BitVec 16 := e &&& 0x3F3F

/-- Stage 3: the measurement, and the repair maps, cell maps, cluster maps and route banks of the image. A mesh on its spare port pair has the
same contract (R284), so that only USPR and VSPR show it (R336); trims set no state that the spec names. -/
def State.applyImage (s : State) (k : Nat) (x : Bool × ConfigImage) : State :=
  let i := x.2
  let s := s.modPkg k fun p => { (p.extend 0 (digestOf i.body)) with
    flash := { p.flash with fromB := x.1 }, spares := i.spares.filter fun c => c.pkg == k, routes0 := i.routes.map fun r => (r.1, routeMask r.2), routes1 := i.routes.map fun r => (r.1, routeMask r.2) }
  let s := (List.range 4).foldl (fun s d =>
    let y := s.die k d
    s.setDie k d { y with clusterMap := Vector.ofFn fun (n : Fin 8) => (i.clusterMap.getD (8 * d + n) 0) &&& 0x87 }) s
  let s := (i.cellMap.filter fun m => m.1.pkg == k).foldl (fun s m =>
    let y := s.cluster m.1
    s.setCluster m.1 { y with cellMap := Vector.ofFn fun (n : Fin 32) => (m.2.getD n 0) &&& 0xF81F }) s
  (i.meshSpares.filter fun m => m.1.pkg == k).foldl (fun s m => s.modOmu m.1 fun o => { o with uspr := m.2.1, vspr := m.2.2 }) s

/-- What the comb lines carry after stage 4 (R5): the image's carriers, then the 16 fabric wavelengths, then spares, over the lines of the
rings that locked, 16 to a cartridge. -/
def lineUses (k : Nat) (i : ConfigImage) (locked : List Bool) : List (Nat × LineUse) :=
  let carriers := (i.lines.filter fun x => x.1.pkg == k).map fun x => (x.2.toNat, LineUse.carrier x.1)
  let rest := (List.range 64).filter fun n => !carriers.any fun x => x.1 == n
  let waves := (rest.take 16).zipIdx.map fun x => (x.1, LineUse.wave x.2)
  let spares := (rest.drop 16).map fun n => (n, LineUse.spare)
  (List.range 64).map fun n => (n, if locked.getD (n / 16) false then lookD LineUse.spare n (carriers ++ waves ++ spares) else .lost)

/-- Stage 4: the cartridges started, their rings locked, the lines assigned; it fails where no ring locks. -/
def State.startComb (s : State) (k : Nat) (i : ConfigImage) (w : BootWorld) : Stage :=
  let locked := (List.range 4).map fun c => w.cartridges.getD c false && w.rings.getD c false
  if !locked.any id then .error (4, s)
  else
    let s := s.modPkg k fun p => { p with carts := Vector.ofFn fun (n : Fin 4) => locked.getD n false, lines := lineUses k i locked }
    .ok ((clustersOf k).foldl (fun s c => s.modOmu c fun o =>
      let line := lookD 0 c i.lines
      { o with carr := line, carrLost := !locked.getD (line.toNat / 16) false }) s)

/-- The start-up scrub of the slices and the HBM of a package (R191): zeros, full, no stored error. -/
def State.startScrub (s : State) (k : Nat) : State :=
  let out (key : Nat) : Bool := match keySpace key with
    | .slice p _ | .hbm p _ => p != k
    | _ => true
  { s with mem := s.mem.filter fun (x : Host.Cell) => out x.1, fe := s.fe.filter out, poison := s.poison.filter out }

/-- A pseudo-channel of a stack retired. -/
def Package.retire (p : Package) (stack chan : Nat) : Package :=
  let y := p.stack stack
  if y.retired.contains chan then p else { p with hbms := putAt stack { y with retired := y.retired ++ [chan] } p.hbms }

/-- Stage 5: the stacks trained; failing and listed pseudo-channels retired. -/
def State.trainHbm (s : State) (k : Nat) (i : ConfigImage) (w : BootWorld) : State :=
  (s.startScrub k).modPkg k fun p => (i.retired ++ w.hbmFailed).foldl (fun p x => p.retire x.1 x.2) p

/-- A nurse's thread as the boot ROM starts it (R2, R431): at supervisor privilege, at an address the spec does not state. -/
def State.startNurse (s : State) (c : ClusterId) : State :=
  let x := s.fresh
  let s := { x.2 with free := x.2.free + 1 }
  s.setThread x.1 { ctx := { pc := word (Config.freeValue s.free), tstat := putFld (0 : Word) bitPriv 1 1, wlim := 256 }
                    place := .slot ⟨c.pkg, c.die, c.cl, 32⟩ 0, nurse := true }

/-- Stage 6: the firmware verified and measured, the 32 nurses started. -/
def State.startFirmware (s : State) (k : Nat) (w : BootWorld) : Stage :=
  if !Config.xmssValid w.firmware w.firmwareSig then .error (6, s)
  else .ok ((clustersOf k).foldl State.startNurse (s.modPkg k fun p => p.extend 1 (digestOf w.firmware)))

/-- Stage 7: each OMU that its nurse calibrates is available. -/
def State.calibrateAll (s : State) (k : Nat) (w : BootWorld) : State :=
  (clustersOf k).foldl (fun s c => match look? c w.calibrated with
    | some x => if (s.omu c).carrLost then s else s.modOmu c fun o => o.calibrated x
    | none => s) s

/-- Stage 8: the link trained, the adapter's firmware measured; the start-up is complete. -/
def State.trainLink (s : State) (k : Nat) (w : BootWorld) : Stage :=
  if !w.linkTrains then .error (8, s) else .ok (s.modPkg k fun p => { p.extend 2 w.adapterDigest with boot := 0x00FF })

/-- The stages after an image has been selected. -/
def State.stages (s : State) (k : Nat) (x : Bool × ConfigImage) (w : BootWorld) : Stage := do
  let s := s.applyImage k x
  if !w.applied then .error (3, s)
  let s ← s.startComb k x.2 w
  let s ← (s.trainHbm k x.2 w).startFirmware k w
  (s.calibrateAll k w).trainLink k w

/-- Recovery (R40): the stage and a failure code that the spec leaves open are reported; no cell runs. -/
def State.recover (s : State) (k stage : Nat) : State :=
  let s := { s with threads := s.threads.filter fun x => x.2.pcell.pkg != k, free := s.free + 1 }
  s.modPkg k fun p => { p with boot := BitVec.ofNat 16 (stage + Config.freeValue s.free % 256 * 256) }

/-- Power-on start-up of a package (R39, R40). -/
def execPowerOnBoot (pkg : Nat) (world : BootWorld) (s : State) : Host.Outcome State Fault Refusal :=
  .next (if (s.pkg pkg).boot ≠ 0 then s
    else match (s.pkg pkg).flash.select with
      | .error n => s.recover pkg n
      | .ok x => match s.stages pkg x world with
        | .error e => e.2.recover pkg e.1
        | .ok s => s)

/-- The anti-rollback counter advanced to the SVN of the image that booted (R41). -/
def execAntiRollbackAdvance (pkg : Nat) (s : State) : Host.Outcome State Fault Refusal :=
  .next (if (s.pkg pkg).boot = 0x00FF then s.modPkg pkg fun p =>
      let i := if p.flash.fromB then p.flash.slotB else p.flash.slotA
      { p with flash := { p.flash with rollback := max p.flash.rollback ((i.map ConfigImage.svn).getD 0) } }
    else s)

/-! ### The management controller (R43, R64, R65) -/

/-- An answer of the management controller. -/
def Package.answer (p : Package) (bs : List Byte) : Package := { p with answers := p.answers ++ [bs] }

/-- The measurements signed with the next leaf, which is persisted first (R43). -/
def execGetMeasurements (pkg : Nat) (nonce : List Byte) (s : State) : Host.Outcome State Fault Refusal :=
  .next (s.modPkg pkg fun p =>
    let body := p.meas.toList.flatMap measBytes ++ nonce
    { p with flash := { p.flash with leaf := p.flash.leaf + 1 } }.answer
      (Config.answerBytes [p.flash.leaf] (body ++ Config.xmssSign body p.flash.leaf)))

/-- The repairs that a package has made in service, as values for the management controller to report (R476): capped cells, the lines and spare
port pairs of its OMUs, retired pseudo-channels, ports that have lost lanes with those left, and packages drained from its route banks. -/
def State.repairs (s : State) (k : Nat) : List (List Nat) :=
  let p := s.pkg k
  [ (s.cells.filter fun x => x.1.pkg == k && x.2.capped).map fun x => (x.1.die * 8 + x.1.cl) * 64 + x.1.cell,
    (s.omus.filter fun x => x.1.pkg == k).map fun x =>
      ((x.1.die * 8 + x.1.cl) * 64 + x.2.carr.toNat) * 4 + 2 * bit x.2.uspr + bit x.2.vspr,
    p.hbms.flatMap fun x => x.2.retired.map fun c => x.1 * 256 + c,
    (p.ports.filter fun x => x.2.lanes != 0xFFFF).map fun x => x.1 * 2 ^ 16 + x.2.lanes.toNat,
    (List.range 512).filter fun d => d != k && fld (p.route k false d) 0 6 == 63 && fld (p.route k true d) 0 6 == 63 ]

/-- PLDM monitoring (R64, R476): the readings, cartridge health and the repairs made in service. -/
def execPldmMonitoring (pkg : Nat) (readings : List Nat) (s : State) : Host.Outcome State Fault Refusal :=
  .next (s.modPkg pkg fun p =>
    p.answer (Config.answerBytes (readings ++ p.carts.toList.map bit ++ (s.repairs pkg).flatMap fun l => l.length :: l) []))

/-- A firmware update writes the inactive slot (R64): the one that the package did not boot from. Where none has booted, that is the other one
than the last image that was applied came from, and slot B where none was (DESIGN CHOICE, log 92). -/
def execPldmFirmwareUpdate (pkg : Nat) (image : ConfigImage) (s : State) : Host.Outcome State Fault Refusal :=
  .next (s.modPkg pkg fun p =>
    { p with flash := if p.flash.fromB then { p.flash with slotA := some image } else { p.flash with slotB := some image } })

/-- The power cap set over PLDM, 800 W to 2,000 W (R65). -/
def execPowerCapSet (pkg watts : Nat) (s : State) : Host.Outcome State Fault Refusal :=
  .next (if 800 ≤ watts ∧ watts ≤ 2000 then s.modPkg pkg fun p => { p with cap := watts } else s)

/-- A die begins or ends to withhold issue turns (R65). -/
def execThermalThrottle (pkg die : Nat) (on : Bool) (s : State) : Host.Outcome State Fault Refusal :=
  .next (s.setDie pkg die { s.die pkg die with throttled := on })

/-- A registration ended with a POISONED completion, unless it has completed already (R65, R404). -/
def State.poisonReg (s : State) (k : Nat) (r : Registration) : State :=
  let s := if r.complete then s else s.deliverEntry .copy r.by_ (entryBits r.by_.opr.ticket 7 false 0 r.missed) 0 0
  s.endReg k r

/-- The engine work of a die in flight ended with POISONED completions (R65, R253). -/
def State.poisonEngines (s : State) (pkg die : Nat) : State :=
  let on (c : ClusterId) : Bool := c.pkg == pkg && c.die == die
  let s := (s.clusters.filter fun x => on x.1).foldl (fun s x => x.2.copies.foldl (fun s j => s.endCopy x.1 j 7 0 0) s) s
  let s := (s.omus.filter fun x => on x.1).foldl (fun s x =>
    let s := x.2.passes.foldl (fun s p => s.endPass x.1 { p with status := 7, rsn := 0, fcode := 0 }) s
    let s := x.2.queue.foldl (fun s e => match e.post with
      | .pass r => s.endPass x.1 (e.ended r 7 0 0 0)
      | .probe dir _ => s.endProbes e 7 dir 0
      | .swap => s) s
    let s := s.modOmu x.1 fun o => { o with queue := [], stream := [], state := if o.state = 1 then 0 else o.state }
    match x.2.load with
    | some l =>
      let s := ((s.dropLocks l.key).dropLocks (l.key + 1)).modOmu x.1 fun o => { o with load := none }
      s.deliverEntry .load l.by_ (entryBits l.by_.opr.ticket 7 l.bank 0 0) 0 0
    | none => s) s
  let s := (s.fops.filter fun f => f.by_.cell.pkg == pkg && f.by_.cell.die == die).foldl (fun s f => s.endFop { f with poisoned := true }) s
  ((s.pkg pkg).regs.filter fun r => r.by_.cell.die == die).foldl (fun s r => s.poisonReg pkg r) s

/-- Thermal shutdown at 105 °C (R65): issue stops, engine work ends POISONED, and the package reports. -/
def execThermalShutdown (pkg die : Nat) (s : State) : Host.Outcome State Fault Refusal :=
  .next (let s := (s.setDie pkg die { s.die pkg die with shut := true }).poisonEngines pkg die
    s.modPkg pkg fun p => p.answer (Config.answerBytes [die] []))

/-! ### Package reset and loss of power (R42, R43, R285, R392) -/

/-- Launches of a package gone without a record, with their threads on every package. -/
def State.dropLaunches (s : State) (k : Nat) : State :=
  (s.launches.filter fun x => x.2.pkg == k).foldl (fun s x => (s.endLaunch x.1 x.2 0 0 0).dropLaunch x.1) s

/-- The package of the home at which a request is parked. -/
def Home.pkg : Home → Nat
  | .cell c => c.pkg
  | .slice p _ _ => p

/-- A package in its reset state: its units, queues, threads, packets and operations are gone, its counters start again, each die's
after a free number of dclk, since no two are aligned (R4, log 5), its flash stays, and its route banks are those of the configuration image
(R392). -/
def State.wipe (s : State) (k : Nat) : State :=
  let s := s.dropLaunches k
  let s := s.unpark fun p => p.req.home.pkg == k || ((s.thread? p.thread).map fun t => t.pcell.pkg == k).getD false
  let f := (s.pkg k).flash
  let img := (if f.fromB then f.slotB else f.slotA).map fun i => i.routes.map fun r => (r.1, routeMask r.2)
  { s with
    threads := s.threads.filter fun x => x.2.pcell.pkg != k
    cells := s.cells.filter fun x => x.1.pkg != k
    vcells := s.vcells.filter fun x => x.1.pkg != k
    clusters := s.clusters.filter fun x => x.1.pkg != k
    omus := s.omus.filter fun x => x.1.pkg != k
    dies := s.dies.filter (fun x => x.1.1 != k) ++ (List.range 4).map fun d =>
      ((k, d), ({ since := s.clock + Config.freeValue (s.free + d) } : Die))
    free := s.free + 4
    pkgs := putAt k { flash := f, routes0 := img.getD [], routes1 := img.getD [] } s.pkgs
    packets := s.packets.filter fun p => p.at_ != k
    fops := s.fops.filter fun o => o.by_.cell.pkg != k
    counts := s.counts.filter fun x => (unitPlace x.1).1 != k
    flrs := s.flrs.filter fun x => x.pkg != k, quiesces := s.quiesces.filter fun q => q.pkg != k }

/-- Package reset (R42, R285, R392); start-up follows. -/
def execPackageReset (pkg : Nat) (s : State) : Host.Outcome State Fault Refusal := .next (s.wipe pkg)

/-- The memory of a package that power loss empties: all but the host's. -/
def volatileAt (k key : Nat) : Bool := match keySpace key with
  | .scratch c => c.pkg == k
  | .passBuf c => c.pkg == k
  | .slice p _ | .hbm p _ | .dom p => p == k
  | .host _ => false

/-- Loss of package power (R43): everything but the flash is lost. -/
def execPowerLoss (pkg : Nat) (s : State) : Host.Outcome State Fault Refusal :=
  .next (let s := s.wipe pkg
    { s with mem := s.mem.filter fun (x : Host.Cell) => !volatileAt pkg x.1, fe := s.fe.filter fun x => !volatileAt pkg x
             poison := s.poison.filter fun x => !volatileAt pkg x })

end Sys2Proof.Machine
end

