-- ==== Sys2Proof/Machine/Repair.lean ====
section
/-! DEFINITION. Fault windows, corrected errors in HBM, and repair in service (R192, R469, R470, R475 to R477, R315). -/
namespace Sys2Proof.Machine
open Sys2Proof

/-! ### Fault windows (R470, R475) -/

/-- A window boundary of a die: the counts of its units, and the filters, tables and repeat counts of its stacks, return to zero. -/
def execFaultWindowBoundary (pkg die : Nat) (s : State) : Host.Outcome State Fault Refusal := .next (s.inWindow pkg die)

/-! ### Corrected errors (R475) -/

/-- A hash of a row address. -/
def rowHash (ra : BitVec 32) (m : BitVec 32) : Nat := fld (ra * m) 16 16

/-- The three hashes of a row address. -/
def rowHashes (ra : BitVec 32) : List Nat := [rowHash ra 0x9E3779B1, rowHash ra 0x85EBCA77, rowHash ra 0xC2B2AE3D]

/-- The place of the entry of lowest count in a bank's table, the lowest index on a tie; a table of fewer than four entries has an empty
one. -/
def lowestEntry (l : List (Nat × Nat)) : Nat :=
  if l.length < 4 then l.length
  else
    let m := (l.map Prod.snd).foldl min ((l.head?.map Prod.snd).getD 0)
    (l.findIdx? fun x => x.2 == m).getD 0

/-- A bank's table after a repeated row, with the row's count. -/
def rowTable (l : List (Nat × Nat)) (ra : Nat) : Nat × List (Nat × Nat) :=
  match l.find? fun x => x.1 == ra with
  | some x => (x.2 + 1, l.map fun (y : Nat × Nat) => if y.1 = ra then (ra, y.2 + 1) else y)
  | none =>
    let i := lowestEntry l
    (1, if i < l.length then l.set i (ra, 1) else l ++ [(ra, 1)])

/-- A corrected error of a row (R475): a first one sets the filter and is logged as 0x05; a repeated one is counted in its bank, and a row
that reaches four is logged as 0x06. The error counts in the window that the stack's die is in. -/
def execCorrectedError (pkg stack : Nat) (ra : BitVec 32) (s : State) : Host.Outcome State Fault Refusal :=
  .next (
    let s := s.inWindow pkg (stack / 2)
    let y := (s.pkg pkg).stack stack
    let put (y : Stack) (s : State) : State := s.modPkg pkg fun p => { p with hbms := putAt stack y p.hbms }
    let die := stack / 2
    let loc := locBits pkg die 0 0 stack
    let n := s.countOf (.channel pkg stack (fld ra 24 8))
    let hs := rowHashes ra
    if hs.all fun h => y.filter.contains h then
      let bank := fld ra 19 13
      let r := lookD 0 bank y.repeats + 1
      let t := rowTable (lookD [] bank y.table) ra.toNat
      let s := put { y with repeats := putAt bank r y.repeats, table := putAt bank t.2 y.table } s
      if t.1 = 4 then s.logEvent pkg die 0x06 (word (r % 2 ^ 16 * 2 ^ 32 + ra.toNat)) loc n else s
    else
      (put { y with filter := hs.foldl (fun l h => if l.contains h then l else l ++ [h]) y.filter } s).logEvent pkg die 0x05
        (ra.zeroExtend 64) loc n)

/-- Whether nothing reads or writes the pages of a package's stacks (R192): none of its threads is in a slot, and no engine works for one. -/
def State.pagesQuiet (s : State) (pkg : Nat) : Bool :=
  !(s.threads.any fun x => !x.2.nurse && (match x.2.place with
    | .slot c _ => c.pkg == pkg
    | _ => false)) && !s.engineWork fun b => b.cell.pkg == pkg

/-- A pseudo-channel retired, only while its stack is quiesced (R192): KIND 0x07. The bytes of the stack's pages keep their addresses. -/
def execPseudoChannelRetirement (pkg stack chan : Nat) (s : State) : Host.Outcome State Fault Refusal :=
  .next (if decide (192 ≤ chan) || ((s.pkg pkg).stack stack).retired.contains chan || !s.pagesQuiet pkg then s
    else
      let s := (s.inWindow pkg (stack / 2)).modPkg pkg fun p => p.retire stack chan
      s.logEvent pkg (stack / 2) 0x07 (word chan) (locBits pkg (stack / 2) 0 0 chan) (s.countOf (.channel pkg stack chan)))

/-! ### Pump cartridges (R315, R415, R477) -/

/-- The comb lines that a cartridge pumps. -/
def linesOf (cart : Nat) : List Nat := (List.range 16).map fun i => 16 * cart + i

/-- A comb line lost: the OMU or the lanes that it carried lose it. -/
def State.loseLine (s : State) (k n : Nat) : State :=
  let use := lookD LineUse.lost n (s.pkg k).lines
  let s := s.modPkg k fun p => { p with lines := putAt n .lost p.lines }
  match use with
  | .carrier c => s.dropCarrier c
  | .wave w => (List.range 32).foldl (fun s q => s.dropLanes k q (1#16 <<< w)) s
  | _ => s

/-- Every line of a cartridge lost. -/
def State.loseCartridge (s : State) (k cart : Nat) : State := (linesOf cart).foldl (fun s n => s.loseLine k n) s

/-- A cartridge's place in the package. -/
def State.setCart (s : State) (k cart : Nat) (on : Bool) : State := s.modPkg k fun p => { p with carts := setIdx p.carts cart on }

/-- A pump cartridge fails in service (R315): KIND 0x0D. -/
def execPumpCartridgeLost (pkg cart : Nat) (s : State) : Host.Outcome State Fault Refusal :=
  .next (if !((s.pkg pkg).carts.toList.getD cart false) then s
    else ((s.setCart pkg cart false).loseCartridge pkg cart).logEvent pkg 0 0x0D (word cart) (locBits pkg 0 0 0 0) 0)

/-- A cartridge released by a PLDM command (R477): its lines are lost, what they carried moves to spares, then its power is removed. -/
def execCartridgeRelease (pkg cart : Nat) (s : State) : Host.Outcome State Fault Refusal :=
  .next (if !((s.pkg pkg).carts.toList.getD cart false) then s
    else
      let uses := (linesOf cart).map fun n => lookD LineUse.lost n (s.pkg pkg).lines
      let s := s.loseCartridge pkg cart
      let s := uses.foldl (fun s u => match u with
        | .carrier c => s.spareCarrier c
        | .wave w => s.modPkg pkg fun p => p.giveWave w
        | _ => s) s
      s.setCart pkg cart false)

/-- A new cartridge's ring locks (R477): its lines return as spares, KIND 0x0E. -/
def execCartridgeInsertion (pkg cart : Nat) (s : State) : Host.Outcome State Fault Refusal :=
  .next (if 4 ≤ cart ∨ (s.pkg pkg).carts.toList.getD cart false then s
    else
      let s := (s.setCart pkg cart true).modPkg pkg fun p =>
        { p with lines := (linesOf cart).foldl (fun l n => putAt n (if lookD LineUse.lost n l = .lost then .spare else lookD .lost n l) l) p.lines }
      s.logEvent pkg 0 0x0E (word cart) (locBits pkg 0 0 0 0) 0)

end Sys2Proof.Machine
end

