-- ==== Sys2Proof/Machine/Due.lean ====
section
/-! DEFINITION. The events that can happen now without a cause outside the device (log 1): timers that have run out, requests and packets
that can move, launches, tasks and engines that can go on. -/
namespace Sys2Proof.Machine
open Sys2Proof

/-- A list of one event where a condition holds. -/
def when_ (b : Bool) (i : Instr) : List Instr := if b then [i] else []

/-! ### Threads and homes -/

/-- The event by which a request of an instruction reaches its home. -/
def homeEvent (i : Instr) (k : Nat) : Instr := match i with
  | .gpost _ _ | .gtake _ _ => .mailboxRequest k
  | .bar _ _ | .barScoped _ _ _ => .barrierArrival k
  | _ => .fullEmptyRequest k

/-- The waits of a thread that are over (R93, R165, R233, R235). -/
def State.waitEvents (s : State) (k : Nat) (t : Thread) : List Instr := match t.run with
  | .parked w n => when_ (s.limitOver t n && (!t.cached || w == .fullEmpty || w == .bar)) (.waitLimitExpiry k)
  | .refused n m =>
    if s.limitOver t n && !t.cached then [.waitLimitExpiry k] else when_ (decide (m + 64 ≤ s.cycOf t)) (.parkTableResend k)
  | .resent _ => (t.req.map fun r => homeEvent r.instr k).toList
  | .withdrawing => match t.answer with
    | none => [.withdrawal k]
    | some b => when_ (!b && !t.cached) (.withdrawalAnswer k)
  | .sleeping n => when_ (decide (n ≤ s.cycOf t)) (.sleepExpiry k)
  | _ => []

/-- Whether a flying thread finds room at its destination (R91). -/
def State.canLand (s : State) (t : Thread) (f : Nat) : Bool := match s.seatAt t.launch f with
  | none => false
  | some y => !(s.cell y.place.cell).capped && ((s.freeSlot y).isSome || decide (s.cacheCount y.place.cell < 64))

/-- The events of one thread. -/
def State.threadEvents (s : State) (x : Nat × Thread) : List Instr :=
  s.waitEvents x.1 x.2 ++ when_ (s.forcedDue x.2) (.forcedSave x.1) ++ when_ (s.sliceOver x.2) (.timesliceExpiry x.1) ++
    when_ (!x.2.rx.isEmpty) (.relaxedStoreAck x.1 0) ++ when_ (!x.2.ctx.vq.isEmpty && x.2.slot?.isSome) (.vectorCommandStart x.1 false) ++
    (match x.2.place with
      | .flying _ _ _ f => when_ (s.canLand x.2 f) (.flyArrival x.1)
      | _ => [])

/-- Parked requests whose wait is over, and wakes on their way. -/
def State.homeEvents (s : State) : List Instr :=
  (s.parked.filterMap fun p => if s.servable p.req then some (homeEvent p.req.instr p.thread) else none) ++
    s.wakes.map fun w => .wakeDelivery w.id

/-! ### Cells -/

/-- The context that a cell resumes next, with the lowest slot that takes one. -/
def State.resumption (s : State) (c : PCell) : List Instr :=
  (((List.range 16).find? fun n => (s.longest c n).isSome).map fun n => Instr.contextResume c n).toList

/-- Slots that have become free for gangs that wait for them (R88). -/
def State.gangEvents (s : State) (t : Thread) : List Instr := match t.slot? with
  | none => []
  | some x => (s.waitedSeats t).filterMap fun m => if s.slotFree m.2 x.2 then some (.gangSlotReservation m.2.cell x.2) else none

/-- The events of cells: resumptions, gang slots and changes of WAYS. -/
def State.cellEvents (s : State) : List Instr :=
  ((s.threads.filterMap fun x => match x.2.place with
    | .cache c true _ => some c
    | _ => none).eraseDups.flatMap s.resumption) ++
  (s.threads.flatMap fun x => s.gangEvents x.2) ++
  s.cells.flatMap fun x => match x.2.waysPending with
    | some (_, m) => when_ (!s.waysLocked x.1 m.toNat x.2.nscr.toNat) (.waysChange x.1)
    | none => []

/-- A task start or a steal attempt of a virtual cell (R74, R75). -/
def State.taskEvents (s : State) (c : LCell) : List Instr := match s.seatOf c with
  | none => []
  | some (key, flat, x) =>
    let v := s.vcell c
    if !v.deque.isEmpty || v.bhead != v.btail then
      (((List.range x.launch.ready.slots).find? fun n => s.vslotFree x key flat n).map fun n => Instr.taskStart c n).toList
    else when_ (s.maySteal key flat x) (.stealAttempt c)

/-- The events of steals on their way. -/
def State.stealEvents (s : State) : List Instr :=
  s.steals.filterMap fun m => if m.answer.isNone then some (.stealRequest m.id) else if s.canTake m then some (.stealAnswer m.id) else none

/-! ### Launches -/

/-- Whether the thread that trapped still runs its handler; the supervisor ends the launch when it does not (log 1). -/
def State.handling (s : State) (key : Nat) (x : Trapped) : Bool :=
  s.threads.any fun y => y.2.launch == key && y.2.ctx.tid == x.tid && y.2.ctx.priv

/-- The events of a launch. -/
def State.launchEvents (s : State) (x : Nat × Launch) : List Instr :=
  (x.2.toWake.map fun f => Instr.swarmMessage x.1 f) ++
  when_ (x.2.ending.isNone && x.2.trapped.any fun t => !s.covered x.2 t && !s.handling x.1 t) (.launchEnd x.1) ++
  when_ (s.retires x.1 x.2 && (x.2.ending.map Prod.fst) != some 4) (.launchRetirement x.1)

/-- The events of a package's queues. -/
def State.queueEvents (s : State) (k : Nat) (p : Package) : List Instr :=
  (p.queues.filterMap fun x => if x.2.head.isNone && !x.2.fifo.isEmpty && !x.2.isFull then some (.ringEntryReservation k x.1) else none) ++
    when_ (s.toAdmit k).isSome (.launchAdmission k)

/-! ### Engines -/

/-- The events of a copy engine. -/
def State.copyEvents (s : State) (x : ClusterId × Cluster) : List Instr := x.2.copies.flatMap fun j =>
  when_ (!j.pmiss && ((j.due.map fun d => decide (d < s.cyc x.1.pkg x.1.die)).getD false)) (.promiseExpiry j.key) ++ [.copyBlock j.key]

/-- The events of an OMU that need no measurement. -/
def State.omuEvents (s : State) (x : ClusterId × Omu) : List Instr :=
  let o := x.2
  (match o.load with
    | some l => [[Instr.tileCaptureEnd x.1, .imageBlockRead x.1, .decompositionComplete x.1].getD l.phase (.loadCompletion x.1)]
    | none => []) ++
  (match o.queue with
    | e :: _ => match e.post with
      | .pass r => when_ (o.state != 3 && !o.tagWaits r && !s.still x.1) (.passStart x.1)
      | .swap => when_ (o.load.isNone && !s.still x.1 && o.stream.isEmpty && o.state != 3) (.bankSwap x.1)
      | .probe _ _ => []
    | [] => []) ++
  when_ (o.stream.any fun i => match i with
    | .stop _ _ _ _ => true
    | _ => false) (.passStop x.1)

/-! ### The fabric -/

/-- The event of a packet. -/
def State.packetEvents (s : State) (p : Packet) : List Instr :=
  if !p.delivered then when_ (s.canRoute p) (.routerPacket p.id)
  else match p.kind with
    | .ack | .error => [.acknowledgement p.id]
    | .multicast => [.multicastData p.id]
    | .block => match p.refused with
      | some n => when_ (decide (n + 1024 ≤ s.clock)) (.shuffleResend p.id)
      | none => [.shuffleBlock p.id]
    | .coded => [.codedShuffle p.id]
    | .fallback => [.fallbackRequest p.id]
    | .reduction => [.xsumReduction p.id]

/-- The ASLEEP ports that a packet waits for (R417). -/
def State.wakeEvents (s : State) (p : Packet) : List Instr :=
  if p.delivered then []
  else p.dests.filterMap fun d => match (s.pkg p.at_).way p.at_ p.bank d with
    | .port q => if ((s.pkg p.at_).port q).state = 7 then some (.portWake p.at_ q) else none
    | _ => none

/-- The flit that a port receives next without a cause outside the device: a NAK that the other end owes, the next flit of its replay buffer,
once it has been sent again where it was lost, or an idle flit with an acknowledgement. -/
def State.nextFlit (s : State) (k q : Nat) : Option (BitVec 128) := match s.peerPort k q with
  | none => none
  | some (a, i) =>
    let r := (s.pkg k).port q
    let o := (s.pkg a).port i
    if o.lost then some (nakTrailer o)
    else match o.unacked.find? fun x => x.1 == r.rxNext with
      | some x => if r.lost then none else some (flitTrailer o x)
      | none =>
        if (r.unacked.any fun x => decide (x.1 < o.rxNext)) && decide (o.txc + 1 < 2 ^ 48) then some (ackTrailer o.txc o.rxNext o.txm) else none

/-- The events of a port: the next flit from its peer, and the ends of its waits. -/
def State.portEvents (s : State) (k : Nat) (p : Package) (x : Nat × PortRegs) : List Instr :=
  let r := x.2
  ((s.nextFlit k x.1).map fun f => Instr.flitReceive k x.1 f true true).toList ++
  when_ (!r.unacked.isEmpty && decide (r.ackAt + 4096 ≤ s.clock)) (.replayTimeout k x.1) ++
  when_ (r.code.isSome && decide (r.codeAt + 8192 ≤ s.clock)) (.codeRequestRetry k x.1) ++
  when_ (r.state == psDrain && r.unacked.isEmpty) (.portDrainComplete k x.1) ++
  when_ (r.state == psSwitch && decide (r.since + 4000 ≤ s.clock) && ((p.topo.map fun c => c.ports.contains x.1).getD false))
    (.portSwitchComplete k x.1) ++
  when_ (r.state == psTrain && decide (r.since + 2 ^ 24 ≤ s.clock)) (.trainTimeout k x.1) ++
  when_ (r.state == psOpen && r.iw != 0 && r.unacked.isEmpty && decide (r.idle + 2 ^ r.iw ≤ s.clock)) (.powerDown k x.1)

/-- The topology command that a package takes next. -/
def topoEvents (k : Nat) (p : Package) : List Instr := match p.topo, p.topoQ with
  | none, c :: _ => [[Instr.reconf k, .loadrt k, .code k, .power k].getD c.cmd (.close k)]
  | _, _ => []

/-- The dies whose fault window has ended (R470). -/
def State.windowEvents (s : State) : List Instr :=
  let ds := (s.dies.map Prod.fst ++ s.counts.map fun x => ((unitPlace x.1).1, (unitPlace x.1).2.1)).eraseDups
  ds.filterMap fun d => if (s.die d.1 d.2).window < s.windowOf d.1 d.2 then some (.faultWindowBoundary d.1 d.2) else none

/-- The quiesces that can be completed (R72): each is carried on by its event. -/
def State.quiesceEvents (s : State) : List Instr := s.quiesces.filterMap fun q =>
  let go := Instr.clusterQuiesce q.pkg q.die q.lcl 0 []
  match s.physCluster q.pkg q.die q.lcl with
  | some k => if s.quiet ⟨q.pkg, q.die, q.lcl⟩ k then some go else none
  | none => some go

/-- The capped cells that the nurse restarts (R473): those that still serve logical cells, in a cluster with no quiesce under way, which have
a target or a launch to end. -/
def State.restartEvents (s : State) : List Instr := s.cells.filterMap fun c =>
  let k := clusterOf c.1
  let map := (s.cluster k).cellMap.toList
  let js := cellsOn map c.1.cell
  match s.lclOf k with
  | none => none
  | some x =>
    let ends : Bool := js.any fun j => ((s.launchOf (x.cell j)).map fun l => l.2.1.ending.isNone).getD false
    if c.2.capped && !js.isEmpty && (s.goalOf x).isNone && ((s.retarget x k map c.1.cell).isSome || ends) then some (.cellRestart c.1) else none

/-! ### All of them -/

/-- Every event that can happen now. -/
def State.due (s : State) : List Instr :=
  s.windowEvents ++ s.threads.flatMap s.threadEvents ++ s.homeEvents ++ s.cellEvents ++ (s.vcells.flatMap fun x => s.taskEvents x.1) ++
    s.stealEvents ++ s.quiesceEvents ++ s.restartEvents ++ s.launches.flatMap s.launchEvents ++
    (s.pkgs.flatMap fun x => s.queueEvents x.1 x.2 ++ topoEvents x.1 x.2 ++
      x.2.ports.flatMap (s.portEvents x.1 x.2)) ++
    s.clusters.flatMap s.copyEvents ++ s.omus.flatMap s.omuEvents ++ s.packets.flatMap (fun p => s.packetEvents p ++ s.wakeEvents p) ++
    s.flrs.filterMap fun f => if s.drained f.pkg f.vf then some (.flrDrainComplete f.pkg f.vf) else none

end Sys2Proof.Machine
end

