-- ==== Sys2Proof/Machine/Choose.lean ====
section
/-! DEFINITION. The choice of what steps next (log 1): the thread that `pick` names, the agenda, then due events and issuing
threads in alternation. -/
namespace Sys2Proof.Machine
open Sys2Proof

/-- A thread's turn: the rotation pointer of its cell moves past a slot that issues (R141). -/
def State.takeTurn (s : State) (c : PCell) (x : Nat × Nat) : Choice × State :=
  let s := if (s.thread? x.1).map Thread.goesOn = some true then s.turned c x.2 else s
  let r := s.cell c
  (.thread x.1, s.setCell c { r with poll := r.poll + 1 })

/-- The next thread in turn, cell by cell. -/
def State.nextThread (s : State) : Option (Choice × State) :=
  let cs := s.issuingCells
  match cs[s.nextCell % cs.length]? with
  | none => none
  | some c => (s.turnOf c).map fun x => { s with nextCell := s.nextCell + 1 }.takeTurn c x

/-- The next due event in rotation. -/
def State.nextDue (s : State) : Option (Choice × State) :=
  let es := s.due
  (es[s.nextEvent % es.length]?).map fun i => (.event i, { s with nextEvent := s.nextEvent + 1 })

/-- Threads and due events in alternation; where there is none of one kind, the other. -/
def State.alternate (s : State) : Choice × State :=
  let s' := { s with turn := !s.turn }
  let first := if s.turn then s'.nextDue else s'.nextThread
  match first with
  | some r => r
  | none => ((if s.turn then s'.nextThread else s'.nextDue)).getD (.idle, s')

/-- The turn of a thread that is named to step next. -/
def State.pickTurn (s : State) (k : Nat) : Choice × State := match (s.thread? k).bind Thread.slot? with
  | some x => s.takeTurn x.1 (k, x.2)
  | none => (.idle, s)

/-- What a step does, and the state in which it does it: the thread that is picked (log 2), then the agenda, where an entry that is no event
is passed over (log 6). -/
def State.choose (s : State) : Choice × State :=
  match s.pick with
  | some k => { s with pick := none }.pickTurn k
  | none => match s.agenda with
    | i :: is => (if isEvent i then .event i else .idle, { s with agenda := is })
    | [] => s.alternate

end Sys2Proof.Machine
end

