-- ==== Sys2Proof/Machine/Gauss.lean ====
section
/-! DEFINITION. Gaussian message passing (chapter 14): blocks in vector registers (R344 to R347), gacc, gschur, gdamp and gmarg in FP32 (R350 to
R356), and mailboxes (R357 to R363). -/
namespace Sys2Proof.Machine
open Sys2Proof

/-! ### FP32 with its conditions (R350) -/

/-- A result in FP32 with the conditions raised so far. -/
structure FAcc where
  code : Nat
  conds : Conds
  deriving DecidableEq, Repr

/-- An exact result rounded once, with the conditions of an earlier step. -/
def FAcc.of (c : Conds) (r : FVal × Bool) : FAcc :=
  let x := f32.finish .rne false r
  ⟨x.code, c.or x.conds⟩

/-- round(a + b). -/
def gAdd (c : Conds) (a b : Nat) : FAcc := .of c (addExact .rne (f32.decode a) (f32.decode b))
/-- round(a - b). -/
def gSub (c : Conds) (a b : Nat) : FAcc := .of c (addExact .rne (f32.decode a) (f32.decode b).neg)
/-- round(a - b * c), fused. -/
def gFms (cs : Conds) (a b c : Nat) : FAcc := .of cs (fmaExact .rne (f32.decode b).neg (f32.decode c) (f32.decode a))
/-- round(a + b * c), fused. -/
def gFma (cs : Conds) (a b c : Nat) : FAcc := .of cs (fmaExact .rne (f32.decode b) (f32.decode c) (f32.decode a))
/-- round(a / b). -/
def gDiv (c : Conds) (a b : Nat) : FAcc := .of c (divExact (f32.decode a) (f32.decode b))

/-! ### Blocks (R344 to R347) -/

/-- A Gaussian block: its header, its information vector and its packed precision matrix as FP32 codes, and the conditions raised on the
way to it. -/
structure GBlock where
  hdr : BitVec 256
  eta : List Nat
  lam : List Nat
  conds : Conds := {}
  deriving DecidableEq, Repr

/-- DIM of a block. -/
def GBlock.dim (g : GBlock) : Nat := fld g.hdr 0 4
/-- BETA of a block. -/
def GBlock.beta (g : GBlock) : Nat := fld g.hdr 8 8
/-- VIDm of a block. -/
def GBlock.vid (g : GBlock) (m : Nat) : Nat := fld g.hdr (32 + 16 * m) 16

/-- The packed index of entry (i, j) of the matrix, in either order (R346). -/
def packIdx (i j : Nat) : Nat :=
  let a := min i j
  let b := max i j
  8 * a - a * (a - 1) / 2 + (b - a)

/-- The pairs i ≤ j < n in ascending packed index. -/
def pairs (n : Nat) : List (Nat × Nat) :=
  (List.range n).flatMap fun i => ((List.range n).filter fun j => decide (i ≤ j)).map fun j => (i, j)

/-- Entry (i, j). -/
def GBlock.at_ (g : GBlock) (i j : Nat) : Nat := g.lam.getD (packIdx i j) 0
/-- Entry m of the information vector. -/
def GBlock.eta_ (g : GBlock) (m : Nat) : Nat := g.eta.getD m 0
/-- Entry (i, j) replaced, with the conditions. -/
def GBlock.setAt (g : GBlock) (i j : Nat) (x : FAcc) : GBlock :=
  { g with lam := g.lam.set (packIdx i j) x.code, conds := x.conds }
/-- Entry m of the information vector replaced, with the conditions. -/
def GBlock.setEta (g : GBlock) (m : Nat) (x : FAcc) : GBlock := { g with eta := g.eta.set m x.code, conds := x.conds }

/-- The block in four registers. -/
def gRead (c : Ctx) (v : VNum) : GBlock :=
  let r (i : Nat) : List Nat := lanes 32 (c.vr (v + BitVec.ofNat 4 i))
  { hdr := (c.vr v).extractLsb' 256 256, eta := (r 0).take 8, lam := ((r 1) ++ (r 2) ++ (r 3)).take 36 }

/-- Whether R347 takes a header. -/
def headerOk (h : BitVec 256) : Bool :=
  let d := fld h 0 4
  let vs := (List.range d).map fun m => fld h (32 + 16 * m) 16
  decide (d ≤ 8) && fld h 4 4 == 0 && fld h 16 16 == 0 && fld h 212 44 == 0 && decide vs.Nodup

/-- A header with another dimension and the identifiers above it zero (R346). -/
def trimHeader (h : BitVec 256) (d : Nat) : BitVec 256 :=
  putFld (putFld h 0 4 d) (32 + 16 * d) (16 * (8 - d)) 0

/-- The registers of a block written: lanes outside the dimension are zero (R346), and the conditions join the vector flags (R349). -/
def gWrite (c : Ctx) (v : VNum) (g : GBlock) : Ctx :=
  let d := g.dim
  let eta := (List.range 8).map fun m => if m < d then g.eta_ m else 0
  let lam := (pairs 8).map fun (p : Nat × Nat) => if p.2 < d then g.at_ p.1 p.2 else 0
  let h := trimHeader g.hdr d
  let v0 : VReg := h ++ (pack 32 eta).extractLsb' 0 256
  let c := setBlock c v [v0, pack 32 (lam.take 16), pack 32 ((lam.drop 16).take 16), pack 32 (lam.drop 32)]
  { c with vflags := orFlags c.vflags g.conds }

/-! ### gacc (R351) -/

/-- Slot s_j of a slot map. -/
def slotOf (gb : Word) (j : Nat) : Nat := fld gb (4 * j) 4

/-- Whether a slot map fits the message and the target. -/
def mapOk (gb : Word) (m t : GBlock) : Bool :=
  fld gb 32 32 == 0 && ((List.range m.dim).all fun j =>
    decide (slotOf gb j < t.dim) && m.vid j == t.vid (slotOf gb j)) && decide ((List.range m.dim).map (slotOf gb)).Nodup

/-- The target with the message added. -/
def gaccBlock (gb : Word) (m t : GBlock) : GBlock :=
  let t := (List.range m.dim).foldl (fun t j =>
    t.setEta (slotOf gb j) (gAdd t.conds (t.eta_ (slotOf gb j)) (m.eta_ j))) t
  (pairs m.dim).foldl (fun t p =>
    let a := slotOf gb p.1
    let b := slotOf gb p.2
    t.setAt a b (gAdd t.conds (t.at_ a b) (m.at_ p.1 p.2))) t

/-! ### gschur (R352) and gmarg (R356) -/

/-- A block on the way through an elimination, with the multipliers of the steps taken: e, p[e], η[e], and t[0] to t[e - 1]. -/
structure Elim where
  g : GBlock
  steps : List (Nat × Nat × Nat × List Nat)

/-- One step: e is eliminated with the pivot p. -/
def elimStep (x : Elim) (e : Nat) : Elim :=
  let p := x.g.at_ e e
  let ts := (List.range e).foldl (fun (r : List Nat × Conds) i =>
    let q := gDiv r.2 (x.g.at_ i e) p
    (r.1 ++ [q.code], q.conds)) ([], x.g.conds)
  let t (i : Nat) : Nat := ts.1.getD i 0
  let g0 := { x.g with conds := ts.2 }
  let g := (List.range e).foldl (fun (g : GBlock) i =>
    let g := ((List.range e).filter fun j => decide (i ≤ j)).foldl (fun (g : GBlock) j =>
      g.setAt i j (gFms g.conds (g.at_ i j) (t i) (g.at_ j e))) g
    g.setEta i (gFms g.conds (g.eta_ i) (t i) (g.eta_ e))) g0
  ⟨g, (e, p, x.g.eta_ e, ts.1) :: x.steps⟩

/-- Whether a pivot is above the floor; a NaN is not (R352). -/
def pivotOk (p floor : Nat) : Bool :=
  !(f32.decode p).isNan && cmpNum (f32.decode p) (f32.decode floor) == .gt

/-- The elimination of the variables at the head of a list in turn; a pivot at or below the floor stops it with its index and value. -/
def eliminate (floor : Nat) : Elim → List Nat → Except (Nat × Nat) Elim
  | x, [] => .ok x
  | x, e :: es => if pivotOk (x.g.at_ e e) floor then eliminate floor (elimStep x e) es else .error (e, x.g.at_ e e)

/-- The variables from n - 1 down to k. -/
def descend (n k : Nat) : List Nat := ((List.range n).filter fun e => decide (k ≤ e)).reverse

/-- SINGULAR_BLOCK with the word of R354. -/
def singular (g : GBlock) (v : VNum) (e p : Nat) : Flt :=
  { code := fSingular, detail := word (p * 2 ^ 32 + g.vid e * 2 ^ 16 + e * 2 ^ 8 + v.toNat) }

/-- The marginals in the making: Σ packed, μ, and the conditions. -/
structure Marg where
  sig : List Nat
  mu : List Nat
  conds : Conds

/-- Variable e of gmarg, from its pivot, its information and its multipliers. -/
def margStep (m : Marg) (x : Nat × Nat × Nat × List Nat) : Marg :=
  let e := x.1
  let t (i : Nat) : Nat := x.2.2.2.getD i 0
  let at_ (m : Marg) (i j : Nat) : Nat := m.sig.getD (packIdx i j) 0
  let m1 := (List.range e).foldl (fun (m : Marg) i =>
    let s := (List.range e).foldl (fun (s : FAcc) j => gFms s.conds s.code (at_ m i j) (t j)) ⟨0, m.conds⟩
    { m with sig := m.sig.set (packIdx i e) s.code, conds := s.conds }) m
  let d0 := gDiv m1.conds 0x3F800000 x.2.1
  let d := (List.range e).foldl (fun (s : FAcc) i => gFms s.conds s.code (t i) (at_ m1 i e)) d0
  let u0 := gDiv d.conds x.2.2.1 x.2.1
  let u := (List.range e).foldl (fun (s : FAcc) i => gFms s.conds s.code (t i) (m1.mu.getD i 0)) u0
  ⟨m1.sig.set (packIdx e e) d.code, m1.mu.set e u.code, u.conds⟩

/-- The result registers of gmarg: μ, the header, the diagonal of Σ, zeros. -/
def margWrite (c : Ctx) (vd : VNum) (h : BitVec 256) (n : Nat) (m : Marg) : Ctx :=
  let mu := (List.range 8).map fun i => if i < n then m.mu.getD i 0 else 0
  let sg := (List.range 8).map fun i => if i < n then m.sig.getD (packIdx i i) 0 else 0
  let v0 : VReg := h ++ (pack 32 mu).extractLsb' 0 256
  let c := setBlock c vd [v0, pack 32 sg, 0, 0]
  { c with vflags := orFlags c.vflags m.conds }

/-! ### gdamp (R355) -/

/-- One value blended: δ := round(old - new), new := round(new + w × δ). -/
def blend (c : Conds) (w old new : Nat) : FAcc :=
  let d := gSub c old new
  gFma d.conds new w d.code

/-- BETA / 256 in FP32, which it is exactly. -/
def betaCode (beta : Nat) : Nat := (f32.round .rne false (.fin false beta 1 (-8))).code

/-- The new message damped with the previous one. -/
def gdampBlock (new old : GBlock) : GBlock :=
  let w := betaCode new.beta
  let g := (List.range new.dim).foldl (fun g m => g.setEta m (blend g.conds w (old.eta_ m) (g.eta_ m))) new
  (pairs new.dim).foldl (fun g p => g.setAt p.1 p.2 (blend g.conds w (old.at_ p.1 p.2) (g.at_ p.1 p.2))) g

/-! ### The block instructions -/

/-- A block instruction: the vector queue runs empty (R349), then the instruction's own part on the context. -/
def gaussBody (f : Ctx → Except Flt Ctx) : Body := fun s k t =>
  let s := s.drainV k
  match f ((s.thread? k).getD t).ctx with
  | .error e => .trap s e
  | .ok c => .next (s.modThread k fun t => { t with ctx := c })

/-- ILLEGAL_INSN as an answer of a block instruction. -/
def gIllegal : Except Flt Ctx := .error { code := fIllegal }

/-- gacc (R351). -/
def execGacc (vd va : VNum) (b : Reg) (s : State) : Host.Outcome State Fault Refusal :=
  issue (.gacc vd va b) s (gaussBody fun c =>
    let m := gRead c va
    let t := gRead c vd
    let gb := c.gpr b
    if !headerOk m.hdr || !headerOk t.hdr || !mapOk gb m t then gIllegal else .ok (gWrite c vd (gaccBlock gb m t)))

/-- gschur (R352). -/
def execGschur (vd : VNum) (b : Reg) (s : State) : Host.Outcome State Fault Refusal :=
  issue (.gschur vd b) s (gaussBody fun c =>
    let g := gRead c vd
    let gb := c.gpr b
    let k := fld gb 0 4
    if !headerOk g.hdr || fld gb 4 60 ≠ 0 || decide (g.dim < k) then gIllegal
    else match eliminate (fld c.gpiv 0 32) ⟨g, []⟩ (descend g.dim k) with
      | .error (e, p) => .error (singular g vd e p)
      | .ok x => .ok (gWrite c vd { x.g with hdr := putFld g.hdr 0 4 k }))

/-- gdamp (R355): with BETA 0 the registers stay as they are. -/
def execGdamp (vd va : VNum) (s : State) : Host.Outcome State Fault Refusal :=
  issue (.gdamp vd va) s (gaussBody fun c =>
    let new := gRead c vd
    let old := gRead c va
    if !headerOk new.hdr || !headerOk old.hdr || old.dim != new.dim || !((List.range new.dim).all fun m => old.vid m == new.vid m)
    then gIllegal
    else if new.beta = 0 then .ok c
    else .ok (gWrite c vd (gdampBlock new old)))

/-- gmarg (R356). -/
def execGmarg (vd va : VNum) (s : State) : Host.Outcome State Fault Refusal :=
  issue (.gmarg vd va) s (gaussBody fun c =>
    let g := gRead c va
    if !headerOk g.hdr then gIllegal
    else match eliminate (fld c.gpiv 0 32) ⟨g, []⟩ (descend g.dim 0) with
      | .error (e, p) => .error (singular g va e p)
      | .ok x => .ok (margWrite c vd g.hdr g.dim
          (x.steps.foldl margStep ⟨List.replicate 36 0, List.replicate 8 0, x.g.conds⟩)))

/-! ### Mailboxes (R357 to R363) -/

/-- The checks of R359 for the 320 bytes of a slot: the place, and whether its page is discarded. -/
def slotPlace (s : State) (w : Who) (va : Word) (take : Bool) : Except Flt Loc :=
  if fld va 56 8 == 0x7F && !w.sup then .error (fltAt fPrivilege va)
  else if !classOk .feWrite (fld va 56 8) then .error (fltAt fAddress va)
  else if va.toNat % 64 ≠ 0 ∨ 2 ^ 14 < va.toNat % 2 ^ 14 + 320 then .error (fltAt fMisaligned va)
  else match resolve s w .feWrite va 320 64 with
    | .ok loc => .ok loc
    | .error f => if take && f.code == fDiscarded then resolve s w .feRead va 320 64 else .error f

/-- A mailbox instruction after its header check: the waits and checks, the cell's copies written back, the answer of the home, then what it
does there. -/
def mailBody (i : Instr) (a : Reg) (take : Bool) (vals : List VReg) (atHome : State → Thread → Loc → HomeReq → Res) : Body :=
  fun s k t =>
  orTrap (s.waitRx k) fun s =>
  let t := (s.thread? k).getD t
  let va := t.ctx.gpr a &&& ~~~(1 : Word)
  let w := s.whoOf t
  match slotPlace s w va take with
  | .error f => .trap s f
  | .ok loc =>
    let s := s.fillTlb w.cell false loc
    let s := if loc.isGlobal then s.flushRange w.cell loc.key 320 true else s
    match homeAnswer s w loc with
    | some c => .trap s (fltAt c va)
    | none => atHome s t loc
        { instr := i, opr := recordOf i t.ctx 0, va := va, key := loc.key, home := homeOf loc.key, peer := loc.peer, vals := vals }

/-- gpost (R224, R359, R360, R362). -/
def execGpost (a : Reg) (vd : VNum) (s : State) : Host.Outcome State Fault Refusal :=
  issue (.gpost a vd) s fun s k t =>
    if t.inGang then .trap s { code := fIllegal }
    else
      let s := s.drainV k
      let t := (s.thread? k).getD t
      if !headerOk (gRead t.ctx vd).hdr then .trap s { code := fIllegal }
      else mailBody (.gpost a vd) a false (blockAt t.ctx vd) (fun s t _ r =>
        orStay (s.awaitsGen t (s.reqScope t r)) s (arrive (t.release (s.reqScope t r) s) k t r)) s k t

/-- gtake (R359 to R361): a discarded page is a zero slot that stays as it is. -/
def execGtake (vd : VNum) (a : Reg) (s : State) : Host.Outcome State Fault Refusal :=
  issue (.gtake vd a) s fun s k t =>
    if t.inGang then .trap s { code := fIllegal }
    else
      let s := s.drainV k
      mailBody (.gtake vd a) a true [] (fun s t loc r =>
        if !loc.disc then arrive s k t r
        else if r.mode then .trap s { code := fIllegal }
        else if t.ctx.nsm then .trap s { code := fNsm }
        else .next (t.acquire (s.reqScope t r)
          (s.modThread k fun t => t.modCtx fun c => setBlock c vd [0, 0, 0, 0]))) s k t

end Sys2Proof.Machine
end

