-- ==== Sys2Proof/Machine/Queues.lean ====
section
/-! DEFINITION. Queue registers (R171, R172): qbind, qrel, qpush and qpop, with the faults that a completion entry names (R250, R328). -/
namespace Sys2Proof.Machine
open Sys2Proof

/-- A port bound: any register that held it is unbound (R172). -/
def Ctx.bindPort (c : Ctx) (q : BitVec 3) (p : Port) : Ctx :=
  ({ c with q := c.q.map fun x => if x = some p then none else x }).setQr q (some p)

/-- qbind (R172). -/
def execQbind (qd : BitVec 3) (port : Port) (s : State) : Host.Outcome State Fault Refusal :=
  issue (.qbind qd port) s fun s k _ => .next (s.modThread k fun t => t.modCtx fun c => c.bindPort qd port)

/-- qrel (R172). -/
def execQrel (qd : BitVec 3) (s : State) : Host.Outcome State Fault Refusal :=
  issue (.qrel qd) s fun s k _ => .next (s.modThread k fun t => t.modCtx fun c => c.setQr qd none)

/-- The number of a shared queue (R171). -/
def sqNo : Port → Option Nat
  | .sq0 => some 0 | .sq1 => some 1 | .sq2 => some 2 | .sq3 => some 3
  | _ => none

/-- A shared queue of a virtual cell. -/
def VCell.queue (v : VCell) (n : Nat) : List Word := v.sq.toList.getD n []

/-- QUEUE_UNBOUND (R172). -/
def unbound (s : State) : Res := .trap s { code := fUnbound }

/-- qpush (R172): a push to PASSPOST posts a pass (R326); a shared queue holds 32 entries. -/
def execQpush (qd : BitVec 3) (a : Reg) (s : State) : Host.Outcome State Fault Refusal :=
  issue (.qpush qd a) s fun s k t =>
    let v := t.ctx.gpr a
    match t.ctx.qr qd with
    | none => unbound s
    | some .passpost => if t.inGang then .trap s { code := fIllegal } else postPass (.qpush qd a) none v s k t
    | some p => match sqNo p with
      | none => unbound s
      | some n =>
        let c := s.cellFor t
        let x := s.vcell c
        if 32 ≤ (x.queue n).length then .park s .queue
        else .next (s.setVcell c { x with sq := setIdx x.sq n (x.queue n ++ [v]) })

/-- The fault code of a completion entry (R252, R323, R327); scout results have none. -/
def entryFcode (q : DoneQ) (e : Word) : Nat := match q with
  | .pass => fld e 22 5
  | .copy | .load => fld e 23 5
  | .probe => 0

/-- Whether an operation is the one that an entry completes. -/
def EngFlt.of_ (f : EngFlt) (q : DoneQ) (e : Word) : Bool := match q with
  | .pass => fld f.opr.ticket 0 22 == fld e 0 22
  | _ => f.opr.ticket.toNat == fld e 32 32

/-- A list without its first element that meets a condition. -/
def dropFirst {α : Type} (p : α → Bool) : List α → List α
  | [] => []
  | x :: l => if p x then l else x :: dropFirst p l

/-- A popped completion entry (R250): with a fault code the thread takes that fault with the operand record of the operation; otherwise gd takes
the entry, and the pop acquires. -/
def popped (s : State) (k : Nat) (t : Thread) (d : Reg) (q : DoneQ) (e : Word) : Res :=
  let c := entryFcode q e
  if c ≠ 0 then
    let f := (t.engFlts.find? fun f => f.of_ q e).getD ⟨{}, 0⟩
    let s := s.modThread k fun t => { t with engFlts := dropFirst (fun f => f.of_ q e) t.engFlts }
    .trap s { code := c, faddr := f.va, opr := some f.opr }
  else
    let s := s.setReg k d e
    .next (if q == .probe then s else t.acquire .sys s)

/-- qpop (R172). -/
def execQpop (d : Reg) (qa : BitVec 3) (s : State) : Host.Outcome State Fault Refusal :=
  issue (.qpop d qa) s fun s k t =>
    let done (l : List Word) (q : DoneQ) (f : List Word → Thread → Thread) : Res := match l with
      | [] => .park s .queue
      | e :: es => popped (s.modThread k (f es)) k t d q e
    match t.ctx.qr qa with
    | none => unbound s
    | some .passpost => unbound s
    | some .passdone => done t.passdone .pass fun l t => { t with passdone := l }
    | some .cpydone => done t.cpydone .copy fun l t => { t with cpydone := l }
    | some .decdone => done t.decdone .load fun l t => { t with decdone := l }
    | some .probeout => done t.probeout .probe fun l t => { t with probeout := l }
    | some p => match sqNo p with
      | none => unbound s
      | some n =>
        let c := s.cellFor t
        let x := s.vcell c
        match x.queue n with
        | [] => .park s .queue
        | v :: l => .next ((s.setVcell c { x with sq := setIdx x.sq n l }).setReg k d v)

end Sys2Proof.Machine
end

