-- ==== Sys2Proof/Machine/Scalar.lean ====
section
/-! DEFINITION. The integer instructions of OP 0x01 to 0x07 (R156 to R158) and the branches and jumps (R159). -/
namespace Sys2Proof.Machine
open Sys2Proof

/-- A register operation of one source (R156). -/
def unary (d a : Reg) (f : Word → Word) : Body := fun s k t => .next (s.setReg k d (f (t.ctx.gpr a)))

/-- A branch of form B (R159): taken to its target, or past the instruction. -/
def branchBody (off : BitVec 16) (taken : Ctx → Bool) : Body := fun s _ t =>
  if taken t.ctx then .jump s (target16 t.ctx off) else .next s

/-- Whether a thread is a follower of a gang. -/
def Thread.isFollower (t : Thread) : Bool := match t.gang with
  | .follower _ => true
  | _ => false

/-- A jump to a register's value (R105): MISALIGNED unless the value is a multiple of 4. A follower's value is ignored (R169). -/
def jumpReg (a : Reg) (f : State → State) : Body := fun s _ t =>
  let target := t.ctx.gpr a
  if fld target 0 2 ≠ 0 ∧ !t.isFollower then .trap s (fltAt fMisaligned target) else .jump (f s) target

/-! ### OP 0x01 (R156, R157) -/

/-- add: a + b (R156). -/
def execAdd (o : RRS) (s : State) : Host.Outcome State Fault Refusal :=
  issue (.add o) s (regBody o.d o.a o.b (· + ·))
/-- sub: a - b (R156). -/
def execSub (o : RRS) (s : State) : Host.Outcome State Fault Refusal :=
  issue (.sub o) s (regBody o.d o.a o.b (· - ·))
/-- and: a and b (R156). -/
def execAnd (o : RRS) (s : State) : Host.Outcome State Fault Refusal :=
  issue (.and o) s (regBody o.d o.a o.b (· &&& ·))
/-- or: a or b (R156). -/
def execOr (o : RRS) (s : State) : Host.Outcome State Fault Refusal :=
  issue (.or o) s (regBody o.d o.a o.b (· ||| ·))
/-- xor: a xor b (R156). -/
def execXor (o : RRS) (s : State) : Host.Outcome State Fault Refusal :=
  issue (.xor o) s (regBody o.d o.a o.b (· ^^^ ·))
/-- andn: a and not b (R156). -/
def execAndn (o : RRS) (s : State) : Host.Outcome State Fault Refusal :=
  issue (.andn o) s (regBody o.d o.a o.b (fun a b => a &&& ~~~b))
/-- shl: a << n (R156). -/
def execShl (o : RRS) (s : State) : Host.Outcome State Fault Refusal :=
  issue (.shl o) s (regBody o.d o.a o.b valShl)
/-- shr: a >> n (R156). -/
def execShr (o : RRS) (s : State) : Host.Outcome State Fault Refusal :=
  issue (.shr o) s (regBody o.d o.a o.b valShr)
/-- sar: a shifted right by n with its sign (R156). -/
def execSar (o : RRS) (s : State) : Host.Outcome State Fault Refusal :=
  issue (.sar o) s (regBody o.d o.a o.b valSar)
/-- rol: a rotated left by n (R156). -/
def execRol (o : RRS) (s : State) : Host.Outcome State Fault Refusal :=
  issue (.rol o) s (regBody o.d o.a o.b valRol)
/-- mul: the low 64 bits of a × b (R156); LA opens a window (R145). -/
def execMul (o : RRSL) (s : State) : Host.Outcome State Fault Refusal :=
  issue (.mul o) s (withLook (.mul o) o.la false (regBody o.d o.a o.b (· * ·)))
/-- mulh: bits [127:64] of the signed product (R156); LA opens a window (R145). -/
def execMulh (o : RRSL) (s : State) : Host.Outcome State Fault Refusal :=
  issue (.mulh o) s (withLook (.mulh o) o.la false (regBody o.d o.a o.b valMulh))
/-- mulhn: bits [127:64] of the unsigned product (R156); LA opens a window (R145). -/
def execMulhn (o : RRSL) (s : State) : Host.Outcome State Fault Refusal :=
  issue (.mulhn o) s (withLook (.mulhn o) o.la false (regBody o.d o.a o.b valMulhn))
/-- div: the signed quotient (R157); LA opens a window (R145). -/
def execDiv (o : RRSL) (s : State) : Host.Outcome State Fault Refusal :=
  issue (.div o) s (withLook (.div o) o.la false (regBody o.d o.a o.b valDiv))
/-- divn: the unsigned quotient (R157); LA opens a window (R145). -/
def execDivn (o : RRSL) (s : State) : Host.Outcome State Fault Refusal :=
  issue (.divn o) s (withLook (.divn o) o.la false (regBody o.d o.a o.b valDivn))
/-- rem: the signed remainder (R157); LA opens a window (R145). -/
def execRem (o : RRSL) (s : State) : Host.Outcome State Fault Refusal :=
  issue (.rem o) s (withLook (.rem o) o.la false (regBody o.d o.a o.b valRem))
/-- remn: the unsigned remainder (R157); LA opens a window (R145). -/
def execRemn (o : RRSL) (s : State) : Host.Outcome State Fault Refusal :=
  issue (.remn o) s (withLook (.remn o) o.la false (regBody o.d o.a o.b valRemn))
/-- min: the lesser, signed (R156). -/
def execMin (o : RRS) (s : State) : Host.Outcome State Fault Refusal :=
  issue (.min o) s (regBody o.d o.a o.b valMin)
/-- max: the greater, signed (R156). -/
def execMax (o : RRS) (s : State) : Host.Outcome State Fault Refusal :=
  issue (.max o) s (regBody o.d o.a o.b valMax)
/-- minn: the lesser, unsigned (R156). -/
def execMinn (o : RRS) (s : State) : Host.Outcome State Fault Refusal :=
  issue (.minn o) s (regBody o.d o.a o.b valMinn)
/-- maxn: the greater, unsigned (R156). -/
def execMaxn (o : RRS) (s : State) : Host.Outcome State Fault Refusal :=
  issue (.maxn o) s (regBody o.d o.a o.b valMaxn)
/-- slt: 1 if a < b, signed (R156). -/
def execSlt (o : RRS) (s : State) : Host.Outcome State Fault Refusal :=
  issue (.slt o) s (regBody o.d o.a o.b (fun a b => flag (a.slt b)))
/-- sltn: 1 if a < b, unsigned (R156). -/
def execSltn (o : RRS) (s : State) : Host.Outcome State Fault Refusal :=
  issue (.sltn o) s (regBody o.d o.a o.b (fun a b => flag (a.ult b)))
/-- seq: 1 if a = b (R156). -/
def execSeq (o : RRS) (s : State) : Host.Outcome State Fault Refusal :=
  issue (.seq o) s (regBody o.d o.a o.b (fun a b => flag (a == b)))
/-- sel: a if g[C] ≠ 0, else g[B] (R156). -/
def execSel (d a b c : Reg) (s : State) : Host.Outcome State Fault Refusal :=
  issue (.sel d a b c) s fun s k t =>
    .next (s.setReg k d (if t.ctx.gpr c ≠ 0 then t.ctx.gpr a else t.ctx.gpr b))
/-- clz: leading zero bits of a (R156). -/
def execClz (d a : Reg) (s : State) : Host.Outcome State Fault Refusal :=
  issue (.clz d a) s (unary d a valClz)
/-- ctz: trailing zero bits of a (R156). -/
def execCtz (d a : Reg) (s : State) : Host.Outcome State Fault Refusal :=
  issue (.ctz d a) s (unary d a valCtz)
/-- popc: number of 1 bits of a (R156). -/
def execPopc (d a : Reg) (s : State) : Host.Outcome State Fault Refusal :=
  issue (.popc d a) s (unary d a valPopc)
/-- bext (R156). -/
def execBext (o : RRS) (s : State) : Host.Outcome State Fault Refusal :=
  issue (.bext o) s (regBody o.d o.a o.b valBext)
/-- bins: a field of a put into the old value of gd (R156). -/
def execBins (o : RRS) (s : State) : Host.Outcome State Fault Refusal :=
  issue (.bins o) s fun s k t =>
    .next (s.setReg k o.d (valBins (t.ctx.gpr o.d) (t.ctx.gpr o.a) (srcVal t.ctx o.b)))
/-- sext (R156). -/
def execSext (d a : Reg) (w : Width) (s : State) : Host.Outcome State Fault Refusal :=
  issue (.sext d a w) s (unary d a (valSext w))
/-- zext (R156). -/
def execZext (d a : Reg) (w : Width) (s : State) : Host.Outcome State Fault Refusal :=
  issue (.zext d a w) s (unary d a (valZext w))
/-- bswap (R156). -/
def execBswap (d a : Reg) (s : State) : Host.Outcome State Fault Refusal :=
  issue (.bswap d a) s (unary d a valBswap)

/-! ### OP 0x02 to 0x07 (R158) -/

/-- addi: IMM16 sign-extended (R158). -/
def execAddi (o : RRI) (s : State) : Host.Outcome State Fault Refusal :=
  issue (.addi o) s (unary o.d o.a (· + immS o.imm))
/-- andi: IMM16 sign-extended (R158). -/
def execAndi (o : RRI) (s : State) : Host.Outcome State Fault Refusal :=
  issue (.andi o) s (unary o.d o.a (· &&& immS o.imm))
/-- ori: IMM16 zero-extended (R158). -/
def execOri (o : RRI) (s : State) : Host.Outcome State Fault Refusal :=
  issue (.ori o) s (unary o.d o.a (· ||| immU o.imm))
/-- xori: IMM16 zero-extended (R158). -/
def execXori (o : RRI) (s : State) : Host.Outcome State Fault Refusal :=
  issue (.xori o) s (unary o.d o.a (· ^^^ immU o.imm))
/-- li with IMM16 sign-extended (R158). -/
def execLi (d : Reg) (imm : BitVec 16) (s : State) : Host.Outcome State Fault Refusal :=
  issue (.li d imm) s fun s k _ => .next (s.setReg k d (imm.signExtend 64))
/-- li with a 64-bit literal (R158). -/
def execLiImm64 (d : Reg) (w : Word) (s : State) : Host.Outcome State Fault Refusal :=
  issue (.liImm64 d w) s fun s k _ => .next (s.setReg k d w)
/-- lil: IMM16 zero-extended (R158). -/
def execLil (d : Reg) (imm : BitVec 16) (s : State) : Host.Outcome State Fault Refusal :=
  issue (.lil d imm) s fun s k _ => .next (s.setReg k d (imm.zeroExtend 64))
/-- lhi: gd shifted left by 16 with IMM16 below (R158). -/
def execLhi (d : Reg) (imm : BitVec 16) (s : State) : Host.Outcome State Fault Refusal :=
  issue (.lhi d imm) s fun s k t => .next (s.setReg k d (valLhi (t.ctx.gpr d) imm))
/-- shli (R158). -/
def execShli (o : RRN) (s : State) : Host.Outcome State Fault Refusal :=
  issue (.shli o) s (unary o.d o.a (· <<< o.n.toNat))
/-- shri (R158). -/
def execShri (o : RRN) (s : State) : Host.Outcome State Fault Refusal :=
  issue (.shri o) s (unary o.d o.a (· >>> o.n.toNat))
/-- sari (R158). -/
def execSari (o : RRN) (s : State) : Host.Outcome State Fault Refusal :=
  issue (.sari o) s (unary o.d o.a fun a => a.sshiftRight o.n.toNat)
/-- slti: IMM12 sign-extended (R158). -/
def execSlti (o : RMem) (s : State) : Host.Outcome State Fault Refusal :=
  issue (.slti o) s (unary o.d o.a fun a => flag (a.slt (dispS o.imm)))
/-- sltni: IMM12 zero-extended (R158). -/
def execSltni (o : RMem) (s : State) : Host.Outcome State Fault Refusal :=
  issue (.sltni o) s (unary o.d o.a fun a => flag (a.ult (dispU o.imm)))
/-- lea: g[A] + imm, with no access (R158). -/
def execLea (o : RMem) (s : State) : Host.Outcome State Fault Refusal :=
  issue (.lea o) s (unary o.d o.a (· + dispS o.imm))

/-! ### Branches and jumps (R159) -/

/-- beq: taken when gd and ga are equal (R159). -/
def execBeq (o : Branch) (s : State) : Host.Outcome State Fault Refusal :=
  issue (.beq o) s (branchBody o.off fun c => c.gpr o.d == c.gpr o.a)
/-- bne: taken when gd and ga are not equal (R159). -/
def execBne (o : Branch) (s : State) : Host.Outcome State Fault Refusal :=
  issue (.bne o) s (branchBody o.off fun c => c.gpr o.d != c.gpr o.a)
/-- blt: taken when gd and ga are less, signed (R159). -/
def execBlt (o : Branch) (s : State) : Host.Outcome State Fault Refusal :=
  issue (.blt o) s (branchBody o.off fun c => (c.gpr o.d).slt (c.gpr o.a))
/-- bge: taken when gd and ga are not less, signed (R159). -/
def execBge (o : Branch) (s : State) : Host.Outcome State Fault Refusal :=
  issue (.bge o) s (branchBody o.off fun c => !(c.gpr o.d).slt (c.gpr o.a))
/-- bltn: taken when gd and ga are less, unsigned (R159). -/
def execBltn (o : Branch) (s : State) : Host.Outcome State Fault Refusal :=
  issue (.bltn o) s (branchBody o.off fun c => (c.gpr o.d).ult (c.gpr o.a))
/-- bgen: taken when gd and ga are not less, unsigned (R159). -/
def execBgen (o : Branch) (s : State) : Host.Outcome State Fault Refusal :=
  issue (.bgen o) s (branchBody o.off fun c => !(c.gpr o.d).ult (c.gpr o.a))
/-- beqi: taken when ga equals the value, 0 without a literal (R159). -/
def execBeqi (o : BranchI) (s : State) : Host.Outcome State Fault Refusal :=
  issue (.beqi o) s (branchBody o.off fun c => c.gpr o.a == o.value.getD 0)
/-- bnei: taken when ga differs from the value (R159). -/
def execBnei (o : BranchI) (s : State) : Host.Outcome State Fault Refusal :=
  issue (.bnei o) s (branchBody o.off fun c => c.gpr o.a != o.value.getD 0)
/-- loop: ga counts down, taken when the new value is not 0 (R159). -/
def execLoop (a : Reg) (off : BitVec 16) (s : State) : Host.Outcome State Fault Refusal :=
  issue (.loop a off) s fun s k t =>
    let v := t.ctx.gpr a - 1
    let s := s.setReg k a v
    if v ≠ 0 then .jump s (target16 t.ctx off) else .next s
/-- j (R159). -/
def execJ (off : BitVec 16) (s : State) : Host.Outcome State Fault Refusal :=
  issue (.j off) s fun s _ t => .jump s (target16 t.ctx off)
/-- jr (R105, R159). -/
def execJr (a : Reg) (s : State) : Host.Outcome State Fault Refusal :=
  issue (.jr a) s (jumpReg a fun s => s)
/-- jalr reads its target before it writes lr (R105, R159). -/
def execJalr (a : Reg) (s : State) : Host.Outcome State Fault Refusal :=
  issue (.jalr a) s fun s k t => jumpReg a (fun s => s.setReg k regLr (t.ctx.pc + 4)) s k t
/-- jal (R105, R159). -/
def execJal (d : Reg) (off : BitVec 20) (s : State) : Host.Outcome State Fault Refusal :=
  issue (.jal d off) s fun s k t => .jump (s.setReg k d (t.ctx.pc + 4)) (target20 t.ctx off)

end Sys2Proof.Machine
end

