-- ==== Sys2Proof/Machine/Vector.lean ====
section
/-! DEFINITION. The vector unit: commands that enter the queue (R255 to R260, R271 to R281), vfence and vstat, and the vector memory
commands (R266 to R270). -/
namespace Sys2Proof.Machine
open Sys2Proof

/-! ### The vector queue (R255 to R260) -/

/-- The command that an instruction places in the queue, with what it captures (R255). -/
def vcmdOf (i : Instr) (o : VArgs) (c : Ctx) : VCmd :=
  { instr := i, s0 := c.gpr o.a, s1 := c.gpr o.b, nsm := c.nsm, pc := c.pc, base := (encode i).base
    lit := (encode i).lit.getD 0 }

/-- A command placed in the queue; a full queue first starts its oldest command (R255). -/
def pushV (x : VCmd) (c : Ctx) : Ctx :=
  let c := if c.vq.length < 8 then c else runOldest c
  { c with vq := c.vq ++ [x] }

/-- A vector command that enters the queue. -/
def vecBody (i : Instr) (o : VArgs) : Body := fun s k t =>
  .next (s.modThread k fun t' => t'.modCtx (pushV (vcmdOf i o t.ctx)))

/-- The operand record of a vector command (R260, R433). -/
def VCmd.record (x : VCmd) : OpRec := { pc := x.pc, base := x.base, lit := x.lit, va := x.s0, vb := x.s1 }

/-- A command of a thread starts (R256). Where both runs fail the residue check, its destination is not written, the rest of the queue is
discarded, and the thread takes UNCORRECTABLE before its next instruction; the event is counted (R260, R469). -/
def execVectorCommandStart (thread : Nat) (mismatch : Bool) (s : State) : Host.Outcome State Fault Refusal :=
  .next (match s.thread? thread with
    | none => s
    | some t => match t.ctx.vq with
      | [] => s
      | x :: _ =>
        let c := t.pcell
        let slot := (t.slot?.map Prod.snd).getD 0
        let s := s.setCell c { s.cell c with vrot := (slot + 1) % 16 }
        if mismatch then
          (s.setThread thread { t with ctx := { t.ctx with vq := [] }, vErr := some x.record }).countEvent (.vector c) x.pc
        else s.setThread thread (t.modCtx runOldest))

/-- vfence (R257); in a gang the leader's waits for the queue of every member (R282). -/
def execVfence (s : State) : Host.Outcome State Fault Refusal := issue .vfence s fun s k t => .next (s.drainCrew k t)

/-- vstat: the vector flags, which it clears (R258), each member's own in a gang (R282). -/
def execVstat (d : Reg) (s : State) : Host.Outcome State Fault Refusal :=
  issue (.vstat d) s fun s k t => .next ((s.drainCrew k t).modThread k fun t => t.modCtx fun c =>
    { c.setGpr d (c.vflags.zeroExtend 64) with vflags := 0 })

/-! ### Vector memory commands (R266 to R270) -/

/-- An active lane of a memory command: its number, its address, its bytes. -/
structure Lane where
  i : Nat
  va : Word
  n : Nat
  deriving DecidableEq, Repr

/-- The active lanes of a command with their addresses, in ascending order (R262, R267). -/
def activeLanes (c : Ctx) (o : VArgs) (addr : Nat → Word) : List Lane :=
  let w := o.ty.width
  ((List.range (512 / w)).filter fun i => (maskBits c o).getLsbD i).map fun i => ⟨i, addr i, max 1 (w / 8)⟩

/-- The lanes of vld and vst: the block at S0. -/
def blockLanes (c : Ctx) (o : VArgs) : List Lane := activeLanes c o fun i => c.gpr o.a + word (i * o.ty.width / 8)

/-- The lanes of vlds and vsts. -/
def stridedLanes (c : Ctx) (o : VArgs) : List Lane := activeLanes c o fun i => c.gpr o.a + word i * c.gpr o.b

/-- The lanes of vgath and vscat. -/
def indexedLanes (c : Ctx) (o : VArgs) : List Lane :=
  let w := o.ty.width
  activeLanes c o fun i => c.gpr o.a + (BitVec.ofInt 64 (signedOf w ((lanes w (c.vr o.vb)).getD i 0)) <<< o.vimm.toNat)

/-- A fault at a lane (R268, R434). -/
def laneFlt (code : Nat) (l : Lane) : Flt :=
  { code := code, faddr := l.va
    detail := if code = fAddress ∨ code = fMisaligned ∨ code = fLocked then word l.i else 0 }

/-- The checks of R178 for one lane: `aligned` is the alignment of its row. -/
def checkLane (s : State) (w : Who) (acc : Acc) (aligned : Bool) (l : Lane) : Except Flt Loc :=
  let cls := fld l.va 56 8
  if cls == 0x7F && !w.sup then .error (laneFlt fPrivilege l)
  else if !(decide (cls ≤ 0x40) || cls == 0x50 || cls == 0x60) then .error (laneFlt fAddress l)
  else if !aligned then .error (laneFlt fMisaligned l)
  else match placeOf s w acc l.va l.n with
    | .error c => .error (laneFlt c l)
    | .ok loc => if lockedOut (s.locksFor w l.va loc l.n) acc then .error (laneFlt fLocked l) else .ok loc

/-- The checks of every active lane, in ascending order (R268). -/
def checkLanes (w : Who) (acc : Acc) (aligned : Lane → Bool) : State → List Lane → Except (State × Flt) (State × List (Lane × Loc))
  | s, [] => .ok (s, [])
  | s, l :: ls => match checkLane s w acc (aligned l) l with
    | .error f => .error (s, f)
    | .ok loc => match checkLanes w acc aligned (s.fillTlb w.cell false loc) ls with
      | .error e => .error e
      | .ok r => .ok (r.1, (l, loc) :: r.2)

/-- The elements of lanes read, as numbers by lane. A nibble is taken out of its byte. -/
def readLanes (w : Who) (half : Bool) (pc : Word) : State → List (Lane × Loc) → Except (State × Flt) (State × List (Nat × Nat))
  | s, [] => .ok (s, [])
  | s, (l, loc) :: ls => match readOwn s w loc l.n (isCached s w loc) with
    | .error c => .error (s.storedError w.cell loc.key l.n pc, laneFlt c l)
    | .ok (bs, s) => match readLanes w half pc s ls with
      | .error e => .error e
      | .ok r =>
        let v := leVal bs
        .ok (r.1, (l.i, if half then v / 2 ^ (4 * (l.i % 2)) % 16 else v) :: r.2)

/-- The elements of lanes written in ascending order; a store that is answered with an error stops there (R268). -/
def writeLanesMem (w : Who) (half : Bool) (xs : List Nat) (k : Nat) : State → List (Lane × Loc) → Except (State × Flt) State
  | s, [] => .ok s
  | s, (l, loc) :: ls =>
    let x := xs.getD l.i 0
    let cached := isCached s w loc
    let old : Nat := if half then
        (match readAt s w loc 1 cached with
          | .ok (bs, _) => leVal bs
          | .error _ => 0)
      else 0
    let v := if half then (if l.i % 2 = 0 then old / 16 * 16 + x % 16 else x % 16 * 16 + old % 16) else x
    match writeAt s w loc (leOf l.n v) cached with
    | .error c => .error (s, laneFlt c l)
    | .ok s => writeLanesMem w half xs k (s.noteGen k (s.genOf w loc)) ls

/-- A vector load of the given lanes: only when every lane has passed does it read, and then write its active lanes (R268). -/
def vecLoad (o : VArgs) (aligned : Lane → Bool) (ls : Ctx → List Lane) : Body := fun s k _ =>
  orTrap ((s.drainV k).waitRx k) fun s => match s.thread? k with
    | none => .stay s
    | some t =>
      let w := s.whoOf t
      orTrap (checkLanes w .load aligned s (ls t.ctx)) fun r =>
      orTrap (readLanes w (o.ty.width == 4) t.ctx.pc r.1 r.2) fun q =>
      let e := o.ty.width
      let old := lanes e (t.ctx.vr o.vd)
      let new := q.2.foldl (fun l x => l.set x.1 x.2) old
      .next (q.1.modThread k fun t => t.modCtx fun c => c.setVr o.vd (pack e new))

/-- A vector store of the given lanes (R268). -/
def vecStore (o : VArgs) (aligned : Lane → Bool) (ls : Ctx → List Lane) : Body := fun s k _ =>
  orTrap ((s.drainV k).waitRx k) fun s => match s.thread? k with
    | none => .stay s
    | some t =>
      let w := s.whoOf t
      orTrap (checkLanes w .store aligned s (ls t.ctx)) fun r =>
      orTrap (writeLanesMem w (o.ty.width == 4) (lanes o.ty.width (t.ctx.vr o.va)) k r.1 r.2) fun s => .next s

/-! ### vld and vst through alias windows (R269) -/

/-- The checks of the lanes of an alias access: the type, alignment, then each element's bytes and scale record. -/
def aliasLanes (s : State) (t : Thread) (o : VArgs) (acc : Acc) : List Lane → Except (State × Flt) Unit
  | [] => .ok ()
  | l :: ls =>
    let w := s.whoOf t
    let a := aliasOf s w.cell l.va
    if o.ty ≠ .f32 then .error (s, laneFlt fAddress l)
    else if fld (t.ctx.gpr o.a) 0 6 ≠ 0 then .error (s, laneFlt fMisaligned l)
    else match aliasCheck s w acc l.va (elemRanges a.1 a.2) with
      | .error f => .error (s, laneFlt f.code l)
      | .ok _ => aliasLanes s t o acc ls

/-- vld through an alias window. -/
def aliasVld (s : State) (k : Nat) (t : Thread) (o : VArgs) : Res :=
  let ls := blockLanes t.ctx o
  orTrap (aliasLanes s t o .load ls) fun _ =>
    match ls.foldlM (fun (acc : List (Nat × Nat)) l => (aliasLoad s t l.va).map fun v => acc ++ [(l.i, v.toNat)]) [] with
    | .error (s, f) => .trap s f
    | .ok vs =>
      let new := vs.foldl (fun l x => l.set x.1 x.2) (lanes 32 (t.ctx.vr o.vd))
      .next (s.modThread k fun t => t.modCtx fun c => c.setVr o.vd (pack 32 new))

/-- vst through an alias window. -/
def aliasVst (s : State) (t : Thread) (o : VArgs) : Res :=
  let ls := blockLanes t.ctx o
  let xs := lanes 32 (t.ctx.vr o.va)
  orTrap (aliasLanes s t o .store ls) fun _ =>
    match ls.foldlM (fun s l => aliasStore s t l.va (BitVec.ofNat 32 (xs.getD l.i 0)) id) s with
    | .error (s, f) => .trap s f
    | .ok s => .next s

/-- Whether every lane of a block access is aligned: S0 is a multiple of 64. -/
def blockAligned (c : Ctx) (o : VArgs) : Bool := fld (c.gpr o.a) 0 6 == 0

/-- Whether a lane's address is a multiple of its bytes. -/
def laneAligned (l : Lane) : Bool := l.va.toNat % l.n == 0

/-- vld: the block at S0, or sixteen elements of an alias window (R267, R269). -/
def execVld (o : VArgs) (s : State) : Host.Outcome State Fault Refusal :=
  issue (.vld o) s fun s k t =>
    if isAlias (t.ctx.gpr o.a) then
      orTrap ((s.drainV k).waitRx k) fun s => match s.thread? k with
        | some t => aliasVld s k t o
        | none => .stay s
    else vecLoad o (fun _ => blockAligned t.ctx o) (fun c => blockLanes c o) s k t
/-- vst (R267, R269). -/
def execVst (o : VArgs) (s : State) : Host.Outcome State Fault Refusal :=
  issue (.vst o) s fun s k t =>
    if isAlias (t.ctx.gpr o.a) then
      orTrap ((s.drainV k).waitRx k) fun s => match s.thread? k with
        | some t => aliasVst s t o
        | none => .stay s
    else vecStore o (fun _ => blockAligned t.ctx o) (fun c => blockLanes c o) s k t
/-- vlds (R267). -/
def execVlds (o : VArgs) (s : State) : Host.Outcome State Fault Refusal :=
  issue (.vlds o) s (vecLoad o laneAligned fun c => stridedLanes c o)
/-- vsts (R267). -/
def execVsts (o : VArgs) (s : State) : Host.Outcome State Fault Refusal :=
  issue (.vsts o) s (vecStore o laneAligned fun c => stridedLanes c o)
/-- vgath (R267). -/
def execVgath (o : VArgs) (s : State) : Host.Outcome State Fault Refusal :=
  issue (.vgath o) s (vecLoad o laneAligned fun c => indexedLanes c o)
/-- vscat (R267). -/
def execVscat (o : VArgs) (s : State) : Host.Outcome State Fault Refusal :=
  issue (.vscat o) s (vecStore o laneAligned fun c => indexedLanes c o)

/-! ### Commands that enter the queue (R271 to R281) -/

/-- vadd: queued with its captured operands; `runVector` gives its effect (R271). -/
def execVadd (o : VArgs) (s : State) : Host.Outcome State Fault Refusal := issue (.vadd o) s (vecBody (.vadd o) o)
/-- vsub: queued with its captured operands; `runVector` gives its effect (R271). -/
def execVsub (o : VArgs) (s : State) : Host.Outcome State Fault Refusal := issue (.vsub o) s (vecBody (.vsub o) o)
/-- vmul: queued with its captured operands; `runVector` gives its effect (R271). -/
def execVmul (o : VArgs) (s : State) : Host.Outcome State Fault Refusal := issue (.vmul o) s (vecBody (.vmul o) o)
/-- vfma: queued with its captured operands; `runVector` gives its effect (R271). -/
def execVfma (o : VArgs) (s : State) : Host.Outcome State Fault Refusal := issue (.vfma o) s (vecBody (.vfma o) o)
/-- vfms: queued with its captured operands; `runVector` gives its effect (R271). -/
def execVfms (o : VArgs) (s : State) : Host.Outcome State Fault Refusal := issue (.vfms o) s (vecBody (.vfms o) o)
/-- vmin: queued with its captured operands; `runVector` gives its effect (R271). -/
def execVmin (o : VArgs) (s : State) : Host.Outcome State Fault Refusal := issue (.vmin o) s (vecBody (.vmin o) o)
/-- vmax: queued with its captured operands; `runVector` gives its effect (R271). -/
def execVmax (o : VArgs) (s : State) : Host.Outcome State Fault Refusal := issue (.vmax o) s (vecBody (.vmax o) o)
/-- vabs: queued with its captured operands; `runVector` gives its effect (R271). -/
def execVabs (o : VArgs) (s : State) : Host.Outcome State Fault Refusal := issue (.vabs o) s (vecBody (.vabs o) o)
/-- vneg: queued with its captured operands; `runVector` gives its effect (R271). -/
def execVneg (o : VArgs) (s : State) : Host.Outcome State Fault Refusal := issue (.vneg o) s (vecBody (.vneg o) o)
/-- vand: queued with its captured operands; `runVector` gives its effect (R271). -/
def execVand (o : VArgs) (s : State) : Host.Outcome State Fault Refusal := issue (.vand o) s (vecBody (.vand o) o)
/-- vor: queued with its captured operands; `runVector` gives its effect (R271). -/
def execVor (o : VArgs) (s : State) : Host.Outcome State Fault Refusal := issue (.vor o) s (vecBody (.vor o) o)
/-- vxor: queued with its captured operands; `runVector` gives its effect (R271). -/
def execVxor (o : VArgs) (s : State) : Host.Outcome State Fault Refusal := issue (.vxor o) s (vecBody (.vxor o) o)
/-- vshl: queued with its captured operands; `runVector` gives its effect (R271). -/
def execVshl (o : VArgs) (s : State) : Host.Outcome State Fault Refusal := issue (.vshl o) s (vecBody (.vshl o) o)
/-- vshr: queued with its captured operands; `runVector` gives its effect (R271). -/
def execVshr (o : VArgs) (s : State) : Host.Outcome State Fault Refusal := issue (.vshr o) s (vecBody (.vshr o) o)
/-- vsar: queued with its captured operands; `runVector` gives its effect (R271). -/
def execVsar (o : VArgs) (s : State) : Host.Outcome State Fault Refusal := issue (.vsar o) s (vecBody (.vsar o) o)
/-- vcmp: queued with its captured operands; `runVector` gives its effect (R274). -/
def execVcmp (o : VArgs) (s : State) : Host.Outcome State Fault Refusal := issue (.vcmp o) s (vecBody (.vcmp o) o)
/-- vsel: queued with its captured operands; `runVector` gives its effect (R275). -/
def execVsel (o : VArgs) (s : State) : Host.Outcome State Fault Refusal := issue (.vsel o) s (vecBody (.vsel o) o)
/-- vred: queued with its captured operands; `runVector` gives its effect (R276). -/
def execVred (o : VArgs) (s : State) : Host.Outcome State Fault Refusal := issue (.vred o) s (vecBody (.vred o) o)
/-- vcvt: queued with its captured operands; `runVector` gives its effect (R277). -/
def execVcvt (o : VArgs) (s : State) : Host.Outcome State Fault Refusal := issue (.vcvt o) s (vecBody (.vcvt o) o)
/-- vbfpEnc: queued with its captured operands; `runVector` gives its effect (R278). -/
def execVbfpEnc (o : VArgs) (s : State) : Host.Outcome State Fault Refusal := issue (.vbfpEnc o) s (vecBody (.vbfpEnc o) o)
/-- vbfpDec: queued with its captured operands; `runVector` gives its effect (R278). -/
def execVbfpDec (o : VArgs) (s : State) : Host.Outcome State Fault Refusal := issue (.vbfpDec o) s (vecBody (.vbfpDec o) o)
/-- vxaccAdd: queued with its captured operands; `runVector` gives its effect (R279). -/
def execVxaccAdd (o : VArgs) (s : State) : Host.Outcome State Fault Refusal := issue (.vxaccAdd o) s (vecBody (.vxaccAdd o) o)
/-- vxaccCombine: queued with its captured operands; `runVector` gives its effect (R279). -/
def execVxaccCombine (o : VArgs) (s : State) : Host.Outcome State Fault Refusal := issue (.vxaccCombine o) s (vecBody (.vxaccCombine o) o)
/-- vxfin: queued with its captured operands; `runVector` gives its effect (R280). -/
def execVxfin (o : VArgs) (s : State) : Host.Outcome State Fault Refusal := issue (.vxfin o) s (vecBody (.vxfin o) o)
/-- vsplat: queued with its captured operands; `runVector` gives its effect (R275). -/
def execVsplat (o : VArgs) (s : State) : Host.Outcome State Fault Refusal := issue (.vsplat o) s (vecBody (.vsplat o) o)
/-- vperm: queued with its captured operands; `runVector` gives its effect (R275). -/
def execVperm (o : VArgs) (s : State) : Host.Outcome State Fault Refusal := issue (.vperm o) s (vecBody (.vperm o) o)
/-- vmov: queued with its captured operands; `runVector` gives its effect (R275). -/
def execVmov (o : VArgs) (s : State) : Host.Outcome State Fault Refusal := issue (.vmov o) s (vecBody (.vmov o) o)
/-- vext: queued with its captured operands; `runVector` gives its effect (R275). -/
def execVext (o : VArgs) (s : State) : Host.Outcome State Fault Refusal := issue (.vext o) s (vecBody (.vext o) o)
/-- vins: queued with its captured operands; `runVector` gives its effect (R275). -/
def execVins (o : VArgs) (s : State) : Host.Outcome State Fault Refusal := issue (.vins o) s (vecBody (.vins o) o)
/-- vrngDraw: queued with its captured operands; `runVector` gives its effect (R281). -/
def execVrngDraw (o : VArgs) (s : State) : Host.Outcome State Fault Refusal := issue (.vrngDraw o) s (vecBody (.vrngDraw o) o)
/-- vrngAdv: queued with its captured operands; `runVector` gives its effect (R281). -/
def execVrngAdv (o : VArgs) (s : State) : Host.Outcome State Fault Refusal := issue (.vrngAdv o) s (vecBody (.vrngAdv o) o)

end Sys2Proof.Machine
end

