-- ==== Sys2Proof/Machine/Dispatch.lean ====
section
/-! DEFINITION. The meaning of every step, one arm per constructor of Instr. -/
namespace Sys2Proof.Machine
open Sys2Proof

def exec (i : Instr) (s : State) : Host.Outcome State Fault Refusal :=
  match i with
  | .add o => Sys2Proof.Machine.execAdd o s
  | .sub o => Sys2Proof.Machine.execSub o s
  | .and o => Sys2Proof.Machine.execAnd o s
  | .or o => Sys2Proof.Machine.execOr o s
  | .xor o => Sys2Proof.Machine.execXor o s
  | .andn o => Sys2Proof.Machine.execAndn o s
  | .shl o => Sys2Proof.Machine.execShl o s
  | .shr o => Sys2Proof.Machine.execShr o s
  | .sar o => Sys2Proof.Machine.execSar o s
  | .rol o => Sys2Proof.Machine.execRol o s
  | .mul o => Sys2Proof.Machine.execMul o s
  | .mulh o => Sys2Proof.Machine.execMulh o s
  | .mulhn o => Sys2Proof.Machine.execMulhn o s
  | .div o => Sys2Proof.Machine.execDiv o s
  | .divn o => Sys2Proof.Machine.execDivn o s
  | .rem o => Sys2Proof.Machine.execRem o s
  | .remn o => Sys2Proof.Machine.execRemn o s
  | .min o => Sys2Proof.Machine.execMin o s
  | .max o => Sys2Proof.Machine.execMax o s
  | .minn o => Sys2Proof.Machine.execMinn o s
  | .maxn o => Sys2Proof.Machine.execMaxn o s
  | .slt o => Sys2Proof.Machine.execSlt o s
  | .sltn o => Sys2Proof.Machine.execSltn o s
  | .seq o => Sys2Proof.Machine.execSeq o s
  | .sel d a b c => Sys2Proof.Machine.execSel d a b c s
  | .clz d a => Sys2Proof.Machine.execClz d a s
  | .ctz d a => Sys2Proof.Machine.execCtz d a s
  | .popc d a => Sys2Proof.Machine.execPopc d a s
  | .bext o => Sys2Proof.Machine.execBext o s
  | .bins o => Sys2Proof.Machine.execBins o s
  | .sext d a w => Sys2Proof.Machine.execSext d a w s
  | .zext d a w => Sys2Proof.Machine.execZext d a w s
  | .bswap d a => Sys2Proof.Machine.execBswap d a s
  | .addi o => Sys2Proof.Machine.execAddi o s
  | .andi o => Sys2Proof.Machine.execAndi o s
  | .ori o => Sys2Proof.Machine.execOri o s
  | .xori o => Sys2Proof.Machine.execXori o s
  | .li d imm => Sys2Proof.Machine.execLi d imm s
  | .liImm64 d w => Sys2Proof.Machine.execLiImm64 d w s
  | .lil d imm => Sys2Proof.Machine.execLil d imm s
  | .lhi d imm => Sys2Proof.Machine.execLhi d imm s
  | .shli o => Sys2Proof.Machine.execShli o s
  | .shri o => Sys2Proof.Machine.execShri o s
  | .sari o => Sys2Proof.Machine.execSari o s
  | .slti o => Sys2Proof.Machine.execSlti o s
  | .sltni o => Sys2Proof.Machine.execSltni o s
  | .lea o => Sys2Proof.Machine.execLea o s
  | .beq o => Sys2Proof.Machine.execBeq o s
  | .bne o => Sys2Proof.Machine.execBne o s
  | .blt o => Sys2Proof.Machine.execBlt o s
  | .bge o => Sys2Proof.Machine.execBge o s
  | .bltn o => Sys2Proof.Machine.execBltn o s
  | .bgen o => Sys2Proof.Machine.execBgen o s
  | .beqi o => Sys2Proof.Machine.execBeqi o s
  | .bnei o => Sys2Proof.Machine.execBnei o s
  | .loop a off => Sys2Proof.Machine.execLoop a off s
  | .j off => Sys2Proof.Machine.execJ off s
  | .jr a => Sys2Proof.Machine.execJr a s
  | .jalr a => Sys2Proof.Machine.execJalr a s
  | .jal d off => Sys2Proof.Machine.execJal d off s
  | .ldb o => Sys2Proof.Machine.execLdb o s
  | .ldh o => Sys2Proof.Machine.execLdh o s
  | .ldw o => Sys2Proof.Machine.execLdw o s
  | .ldd o => Sys2Proof.Machine.execLdd o s
  | .ldbn o => Sys2Proof.Machine.execLdbn o s
  | .ldhn o => Sys2Proof.Machine.execLdhn o s
  | .ldwn o => Sys2Proof.Machine.execLdwn o s
  | .stb o => Sys2Proof.Machine.execStb o s
  | .sth o => Sys2Proof.Machine.execSth o s
  | .stw o => Sys2Proof.Machine.execStw o s
  | .std o => Sys2Proof.Machine.execStd o s
  | .ldff o => Sys2Proof.Machine.execLdff o s
  | .ldfe o => Sys2Proof.Machine.execLdfe o s
  | .stef o => Sys2Proof.Machine.execStef o s
  | .stff o => Sys2Proof.Machine.execStff o s
  | .feq o => Sys2Proof.Machine.execFeq o s
  | .feset a imm => Sys2Proof.Machine.execFeset a imm s
  | .feclr a imm => Sys2Proof.Machine.execFeclr a imm s
  | .afadd o => Sys2Proof.Machine.execAfadd o s
  | .afand o => Sys2Proof.Machine.execAfand o s
  | .afor o => Sys2Proof.Machine.execAfor o s
  | .afxor o => Sys2Proof.Machine.execAfxor o s
  | .afmin o => Sys2Proof.Machine.execAfmin o s
  | .afmax o => Sys2Proof.Machine.execAfmax o s
  | .afminn o => Sys2Proof.Machine.execAfminn o s
  | .afmaxn o => Sys2Proof.Machine.execAfmaxn o s
  | .aswap o => Sys2Proof.Machine.execAswap o s
  | .acas o => Sys2Proof.Machine.execAcas o s
  | .axadd o => Sys2Proof.Machine.execAxadd o s
  | .afaddW o => Sys2Proof.Machine.execAfaddW o s
  | .afandW o => Sys2Proof.Machine.execAfandW o s
  | .aforW o => Sys2Proof.Machine.execAforW o s
  | .afxorW o => Sys2Proof.Machine.execAfxorW o s
  | .afminW o => Sys2Proof.Machine.execAfminW o s
  | .afmaxW o => Sys2Proof.Machine.execAfmaxW o s
  | .afminnW o => Sys2Proof.Machine.execAfminnW o s
  | .afmaxnW o => Sys2Proof.Machine.execAfmaxnW o s
  | .aswapW o => Sys2Proof.Machine.execAswapW o s
  | .acasW o => Sys2Proof.Machine.execAcasW o s
  | .fence => Sys2Proof.Machine.execFence s
  | .fenceExt ord scope => Sys2Proof.Machine.execFenceExt ord scope s
  | .tfence => Sys2Proof.Machine.execTfence s
  | .tfenceExt scope => Sys2Proof.Machine.execTfenceExt scope s
  | .cpy o => Sys2Proof.Machine.execCpy o s
  | .cpyh o => Sys2Proof.Machine.execCpyh o s
  | .cpyw o => Sys2Proof.Machine.execCpyw o s
  | .vfence => Sys2Proof.Machine.execVfence s
  | .vstat d => Sys2Proof.Machine.execVstat d s
  | .gang w => Sys2Proof.Machine.execGang w s
  | .ungang => Sys2Proof.Machine.execUngang s
  | .vld o => Sys2Proof.Machine.execVld o s
  | .vst o => Sys2Proof.Machine.execVst o s
  | .vlds o => Sys2Proof.Machine.execVlds o s
  | .vsts o => Sys2Proof.Machine.execVsts o s
  | .vgath o => Sys2Proof.Machine.execVgath o s
  | .vscat o => Sys2Proof.Machine.execVscat o s
  | .vadd o => Sys2Proof.Machine.execVadd o s
  | .vsub o => Sys2Proof.Machine.execVsub o s
  | .vmul o => Sys2Proof.Machine.execVmul o s
  | .vfma o => Sys2Proof.Machine.execVfma o s
  | .vfms o => Sys2Proof.Machine.execVfms o s
  | .vmin o => Sys2Proof.Machine.execVmin o s
  | .vmax o => Sys2Proof.Machine.execVmax o s
  | .vabs o => Sys2Proof.Machine.execVabs o s
  | .vneg o => Sys2Proof.Machine.execVneg o s
  | .vand o => Sys2Proof.Machine.execVand o s
  | .vor o => Sys2Proof.Machine.execVor o s
  | .vxor o => Sys2Proof.Machine.execVxor o s
  | .vshl o => Sys2Proof.Machine.execVshl o s
  | .vshr o => Sys2Proof.Machine.execVshr o s
  | .vsar o => Sys2Proof.Machine.execVsar o s
  | .vcmp o => Sys2Proof.Machine.execVcmp o s
  | .vsel o => Sys2Proof.Machine.execVsel o s
  | .vred o => Sys2Proof.Machine.execVred o s
  | .vcvt o => Sys2Proof.Machine.execVcvt o s
  | .vbfpEnc o => Sys2Proof.Machine.execVbfpEnc o s
  | .vbfpDec o => Sys2Proof.Machine.execVbfpDec o s
  | .vxaccAdd o => Sys2Proof.Machine.execVxaccAdd o s
  | .vxaccCombine o => Sys2Proof.Machine.execVxaccCombine o s
  | .vxfin o => Sys2Proof.Machine.execVxfin o s
  | .vsplat o => Sys2Proof.Machine.execVsplat o s
  | .vperm o => Sys2Proof.Machine.execVperm o s
  | .vmov o => Sys2Proof.Machine.execVmov o s
  | .vext o => Sys2Proof.Machine.execVext o s
  | .vins o => Sys2Proof.Machine.execVins o s
  | .vrngDraw o => Sys2Proof.Machine.execVrngDraw o s
  | .vrngAdv o => Sys2Proof.Machine.execVrngAdv o s
  | .pbank d a b => Sys2Proof.Machine.execPbank d a b s
  | .pdec d a b => Sys2Proof.Machine.execPdec d a b s
  | .pswap => Sys2Proof.Machine.execPswap s
  | .pass d a => Sys2Proof.Machine.execPass d a s
  | .probe d a => Sys2Proof.Machine.execProbe d a s
  | .pcal a b => Sys2Proof.Machine.execPcal a b s
  | .pstat d a => Sys2Proof.Machine.execPstat d a s
  | .pabort a => Sys2Proof.Machine.execPabort a s
  | .gacc vd va b => Sys2Proof.Machine.execGacc vd va b s
  | .gschur vd b => Sys2Proof.Machine.execGschur vd b s
  | .gdamp vd va => Sys2Proof.Machine.execGdamp vd va s
  | .gmarg vd va => Sys2Proof.Machine.execGmarg vd va s
  | .gpost a vd => Sys2Proof.Machine.execGpost a vd s
  | .gtake vd a => Sys2Proof.Machine.execGtake vd a s
  | .fork a => Sys2Proof.Machine.execFork a s
  | .join a => Sys2Proof.Machine.execJoin a s
  | .tend => Sys2Proof.Machine.execTend s
  | .yield => Sys2Proof.Machine.execYield s
  | .fly a => Sys2Proof.Machine.execFly a s
  | .sleep a => Sys2Proof.Machine.execSleep a s
  | .wfw => Sys2Proof.Machine.execWfw s
  | .wake a => Sys2Proof.Machine.execWake a s
  | .qbind qd port => Sys2Proof.Machine.execQbind qd port s
  | .qrel qd => Sys2Proof.Machine.execQrel qd s
  | .qpush qd a => Sys2Proof.Machine.execQpush qd a s
  | .qpop d qa => Sys2Proof.Machine.execQpop d qa s
  | .mst d a => Sys2Proof.Machine.execMst d a s
  | .shufset d a => Sys2Proof.Machine.execShufset d a s
  | .shuf d a => Sys2Proof.Machine.execShuf d a s
  | .bar a b => Sys2Proof.Machine.execBar a b s
  | .barScoped a b scope => Sys2Proof.Machine.execBarScoped a b scope s
  | .xred d a => Sys2Proof.Machine.execXred d a s
  | .topo d a => Sys2Proof.Machine.execTopo d a s
  | .trap n => Sys2Proof.Machine.execTrap n s
  | .rte => Sys2Proof.Machine.execRte s
  | .urte => Sys2Proof.Machine.execUrte s
  | .ctxsv a b => Sys2Proof.Machine.execCtxsv a b s
  | .ctxld a b => Sys2Proof.Machine.execCtxld a b s
  | .halt => Sys2Proof.Machine.execHalt s
  | .tlbi a b => Sys2Proof.Machine.execTlbi a b s
  | .cap a => Sys2Proof.Machine.execCap a s
  | .scrub a b => Sys2Proof.Machine.execScrub a b s
  | .crr d creg => Sys2Proof.Machine.execCrr d creg s
  | .crw creg a => Sys2Proof.Machine.execCrw creg a s
  | .crs creg a => Sys2Proof.Machine.execCrs creg a s
  | .crc creg a => Sys2Proof.Machine.execCrc creg a s
  | .powerOnBoot pkg world => Sys2Proof.Machine.execPowerOnBoot pkg world s
  | .antiRollbackAdvance pkg => Sys2Proof.Machine.execAntiRollbackAdvance pkg s
  | .measurementExtend pkg n digest => Sys2Proof.Machine.execMeasurementExtend pkg n digest s
  | .getMeasurements pkg nonce => Sys2Proof.Machine.execGetMeasurements pkg nonce s
  | .pldmMonitoring pkg readings => Sys2Proof.Machine.execPldmMonitoring pkg readings s
  | .pldmFirmwareUpdate pkg image => Sys2Proof.Machine.execPldmFirmwareUpdate pkg image s
  | .powerCapSet pkg watts => Sys2Proof.Machine.execPowerCapSet pkg watts s
  | .thermalThrottle pkg die on => Sys2Proof.Machine.execThermalThrottle pkg die on s
  | .thermalShutdown pkg die => Sys2Proof.Machine.execThermalShutdown pkg die s
  | .packageReset pkg => Sys2Proof.Machine.execPackageReset pkg s
  | .launchWrite pkg vf qlocal rec => Sys2Proof.Machine.execLaunchWrite pkg vf qlocal rec s
  | .malformedWrite pkg vf qlocal => Sys2Proof.Machine.execMalformedWrite pkg vf qlocal s
  | .crheadWrite pkg vf qlocal value => Sys2Proof.Machine.execCrheadWrite pkg vf qlocal value s
  | .queueEnable pkg q qctl => Sys2Proof.Machine.execQueueEnable pkg q qctl s
  | .queueDisable pkg q qctl => Sys2Proof.Machine.execQueueDisable pkg q qctl s
  | .registerWrite pkg off value => Sys2Proof.Machine.execRegisterWrite pkg off value s
  | .portstatWrite pkg port value => Sys2Proof.Machine.execPortstatWrite pkg port value s
  | .ringEntryReservation pkg q => Sys2Proof.Machine.execRingEntryReservation pkg q s
  | .launchAdmission pkg => Sys2Proof.Machine.execLaunchAdmission pkg s
  | .swarmMessage launch flat => Sys2Proof.Machine.execSwarmMessage launch flat s
  | .launchRetirement launch => Sys2Proof.Machine.execLaunchRetirement launch s
  | .taskStart cell slot => Sys2Proof.Machine.execTaskStart cell slot s
  | .contextResume cell slot => Sys2Proof.Machine.execContextResume cell slot s
  | .stealAttempt thief => Sys2Proof.Machine.execStealAttempt thief s
  | .stealRequest msg => Sys2Proof.Machine.execStealRequest msg s
  | .stealAnswer msg => Sys2Proof.Machine.execStealAnswer msg s
  | .timesliceExpiry thread => Sys2Proof.Machine.execTimesliceExpiry thread s
  | .gangSlotReservation cell slot => Sys2Proof.Machine.execGangSlotReservation cell slot s
  | .flyArrival thread => Sys2Proof.Machine.execFlyArrival thread s
  | .wakeDelivery msg => Sys2Proof.Machine.execWakeDelivery msg s
  | .clusterQuiesce pkg die lcl target cellMap => Sys2Proof.Machine.execClusterQuiesce pkg die lcl target cellMap s
  | .preemption thread => Sys2Proof.Machine.execPreemption thread s
  | .forcedSave thread => Sys2Proof.Machine.execForcedSave thread s
  | .checkerRetry thread mismatch => Sys2Proof.Machine.execCheckerRetry thread mismatch s
  | .accessCompletion thread => Sys2Proof.Machine.execAccessCompletion thread s
  | .pageWalk cell vf va kind => Sys2Proof.Machine.execPageWalk cell vf va kind s
  | .relaxedStoreAck thread n => Sys2Proof.Machine.execRelaxedStoreAck thread n s
  | .waitLimitExpiry thread => Sys2Proof.Machine.execWaitLimitExpiry thread s
  | .fullEmptyRequest thread => Sys2Proof.Machine.execFullEmptyRequest thread s
  | .parkTableResend thread => Sys2Proof.Machine.execParkTableResend thread s
  | .withdrawal thread => Sys2Proof.Machine.execWithdrawal thread s
  | .withdrawalAnswer thread => Sys2Proof.Machine.execWithdrawalAnswer thread s
  | .sleepExpiry thread => Sys2Proof.Machine.execSleepExpiry thread s
  | .promiseExpiry copy => Sys2Proof.Machine.execPromiseExpiry copy s
  | .promiseMissedUpcall thread => Sys2Proof.Machine.execPromiseMissedUpcall thread s
  | .waysWrite thread value => Sys2Proof.Machine.execWaysWrite thread value s
  | .waysChange cell => Sys2Proof.Machine.execWaysChange cell s
  | .groupWrite cell value => Sys2Proof.Machine.execGroupWrite cell value s
  | .wdescWrite thread n value => Sys2Proof.Machine.execWdescWrite thread n value s
  | .wlimWrite thread value => Sys2Proof.Machine.execWlimWrite thread value s
  | .gpivWrite thread value => Sys2Proof.Machine.execGpivWrite thread value s
  | .tcauseWrite thread value => Sys2Proof.Machine.execTcauseWrite thread value s
  | .copyBlock copy => Sys2Proof.Machine.execCopyBlock copy s
  | .vectorCommandStart thread mismatch => Sys2Proof.Machine.execVectorCommandStart thread mismatch s
  | .tileCaptureEnd omu => Sys2Proof.Machine.execTileCaptureEnd omu s
  | .imageBlockRead omu => Sys2Proof.Machine.execImageBlockRead omu s
  | .decompositionComplete omu => Sys2Proof.Machine.execDecompositionComplete omu s
  | .loadCompletion omu => Sys2Proof.Machine.execLoadCompletion omu s
  | .bankSwap omu => Sys2Proof.Machine.execBankSwap omu s
  | .passStart omu => Sys2Proof.Machine.execPassStart omu s
  | .probeStart omu err => Sys2Proof.Machine.execProbeStart omu err s
  | .scoutVerdict omu err => Sys2Proof.Machine.execScoutVerdict omu err s
  | .resolverAudit omu mismatch => Sys2Proof.Machine.execResolverAudit omu mismatch s
  | .passStop omu => Sys2Proof.Machine.execPassStop omu s
  | .carrierLoss omu => Sys2Proof.Machine.execCarrierLoss omu s
  | .thermalLoss omu => Sys2Proof.Machine.execThermalLoss omu s
  | .spareLineAssignment omu => Sys2Proof.Machine.execSpareLineAssignment omu s
  | .omuRecalibration omu cal => Sys2Proof.Machine.execOmuRecalibration omu cal s
  | .mailboxRequest thread => Sys2Proof.Machine.execMailboxRequest thread s
  | .routerPacket packet => Sys2Proof.Machine.execRouterPacket packet s
  | .multicastData packet => Sys2Proof.Machine.execMulticastData packet s
  | .shuffleBlock packet => Sys2Proof.Machine.execShuffleBlock packet s
  | .shuffleResend packet => Sys2Proof.Machine.execShuffleResend packet s
  | .codedShuffle packet => Sys2Proof.Machine.execCodedShuffle packet s
  | .fallbackRequest packet => Sys2Proof.Machine.execFallbackRequest packet s
  | .xsumReduction packet => Sys2Proof.Machine.execXsumReduction packet s
  | .acknowledgement packet => Sys2Proof.Machine.execAcknowledgement packet s
  | .barrierArrival thread => Sys2Proof.Machine.execBarrierArrival thread s
  | .flitReceive pkg port flit decodes tagOk => Sys2Proof.Machine.execFlitReceive pkg port flit decodes tagOk s
  | .replayTimeout pkg port => Sys2Proof.Machine.execReplayTimeout pkg port s
  | .codeRequest pkg port mode => Sys2Proof.Machine.execCodeRequest pkg port mode s
  | .codeAcknowledgement pkg port => Sys2Proof.Machine.execCodeAcknowledgement pkg port s
  | .codeRequestRetry pkg port => Sys2Proof.Machine.execCodeRequestRetry pkg port s
  | .keyUpdate pkg port => Sys2Proof.Machine.execKeyUpdate pkg port s
  | .laneLoss pkg port lost => Sys2Proof.Machine.execLaneLoss pkg port lost s
  | .powerDown pkg port => Sys2Proof.Machine.execPowerDown pkg port s
  | .portWake pkg port => Sys2Proof.Machine.execPortWake pkg port s
  | .loadrt pkg => Sys2Proof.Machine.execLoadrt pkg s
  | .code pkg => Sys2Proof.Machine.execCode pkg s
  | .power pkg => Sys2Proof.Machine.execPower pkg s
  | .reconf pkg => Sys2Proof.Machine.execReconf pkg s
  | .close pkg => Sys2Proof.Machine.execClose pkg s
  | .portDrainComplete pkg port => Sys2Proof.Machine.execPortDrainComplete pkg port s
  | .portSwitchComplete pkg port => Sys2Proof.Machine.execPortSwitchComplete pkg port s
  | .portTrainComplete pkg port lanes => Sys2Proof.Machine.execPortTrainComplete pkg port lanes s
  | .trainTimeout pkg port => Sys2Proof.Machine.execTrainTimeout pkg port s
  | .portAuth pkg port ok peer leaf => Sys2Proof.Machine.execPortAuth pkg port ok peer leaf s
  | .keyCacheExpiry pkg => Sys2Proof.Machine.execKeyCacheExpiry pkg s
  | .launchEnd launch => Sys2Proof.Machine.execLaunchEnd launch s
  | .faultWindowBoundary pkg die => Sys2Proof.Machine.execFaultWindowBoundary pkg die s
  | .cellRestart cell => Sys2Proof.Machine.execCellRestart cell s
  | .correctedError pkg stack ra => Sys2Proof.Machine.execCorrectedError pkg stack ra s
  | .pseudoChannelRetirement pkg stack chan => Sys2Proof.Machine.execPseudoChannelRetirement pkg stack chan s
  | .cartridgeRelease pkg cart => Sys2Proof.Machine.execCartridgeRelease pkg cart s
  | .cartridgeInsertion pkg cart => Sys2Proof.Machine.execCartridgeInsertion pkg cart s
  | .functionLevelReset pkg vf => Sys2Proof.Machine.execFunctionLevelReset pkg vf s
  | .flrDrainComplete pkg vf => Sys2Proof.Machine.execFlrDrainComplete pkg vf s
  | .pumpCartridgeLost pkg cart => Sys2Proof.Machine.execPumpCartridgeLost pkg cart s
  | .spareLineRejoin pkg port lanes => Sys2Proof.Machine.execSpareLineRejoin pkg port lanes s
  | .powerLoss pkg => Sys2Proof.Machine.execPowerLoss pkg s

end Sys2Proof.Machine
end

