-- ==== Sys2Proof/Machine/Run.lean ====
section
/-! DEFINITION. A thread's turn: what comes before its instruction (R428), the fault of an earlier vector command (R260), the error
of a home (R236), the checker's retry (R151), the fetch (R118), and the instruction, which a gang's leader delivers to every member (R169). -/
namespace Sys2Proof.Machine
open Sys2Proof

/-- The fault of a vector command that failed its second residue check (R260): the thread takes it before its next instruction issues. -/
def State.lateFault (s : State) (k : Nat) (t : Thread) : Option State :=
  if t.goesOn then t.vErr.map fun r => raiseAt s k t { code := fUncorrectable, opr := some r } {} else none

/-- A decoded instruction as each member of a gang holds it until its own turn: the followers' pc is the leader's (R169). Outside a gang
nothing is kept. -/
def State.handOut (s : State) (k : Nat) (t : Thread) (i : Instr) : State := match t.gang with
  | .leader ms => ms.foldl (fun s m => s.modThread m fun u => { u.modCtx (·.setPc t.ctx.pc) with todo := some i })
      (s.modThread k fun u => { u with todo := some i })
  | _ => s

/-- The instruction of a thread: the one that was delivered, or the one at its pc, fetched and decoded (R118, R121). -/
def runThread (s : State) (k : Nat) (t : Thread) : Host.Outcome State Fault Refusal := match t.todo with
  | some i => exec i { s.noting i with cur := some k }
  | none => match fetchInstr s t with
    | .error e => .next (raiseAt e.state k t e.flt e.own)
    | .ok (i, s') => exec i { (s'.handOut k t i).noting i with cur := some k }

/-- The event that comes before a thread's next instruction. -/
def Prior.run (k : Nat) (s : State) : Prior → Host.Outcome State Fault Refusal
  | .forcedSave => execForcedSave k s
  | .preemption => execPreemption k s
  | .accessCompletion => execAccessCompletion k s
  | .promiseMissedUpcall => execPromiseMissedUpcall k s

/-- What a thread does when its turn comes. -/
def stepThread (s : State) (k : Nat) (t : Thread) : Host.Outcome State Fault Refusal :=
  match s.lateFault k t with
  | some s' => .next s'
  | none => match s.homeFault k t with
    | some s' => .next s'
    | none => match s.before t with
      | some e => e.run k { s with cur := none }
      | none => match t.retry with
        | none => runThread s k t
        | some again =>
          let u := { t with retry := none }
          if again then .next ((s.setThread k u).mismatch k u) else runThread (s.setThread k u) k u

end Sys2Proof.Machine
end

