-- ==== Sys2Proof/Machine/Step.lean ====
section
/-! DEFINITION. One step of the domain: the event or the thread that comes next (log 1). -/
namespace Sys2Proof.Machine
open Sys2Proof

/-- One step: the clock advances, then the choice of the schedule is carried out. -/
def step (s : State) : Host.Outcome State Fault Refusal :=
  let r := s.passTime.choose
  match r.1 with
  | .event i => exec i { r.2.noting i with cur := none }
  | .thread k => match r.2.thread? k with
    | some t => stepThread r.2 k t
    | none => .next r.2
  | .idle => .next r.2

/-- s with an instruction of the given bits, and zeros after them, where the next step fetches (log 2). -/
def State.withFetchWord (s : State) (nbits w : Nat) : State := placeProgram s (leBytes 20 (w % 2 ^ nbits))

end Sys2Proof.Machine
end

