-- ==== Sys2Proof/Safety.lean ====
section
/-! DEFINITION. A safe run: the memory keeps its canonical form, and no step ends in a fault or a refusal. -/
namespace Sys2Proof.Machine
open Sys2Proof

/-- A step from a state is safe: it answers a next state whose memory is in canonical form. -/
def SafeStep (s : State) : Prop := match step s with
  | .next t => Memory.wf t.mem = true
  | .fault _ => False
  | .refused _ => False

end Sys2Proof.Machine
end

