-- ==== Sys2Proof/Certificates/Slice0/Obligations.lean ====
section
/-! DEFINITION. The statements for the provers, each a Prop, with the small vocabulary in which they speak. -/
namespace Sys2Proof.Claims
open Sys2Proof Sys2Proof.Machine

/-! ### Vocabulary -/

/-- Thread k is the one that the step has selected, it lives with the record t, and it holds no head (R145). -/
def Selected (s : State) (k : Nat) (t : Thread) : Prop := s.cur = some k ∧ s.thread? k = some t ∧ t.ctx.head = none

/-- s after an instruction of thread k has committed: the thread's record is t with its pc at p, and threads that yielded wait for one
slot fewer (R143, R144, R165). -/
def done (s : State) (k : Nat) (t : Thread) (p : Word) : State := (s.setThread k (t.commitAt p)).unyield k

/-- The fault that ends an instruction of a thread with the given code and address. -/
def trapsWith (s : State) (k : Nat) (t : Thread) (i : Instr) (f : Flt) : Host.Outcome State Fault Refusal :=
  .next ((takeFault s k f (recordOf i t.ctx 0)).unyield k)

/-- A thread with one general register written. -/
def withReg (t : Thread) (d : Reg) (v : Word) : Thread := { t with ctx := t.ctx.setGpr d v }

/-- The bytes of an instruction whose second source may be a literal (R96). -/
def srcLen : Src → Nat
  | .reg _ => 4
  | .lit _ => 12

/-- The bytes of an instruction whose 16-bit immediate may be a literal. -/
def immLen : Imm16 → Nat
  | .imm _ => 4
  | .lit _ => 12

/-- The bytes of an instruction whose 12-bit immediate may be a literal. -/
def dispLen : Disp → Nat
  | .imm _ => 4
  | .lit _ => 12

/-- The bits of a, from 0 upwards. -/
def bitsOf (a : Word) : List Bool := (List.range 64).map fun i => a.getLsbD i

/-- 1 for true, 0 for false. -/
def oneIf (b : Bool) : Word := if b then 1 else 0

/-! ### OP 0x01: the results of R156, as functions of a and b -/

/-- shl, shr, sar and rol by n := as_unsigned(b[5:0]). -/
def shiftN (b : Word) : Nat := b.toNat % 64

/-- The result of an instruction of OP 0x01 with two sources, other than a division: the destination, the value by the table of R156, and
the bytes of the instruction. -/
def intResult (c : Ctx) : Instr → Option (Reg × Word × Nat)
  | .add o => two o.d o.a o.b fun a b => a + b
  | .sub o => two o.d o.a o.b fun a b => a - b
  | .and o => two o.d o.a o.b fun a b => a &&& b
  | .or o => two o.d o.a o.b fun a b => a ||| b
  | .xor o => two o.d o.a o.b fun a b => a ^^^ b
  | .andn o => two o.d o.a o.b fun a b => a &&& ~~~b
  | .shl o => two o.d o.a o.b fun a b => BitVec.ofNat 64 (a.toNat * 2 ^ shiftN b)
  | .shr o => two o.d o.a o.b fun a b => BitVec.ofNat 64 (a.toNat / 2 ^ shiftN b)
  | .sar o => two o.d o.a o.b fun a b => BitVec.ofInt 64 (a.toInt / (2 : Int) ^ shiftN b)
  | .rol o => two o.d o.a o.b fun a b =>
      if shiftN b = 0 then a else (a <<< shiftN b) ||| (a >>> (64 - shiftN b))
  | .mul o => twoL o.d o.a o.b o.la fun a b => BitVec.ofInt 64 (a.toInt * b.toInt)
  | .mulh o => twoL o.d o.a o.b o.la fun a b => BitVec.ofInt 64 (a.toInt * b.toInt / (2 : Int) ^ 64)
  | .mulhn o => twoL o.d o.a o.b o.la fun a b => BitVec.ofNat 64 (a.toNat * b.toNat / 2 ^ 64)
  | .min o => two o.d o.a o.b fun a b => if a.toInt < b.toInt then a else b
  | .max o => two o.d o.a o.b fun a b => if a.toInt < b.toInt then b else a
  | .minn o => two o.d o.a o.b fun a b => if a.toNat < b.toNat then a else b
  | .maxn o => two o.d o.a o.b fun a b => if a.toNat < b.toNat then b else a
  | .slt o => two o.d o.a o.b fun a b => if a.toInt < b.toInt then 1 else 0
  | .sltn o => two o.d o.a o.b fun a b => if a.toNat < b.toNat then 1 else 0
  | .seq o => two o.d o.a o.b fun a b => if a = b then 1 else 0
  | .sel d a b x => some (d, if c.gpr x ≠ 0 then c.gpr a else c.gpr b, 12)
  | .clz d a => some (d, BitVec.ofNat 64 (if c.gpr a = 0 then 64 else 63 - (c.gpr a).toNat.log2), 4)
  | .ctz d a => some (d, BitVec.ofNat 64 (((List.range 64).find? fun i => (c.gpr a).getLsbD i).getD 64), 4)
  | .popc d a => some (d, BitVec.ofNat 64 ((bitsOf (c.gpr a)).countP id), 4)
  | .bext o => two o.d o.a o.b fun a b => BitVec.ofNat 64 (a.toNat / 2 ^ (b.toNat % 64) % 2 ^ (b.toNat / 256 % 64 + 1))
  | .bins o => two o.d o.a o.b fun a b =>
      let mask := BitVec.ofNat 64 ((2 ^ (b.toNat / 256 % 64 + 1) - 1) * 2 ^ (b.toNat % 64))
      (c.gpr o.d &&& ~~~mask) ||| ((a <<< (b.toNat % 64)) &&& mask)
  | .sext d a w => some (d, BitVec.signExtend 64 ((c.gpr a).setWidth (Width.bits w)), 4)
  | .zext d a w => some (d, BitVec.ofNat 64 ((c.gpr a).toNat % 2 ^ Width.bits w), 4)
  | .bswap d a =>
      let x := c.gpr a
      some (d, x.extractLsb' 0 8 ++ x.extractLsb' 8 8 ++ x.extractLsb' 16 8 ++ x.extractLsb' 24 8 ++ x.extractLsb' 32 8 ++
        x.extractLsb' 40 8 ++ x.extractLsb' 48 8 ++ x.extractLsb' 56 8, 4)
  | _ => none
where
  /-- A result of two sources. -/
  two (d a : Reg) (b : Src) (f : Word → Word → Word) : Option (Reg × Word × Nat) :=
    some (d, f (c.gpr a) (srcVal c b), srcLen b)
  /-- A result of two sources where no window is asked for. -/
  twoL (d a : Reg) (b : Src) (la : BitVec 4) (f : Word → Word → Word) : Option (Reg × Word × Nat) :=
    if la = 0 then two d a b f else none

/-! ### Division (R157) -/

/-- The quotient and the remainder of R157, by as_signed or by as_unsigned. -/
def divide (signed : Bool) (a b : Word) : Word × Word :=
  if b = 0 then (0xFFFFFFFFFFFFFFFF, a)
  else if signed ∧ a = 0x8000000000000000 ∧ b = 0xFFFFFFFFFFFFFFFF then (a, 0)
  else
    let q : Word := if signed then BitVec.ofInt 64 (a.toInt.tdiv b.toInt) else BitVec.ofNat 64 (a.toNat / b.toNat)
    (q, a - q * b)

/-- The result of a division with LA = 0: the destination, the value, and the bytes of the instruction. -/
def divResult (c : Ctx) : Instr → Option (Reg × Word × Nat)
  | .div o => if o.la = 0 then some (o.d, (divide true (c.gpr o.a) (srcVal c o.b)).1, srcLen o.b) else none
  | .divn o => if o.la = 0 then some (o.d, (divide false (c.gpr o.a) (srcVal c o.b)).1, srcLen o.b) else none
  | .rem o => if o.la = 0 then some (o.d, (divide true (c.gpr o.a) (srcVal c o.b)).2, srcLen o.b) else none
  | .remn o => if o.la = 0 then some (o.d, (divide false (c.gpr o.a) (srcVal c o.b)).2, srcLen o.b) else none
  | _ => none

/-! ### OP 0x02 to 0x07 (R158) -/

/-- The result of an immediate instruction by the table of R158. -/
def immResult (c : Ctx) : Instr → Option (Reg × Word × Nat)
  | .addi o => some (o.d, c.gpr o.a + immS o.imm, immLen o.imm)
  | .andi o => some (o.d, c.gpr o.a &&& immS o.imm, immLen o.imm)
  | .ori o => some (o.d, c.gpr o.a ||| immU o.imm, immLen o.imm)
  | .xori o => some (o.d, c.gpr o.a ^^^ immU o.imm, immLen o.imm)
  | .li d imm => some (d, imm.signExtend 64, 4)
  | .liImm64 d w => some (d, w, 12)
  | .lil d imm => some (d, imm.zeroExtend 64, 4)
  | .lhi d imm => some (d, (c.gpr d <<< 16) ||| imm.zeroExtend 64, 4)
  | .shli o => some (o.d, BitVec.ofNat 64 ((c.gpr o.a).toNat * 2 ^ o.n.toNat), 4)
  | .shri o => some (o.d, BitVec.ofNat 64 ((c.gpr o.a).toNat / 2 ^ o.n.toNat), 4)
  | .sari o => some (o.d, BitVec.ofInt 64 ((c.gpr o.a).toInt / (2 : Int) ^ o.n.toNat), 4)
  | .slti o => some (o.d, oneIf (decide ((c.gpr o.a).toInt < (dispS o.imm).toInt)), dispLen o.imm)
  | .sltni o => some (o.d, oneIf (decide ((c.gpr o.a).toNat < (dispU o.imm).toNat)), dispLen o.imm)
  | .lea o => some (o.d, c.gpr o.a + dispS o.imm, dispLen o.imm)
  | _ => none

/-! ### Branches and jumps (R105, R159) -/

/-- Whether a conditional branch is taken, its offset, and its bytes. -/
def branchTaken (c : Ctx) : Instr → Option (Bool × BitVec 16 × Nat)
  | .beq o => some (decide (c.gpr o.d = c.gpr o.a), o.off, 4)
  | .bne o => some (decide (c.gpr o.d ≠ c.gpr o.a), o.off, 4)
  | .blt o => some (decide ((c.gpr o.d).toInt < (c.gpr o.a).toInt), o.off, 4)
  | .bge o => some (decide ((c.gpr o.a).toInt ≤ (c.gpr o.d).toInt), o.off, 4)
  | .bltn o => some (decide ((c.gpr o.d).toNat < (c.gpr o.a).toNat), o.off, 4)
  | .bgen o => some (decide ((c.gpr o.a).toNat ≤ (c.gpr o.d).toNat), o.off, 4)
  | .beqi o => some (decide (c.gpr o.a = o.value.getD 0), o.off, if o.value.isSome then 12 else 4)
  | .bnei o => some (decide (c.gpr o.a ≠ o.value.getD 0), o.off, if o.value.isSome then 12 else 4)
  | .j off => some (true, off, 4)
  | _ => none

/-- The target of a branch: pc + sign_extend(offset, 64) × 4 (R105). -/
def branchTarget (c : Ctx) (off : BitVec 16) : Word := c.pc + BitVec.ofInt 64 (off.toInt * 4)

end Sys2Proof.Claims

open Sys2Proof Sys2Proof.Machine Sys2Proof.Claims

/-- R156: an instruction of OP 0x01 commits with g[D] := result, and changes nothing else of its thread but the pc. -/
def Sys2Proof.Claims.integerRegisterResult : Prop := ∀ (s : State) (k : Nat) (t : Thread) (i : Instr) (d : Reg) (v : Word) (len : Nat),
  Selected s k t → intResult t.ctx i = some (d, v, len) →
  exec i s = .next (done s k (withReg t d v) (t.ctx.pc + BitVec.ofNat 64 len))

/-- R157: division truncates towards zero and never traps; all four instructions commit with q or m. -/
def Sys2Proof.Claims.divisionResult : Prop := ∀ (s : State) (k : Nat) (t : Thread) (i : Instr) (d : Reg) (v : Word) (len : Nat),
  Selected s k t → divResult t.ctx i = some (d, v, len) →
  exec i s = .next (done s k (withReg t d v) (t.ctx.pc + BitVec.ofNat 64 len))

/-- R158: the effects of OP 0x02 to 0x07; lea accesses no memory and cannot fault. -/
def Obligations.ImmediateResult : Prop := ∀ (s : State) (k : Nat) (t : Thread) (i : Instr) (d : Reg) (v : Word) (len : Nat),
  Selected s k t → immResult t.ctx i = some (d, v, len) →
  exec i s = .next (done s k (withReg t d v) (t.ctx.pc + BitVec.ofNat 64 len))

/-- R159 with R105: a branch goes to its target when it is taken and past itself otherwise; loop writes ga - 1 and is taken when that is
not 0; jr, jalr and jal go where they say, and jalr reads its target before it writes lr; a target of jr or jalr with low bits set is
MISALIGNED with FADDR the target, and nothing is written; a follower of a gang goes on, its target being ignored (R169). No branch or jump
changes anything else. -/
def Obligations.ControlFlow : Prop := ∀ (s : State) (k : Nat) (t : Thread), Selected s k t →
  (∀ (i : Instr) (b : Bool) (off : BitVec 16) (len : Nat), branchTaken t.ctx i = some (b, off, len) →
    exec i s = .next (done s k t (if b then branchTarget t.ctx off else t.ctx.pc + BitVec.ofNat 64 len))) ∧
  (∀ (a : Reg) (off : BitVec 16), exec (.loop a off) s = .next (done s k (withReg t a (t.ctx.gpr a - 1))
    (if t.ctx.gpr a ≠ 1 then branchTarget t.ctx off else t.ctx.pc + 4))) ∧
  (∀ a : Reg, (t.ctx.gpr a).toNat % 4 = 0 → exec (.jr a) s = .next (done s k t (t.ctx.gpr a))) ∧
  (∀ a : Reg, (t.ctx.gpr a).toNat % 4 = 0 →
    exec (.jalr a) s = .next (done s k (withReg t 15 (t.ctx.pc + 4)) (t.ctx.gpr a))) ∧
  (∀ a : Reg, t.isFollower = true → exec (.jr a) s = .next (done s k t (t.ctx.gpr a)) ∧
    exec (.jalr a) s = .next (done s k (withReg t 15 (t.ctx.pc + 4)) (t.ctx.gpr a))) ∧
  (∀ (a : Reg) (i : Instr), (t.ctx.gpr a).toNat % 4 ≠ 0 → t.isFollower = false → i = .jr a ∨ i = .jalr a →
    exec i s = .next ((takeFault s k { code := 0x03, faddr := t.ctx.gpr a } (recordOf i t.ctx 0)).unyield k)) ∧
  (∀ (d : Reg) (off : BitVec 20),
    exec (.jal d off) s = .next (done s k (withReg t d (t.ctx.pc + 4)) (t.ctx.pc + BitVec.ofInt 64 (off.toInt * 4))))

/-! ### Accesses of a thread (R176 to R178, R226 to R228, R237 to R241) -/
namespace Sys2Proof.Claims

/-- A thread with no relaxed store that is unacknowledged or that failed (R228). -/
def Quiet (t : Thread) : Prop := t.rx = [] ∧ t.rxErrs = []

/-- The bytes that an optional part of an instruction takes (R96). -/
def partLen (b : Bool) : Nat := if b then 8 else 0

/-- The bytes of a memory instruction: base word, extension word and literal (R96). -/
def memLen (e : Option Ext) (d : Disp) : Nat := 4 + partLen e.isSome + (dispLen d - 4)

/-- The address of a memory operand: ga + imm (R226). -/
def addrOf (c : Ctx) (a : Reg) (d : Disp) : Word := c.gpr a + dispS d

/-- The address is served by neither control space nor an alias window, which have accesses of their own (R184, R188). -/
def Common (va : Word) : Prop := va.toNat / 2 ^ 56 ≠ 0x7F ∧ ¬ (0x41 ≤ va.toNat / 2 ^ 56 ∧ va.toNat / 2 ^ 56 ≤ 0x47)

/-- The scope and the ordering of an instruction with an optional extension word (R101): the defaults are 0. -/
def scopeIn (e : Option Ext) : Sys2Proof.Scope := match e with
  | some x => x.scope
  | none => .sys

/-- ORD of an optional extension word. -/
def ordIn (e : Option Ext) : Ord := match e with
  | some x => x.ord
  | none => .none

/-- RX of an optional extension word. -/
def relaxedIn (e : Option Ext) : Bool := match e with
  | some x => x.rx
  | none => false

/-- The acquire that ORD asks for after an access, for a cell (R223). -/
def acquired (s : State) (t : Thread) (o : Ord) (sc : Sys2Proof.Scope) : State :=
  if o = .acq ∨ o = .both then acquireAt s t.pcell sc else s

/-- The release that ORD asks for before an access. -/
def released (s : State) (t : Thread) (o : Ord) (sc : Sys2Proof.Scope) : State :=
  if o = .rel ∨ o = .both then releaseAt s t.pcell sc else s

/-- No release that ORD asks for has to wait for a generation (R224). -/
def Freed (s : State) (t : Thread) (o : Ord) (sc : Sys2Proof.Scope) : Prop := o = .rel ∨ o = .both → s.awaitsGen t sc = false

/-- The thread with the generation of an access that crosses the fabric noted (R224). -/
def crossed (s : State) (t : Thread) (loc : Loc) : Thread := t.noted s (s.genOf (s.whoOf t) loc)

/-- The loads: bytes, sign extension, operands (R226). -/
def loadOf : Instr → Option (Nat × Bool × Load)
  | .ldb o => some (1, true, o)
  | .ldh o => some (2, true, o)
  | .ldw o => some (4, true, o)
  | .ldd o => some (8, true, o)
  | .ldbn o => some (1, false, o)
  | .ldhn o => some (2, false, o)
  | .ldwn o => some (4, false, o)
  | _ => none

/-- A number of n bytes as as_signed reads it. -/
def signedBytes (n v : Nat) : Int := if v < 2 ^ (8 * n - 1) then (v : Int) else (v : Int) - (2 : Int) ^ (8 * n)

/-- What a load of n bytes writes: the little-endian number, sign-extended or zero-extended (R8, R226). -/
def loaded (n : Nat) (signed : Bool) (bs : List Byte) : Word :=
  if signed then BitVec.ofInt 64 (signedBytes n (leVal bs)) else BitVec.ofNat 64 (leVal bs)

/-- The stores: bytes and operands (R226). -/
def storeOf : Instr → Option (Nat × Store)
  | .stb o => some (1, o)
  | .sth o => some (2, o)
  | .stw o => some (4, o)
  | .std o => some (8, o)
  | _ => none

/-- The atomics of R238: bytes, D, A, LA, extension word, instruction bytes, and the new value for the old value of n bytes. Signed
minima and maxima compare as_signed numbers of the width. -/
def atomicOf (c : Ctx) : Instr → Option (Nat × Reg × Reg × BitVec 4 × Option Ext × Nat × (Nat → Nat))
  | .afadd o => one 8 o fun a b => (a + b) % 2 ^ 64
  | .afand o => one 8 o fun a b => a &&& b
  | .afor o => one 8 o fun a b => a ||| b
  | .afxor o => one 8 o fun a b => a ^^^ b
  | .afmin o => one 8 o fun a b => if signedBytes 8 a < signedBytes 8 b then a else b
  | .afmax o => one 8 o fun a b => if signedBytes 8 a < signedBytes 8 b then b else a
  | .afminn o => one 8 o fun a b => if a < b then a else b
  | .afmaxn o => one 8 o fun a b => if a < b then b else a
  | .aswap o => one 8 o fun _ b => b
  | .acas o => cas 8 o
  | .afaddW o => one 4 o fun a b => (a + b) % 2 ^ 32
  | .afandW o => one 4 o fun a b => a &&& b
  | .aforW o => one 4 o fun a b => a ||| b
  | .afxorW o => one 4 o fun a b => a ^^^ b
  | .afminW o => one 4 o fun a b => if signedBytes 4 a < signedBytes 4 b then a else b
  | .afmaxW o => one 4 o fun a b => if signedBytes 4 a < signedBytes 4 b then b else a
  | .afminnW o => one 4 o fun a b => if a < b then a else b
  | .afmaxnW o => one 4 o fun a b => if a < b then b else a
  | .aswapW o => one 4 o fun _ b => b
  | .acasW o => cas 4 o
  | _ => none
where
  /-- An atomic of one operand, of which only the low n bytes count. -/
  one (n : Nat) (o : Atomic) (f : Nat → Nat → Nat) :=
    some (n, o.d, o.a, o.la, o.ext, 4 + partLen o.ext.isSome + (srcLen o.b - 4), fun a => f a ((srcVal c o.b).toNat % 2 ^ (8 * n)))
  /-- Compare and swap. -/
  cas (n : Nat) (o : Cas) :=
    some (n, o.d, o.a, o.la, some o.ext, 12 + (srcLen o.b - 4),
      fun a => if a = (srcVal c o.b).toNat % 2 ^ (8 * n) then (c.gpr o.c).toNat % 2 ^ (8 * n) else a)

/-- Whether the access of a thread with these operands is cached (R227): ordered accesses are not. -/
def cachedFor (s : State) (w : Who) (loc : Loc) (o : Ord) : Bool := o == .none && isCached s w loc

end Sys2Proof.Claims

/-- R226 and R227: a load whose address passes the checks of R178 commits with the little-endian number at its place, sign-extended or
zero-extended, in its destination; a relaxed load sees the thread's own unacknowledged stores (R228). Nothing else of the thread changes but
the pc. -/
def Obligations.LoadResult : Prop := ∀ (s : State) (k : Nat) (t : Thread) (i : Instr) (n : Nat) (sg : Bool) (o : Load)
    (loc : Loc) (bs : List Byte) (s' : State),
  Selected s k t → loadOf i = some (n, sg, o) → o.la = 0 → (relaxedIn o.ext = true ∨ Quiet t) → Common (addrOf t.ctx o.a o.imm) →
  resolve s (s.whoOf t) .load (addrOf t.ctx o.a o.imm) n n = .ok loc →
  readOwn (s.fillTlb t.pcell false loc) (s.whoOf t) loc n
    (cachedFor (s.fillTlb t.pcell false loc) (s.whoOf t) loc (ordIn o.ext)) = .ok (bs, s') →
  exec i s = .next (done (acquired s' t (ordIn o.ext) (scopeIn o.ext)) k
    (withReg t o.d (loaded n sg (overlayRx s' t.rx loc.key bs))) (t.ctx.pc + BitVec.ofNat 64 (memLen o.ext o.imm)))

/-- R226 and R227: a store that is not relaxed and whose address passes the checks of R178 commits with the low bytes of gd at its
place; no register changes but the pc. An ordered store whose release waits for a generation stays (R224). -/
def Sys2Proof.Claims.storeResult : Prop := ∀ (s : State) (k : Nat) (t : Thread) (i : Instr) (n : Nat) (o : Store) (loc : Loc) (s' : State),
  Selected s k t → storeOf i = some (n, o) → relaxedIn o.ext = false → Quiet t → Common (addrOf t.ctx o.a o.imm) →
  resolve s (s.whoOf t) .store (addrOf t.ctx o.a o.imm) n n = .ok loc →
  (let s1 := released (s.fillTlb t.pcell false loc) t (ordIn o.ext) (scopeIn o.ext)
   writeAt s1 (s.whoOf t) loc (leOf n (t.ctx.gpr o.d).toNat) (cachedFor s1 (s.whoOf t) loc (ordIn o.ext)) = .ok s') →
  (Freed s t (ordIn o.ext) (scopeIn o.ext) →
    exec i s = .next (done s' k (crossed s' t loc) (t.ctx.pc + BitVec.ofNat 64 (memLen o.ext o.imm)))) ∧
  (¬ Freed s t (ordIn o.ext) (scopeIn o.ext) → exec i s = .next (s.unyield k))

/-- R228: a relaxed store commits once its address has passed the checks of R178, with a ticket and its place kept until it is
acknowledged; memory does not change. A ninth waits for the oldest, which is then performed at its place. In control space and in an alias
window it keeps the value for its register or element. -/
def Sys2Proof.Claims.relaxedStoreQueues : Prop := ∀ (s : State) (k : Nat) (t : Thread) (i : Instr) (n : Nat) (o : Store),
  Selected s k t → storeOf i = some (n, o) → relaxedIn o.ext = true →
  let va := addrOf t.ctx o.a o.imm
  let pc' := t.ctx.pc + BitVec.ofNat 64 (memLen o.ext o.imm)
  let scratch := keyOf (.scratch t.pcell) (s.whoOf t).seg
  let at_ (kind : RxKind) (key : Nat) (bs : List Byte) (d : Option Nat) (p : Option LCell) (g : Option (Nat × BitVec 16)) : RxStore :=
    { opr := recordOf i t.ctx t.ticket, va := va, key := key, bytes := bs, domain := d, peer := p, bank := (s.cell t.pcell).bank, kind := kind
      gen := g }
  (∀ loc : Loc, Common va → resolve s (s.whoOf t) .store va n n = .ok loc →
    let x := at_ .bytes loc.key (leOf n (t.ctx.gpr o.d).toNat) loc.domain loc.peer (s.genOf (s.whoOf t) loc)
    let s1 := s.fillTlb t.pcell false loc
    (t.rx.length < 8 → exec i s =
      .next (done (s1.holdGen x.gen) k { (t.noted (s1.holdGen x.gen) x.gen).takeTicket with rx := t.rx ++ [x] } pc')) ∧
    (∀ (y : RxStore) (ys : List RxStore) (s' : State), x.gen = none → t.rx = y :: ys → 8 ≤ t.rx.length → y.kind = .bytes → y.gen = none →
      writeAt s1 { s1.whoOf t with bank := y.bank } { key := y.key, domain := y.domain, peer := y.peer } y.bytes false = .ok s' →
      exec i s = .next (done s' k { t.takeTicket with rx := ys ++ [x] } pc'))) ∧
  (∀ r : CtlReg, va.toNat / 2 ^ 56 = 0x7F → ctlCheck t va n = .ok r → t.rx.length < 8 →
    exec i s = .next (done s k { t.takeTicket with rx := t.rx ++ [at_ (.control (t.ctx.gpr o.d)) scratch [] none none none] } pc')) ∧
  (∀ (d : Word) (e : Nat), 0x41 ≤ va.toNat / 2 ^ 56 → va.toNat / 2 ^ 56 ≤ 0x47 → n = 4 → aliasOf s t.pcell va = (d, e) →
    aliasCheck s (s.whoOf t) .store va (elemRanges d e) = .ok () → t.rx.length < 8 →
    exec i s = .next (done s k { t.takeTicket with
      rx := t.rx ++ [at_ (.elem d e ((t.ctx.gpr o.d).extractLsb' 0 32) t.ctx.nsm) scratch [] none none none] } pc'))

/-- R237 and R238: an atomic with LA = 0 reads the old value of n bytes, writes the new value by its row, and writes the old value
zero-extended to gd, in one step; a copy its cell holds goes home first (R239). One whose release waits for a generation stays (R224). -/
def Sys2Proof.Claims.atomicResult : Prop := ∀ (s : State) (k : Nat) (t : Thread) (i : Instr) (n : Nat) (d a : Reg) (e : Option Ext) (len : Nat)
    (f : Nat → Nat) (loc : Loc) (bs : List Byte) (s' : State),
  Selected s k t → atomicOf t.ctx i = some (n, d, a, 0, e, len, f) → Quiet t →
  resolve s (s.whoOf t) .atomic (t.ctx.gpr a) n n = .ok loc →
  readAt (loc.settle (released (s.fillTlb t.pcell false loc) t (ordIn e) (scopeIn e)) t.pcell n) (s.whoOf t) loc n false = .ok (bs, s') →
  (Freed s t (ordIn e) (scopeIn e) →
    exec i s = .next (done (acquired (s'.store loc.key (leOf n (f (leVal bs)))) t (ordIn e) (scopeIn e)) k
      (withReg (crossed s' t loc) d (BitVec.ofNat 64 (leVal bs))) (t.ctx.pc + BitVec.ofNat 64 len))) ∧
  (¬ Freed s t (ordIn e) (scopeIn e) → exec i s = .next (s.unyield k))

/-- R241: axadd writes the top word of the record as it was to gd, and adds the contribution of b, decoded in the record's type, unless the
record is malformed. -/
def Sys2Proof.Claims.axaddResult : Prop := ∀ (s : State) (k : Nat) (t : Thread) (o : Atomic) (loc : Loc) (bs : List Byte) (s' : State),
  Selected s k t → o.la = 0 → Quiet t → Freed s t (ordIn o.ext) (scopeIn o.ext) →
  resolve s (s.whoOf t) .axadd (t.ctx.gpr o.a) 32 32 = .ok loc →
  readAt (loc.settle (released (s.fillTlb t.pcell false loc) t (ordIn o.ext) (scopeIn o.ext)) t.pcell 32) (s.whoOf t) loc 32 false =
    .ok (bs, s') →
  let r : BitVec 256 := BitVec.ofNat 256 (leVal bs)
  let type := (Xsum.ofBits r).type
  let r' := if xsumMalformed r then r
    else ((Xsum.ofBits r).add (decodeElem type t.ctx.nsm ((srcVal t.ctx o.b).toNat % 2 ^ type.width))).toBits
  exec (.axadd o) s = .next (done (acquired (s'.store loc.key (leOf 32 r'.toNat)) t (ordIn o.ext) (scopeIn o.ext)) k
    (withReg (crossed s' t loc) o.d (BitVec.ofNat 64 (leVal bs / 2 ^ 192)))
    (t.ctx.pc + BitVec.ofNat 64 (4 + partLen o.ext.isSome + (srcLen o.b - 4))))

/-- R176 to R178: an address of class 0x40 within the scratch limit names the thread's own scratch at SEG above its cell's first byte;
beyond the limit it is ILLEGAL_ADDRESS, and not aligned it is MISALIGNED, which comes before; a class that is reserved is
ILLEGAL_ADDRESS before either, which is the model's reading (log 68). In control space an access at user privilege is PRIVILEGE, and one of the
supervisor that is not of 8 bytes at a multiple of 8 is ILLEGAL_ADDRESS (R50). -/
def Sys2Proof.Claims.scratchAddress : Prop := ∀ (s : State) (t : Thread) (acc : Acc) (va : Word) (n align : Nat), acc ≠ .fetch →
  (va.toNat / 2 ^ 56 = 0x40 → va.toNat % align ≠ 0 →
    resolve s (s.whoOf t) acc va n align = .error { code := fMisaligned, faddr := va }) ∧
  (va.toNat / 2 ^ 56 = 0x40 → va.toNat % align = 0 → (s.whoOf t).limit < va.toNat % 2 ^ 56 + n →
    resolve s (s.whoOf t) acc va n align = .error { code := fAddress, faddr := va }) ∧
  (va.toNat / 2 ^ 56 = 0x40 → va.toNat % align = 0 → va.toNat % 2 ^ 56 + n ≤ (s.whoOf t).limit →
    (∀ c ∈ s.clusters, c.2.locks = []) →
    resolve s (s.whoOf t) acc va n align =
      .ok { key := keyOf (.scratch t.pcell) (t.ctx.seg.toNat / 2 ^ 16 % 16 * 2 ^ 16 + va.toNat % 2 ^ 56) }) ∧
  (0x48 ≤ va.toNat / 2 ^ 56 → va.toNat / 2 ^ 56 ≠ 0x50 → va.toNat / 2 ^ 56 ≠ 0x60 → va.toNat / 2 ^ 56 ≠ 0x7F →
    resolve s (s.whoOf t) acc va n align = .error { code := fAddress, faddr := va }) ∧
  (va.toNat / 2 ^ 56 = 0x7F → t.ctx.priv = false → resolve s (s.whoOf t) acc va n align = .error { code := 0x02, faddr := va }) ∧
  (va.toNat / 2 ^ 56 = 0x7F → t.ctx.priv = true → n ≠ 8 ∨ va.toNat % 8 ≠ 0 →
    resolve s (s.whoOf t) acc va n align = .error { code := 0x04, faddr := va })

/-- R178 and R144: an access that the checks refuse takes the fault of the first check that fails, and nothing else happens. -/
def Sys2Proof.Claims.refusedAccessTraps : Prop := ∀ (s : State) (k : Nat) (t : Thread) (i : Instr) (f : Flt), Selected s k t → Quiet t →
  ((∃ (n : Nat) (sg : Bool) (o : Load), loadOf i = some (n, sg, o) ∧ o.la = 0 ∧ Common (addrOf t.ctx o.a o.imm) ∧
      resolve s (s.whoOf t) .load (addrOf t.ctx o.a o.imm) n n = .error f) ∨
    (∃ (n : Nat) (o : Store), storeOf i = some (n, o) ∧ Common (addrOf t.ctx o.a o.imm) ∧
      (relaxedIn o.ext = true ∨ Freed s t (ordIn o.ext) (scopeIn o.ext)) ∧ resolve s (s.whoOf t) .store (addrOf t.ctx o.a o.imm) n n = .error f) ∨
    (∃ (n : Nat) (d a : Reg) (e : Option Ext) (len : Nat) (g : Nat → Nat), atomicOf t.ctx i = some (n, d, a, 0, e, len, g) ∧
      Freed s t (ordIn e) (scopeIn e) ∧ resolve s (s.whoOf t) .atomic (t.ctx.gpr a) n n = .error f)) →
  exec i s = .next ((takeFault s k f (recordOf i t.ctx 0)).unyield k)

namespace Sys2Proof.Claims

/-- The FP32 code of an exact result, rounded to nearest even. -/
def rounded (x : FVal × Bool) : Nat := (f32.round .rne false x.1).code

/-- The descriptor of the alias window of an address (R183): class 0x41 names register 1 of the cell. -/
def windowOf (s : State) (t : Thread) (va : Word) : Word := (s.cell t.pcell).wdesc.toList.getD (va.toNat / 2 ^ 56 - 0x41) 0

/-- FMT of a window. -/
def windowFmt (d : Word) : ElemTy := (ElemTy.ofCode (d.toNat % 32)).getD .i8

/-- The scratch bytes of element i of a window (R184): first byte and length, at DBASE. -/
def windowBytes (d : Word) (i : Nat) : Nat × Nat :=
  let w := (windowFmt d).width
  (d.toNat / 2 ^ 24 % 2 ^ 20 + i * w / 8, if w < 8 then 1 else w / 8)

/-- The scratch offset of the scale record of element i, at SOFF. -/
def elemScale (d : Word) (i : Nat) : Nat := d.toNat / 2 ^ 44 % 2 ^ 20 + 3 * (i / 32)

/-- Every byte that an element access touches lies within the cell's scratch limit. -/
def elemFits (s : State) (t : Thread) (d : Word) (i : Nat) : Prop :=
  (windowBytes d i).1 + (windowBytes d i).2 ≤ (s.whoOf t).limit ∧
    ((windowFmt d).isBlock = true → elemScale d i + 3 ≤ (s.whoOf t).limit)

/-- The key of a scratch offset of a thread's virtual cell. -/
def scratchAt (s : State) (t : Thread) (off : Nat) : Nat := keyOf (.scratch t.pcell) ((s.whoOf t).seg + off)

/-- The code of an element in scratch: a nibble of its byte where the format has 4 bits. -/
def windowBits (s : State) (t : Thread) (d : Word) (i : Nat) : Nat :=
  let b := s.num (scratchAt s t (windowBytes d i).1) (windowBytes d i).2
  if (windowFmt d).width = 4 then b / 2 ^ (4 * (i % 2)) % 16 else b

/-- The 32 bits that a window load reads (R184): an integer extended by its sign, and any other element as its FP32 value. -/
def elemLoaded (s : State) (t : Thread) (d : Word) (i : Nat) : BitVec 32 :=
  let f := windowFmt d
  let x := windowBits s t d i
  if f.isBlock then BitVec.ofNat 32 (rounded (decodeBlockElem f t.ctx.nsm (s.num (scratchAt s t (elemScale d i)) 3) x, false))
  else if f.isInt then BitVec.ofInt 32 (intOf f x)
  else BitVec.ofNat 32 (rounded (decodeElem f t.ctx.nsm x, false))

/-- The code that a window store writes (R184, R214). -/
def elemStored (s : State) (t : Thread) (d : Word) (i : Nat) (v : BitVec 32) : Nat :=
  let f := windowFmt d
  if f.isBlock then (encodeBlockElem f t.ctx.nsm .rne (s.num (scratchAt s t (elemScale d i)) 3) (f32.decode v.toNat)).code
  else if f.isInt then v.toNat % 2 ^ f.width
  else (convertElem .f32 f t.ctx.nsm .rne false false v.toNat).code

/-- The byte that holds an element, or its bytes, with the element replaced. -/
def elemReplaced (s : State) (t : Thread) (d : Word) (i x : Nat) : List Byte :=
  let b := s.num (scratchAt s t (windowBytes d i).1) (windowBytes d i).2
  if (windowFmt d).width = 4 then leOf 1 (if i % 2 = 0 then b / 16 * 16 + x % 16 else x % 16 * 16 + b % 16)
  else leOf (windowBytes d i).2 x

end Sys2Proof.Claims

/-- R178, R183 and R184: in an alias window ldw and ldwn read the element that the address names, widened to 32 bits, ldw sign-extended, and stw
narrows 32 bits into it; an element whose bytes or scale record pass the scratch limit is ILLEGAL_ADDRESS, and an access of another size, or
misaligned to 4, MISALIGNED. R50: in control space ldd reads a register at supervisor privilege; a std there by a thread that is no nurse does
what the host's write of the same register does. -/
def Sys2Proof.Claims.windowAccess : Prop := ∀ (s : State) (k : Nat) (t : Thread) (i : Instr), Selected s k t → Quiet t →
  (∀ (o : Load) (sg : Bool), loadOf i = some (4, sg, o) → o.la = 0 → ordIn o.ext = .none →
    let va := addrOf t.ctx o.a o.imm
    let d := windowOf s t va
    let e := va.toNat % 2 ^ 56 / 4
    0x41 ≤ va.toNat / 2 ^ 56 → va.toNat / 2 ^ 56 ≤ 0x47 →
    (va.toNat % 4 ≠ 0 → exec i s = trapsWith s k t i { code := 0x03, faddr := va }) ∧
    (va.toNat % 4 = 0 → ¬ elemFits s t d e → exec i s = trapsWith s k t i { code := 0x04, faddr := va }) ∧
    (va.toNat % 4 = 0 → elemFits s t d e → (∀ c ∈ s.clusters, c.2.locks = []) → s.poison = [] →
      exec i s = .next (done s k (withReg t o.d (if sg then (elemLoaded s t d e).signExtend 64 else (elemLoaded s t d e).zeroExtend 64))
        (t.ctx.pc + BitVec.ofNat 64 (memLen o.ext o.imm))))) ∧
  (∀ (o : Store), i = .stw o → relaxedIn o.ext = false → ordIn o.ext = .none →
    let va := addrOf t.ctx o.a o.imm
    let d := windowOf s t va
    let e := va.toNat % 2 ^ 56 / 4
    0x41 ≤ va.toNat / 2 ^ 56 → va.toNat / 2 ^ 56 ≤ 0x47 →
    (va.toNat % 4 ≠ 0 → exec i s = trapsWith s k t i { code := 0x03, faddr := va }) ∧
    (va.toNat % 4 = 0 → ¬ elemFits s t d e → exec i s = trapsWith s k t i { code := 0x04, faddr := va }) ∧
    (va.toNat % 4 = 0 → elemFits s t d e → (∀ c ∈ s.clusters, c.2.locks = []) →
      exec i s = .next (done (s.store (scratchAt s t (windowBytes d e).1)
        (elemReplaced s t d e (elemStored s t d e ((t.ctx.gpr o.d).setWidth 32)))) k t
        (t.ctx.pc + BitVec.ofNat 64 (memLen o.ext o.imm))))) ∧
  (∀ (n : Nat) (va : Word), n ≠ 4 → 0x41 ≤ va.toNat / 2 ^ 56 → va.toNat / 2 ^ 56 ≤ 0x47 →
    (∀ (sg : Bool) (o : Load), loadOf i = some (n, sg, o) → o.la = 0 → addrOf t.ctx o.a o.imm = va →
      exec i s = trapsWith s k t i { code := 0x03, faddr := va }) ∧
    (∀ (o : Store), storeOf i = some (n, o) → addrOf t.ctx o.a o.imm = va → relaxedIn o.ext = true ∨ Freed s t (ordIn o.ext) (scopeIn o.ext) →
      exec i s = trapsWith s k t i { code := 0x03, faddr := va })) ∧
  (∀ (o : Load) (r : CtlReg), i = .ldd o → o.la = 0 → ordIn o.ext = .none → (addrOf t.ctx o.a o.imm).toNat / 2 ^ 56 = 0x7F →
    t.ctx.priv = true → ctlReg ((addrOf t.ctx o.a o.imm).toNat % 2 ^ 56) = some r →
    exec i s = .next (done s k (withReg t o.d (s.ctlRead t.pcell.pkg r)) (t.ctx.pc + BitVec.ofNat 64 (memLen o.ext o.imm)))) ∧
  (∀ (o : Store) (s1 : State), i = .std o → relaxedIn o.ext = false → ordIn o.ext = .none →
    (addrOf t.ctx o.a o.imm).toNat / 2 ^ 56 = 0x7F → t.ctx.priv = true → t.nurse = false →
    (s.pkg t.pcell.pkg).boot = 0x00FF → ((addrOf t.ctx o.a o.imm).toNat % 2 ^ 56) % 8 = 0 →
    (ctlReg ((addrOf t.ctx o.a o.imm).toNat % 2 ^ 56)).isSome = true →
    exec (.registerWrite t.pcell.pkg ((addrOf t.ctx o.a o.imm).toNat % 2 ^ 56) (t.ctx.gpr o.d)) s = .next s1 →
    exec i s = .next (done s1 k t (t.ctx.pc + BitVec.ofNat 64 (memLen o.ext o.imm))))

namespace Sys2Proof.Claims

/-- The place of a full/empty instruction that has passed the checks and whose home answers, and the state in which its home serves it:
the copy its cell holds has gone home (R231). -/
def AtWord (s : State) (t : Thread) (acc : Acc) (va : Word) (loc : Loc) (s1 : State) : Prop :=
  Quiet t ∧ resolve s (s.whoOf t) acc va 8 8 = .ok loc ∧ s1 = loc.settle (s.fillTlb t.pcell false loc) t.pcell 8 ∧
  homeAnswer s1 (s.whoOf t) loc = none

/-- A place as a request at its home names it (R232). -/
def homeLoc (loc : Loc) : Loc :=
  { key := loc.key, peer := loc.peer, domain := match keySpace loc.key with
      | .dom p => some p
      | _ => none }

/-- Nobody waits on a word. -/
def NoWaiter (s : State) (key : Nat) : Prop := ∀ p ∈ s.parked, p.req.key ≠ key

end Sys2Proof.Claims

/-- R230: a full/empty instruction whose wait condition does not hold reads or writes the word and its bit in one step. ldff and ldfe
wait for full and leave full and empty; stef waits for empty, stff for full, and both leave full; feq reads the bit; feset and feclr set
it. Loads acquire and stores release at the home scope (R232); a store whose release waits for a generation stays (R224). A discarded page is
full with data zero (R236). -/
def Sys2Proof.Claims.fullEmptyResult : Prop := ∀ (s : State) (k : Nat) (t : Thread) (o : RMem) (loc : Loc) (s1 : State), Selected s k t →
  NoWaiter s loc.key →
  let va := addrOf t.ctx o.a o.imm
  let pc' := t.ctx.pc + BitVec.ofNat 64 (dispLen o.imm)
  let sc := homeScope (s.whoOf t) loc
  let v : Word := BitVec.ofNat 64 (leVal (s1.bytes loc.key 8))
  let rel := releaseAt s1 t.pcell sc
  let put (x : State) : State := (x.storeFrom t.pcell loc.key (leOf 8 (t.ctx.gpr o.d).toNat)).setFull loc.key true
  (AtWord s t .feRead va loc s1 → loc.disc = false → s1.full loc.key = true → s1.poisoned loc.key 8 = false →
    exec (.ldff o) s = .next (done (acquireAt (s1.setFull loc.key true) t.pcell sc) k (withReg t o.d v) pc')) ∧
  (AtWord s t .feWrite va loc s1 → loc.disc = false → s1.full loc.key = true → s1.poisoned loc.key 8 = false →
    exec (.ldfe o) s = .next (done (acquireAt (s1.setFull loc.key false) t.pcell sc) k (withReg t o.d v) pc')) ∧
  (AtWord s t .feWrite va loc s1 → s1.full loc.key = false → s1.awaitsGen t sc = false →
    exec (.stef o) s = .next (done (put rel) k (crossed (put rel) t (homeLoc loc)) pc')) ∧
  (AtWord s t .feWrite va loc s1 → s1.full loc.key = true → s1.awaitsGen t sc = false →
    exec (.stff o) s = .next (done (put rel) k (crossed (put rel) t (homeLoc loc)) pc')) ∧
  (AtWord s t .feWrite va loc s1 → s1.awaitsGen t sc = true →
    exec (.stef o) s = .next (s1.unyield k) ∧ exec (.stff o) s = .next (s1.unyield k)) ∧
  (AtWord s t .feRead va loc s1 →
    exec (.feq o) s = .next (done s1 k (withReg t o.d (oneIf (loc.disc || s1.full loc.key))) pc')) ∧
  (AtWord s t .feWrite va loc s1 → exec (.feset o.a o.imm) s = .next (done (s1.setFull loc.key true) k t pc')) ∧
  (AtWord s t .feWrite va loc s1 → exec (.feclr o.a o.imm) s = .next (done (s1.setFull loc.key false) k t pc')) ∧
  (AtWord s t .feRead va loc s1 → loc.disc = true →
    exec (.ldff o) s = .next (done (acquireAt s1 t.pcell sc) k (withReg t o.d 0) pc'))

/-- R230 and R233: a full/empty instruction whose wait condition holds parks its thread at the word's home, in order of arrival; no
register and no bit changes. -/
def Sys2Proof.Claims.fullEmptyWaits : Prop := ∀ (s : State) (k : Nat) (t : Thread) (i : Instr) (o : RMem) (loc : Loc) (s1 : State),
  Selected s k t → t.run = .ready → loc.disc = false →
  ((i = .ldff o ∧ AtWord s t .feRead (addrOf t.ctx o.a o.imm) loc s1 ∧ s1.full loc.key = false) ∨
    (i = .ldfe o ∧ AtWord s t .feWrite (addrOf t.ctx o.a o.imm) loc s1 ∧ s1.full loc.key = false) ∨
    (i = .stff o ∧ AtWord s t .feWrite (addrOf t.ctx o.a o.imm) loc s1 ∧ s1.full loc.key = false) ∨
    (i = .stef o ∧ AtWord s t .feWrite (addrOf t.ctx o.a o.imm) loc s1 ∧ s1.full loc.key = true)) →
  s1.awaitsGen t (homeScope (s.whoOf t) loc) = false →
  (s.parked.filter fun p => p.req.home == homeOf loc.key).length < (match homeOf loc.key with
    | .cell _ => 64
    | .slice _ _ _ => 256) →
  let r : HomeReq := { instr := i, opr := recordOf i t.ctx 0, va := addrOf t.ctx o.a o.imm, key := loc.key, home := homeOf loc.key
                       peer := loc.peer }
  ∃ s' : State, exec i s = .next s' ∧ s'.parked = s.parked ++ [⟨k, r⟩] ∧ s'.fe = s.fe ∧
    s'.thread? k = some { t with run := .parked .fullEmpty (s.cycOf t), req := some r }

/-- R223 and R224: a fence of a thread whose stores are performed commits, unless its release waits for a generation. At a scope wider than a
cell, a release leaves no line of the cell dirty, and an acquire leaves it no line. -/
def Sys2Proof.Claims.fenceResult : Prop := ∀ (s : State) (k : Nat) (t : Thread) (i : Instr) (o : Ord) (sc : Sys2Proof.Scope) (len : Nat),
  Selected s k t → Quiet t → (i = .fence ∧ o = .both ∧ sc = .sys ∧ len = 4 ∨ i = .fenceExt o sc ∧ len = 12) →
  (¬ Freed s t o sc → exec i s = .next (s.unyield k)) ∧
  (Freed s t o sc → ∃ s' : State, exec i s = .next s' ∧ s'.thread? k = some (t.commitAt (t.ctx.pc + BitVec.ofNat 64 len)) ∧
    (sc ≠ .thr → sc ≠ .cell → o = .rel ∨ o = .both → ∀ l ∈ s'.ownLines t.pcell, l.dirty = 0) ∧
    (sc ≠ .thr → sc ≠ .cell → o = .acq ∨ o = .both → s'.ownLines t.pcell = []) ∧
    (sc = .thr ∨ sc = .cell → s'.mem = s.mem ∧ s'.cells = s.cells))

/-- R225 and R452: a tfence completes every earlier tlbi of its thread, wherever the thread sent it from: none of the thread's is left, and
no TLB in the scope of one holds an entry that it names. -/
def Sys2Proof.Claims.translationFenceResult : Prop := ∀ (s : State) (k : Nat) (t : Thread) (i : Instr) (sc : Sys2Proof.Scope) (len : Nat),
  Selected s k t → Quiet t → s.awaitsGen t sc = false → (i = .tfence ∧ sc = .sys ∧ len = 4 ∨ i = .tfenceExt sc ∧ len = 12) →
  ∃ s' : State, exec i s = .next s' ∧ s'.thread? k = some (t.commitAt (t.ctx.pc + BitVec.ofNat 64 len)) ∧
    (∀ y ∈ s'.clusters, ∀ x ∈ y.2.tlbis, x.thread ≠ k) ∧
    (∀ y ∈ s.clusters, ∀ x ∈ y.2.tlbis, x.thread = k →
      (∀ c : PCell, (x.scope = 8 ∧ c = x.cell ∨ x.scope ≠ 8 ∧ inScope x.scope (clusterOf x.cell) x.clusters (clusterOf c) = true) →
        (∀ e ∈ (s'.cell c).dtlb, x.takes e = false) ∧ (∀ e ∈ (s'.cell c).itlb, x.takes e = false)) ∧
      (∀ c : ClusterId, inScope x.scope (clusterOf x.cell) x.clusters c = true → ∀ e ∈ (s'.cluster c).l2tlb, x.takes e = false))

/-- R145 and R146: outside a gang, an instruction with a lookahead count opens a window: the head keeps the operands captured at its
issue under a new ticket, its destination is not written, and the thread goes on behind it. -/
def Obligations.WindowOpens : Prop := ∀ (s : State) (k : Nat) (t : Thread) (i : Instr) (la : BitVec 4) (len : Nat), Selected s k t →
  la ≠ 0 → t.gang = .none → Quiet t →
  ((∃ (n : Nat) (sg : Bool) (o : Load), loadOf i = some (n, sg, o) ∧ o.la = la ∧ len = memLen o.ext o.imm) ∨
    (∃ (n : Nat) (d a : Reg) (e : Option Ext) (f : Nat → Nat), atomicOf t.ctx i = some (n, d, a, la, e, len, f)) ∨
    (∃ o : Atomic, i = .axadd o ∧ o.la = la ∧ len = 4 + partLen o.ext.isSome + (srcLen o.b - 4)) ∨
    (∃ o : RRSL, o.la = la ∧ len = srcLen o.b ∧
      (i = .mul o ∨ i = .mulh o ∨ i = .mulhn o ∨ i = .div o ∨ i = .divn o ∨ i = .rem o ∨ i = .remn o))) →
  exec i s = .next (done s k { t.takeTicket with
      ctx := { t.ctx with head := some ⟨recordOf i t.ctx t.ticket, la.toNat, true, none⟩ } } (t.ctx.pc + BitVec.ofNat 64 len))

/-! ### Queues, tasks, threads and gangs (chapters 05, 07) -/
namespace Sys2Proof.Claims

/-- A thread with a changed context. -/
def withCtx (t : Thread) (f : Ctx → Ctx) : Thread := { t with ctx := f t.ctx }

/-- A thread that owes nothing: no relaxed store, no queued vector command. -/
def Still (t : Thread) : Prop := Quiet t ∧ t.ctx.vq = []

/-- The shared queues by number (R171). -/
def sharedPort : Fin 4 → Port
  | 0 => .sq0
  | 1 => .sq1
  | 2 => .sq2
  | 3 => .sq3

/-- A thread that waits: its record is the same but for what it waits for and since when. -/
def parkedFor (s : State) (k : Nat) (i : Instr) (t : Thread) (why : Why) : Host.Outcome State Fault Refusal :=
  .next ((s.setThread k { t with run := .parked why (s.cycOf t), waitOpr := recordOf i t.ctx 0 }).unyield k)

/-- An indivisible access to n bytes at an address that passes the checks: its place, the bytes it finds, and the state then. `pre` is the
release that comes between. -/
def AtPlace (s : State) (t : Thread) (acc : Acc) (va : Word) (n : Nat) (pre : State → State) (loc : Loc) (bs : List Byte) (s' : State) :
    Prop :=
  resolve s (s.whoOf t) acc va n n = .ok loc ∧
  readAt (loc.settle (pre (s.fillTlb t.pcell false loc)) t.pcell n) (s.whoOf t) loc n false = .ok (bs, s')
end Sys2Proof.Claims

/-- R172: qbind binds qd to the port, and a register that held the port becomes unbound; qrel unbinds qd. Nothing else changes. -/
def Sys2Proof.Claims.queueBinding : Prop := ∀ (s : State) (k : Nat) (t : Thread) (qd : BitVec 3) (p : Port), Selected s k t →
  exec (.qbind qd p) s = .next (done s k (withCtx t fun c => { c with
      q := Vector.ofFn fun i => if i = qd.toFin then some p else if c.q.get i = some p then none else c.q.get i }) (t.ctx.pc + 4)) ∧
  exec (.qrel qd) s = .next (done s k (withCtx t fun c => { c with
      q := Vector.ofFn fun i => if i = qd.toFin then none else c.q.get i }) (t.ctx.pc + 4))

/-- R171 and R172: a shared queue takes a pushed value at its end while it holds fewer than 32, and gives its oldest to a pop; a full or an
empty one parks the thread. A register with no port, and a pop of PASSPOST, is QUEUE_UNBOUND. -/
def Sys2Proof.Claims.sharedQueueResult : Prop := ∀ (s : State) (k : Nat) (t : Thread) (q : BitVec 3) (r : Reg) (n : Fin 4), Selected s k t →
  t.run = .ready →
  let v := s.vcell (s.cellFor t)
  (t.ctx.q.get q.toFin = some (sharedPort n) → (v.sq.get n).length < 32 → exec (.qpush q r) s =
    .next (done (s.setVcell (s.cellFor t) { v with sq := v.sq.set n (v.sq.get n ++ [t.ctx.gpr r]) }) k t (t.ctx.pc + 4))) ∧
  (t.ctx.q.get q.toFin = some (sharedPort n) → 32 ≤ (v.sq.get n).length →
    exec (.qpush q r) s = parkedFor s k (.qpush q r) t .queue) ∧
  (∀ (x : Word) (xs : List Word), t.ctx.q.get q.toFin = some (sharedPort n) → v.sq.get n = x :: xs → exec (.qpop r q) s =
    .next (done (s.setVcell (s.cellFor t) { v with sq := v.sq.set n xs }) k (withReg t r x) (t.ctx.pc + 4))) ∧
  (t.ctx.q.get q.toFin = some (sharedPort n) → v.sq.get n = [] → exec (.qpop r q) s = parkedFor s k (.qpop r q) t .queue) ∧
  (t.ctx.q.get q.toFin = none → exec (.qpush q r) s = trapsWith s k t (.qpush q r) { code := 0x0E } ∧
    exec (.qpop r q) s = trapsWith s k t (.qpop r q) { code := 0x0E }) ∧
  (t.ctx.q.get q.toFin = some .passpost → exec (.qpop r q) s = trapsWith s k t (.qpop r q) { code := 0x0E })

/-- R172 and R250: a pop of a completion queue takes its oldest entry. An entry without a fault code goes to gd, with an acquire at system
scope for passes, copies and loads; an entry with a fault code leaves the queue and is that fault, with the address, the pc, the ticket and
the operand record of the command that its ticket names. Where nothing is kept for that ticket the operand record is empty, which is the
model's choice (log 61). -/
def Sys2Proof.Claims.completionPop : Prop := ∀ (s : State) (k : Nat) (t : Thread) (q : BitVec 3) (r : Reg) (e : Word) (es : List Word),
  Selected s k t →
  (t.ctx.q.get q.toFin = some .passdone → t.passdone = e :: es → e.toNat / 2 ^ 22 % 32 = 0 → exec (.qpop r q) s =
    .next (done (acquireAt s t.pcell .sys) k (withReg { t with passdone := es } r e) (t.ctx.pc + 4))) ∧
  (t.ctx.q.get q.toFin = some .cpydone → t.cpydone = e :: es → e.toNat / 2 ^ 23 % 32 = 0 → exec (.qpop r q) s =
    .next (done (acquireAt s t.pcell .sys) k (withReg { t with cpydone := es } r e) (t.ctx.pc + 4))) ∧
  (t.ctx.q.get q.toFin = some .decdone → t.decdone = e :: es → e.toNat / 2 ^ 23 % 32 = 0 → exec (.qpop r q) s =
    .next (done (acquireAt s t.pcell .sys) k (withReg { t with decdone := es } r e) (t.ctx.pc + 4))) ∧
  (t.ctx.q.get q.toFin = some .probeout → t.probeout = e :: es → exec (.qpop r q) s =
    .next (done s k (withReg { t with probeout := es } r e) (t.ctx.pc + 4))) ∧
  (t.ctx.q.get q.toFin = some .cpydone → t.cpydone = e :: es → e.toNat / 2 ^ 23 % 32 ≠ 0 →
    (∀ (a b : List EngFlt) (f : EngFlt), t.engFlts = a ++ f :: b → f.opr.ticket.toNat = e.toNat / 2 ^ 32 →
      (∀ x ∈ a, x.opr.ticket.toNat ≠ e.toNat / 2 ^ 32) →
      exec (.qpop r q) s = trapsWith (s.setThread k { t with cpydone := es, engFlts := a ++ b }) k t (.qpop r q)
        { code := e.toNat / 2 ^ 23 % 32, faddr := f.va, opr := some f.opr }) ∧
    (t.engFlts = [] → exec (.qpop r q) s = trapsWith (s.setThread k { t with cpydone := es }) k t (.qpop r q)
      { code := e.toNat / 2 ^ 23 % 32, opr := some {} })) ∧
  (∀ (a b : List EngFlt) (f : EngFlt), t.ctx.q.get q.toFin = some .decdone → t.decdone = e :: es → e.toNat / 2 ^ 23 % 32 ≠ 0 →
    t.engFlts = a ++ f :: b → f.opr.ticket.toNat = e.toNat / 2 ^ 32 → (∀ x ∈ a, x.opr.ticket.toNat ≠ e.toNat / 2 ^ 32) →
    exec (.qpop r q) s = trapsWith (s.setThread k { t with decdone := es, engFlts := a ++ b }) k t (.qpop r q)
      { code := e.toNat / 2 ^ 23 % 32, faddr := f.va, opr := some f.opr }) ∧
  (∀ (a b : List EngFlt) (f : EngFlt), t.ctx.q.get q.toFin = some .passdone → t.passdone = e :: es → e.toNat / 2 ^ 22 % 32 ≠ 0 →
    t.engFlts = a ++ f :: b → f.opr.ticket.toNat % 2 ^ 22 = e.toNat % 2 ^ 22 → (∀ x ∈ a, x.opr.ticket.toNat % 2 ^ 22 ≠ e.toNat % 2 ^ 22) →
    exec (.qpop r q) s = trapsWith (s.setThread k { t with passdone := es, engFlts := a ++ b }) k t (.qpop r q)
      { code := e.toNat / 2 ^ 22 % 32, faddr := f.va, opr := some f.opr })

/-- R162 and R83: a fork with room in its deque reads its record, counts the child in its join word, releases at partition scope, and adds
the record with ORIGIN replaced at the bottom of the deque. While its release waits for a generation (R224) it stays. -/
def Obligations.ForkPushes : Prop := ∀ (s : State) (k : Nat) (t u : Thread) (a : Reg) (r0 : BitVec 256) (s1 s2 : State) (x : Seat),
  Selected s k t → t.gang = .none → Still t → (t.ctx.gpr a).toNat % 8 = 0 →
  readRecord s t (t.ctx.gpr a) = .ok (r0, s1) → s1.seat t = some x → badTask r0 x.launch.ready.codeLen = none →
  (r0.toNat / 2 ^ 64 % 2 ^ 64 = 0 ∧ s2 = s1 ∧ u = t ∨
    (¬ (0x40 ≤ r0.toNat / 2 ^ 120 % 256 ∧ r0.toNat / 2 ^ 120 % 256 ≤ 0x47) ∨ r0.toNat / 2 ^ 32 % 8 = 0) ∧ r0.toNat / 2 ^ 64 % 2 ^ 64 ≠ 0 ∧
      ∃ loc bs s', AtPlace s1 t .atomic (r0.extractLsb' 64 64) 8 id loc bs s' ∧ s2 = s'.store loc.key (leOf 8 (leVal bs + 1)) ∧
        u = crossed s' t loc) →
  x.launch.ready.lwm ≤ 64 / 2 ^ x.place.fold - (s1.vcell x.cell).deque.length →
  let r : BitVec 256 := r0.extractLsb' 64 192 ++ BitVec.ofNat 20 t.flat ++ r0.extractLsb' 0 44
  let s3 := releaseAt s2 t.pcell .part
  (s1.awaitsGen t .part = false → exec (.fork a) s = .next (done (s3.setVcell x.cell ((s3.vcell x.cell).push r)) k u (t.ctx.pc + 4))) ∧
  (s1.awaitsGen t .part = true → exec (.fork a) s = .next (s1.unyield k))

/-- R163: join reads its word and writes what its count and waiter ask for, in one step. With no child left it acquires and goes on;
with children left it names itself the waiter and suspends, or takes back a wake that came in between; another waiter is
ILLEGAL_INSN, and the word stays. -/
def Obligations.JoinResult : Prop := ∀ (s : State) (k : Nat) (t : Thread) (a : Reg) (loc : Loc) (bs : List Byte) (s1 : State),
  Selected s k t → t.gang = .none → Still t → (t.ctx.gpr a).toNat % 8 = 0 → AtPlace s t .atomic (t.ctx.gpr a) 8 id loc bs s1 →
  let u := crossed s1 t loc
  let w := leVal bs
  let count := w % 2 ^ 32
  let waiter := w / 2 ^ 32
  (count = 0 → exec (.join a) s = .next (done
    (acquireAt (s1.store loc.key (leOf 8 (if waiter = t.tid.toNat then 0 else w))) t.pcell .part) k u (t.ctx.pc + 4))) ∧
  (count ≠ 0 → waiter = 0 ∨ waiter = t.tid.toNat →
    ∃ s' : State, exec (.join a) s = .next s' ∧ s'.mem = writeBytes s1.mem loc.key (leOf 8 (t.tid.toNat * 2 ^ 32 + count)) ∧
      (t.ctx.wp = true → s'.thread? k = some ((withCtx u fun c => { c with tstat := putFld c.tstat 25 1 0 }).unwait k)) ∧
      (t.ctx.wp = false → ∃ t' : Thread, s'.thread? k = some t' ∧ t'.ctx = t.ctx ∧ t'.run = .suspended ∧
        t'.place = .cache t.pcell false s.stamp)) ∧
  (count ≠ 0 → waiter ≠ 0 → waiter ≠ t.tid.toNat →
    exec (.join a) s = trapsWith ((s1.store loc.key (leOf 8 w)).setThread k u) k t (.join a) { code := 0x01 })

/-- R164: tend unbinds the queue registers, then makes the join word one lower, with a release, and wakes its waiter when it was the last. A
task that runs by itself then ends its thread, which is gone; an inline run restores the identity below ls and returns to lr. While its
release waits for a generation (R224) it stays. -/
def Obligations.TaskEnds : Prop := ∀ (s : State) (k : Nat) (t : Thread), Selected s k t → t.gang = .none → Still t →
  let t0 := withCtx t fun c => { c with q := Vector.replicate 8 none }
  let s0 := s.setThread k t0
  let waked (bs : List Byte) : Bool := leVal bs % 2 ^ 32 == 1 && leVal bs / 2 ^ 32 != 0
  let note (bs : List Byte) : Wake := ⟨s.nextKey, t.launch, BitVec.ofNat 32 (leVal bs / 2 ^ 32)⟩
  let inner (u : Thread) (b1 b2 : List Byte) : Thread := withCtx u fun c =>
    { (c.setGpr 14 (c.gpr 14 + 16)) with
      tstat := putFld c.tstat 48 16 (c.inl - 1), joinAddr := BitVec.ofNat 64 (leVal b2)
      origin := BitVec.ofNat 20 (leVal b1 / 2 ^ 44), domain := BitVec.ofNat 3 (leVal b1 / 2 ^ 32) }
  (t.ctx.inl = 0 → t.ctx.joinAddr = 0 →
    ∃ s' : State, exec .tend s = .next s' ∧ s'.thread? k = none ∧ s'.mem = s.mem ∧ s'.wakes = s.wakes) ∧
  (t.ctx.joinAddr ≠ 0 → s.awaitsGen t .part = true → exec .tend s = .next (s.unyield k)) ∧
  (∀ (loc : Loc) (bs : List Byte) (s1 : State), t.ctx.inl = 0 → t.ctx.joinAddr ≠ 0 → s.awaitsGen t .part = false →
    AtPlace s0 t0 .atomic t.ctx.joinAddr 8 (fun s => releaseAt s t.pcell .part) loc bs s1 →
    ∃ s' : State, exec .tend s = .next s' ∧ s'.thread? k = none ∧
      s'.mem = writeBytes s1.mem loc.key (leOf 8 ((leVal bs + (2 ^ 64 - 1)) % 2 ^ 64)) ∧
      s'.wakes = (if waked bs then s.wakes ++ [note bs] else s.wakes)) ∧
  (∀ (b1 b2 : List Byte) (s1 s2 : State), t.ctx.inl ≠ 0 → t.ctx.joinAddr = 0 →
    readData s0 t0 (t.ctx.gpr 14) 8 true = .ok (b1, s1) → readData s1 t0 (t.ctx.gpr 14 + 8) 8 true = .ok (b2, s2) →
    exec .tend s = .next (done s2 k (inner t0 b1 b2) (t.ctx.gpr 15))) ∧
  (∀ (loc : Loc) (bs b1 b2 : List Byte) (s1 s2 s3 : State), t.ctx.inl ≠ 0 → t.ctx.joinAddr ≠ 0 → s.awaitsGen t .part = false →
    AtPlace s0 t0 .atomic t.ctx.joinAddr 8 (fun s => releaseAt s t.pcell .part) loc bs s1 →
    let u := crossed s1 t0 loc
    let x := (s1.store loc.key (leOf 8 ((leVal bs + (2 ^ 64 - 1)) % 2 ^ 64))).setThread k u
    let y := if waked bs then { x with nextKey := x.nextKey + 1, wakes := x.wakes ++ [note bs] } else x
    readData y u (t.ctx.gpr 14) 8 true = .ok (b1, s2) → readData s2 u (t.ctx.gpr 14 + 8) 8 true = .ok (b2, s3) →
    exec .tend s = .next (done s3 k (inner u b1 b2) (t.ctx.gpr 15)))

/-- R165 and R144: yield, sleep, wfw and wake. yield commits and the thread waits for its turn; sleep waits for its dclk and commits then; wfw
takes a pending wake or parks; wake sends a wake to a TID. -/
def Obligations.ThreadWaits : Prop := ∀ (s : State) (k : Nat) (t : Thread) (a : Reg), Selected s k t → t.gang = .none →
  (∀ i : Instr, (i = .yield ∨ i = .sleep a ∧ t.ctx.gpr a = 0) → ∃ (s' : State) (t' : Thread), exec i s = .next s' ∧ s'.thread? k = some t' ∧
    s'.mem = s.mem ∧
    t'.ctx = { t.ctx with pc := t.ctx.pc + 4 } ∧ t'.run = .yielded ((done s k t (t.ctx.pc + 4)).readyOthers k t.pcell)) ∧
  (t.ctx.gpr a ≠ 0 → exec (.sleep a) s = .next ((s.setThread k { t with
    run := .sleeping (s.cycOf t + 9 + (if (t.ctx.gpr a).toNat < 2 ^ 32 then (t.ctx.gpr a).toNat else 2 ^ 32 - 1)) }).unyield k)) ∧
  (∀ n : Nat, t.run = .sleeping n → exec (.sleepExpiry k) s =
    .next (if n ≤ s.cycOf t then done s k t (t.ctx.pc + 4) else s)) ∧
  (t.ctx.wp = true → exec .wfw s = .next (done s k (withCtx t fun c => { c with tstat := putFld c.tstat 25 1 0 }) (t.ctx.pc + 4))) ∧
  (t.ctx.wp = false → t.run = .ready → exec .wfw s = parkedFor s k .wfw t .wfw) ∧
  exec (.wake a) s = .next (done { s with
    nextKey := s.nextKey + 1, wakes := s.wakes ++ [⟨s.nextKey, t.launch, (t.ctx.gpr a).setWidth 32⟩] } k t (t.ctx.pc + 4))

/-- R90: fly to the thread's own virtual cell has no effect; to another one, when its home cell can note where it goes and the cell can be
reached, the thread leaves, with a release, and keeps its slot until it arrives; its home notes where it goes as it leaves (R166). With a
queue register bound, and in a gang, it is ILLEGAL_INSN. -/
def Obligations.FlyLeaves : Prop := ∀ (s : State) (k : Nat) (t : Thread) (a : Reg) (x y : Seat), Selected s k t → t.run = .ready →
  s.seat t = some x → s.seatAt t.launch (t.ctx.gpr a).toNat = some y →
  (t.gang = .none → Still t → (∀ n, t.ctx.q.get n = none) →
    ((t.ctx.gpr a).toNat = t.flat → exec (.fly a) s = .next (done s k t (t.ctx.pc + 4))) ∧
    (∀ (c : PCell) (n : Nat), (t.ctx.gpr a).toNat ≠ t.flat → t.place = .slot c n → s.awayFree t (t.ctx.gpr a).toNat = true →
      s.reaches x.cell.pkg (s.cell c).bank y.cell.pkg = true → s.awaitsGen t .part = false →
      let r := releaseAt s c .part
      let r := if t.tid.toNat / 2 ^ 12 = (t.ctx.gpr a).toNat then r else r.noteAway t (t.ctx.gpr a).toNat
      exec (.fly a) s = .next ((r.setThread k { t with
        place := .flying c n y.cell (t.ctx.gpr a).toNat, run := .parked .fly (s.cycOf t), waitOpr := recordOf (.fly a) t.ctx 0 }).unyield k))) ∧
  ((t.gang ≠ .none ∨ ∃ n, t.ctx.q.get n ≠ none) → exec (.fly a) s = trapsWith s k t (.fly a) { code := 0x01 })

/-- R168: a gang whose members' slots are free forms: each of the other members starts at the next instruction as a follower, with the
leader's registers but for g3, its flat number, and g4, its offset; the leader's GLD is set. -/
def Sys2Proof.Claims.gangForms : Prop := ∀ (s : State) (k : Nat) (t : Thread) (w : GangWidth) (c : PCell) (n : Nat) (x : Seat)
    (ms : List (Nat × Seat)), Selected s k t → t.gang = .none → Still t → t.place = .slot c n → s.seat t = some x →
  x.place.fold = 0 → n < x.launch.ready.slots → s.gangSeats t (GangWidth.size w) = some ms →
  (ms.map fun m => m.2.cell).Nodup → (∀ y ∈ s.threads, y.1 < s.nextKey) →
  (∀ m ∈ ms, (s.vcell m.2.cell).reserved = [] ∧ (s.cell m.2.place.cell).capped = false ∧
    ∀ y ∈ s.threads, y.2.slot? ≠ some (m.2.place.cell, n)) →
  ∃ (s' : State) (fs : List Nat), exec (.gang w) s = .next s' ∧ fs.length = ms.length ∧
    s'.thread? k = some { (withCtx t fun c => { c with tstat := putFld c.tstat 23 1 1 }).commitAt (t.ctx.pc + 4) with gang := .leader fs } ∧
    ∀ (j : Nat) (m : Nat × Seat) (f : Nat), ms[j]? = some m → fs[j]? = some f → ∃ u : Thread, s'.thread? f = some u ∧
      u.gang = .follower k ∧ u.flat = m.1 ∧ u.place = .slot m.2.place.cell n ∧ u.ctx.pc = t.ctx.pc + 4 ∧
      u.ctx.tstat = putFld t.ctx.tstat 22 1 1 ∧ u.ctx.gpr 3 = BitVec.ofNat 64 m.1 ∧
      u.ctx.gpr 4 = BitVec.ofNat 64 (m.1 - t.flat / (GangWidth.size w) * (GangWidth.size w)) ∧
      (∀ r : Reg, r ≠ 3 → r ≠ 4 → u.ctx.gpr r = t.ctx.gpr r) ∧ (∀ v : VNum, u.ctx.vr v = 0) ∧ (∀ q, u.ctx.qr q = none)

/-- R170: ungang outside a gang has no effect; a leader's ungang discards the followers and clears GLD. -/
def Sys2Proof.Claims.gangDisbands : Prop := ∀ (s : State) (k : Nat) (t : Thread), Selected s k t → Still t →
  (t.gang = .none → exec .ungang s = .next (done s k t (t.ctx.pc + 4))) ∧
  (∀ ms : List Nat, t.gang = .leader ms → k ∉ ms → (∀ p ∈ s.parked, p.thread ≠ k) →
    (∀ m ∈ ms, ∀ u, s.thread? m = some u → u.rx = []) →
    ∃ s' : State, exec .ungang s = .next s' ∧ (∀ m ∈ ms, s'.thread? m = none) ∧ s'.mem = s.mem ∧
      s'.thread? k = some { (withCtx t fun c => { c with tstat := putFld c.tstat 23 1 0 }).commitAt (t.ctx.pc + 4) with gang := .none })

/-! ### Traps, upcalls and system instructions (chapter 18) -/
namespace Sys2Proof.Claims

/-- Where the records of a cell's slots lie: TBASE + 0x1000 + 256 × s (R429, R430). -/
def areaOf (s : State) (c : PCell) (n : Nat) : Word := (s.cell c).tvec / 8192 * 8192 + 0x1000 + BitVec.ofNat 64 (256 * n)

/-- The number of n bytes of a list from a byte on, little-endian. -/
def numAt (bs : List Byte) (off n : Nat) : Nat := leVal ((bs.drop off).take n)

end Sys2Proof.Claims

/-- R432 and R433: the layout of a trap record, and of the operand record at its end. REPEAT stays at 15 past that, which is the model's
choice (log 75). -/
def Sys2Proof.Claims.trapRecordLayout : Prop := ∀ (f : Flt) (r : OpRec) (code rep fctx : Nat) (up : Bool) (detail : Word) (t : Thread) (cyc : Nat),
  code < 256 → fctx < 16 → cyc < 2 ^ 64 →
  let bs := trapBytes f r code rep fctx up detail t cyc
  let w := numAt bs 0 8
  bs.length = 128 ∧ w % 2 ^ 8 = code ∧ w / 2 ^ 8 % 16 = fctx ∧ w / 2 ^ 12 % 16 = 0 ∧ w / 2 ^ 16 % 16 = (if rep < 15 then rep else 15) ∧
  w / 2 ^ 20 % 8 = (if f.len = some 0 ∨ r = {} then 0 else 1 + (if r.base.getLsbD 1 then 2 else 0) + (if r.base.getLsbD 0 then 2 else 0)) ∧
  w / 2 ^ 24 % 2 = (if f.opr.isSome then 1 else 0) ∧ w / 2 ^ 25 % 2 = (if up then 1 else 0) ∧ w / 2 ^ 26 % 64 = 0 ∧
  w / 2 ^ 32 = r.ticket.toNat ∧ numAt bs 8 8 = t.ctx.pc.toNat ∧ numAt bs 16 8 = f.faddr.toNat ∧ numAt bs 24 8 = detail.toNat ∧
  numAt bs 32 8 = t.ctx.tstat.toNat ∧ numAt bs 40 8 = cyc ∧ numAt bs 48 16 = 0 ∧
  numAt bs 64 8 = r.pc.toNat ∧ numAt bs 72 4 = r.base.toNat ∧ numAt bs 76 4 = r.ticket.toNat ∧ numAt bs 80 8 = r.ext.toNat ∧
  numAt bs 88 8 = r.lit.toNat ∧ numAt bs 96 8 = r.vd.toNat ∧ numAt bs 104 8 = r.va.toNat ∧ numAt bs 112 8 = r.vb.toNat ∧
  numAt bs 120 8 = r.vc.toNat

/-- R429: a supervisor trap of a worker at PRIV = 0. With the area of its slot writable, the record and g0 to g15 are in it, TCAUSE takes
the code, TEPC the pc, PRIV becomes 1 and pc is TBASE; every other register keeps its value. -/
def Sys2Proof.Claims.supervisorEntry : Prop := ∀ (s : State) (k : Nat) (t : Thread) (f : Flt) (own : OpRec) (c : PCell) (n : Nat) (s2 : State),
  s.thread? k = some t → Still t → t.gang = .none → t.place = .slot c n → t.nurse = false → t.ctx.priv = false → t.ctx.head = none →
  t.watch = none → t.vErr = none → f.code ≠ 0x05 → f.code ≠ 0x07 → f.code ≠ 0x09 → f.code ≠ 0x0A →
  cellStore (s.releaseSlots k) { (s.releaseSlots k).whoOf t with sup := true } (areaOf s c n)
    (trapBytes f (f.opr.getD own) f.code 0 0 false f.detail t (s.cycOf t) ++ t.ctx.g.toList.flatMap fun v => leOf 8 v.toNat) = .ok s2 →
  (takeFault s k f own).mem = s2.mem ∧
  ∃ t' : Thread, (takeFault s k f own).thread? k = some t' ∧ t'.run = .ready ∧ t'.place = t.place ∧ t'.fctx = t.fctx ∧
    t'.ctx = { t.ctx with
      tcause := BitVec.ofNat 64 f.code, tepc := t.ctx.pc, tstat := putFld t.ctx.tstat 8 1 1, pc := (s.cell c).tvec / 8192 * 8192 }

/-- R431: a fault at PRIV = 1 in a worker thread halts the thread; its nurse is told. -/
def Sys2Proof.Claims.doubleTrap : Prop := ∀ (s : State) (k : Nat) (t : Thread) (f : Flt) (own : OpRec), s.thread? k = some t → Still t →
  t.gang = .none → t.cached = false → t.nurse = false → t.ctx.priv = true → t.vErr = none →
  (takeFault s k f own).thread? k = none ∧
  ∃ n ∈ ((takeFault s k f own).cluster (clusterOf t.pcell)).notices, n.code = f.code ∧ n.tid = t.ctx.tid

/-- R435: an upcall: the context moves into the lowest free fault context, TCAUSE takes the code and that index with PHD 0, TEPC the
pc, UPC becomes 1 and pc is UVEC; PRIV stays 0 and the thread keeps its registers. -/
def Sys2Proof.Claims.upcallEntry : Prop := ∀ (s : State) (k : Nat) (t : Thread) (f : Flt) (own : OpRec) (i : Nat) (s2 : State),
  s.thread? k = some t → Still t → t.gang = .none → t.cached = false → t.ctx.priv = false → t.ctx.upc = false → t.watch = none → t.vErr = none →
  f.code = 0x05 ∨ f.code = 0x07 ∨ f.code = 0x09 ∨ f.code = 0x0A → t.ctx.uvec / 4 ≠ 0 → i < 4 →
  (∀ j : Fin 4, j.val < i → t.fctx.get j ≠ none) → (∀ j : Fin 4, j.val = i → t.fctx.get j = none) →
  (s.releaseSlots k).writeTrec t (trapBytes f (f.opr.getD own) f.code 0 i true f.detail t (s.cycOf t)) = some s2 →
  (takeFault s k f own).mem = s2.mem ∧
  ∃ t' : Thread, (takeFault s k f own).thread? k = some t' ∧ t'.place = t.place ∧ t'.passdone = t.passdone ∧ t'.seq = t.seq ∧
    (∀ j : Fin 4, (t'.fctx.get j).map FaultCtx.ctx = if j.val = i then some t.ctx else (t.fctx.get j).map FaultCtx.ctx) ∧
    t'.ctx = { t.ctx with
      tcause := BitVec.ofNat 64 (f.code + i * 256), tepc := t.ctx.pc, tstat := putFld t.ctx.tstat 21 1 1
      pc := t.ctx.uvec / 4 * 4, head := none }

/-- R447: trap n commits, and then its thread takes code TRAP with DETAIL n at the next instruction; in a gang it is ILLEGAL_INSN (R446). -/
def Obligations.TrapInstruction : Prop := ∀ (s : State) (k : Nat) (t : Thread) (n : BitVec 4), Selected s k t →
  (t.gang = .none → exec (.trap n) s = .next ((takeFault (done s k t (t.ctx.pc + 4)) k
    { code := 0x13, detail := BitVec.ofNat 64 n.toNat } (recordOf (.trap n) t.ctx 0)).unyield k)) ∧
  (t.gang ≠ .none → exec (.trap n) s = trapsWith s k t (.trap n) { code := 0x01 })

/-- R446, R120 and R409: at user privilege every supervisor instruction is PRIVILEGE, and in a gang ILLEGAL_INSN; nothing else happens. R318,
R365, R410 and R89: an optical instruction but pstat, a mailbox instruction and a fabric instruction in a gang are ILLEGAL_INSN at the leader,
and that trap disbands the gang: its other members are gone. -/
def Obligations.PrivilegeChecks : Prop := ∀ (s : State) (k : Nat) (t : Thread) (i : Instr) (a b d : Reg) (v : VNum) (sc : Sys2Proof.Scope),
  Selected s k t →
  let super := i = .rte ∨ i = .halt ∨ i = .ctxsv a b ∨ i = .ctxld a b ∨ i = .tlbi a b ∨ i = .cap a ∨ i = .scrub a b ∨ i = .topo d a
  let alone := i = .pbank d a b ∨ i = .pdec d a b ∨ i = .pswap ∨ i = .pass d a ∨ i = .probe d a ∨ i = .pcal a b ∨ i = .pabort a ∨
    i = .mst d a ∨ i = .shufset d a ∨ i = .shuf d a ∨ i = .bar a b ∨ i = .barScoped a b sc ∨ i = .xred d a ∨ i = .gpost a v ∨ i = .gtake v a
  (super → t.ctx.priv = false → exec i s = trapsWith s k t i { code := 0x02 }) ∧
  (super → t.ctx.priv = true → t.gang ≠ .none → exec i s = trapsWith s k t i { code := 0x01 }) ∧
  (alone → t.gang ≠ .none → exec i s = trapsWith s k t i { code := 0x01 }) ∧
  (∀ ms, alone → t.gang = .leader ms → k ∉ ms → t.cached = false → Still t → ∃ s' : State, exec i s = .next s' ∧
    (∀ m ∈ ms, s'.thread? m = none) ∧ ∀ t', s'.thread? k = some t' → t'.gang = .none)

/-- R448: rte reads g0 to g15 back from its slot's area, clears PRIV but in a nurse thread, and goes to TEPC; other registers keep
their values. -/
def Sys2Proof.Claims.rteResult : Prop := ∀ (s : State) (k : Nat) (t : Thread) (c : PCell) (n : Nat) (bs : List Byte) (s1 : State), Selected s k t →
  t.ctx.priv = true → t.gang = .none → t.place = .slot c n →
  cellRead s (s.whoOf t) (areaOf s c n + 128) 128 = .ok (bs, s1) →
  ∃ (s' : State) (t' : Thread), exec .rte s = .next s' ∧ s'.mem = s1.mem ∧ s'.thread? k = some t' ∧ t'.run = .ready ∧ t'.place = t.place ∧
    t'.fctx = t.fctx ∧
    t'.ctx = { t.ctx with
      g := Vector.ofFn fun i => BitVec.ofNat 64 (numAt bs (8 * i.val) 8), pc := t.ctx.tepc
      tstat := putFld t.ctx.tstat 8 1 (if t.nurse then 1 else 0) }

/-- R449: urte outside a handler, or with FCTX 4 to 14 or an index that holds nothing, is ILLEGAL_INSN; with FCTX 15 it clears UPC and goes
to TEPC; otherwise the fault context's registers are restored, TSTAT among them, but for WP, which is kept, and UPC, which is cleared, and the
context is free. -/
def Sys2Proof.Claims.urteResult : Prop := ∀ (s : State) (k : Nat) (t : Thread), Selected s k t → t.gang = .none → Still t →
  let f := t.ctx.tcause.toNat / 256 % 16
  (t.ctx.upc = false ∨ 4 ≤ f ∧ f ≤ 14 → exec .urte s = trapsWith s k t .urte { code := 0x01 }) ∧
  (t.ctx.upc = true → f = 15 →
    exec .urte s = .next (done s k (withCtx t fun c => { c with tstat := putFld c.tstat 21 1 0 }) t.ctx.tepc)) ∧
  (∀ i : Fin 4, t.ctx.upc = true → f = i.val → t.fctx.get i = none → exec .urte s = trapsWith s k t .urte { code := 0x01 }) ∧
  (∀ (i : Fin 4) (x : FaultCtx), t.ctx.upc = true → f = i.val → t.fctx.get i = some x → x.ctx.head = none →
    ∃ (s' : State) (t' : Thread), exec .urte s = .next s' ∧ s'.mem = s.mem ∧ s'.thread? k = some t' ∧ t'.fctx = t.fctx.set i.val none ∧
      t'.run = .ready ∧ t'.passdone = t.passdone ∧ t'.seq = t.seq ∧
      t'.ctx = { x.ctx with tstat := putFld (putFld x.ctx.tstat 25 1 (if t.ctx.wp then 1 else 0)) 21 1 0 })

/-- R451: halt ends the thread and changes no memory; no join word is decremented and no wake is sent. -/
def Sys2Proof.Claims.haltResult : Prop := ∀ (s : State) (k : Nat) (t : Thread), Selected s k t → t.ctx.priv = true → t.gang = .none →
  Quiet t → ∃ s' : State, exec .halt s = .next s' ∧ s'.thread? k = none ∧ s'.mem = s.mem ∧ s'.wakes = s.wakes

/-- R450: ctxsv copies the context of a TID from the named cell's context cache to the image at g[A] and, with RM, removes the entry; what goes
on under its TID is kept beside (log 83). A TID that no entry holds is reason 1, a context with fault contexts reason 2. With PRE the
thread of a TID that runs in a slot is asked for its pre-emption, and the instruction waits. -/
def Sys2Proof.Claims.contextSave : Prop := ∀ (s : State) (k : Nat) (t : Thread) (a b : Reg) (p d l : Nat) (pl : VPlace), Selected s k t →
  t.ctx.priv = true → t.gang = .none → Quiet t →
  let sel := t.ctx.gpr b
  let va := t.ctx.gpr a
  sel &&& 0xFFFA000000000000 = 0 → sel.toNat / 2 ^ 32 % 65536 < 32 → va.toNat % 64 = 0 → rangeFault s t .store va 2048 = none →
  s.ownLcl t = some (p, d, l) → s.place ⟨p, d, l, sel.toNat / 2 ^ 32 % 65536⟩ = some pl →
  (∀ (j : Nat) (u : Thread) (s2 : State), s.findTid pl.cell (sel.setWidth 32) true = some (j, u) → (∀ n, u.fctx.get n = none) →
    s.awaitsGen t .sys = false → cellStore (releaseAt s t.pcell .sys) (s.whoOf t) va (imageBytes u) = .ok s2 →
    (sel.getLsbD 48 = false → exec (.ctxsv a b) s = .next (done s2 k t (t.ctx.pc + 4))) ∧
    (sel.getLsbD 48 = true → j ≠ k → (∀ q ∈ s.parked, q.thread ≠ k) →
      ∃ s' : State, exec (.ctxsv a b) s = .next s' ∧ s'.thread? j = none ∧ s'.mem = s2.mem ∧
        ((∀ q ∈ s.parked, q.thread ≠ j) →
          look? j s'.saved = some { u with passdone := [], cpydone := [], decdone := [], probeout := [] }) ∧
        s'.thread? k = some (t.commitAt (t.ctx.pc + 4)))) ∧
  (∀ (j : Nat) (u : Thread) (n : Fin 4), s.findTid pl.cell (sel.setWidth 32) true = some (j, u) → u.fctx.get n ≠ none →
    exec (.ctxsv a b) s = trapsWith s k t (.ctxsv a b) { code := 0x01, detail := 2 }) ∧
  (s.findTid pl.cell (sel.setWidth 32) true = none → (s.vcell ⟨p, d, l, sel.toNat / 2 ^ 32 % 65536⟩).held = [] →
    sel.getLsbD 50 = false → exec (.ctxsv a b) s = trapsWith s k t (.ctxsv a b) { code := 0x01, detail := 1 }) ∧
  (∀ (j : Nat) (u : Thread), s.findTid pl.cell (sel.setWidth 32) true = none → s.findTid pl.cell (sel.setWidth 32) false = some (j, u) →
    (s.vcell ⟨p, d, l, sel.toNat / 2 ^ 32 % 65536⟩).held = [] → sel.getLsbD 50 = true →
    exec (.ctxsv a b) s = .next ((s.setThread j { u with preempt := some (u.preempt.getD (s.cycOf u)) }).unyield k))

/-- R450: ctxld places an image whose TID is the selector's and not live into the named cell's context cache, for the launch that owns the
cell: resumable at once, or suspended until a wake. -/
def Sys2Proof.Claims.contextLoad : Prop := ∀ (s : State) (k : Nat) (t : Thread) (a b : Reg) (p d l : Nat) (pl : VPlace) (bs : List Byte)
    (s1 : State) (j : Nat) (x : Launch) (f : Nat), Selected s k t → t.ctx.priv = true → t.gang = .none → Quiet t →
  let sel := t.ctx.gpr b
  let va := t.ctx.gpr a
  let cell : LCell := ⟨p, d, l, sel.toNat / 2 ^ 32 % 65536⟩
  sel &&& 0xFFFE000000000000 = 0 → sel.toNat / 2 ^ 32 % 65536 < 32 → va.toNat % 64 = 0 → rangeFault s t .load va 2048 = none →
  s.ownLcl t = some (p, d, l) → s.place cell = some pl → cellRead s (s.whoOf t) va 2048 = .ok (bs, s1) → imageBad bs = none →
  numAt bs 16 4 = sel.toNat % 2 ^ 32 → s1.launchOf cell = some (j, x, f) → k < s.nextKey →
  (∀ y ∈ s.threads, y.2.launch = j → y.2.tid ≠ sel.setWidth 32) → (∀ y ∈ s.saved, y.2.tid ≠ sel.setWidth 32) →
  s1.awayFree (imageThread bs (.cache pl.cell (sel.getLsbD 48) s1.stamp) (if sel.getLsbD 48 then .ready else .suspended) x.vf j f) f = true →
  ∃ (s' : State) (t' : Thread) (u : Thread), exec (.ctxld a b) s = .next s' ∧ s'.mem = s1.mem ∧ s'.thread? k = some t' ∧
    t'.ctx = { t.ctx with pc := t.ctx.pc + 4 } ∧
    t'.run = .ready ∧
    s'.thread? s.nextKey = some u ∧ u.place = .cache pl.cell (sel.getLsbD 48) s.stamp ∧
    u.run = (if sel.getLsbD 48 then .ready else .suspended) ∧ u.launch = j ∧ u.flat = f ∧
    u.ctx.pc = BitVec.ofNat 64 (numAt bs 0 8) ∧ u.ctx.tstat = BitVec.ofNat 64 (numAt bs 8 8) &&& 0xFFFF000003E00110 ∧
      u.ctx.tid = BitVec.ofNat 64 (numAt bs 16 4)

/-- R452: tlbi with a well-formed g[B] sends its removal and commits; a reserved value, or ALL with an address, is ILLEGAL_INSN. That the
removal takes effect later, at a free time, is the model's choice (log 38). -/
def Sys2Proof.Claims.tlbiResult : Prop := ∀ (s : State) (k : Nat) (t : Thread) (a b : Reg), Selected s k t → t.ctx.priv = true →
  t.gang = .none →
  let g := (t.ctx.gpr b).toNat
  let ok : Prop := g / 2 ^ 17 = 0 ∧ g / 2 ^ 6 % 4 = 0 ∧ g / 2 % 8 = 0 ∧ g / 2 ^ 12 % 32 ≤ 16 ∧ (g / 2 ^ 8 % 16 ≤ 6 ∨ g / 2 ^ 8 % 16 = 8) ∧
    (g % 2 = 1 → t.ctx.gpr a = 0)
  let c := clusterOf t.pcell
  let sc := if g / 2 ^ 8 % 16 = 0 then 1 else g / 2 ^ 8 % 16
  let r : Tlbi := ⟨k, g / 2 ^ 12 % 32, t.ctx.gpr a, g / 2 ^ 4 % 4, decide (g % 2 = 1), sc, t.pcell, s.scopePhys t sc⟩
  (ok → exec (.tlbi a b) s = .next (done (s.setCluster c { s.cluster c with tlbis := (s.cluster c).tlbis ++ [r] }) k t
    (t.ctx.pc + 4))) ∧
  (¬ ok → exec (.tlbi a b) s = trapsWith s k t (.tlbi a b) { code := 0x01 })

/-- R453 and R236: cap of a nurse caps the worker cell of its cluster: the cell issues nothing, every thread in its slots is sealed into its
context cache, and a thread whose request is parked at it is to take UNCORRECTABLE. A capped cell stays as it is. In a worker it is
ILLEGAL_INSN, and, which is the model's choice (log 53), so it is where g[A][63:5] is not 0. -/
def Sys2Proof.Claims.capResult : Prop := ∀ (s : State) (k : Nat) (t : Thread) (a : Reg), Selected s k t → t.ctx.priv = true → t.gang = .none →
  let c : PCell := { t.pcell with cell := (t.ctx.gpr a).toNat % 32 }
  (t.nurse = true → (t.ctx.gpr a).toNat / 32 = 0 → (s.cell c).capped = true →
    exec (.cap a) s = .next (done s k t (t.ctx.pc + 4))) ∧
  (t.nurse = true → (t.ctx.gpr a).toNat / 32 = 0 → (s.cell c).capped = false → t.pcell ≠ c →
    ∃ s' : State, exec (.cap a) s = .next s' ∧ (s'.cell c).capped = true ∧ s'.turnOf c = none ∧
      (∀ x ∈ s'.threads, x.2.inSlotOf c = false) ∧
      ∀ p ∈ s.parked, p.req.home = .cell c → p.thread ≠ k → ∀ u, s.thread? p.thread = some u →
        ∃ u' : Thread, s'.thread? p.thread = some u' ∧ u'.homeErr = some 0x10 ∧ u'.run = .ready) ∧
  (t.nurse = false ∨ (t.ctx.gpr a).toNat / 32 ≠ 0 → exec (.cap a) s = trapsWith s k t (.cap a) { code := 0x01 })

/-- R454: scrub of a length of 0 does nothing; a line of the thread's own scratch reads zero afterwards, without a stored error, and its
words are full or empty as g[B] says; bytes outside are unchanged. -/
def Sys2Proof.Claims.scrubResult : Prop := ∀ (s : State) (k : Nat) (t : Thread) (a b : Reg) (full : Bool), Selected s k t → t.ctx.priv = true →
  t.gang = .none → Quiet t → Memory.wf s.mem = true → (∀ c ∈ s.clusters, c.2.locks = []) → s.parked = [] →
  (∀ w ∈ s.poison, w % 8 = 0) →
  let va := t.ctx.gpr a
  let key := keyOf (.scratch t.pcell) (t.ctx.seg.toNat / 2 ^ 16 % 16 * 2 ^ 16 + va.toNat % 2 ^ 56)
  va.toNat / 2 ^ 56 = 0x40 → va.toNat % 64 = 0 →
  (t.ctx.gpr b = (if full then 0x4000000000000000 else 0) → exec (.scrub a b) s = .next (done s k t (t.ctx.pc + 4))) ∧
  (t.ctx.gpr b = (if full then 0x4000000000000040 else 0x40) → va.toNat % 2 ^ 56 + 64 ≤ (s.whoOf t).limit → t.pcell.cell < 64 →
    t.pcell.cl < 8 → t.pcell.die < 4 → t.pcell.pkg < 512 →
    ∃ s' : State, exec (.scrub a b) s = .next s' ∧ s'.thread? k = some (t.commitAt (t.ctx.pc + 4)) ∧
      (∀ n, key ≤ n → n < key + 64 → s'.byte n = 0) ∧ (∀ n, n < key ∨ key + 64 ≤ n → s'.byte n = s.byte n) ∧
      s'.poisoned key 64 = false ∧ (∀ i, i < 8 → s'.full (key + 8 * i) = full))

/-! ### Control registers (R153 to R155, R173, R174, R180 to R183, R353, R436) -/
namespace Sys2Proof.Claims

/-- What a control register reads (R173). -/
def cregValue (s : State) (t : Thread) : CReg → Word
  | .tstat => t.ctx.tstat
  | .tid => t.ctx.tid
  | .seg => t.ctx.seg
  | .ways => BitVec.ofNat 64 (s.cell t.pcell).nscr.toNat
  | .group => BitVec.ofNat 64 (s.cell t.pcell).gsz.toNat
  | .wlim => t.ctx.wlim
  | .cyc => BitVec.ofNat 64 (s.clock - (s.die t.pcell.pkg t.pcell.die).since)
  | .gpiv => t.ctx.gpiv
  | .rtsel => oneIf (s.cell t.pcell).bank
  | .uvec => t.ctx.uvec
  | .tcause => t.ctx.tcause
  | .tepc => t.ctx.tepc
  | .trec => t.ctx.trec
  | .wdesc n => match (s.cell t.pcell).wdesc.toList[n.toNat - 1]? with
    | some v => v
    | none => 0
  | .tvec => (s.cell t.pcell).tvec

/-- The register and the value that crw, crs and crc write (R173). -/
def written (s : State) (t : Thread) : Instr → Option (CReg × Word)
  | .crw r a => some (r, t.ctx.gpr a)
  | .crs r a => some (r, cregValue s t r ||| t.ctx.gpr a)
  | .crc r a => some (r, cregValue s t r &&& ~~~t.ctx.gpr a)
  | _ => none

/-- What a write of GPIV stores: a value with bit 31 set and a NaN store 0 (R353). -/
def floorStored (v : Word) : Word :=
  if v.getLsbD 31 = true ∨ v.toNat / 2 ^ 23 % 256 = 255 ∧ v.toNat % 2 ^ 23 ≠ 0 then 0 else v &&& 0xFFFFFFFF

/-- A context with a register of the thread written: read-only and reserved bits ignore what is written to them (R10, R153, R155, R353,
R436). With no pending head, a write of PHD has no effect. -/
def ctxWrite (c : Ctx) (v : Word) : CReg → Option Ctx
  | .tstat => some { c with tstat := (c.tstat &&& ~~~0x10) ||| (v &&& 0x10) }
  | .tid => some c
  | .cyc => some c
  | .rtsel => some c
  | .seg => some { c with seg := v &&& 0xF0000 }
  | .wlim => some { c with wlim := if v.toNat % 2 ^ 32 < 256 then 256 else v &&& 0xFFFFFFFF }
  | .gpiv => some { c with gpiv := floorStored v }
  | .uvec => some { c with uvec := v / 4 * 4 }
  | .tcause => some { c with tcause := v &&& 0xFFF }
  | .tepc => some { c with tepc := v }
  | .trec => some { c with trec := v / 128 * 128 }
  | _ => none

/-- Whether a value is one that a window descriptor takes (R183). -/
def WindowOk (v : Word) : Prop :=
  let f := v.toNat % 32
  (f = 0 ∨ f = 1 ∨ f = 4 ∨ f = 5 ∨ f = 8 ∨ f = 9 ∨ 12 ≤ f ∧ f ≤ 16) ∧
  v.toNat / 2 ^ 8 % 32 = (if f = 15 ∨ f = 16 then 5 else 0) ∧ v.toNat / 2 ^ 24 % 64 = 0

end Sys2Proof.Claims

/-- R173 and R174: crr writes the register's value to gd, and TVEC is PRIVILEGE at user privilege. -/
def Obligations.ControlRead : Prop := ∀ (s : State) (k : Nat) (t : Thread) (d : Reg) (r : CReg), Selected s k t →
  (r ≠ .tvec ∨ t.ctx.priv = true → exec (.crr d r) s = .next (done s k (withReg t d (cregValue s t r)) (t.ctx.pc + 4))) ∧
  (r = .tvec → t.ctx.priv = false → exec (.crr d r) s = trapsWith s k t (.crr d r) { code := 0x02 })

/-- R173 and R174: crw, crs and crc of a register of the thread write the fields that software may write and nothing else; SEG at user
privilege is PRIVILEGE. -/
def Sys2Proof.Claims.controlWrite : Prop := ∀ (s : State) (k : Nat) (t : Thread) (i : Instr) (r : CReg) (v : Word) (c : Ctx), Selected s k t →
  written s t i = some (r, v) → ctxWrite t.ctx v r = some c →
  (r ≠ .seg ∨ t.ctx.priv = true → exec i s = .next (done s k { t with ctx := c } (t.ctx.pc + 4))) ∧
  (r = .seg → t.ctx.priv = false → exec i s = trapsWith s k t i { code := 0x02 })

/-- R174, R182 and R183: the registers of a cell. WDESC takes a valid descriptor and refuses others; TVEC is the supervisor's; GROUP takes its
size and first gives up the lines that it holds for other cells. -/
def Sys2Proof.Claims.cellRegisterWrite : Prop := ∀ (s : State) (k : Nat) (t : Thread) (i : Instr) (v : Word), Selected s k t →
  let x := s.cell t.pcell
  (∀ n : Fin 7, written s t i = some (.wdesc (BitVec.ofNat 3 (n.val + 1)), v) →
    (WindowOk v → exec i s = .next (done (s.setCell t.pcell { x with wdesc := x.wdesc.set n.val (v &&& 0xFFFFFFFFFF001F1F) }) k t
      (t.ctx.pc + 4))) ∧
    (¬ WindowOk v → exec i s = trapsWith s k t i { code := 0x01 })) ∧
  (written s t i = some (.tvec, v) →
    (t.ctx.priv = true → exec i s = .next (done (s.setCell t.pcell { x with tvec := v / 8192 * 8192 }) k t (t.ctx.pc + 4))) ∧
    (t.ctx.priv = false → exec i s = trapsWith s k t i { code := 0x02 })) ∧
  (written s t i = some (.group, v) → ∃ s' : State, exec i s = .next s' ∧ s'.thread? k = some (t.commitAt (t.ctx.pc + 4)) ∧
    (s'.cell t.pcell).gsz = BitVec.ofNat 2 v.toNat ∧ (∀ l ∈ (s'.cell t.pcell).lines, l.owner = none ∨ l.owner = some t.pcell) ∧
    (∀ l ∈ x.lines, l.owner = none → l ∈ (s'.cell t.pcell).lines))

/-- R180 and R181: a write of WAYS. The present value commits at once; 17 to 31 is ILLEGAL_INSN, and a folded cell's is PRIVILEGE to a
user. A larger split empties the ways that leave the cache, and a way that enters scratch reads zero with every bit empty; a smaller one,
with no lock on the leaving ways, takes their contents away. -/
def Sys2Proof.Claims.waysWrite : Prop := ∀ (s : State) (k : Nat) (t : Thread) (i : Instr) (v : Word), Selected s k t →
  written s t i = some (.ways, v) →
  let x := s.cell t.pcell
  let m := v.toNat % 32
  let n := x.nscr.toNat
  let c := t.pcell
  let key := keyOf (.scratch c)
  ((s.ownPlace t).fold ≠ 0 → t.ctx.priv = false → exec i s = trapsWith s k t i { code := 0x02 }) ∧
  ((s.ownPlace t).fold = 0 ∨ t.ctx.priv = true → 16 < m → exec i s = trapsWith s k t i { code := 0x01 }) ∧
  ((s.ownPlace t).fold = 0 ∨ t.ctx.priv = true → m = n → m ≤ 16 → x.waysPending = none →
    exec i s = .next (done s k t (t.ctx.pc + 4))) ∧
  ((s.ownPlace t).fold = 0 ∨ t.ctx.priv = true → m ≤ 16 → m ≠ n → x.waysPending = none → s.waysLocked c m n = false →
    s.parked = [] → (∀ y ∈ s.threads, ∀ c' va since, y.2.run ≠ .parked (.held c' va) since) →
    c.cell < 64 → c.cl < 8 → c.die < 4 → c.pkg < 512 →
    ∃ s' : State, exec i s = .next s' ∧ s'.thread? k = some (t.commitAt (t.ctx.pc + 4)) ∧ (s'.cell c).nscr.toNat = m ∧
      (s'.cell c).waysPending = none ∧ (n < m → ∀ l ∈ (s'.cell c).lines, l ∈ x.lines ∧ m ≤ l.way) ∧
      (∀ off, min m n * 2 ^ 16 ≤ off → off < max m n * 2 ^ 16 → s'.byte (key off) = 0 ∧ s'.full (key off) = false))

/-! ### The copy engine (R242 to R254) -/
namespace Sys2Proof.Claims

/-- The bytes of a copy instruction: an extension word always, a promise as the literal (R106). -/
def copyLen (o : Copy) : Nat := if o.promise.isSome then 20 else 12

/-- What a copy instruction asks for: its operands, its kind, source, destination, and the bytes of each side. A cpyh names its ranges by
handles of kind 2 and offsets (R35, R242); a cpyw's descriptor gives element types and a count (R243). -/
def copyOf (s : State) (t : Thread) : Instr → Option (Copy × CopyKind × Word × Word × Nat × Nat)
  | .cpy o =>
    let n := (t.ctx.gpr o.c).toNat
    if n ≤ 2 ^ 34 then some (o, .plain, t.ctx.gpr o.a, t.ctx.gpr o.b, n, n) else none
  | .cpyh o =>
    let n := (t.ctx.gpr o.c).toNat
    let a := t.ctx.gpr o.a
    let b := t.ctx.gpr o.b
    match s.handle t.pcell.pkg t.vf (a.setWidth 32) 2, s.handle t.pcell.pkg t.vf (b.setWidth 32) 2 with
    | some x, some y =>
      if n ≤ 2 ^ 34 ∧ a.toNat / 2 ^ 32 + n ≤ x.2 ∧ b.toNat / 2 ^ 32 + n ≤ y.2 then
        some (o, .handles (a.setWidth 32) (b.setWidth 32), x.1 + a >>> 32, y.1 + b >>> 32, n, n)
      else none
    | _, _ => none
  | .cpyw o =>
    let d := t.ctx.gpr o.c
    let side (code : Nat) : Nat := sideBytes (convType code) (d.toNat / 2 ^ 32)
    if convOk d then some (o, .convert d, t.ctx.gpr o.a, t.ctx.gpr o.b, side (d.toNat / 2 ^ 10 % 32), side (d.toNat / 2 ^ 15 % 32))
    else none
  | _ => none

/-- A thread that has taken a ticket for a copy, with the ticket in gd (R244). -/
def ticketed (t : Thread) (d : Reg) : Thread := withReg { t.takeTicket with outCpy := t.outCpy + 1 } d (BitVec.ofNat 64 t.ticket.toNat)

/-- The entry of a copy that ends at its issue (R252). -/
def entryAtOnce (t : Thread) (status : Nat) : Word := BitVec.ofNat 64 (t.ticket.toNat * 2 ^ 32 + status * 2 ^ 29)

end Sys2Proof.Claims

/-- R242, R244 and R251: a copy instruction whose checks pass commits with its ticket in gd; the copy is in progress, with its ranges locked
and a due dclk, counted from its issue, where it has a promise. A copy of no bytes, and a cpyh with a handle that names no buffer, ends at
once with an entry; the latter does not wait for room in its thread's queue. -/
def Obligations.CopyStarts : Prop := ∀ (s : State) (k : Nat) (t : Thread) (i : Instr), Selected s k t → Quiet t →
  (∀ (o : Copy) (kind : CopyKind) (src dst : Word) (sn dn : Nat) (s1 : State), copyOf s t i = some (o, kind, src, dst, sn, dn) →
    copyRange s (s.whoOf t) src sn = true → copyRange s (s.whoOf t) dst dn = true → dn ≠ 0 → t.outCpy + t.cpydone.length < 16 →
    s.awaitsGen t .part = false →
    tryLocks { s with nextKey := s.nextKey + 1 } (s.whoOf t) s.nextKey .copy [⟨src, sn, false⟩, ⟨dst, dn, true⟩] (fun _ => false) = .ok s1 →
    ∃ s' : State, exec i s = .next s' ∧
      s'.thread? k = some ((ticketed t o.d).commitAt (t.ctx.pc + BitVec.ofNat 64 (copyLen o))) ∧
      (s'.cluster (clusterOf t.pcell)).locks = (s1.cluster (clusterOf t.pcell)).locks ∧
      (s'.cluster (clusterOf t.pcell)).copies = (s.cluster (clusterOf t.pcell)).copies ++ [{
        key := s.nextKey, by_ := s.issuer k t i, kind := kind, src := src, dst := dst, len := dn
        due := match o.promise with
          | none => none
          | some p => if p = 0 then none else some ((match t.heldSince, t.run with
            | some n, _ => n
            | none, .parked _ since => since
            | none, _ => s.cycOf t) + (if p.toNat < 2 ^ 32 then p.toNat else 2 ^ 32 - 1)) }]) ∧
  (∀ (o : Copy) (kind : CopyKind) (src dst : Word) (sn : Nat), copyOf s t i = some (o, kind, src, dst, sn, 0) →
    copyRange s (s.whoOf t) src sn = true → copyRange s (s.whoOf t) dst 0 = true →
    t.outCpy + t.cpydone.length < 16 → (∀ why n, t.run ≠ .parked why n) →
    exec i s = .next (done s k { withReg t.takeTicket o.d (BitVec.ofNat 64 t.ticket.toNat) with
      cpydone := t.cpydone ++ [entryAtOnce t 0] } (t.ctx.pc + BitVec.ofNat 64 (copyLen o)))) ∧
  (∀ o : Copy, i = .cpyh o → (t.ctx.gpr o.c).toNat ≤ 2 ^ 34 →
    s.handle t.pcell.pkg t.vf ((t.ctx.gpr o.a).setWidth 32) 2 = none ∨
      s.handle t.pcell.pkg t.vf ((t.ctx.gpr o.b).setWidth 32) 2 = none →
    (∀ why n, t.run ≠ .parked why n) →
    exec i s = .next (done s k { withReg t.takeTicket o.d (BitVec.ofNat 64 t.ticket.toNat) with
      cpydone := t.cpydone ++ [entryAtOnce t 1] } (t.ctx.pc + BitVec.ofNat 64 (copyLen o))))

/-- R245 and R250: a block of a copy reads its bytes whole and then writes them; after the last block the locks are released and the entry
is in the thread's queue. A block that fails ends the copy with the status of its ending, and writes nothing. -/
def Sys2Proof.Claims.copyBlockResult : Prop := ∀ (s : State) (n : Nat) (c : ClusterId) (j : CopyJob) (t : Thread), s.findCopy n = some (c, j) →
  j ∈ (s.cluster c).copies → j.kind = .plain → j.due = none → j.pmiss = false → s.thread? j.by_.thread = some t →
  let at_ := BitVec.ofNat 64 (4096 * j.done)
  let m := if j.len - 4096 * j.done < 4096 then j.len - 4096 * j.done else 4096
  (∀ (bs : List Byte) (s1 : State), engRead s (s.whoFor j.by_) (j.src + at_) m = .ok bs →
    engWrite s (s.whoFor j.by_) (j.dst + at_) bs = .ok s1 →
    ∃ s' : State, exec (.copyBlock n) s = .next s' ∧ s'.mem = s1.mem ∧
      (4096 * (j.done + 1) < j.len → ∃ q ∈ (s'.cluster c).copies, q = { j with done := j.done + 1 }) ∧
      (j.len ≤ 4096 * (j.done + 1) → (∀ q ∈ (s'.cluster c).copies, q.key ≠ j.key) ∧
        (∀ l ∈ (s'.cluster c).locks, l.owner ≠ j.key) ∧ s'.thread? j.by_.thread = some { t with
          cpydone := t.cpydone ++ [BitVec.ofNat 64 (j.by_.opr.ticket.toNat * 2 ^ 32 + (j.done + 1))], outCpy := t.outCpy - 1 })) ∧
  (∀ (code : Nat) (va : Word), engRead s (s.whoFor j.by_) (j.src + at_) m = .error (.fault code va) → code < 32 → code ≠ 0 →
    ∃ s' : State, exec (.copyBlock n) s = .next s' ∧ s'.mem = s.mem ∧ (∀ q ∈ (s'.cluster c).copies, q.key ≠ j.key) ∧
      ∃ t' : Thread, s'.thread? j.by_.thread = some t' ∧
        t'.cpydone = t.cpydone ++ [BitVec.ofNat 64 (j.by_.opr.ticket.toNat * 2 ^ 32 + code * 2 ^ 23 + j.done)])

/-- R251 and R428: a promise that runs out while its copy is in progress is noted once with the copy's thread; before the next instruction of
that thread in a slot, and not in a handler or at PRIV = 1, the notice is taken as PROMISE_MISSED with the ticket of the copy. -/
def Sys2Proof.Claims.promiseMissed : Prop := ∀ (s : State),
  (∀ (n d : Nat) (c : ClusterId) (j : CopyJob) (t : Thread), s.findCopy n = some (c, j) →
    j ∈ (s.cluster c).copies → j.due = some d → j.pmiss = false →
    d < s.cyc c.pkg c.die → s.thread? j.by_.thread = some t → ∃ s' : State, exec (.promiseExpiry n) s = .next s' ∧ s'.mem = s.mem ∧
      s'.thread? j.by_.thread = some { t with promises := t.promises ++ [j.by_.opr] } ∧
      ∃ q ∈ (s'.cluster c).copies, q = { j with pmiss := true }) ∧
  (∀ (k : Nat) (t : Thread) (r : OpRec) (rs : List OpRec), s.thread? k = some t → t.promises = r :: rs → t.run = .ready → t.todo = none →
    (t.ctx.upc = false → t.ctx.priv = false → t.slot?.isSome = true →
      exec (.promiseMissedUpcall k) s = .next (takeFault (s.setThread k { t with promises := rs }) k
      { code := 0x0A, detail := BitVec.ofNat 64 r.ticket.toNat, opr := some r } {})) ∧
    (t.ctx.upc = true ∨ t.ctx.priv = true ∨ t.slot? = none → exec (.promiseMissedUpcall k) s = .next s))

/-! ### The vector unit (chapter 13) -/
namespace Sys2Proof.Claims

/-- The vector commands that enter the queue, with their fields (R255, R271 to R281). -/
def queuedArgs : Instr → Option VArgs
  | .vadd o => some o
  | .vsub o => some o
  | .vmul o => some o
  | .vfma o => some o
  | .vfms o => some o
  | .vmin o => some o
  | .vmax o => some o
  | .vabs o => some o
  | .vneg o => some o
  | .vand o => some o
  | .vor o => some o
  | .vxor o => some o
  | .vshl o => some o
  | .vshr o => some o
  | .vsar o => some o
  | .vcmp o => some o
  | .vsel o => some o
  | .vred o => some o
  | .vcvt o => some o
  | .vbfpEnc o => some o
  | .vbfpDec o => some o
  | .vxaccAdd o => some o
  | .vxaccCombine o => some o
  | .vxfin o => some o
  | .vsplat o => some o
  | .vperm o => some o
  | .vmov o => some o
  | .vext o => some o
  | .vins o => some o
  | .vrngDraw o => some o
  | .vrngAdv o => some o
  | _ => none

/-- Lane i of width w of a register (R261). -/
def laneOf (w : Nat) (v : VReg) (i : Nat) : Nat := v.toNat / 2 ^ (w * i) % 2 ^ w

/-- What an active lane takes from a command whose result needs no rounding (R271, R273, R275): integer arithmetic wraps where SAT is 0;
shift counts are lanes of vb modulo w where SUB is 0. `A`, `B` and `C` are lanes of va, vb and vc. -/
def laneValue (c : Ctx) (s0 : Word) : Instr → Option (VArgs × (Nat → Nat))
  | .vadd o => int o (o.ty.width) fun w A B _ => (A + B) % 2 ^ w
  | .vsub o => int o (o.ty.width) fun w A B _ => (A + (2 ^ w - B)) % 2 ^ w
  | .vmul o => int o (o.ty.width) fun w A B _ => A * B % 2 ^ w
  | .vfma o => int o (o.ty.width) fun w A B C => (A * B + C) % 2 ^ w
  | .vfms o => int o (o.ty.width) fun w A B C => (A * B + (2 ^ w - C)) % 2 ^ w
  | .vand o => bits o fun A B => A &&& B
  | .vor o => bits o fun A B => A ||| B
  | .vxor o => bits o fun A B => A ^^^ B
  | .vshl o => if o.sub = 0 then bits o fun A B => A * 2 ^ (B % o.ty.width) % 2 ^ o.ty.width else none
  | .vshr o => if o.sub = 0 then bits o fun A B => A / 2 ^ (B % o.ty.width) else none
  | .vsel o => some (o, fun i => if (c.vr o.vc).getLsbD i then laneOf o.ty.width (c.vr o.va) i else laneOf o.ty.width (c.vr o.vb) i)
  | .vmov o => some (o, fun i => laneOf o.ty.width (c.vr o.va) i)
  | .vsplat o => some (o, fun _ => s0.toNat % 2 ^ o.ty.width)
  | .vperm o => some (o, fun i =>
      laneOf o.ty.width (c.vr o.va) (laneOf o.ty.width (c.vr o.vb) i % (512 / o.ty.width)))
  | .vext o =>
    let n := 512 / o.ty.width
    let at_ (i : Nat) : Nat := o.vimm.toNat + i
    if o.vimm.toNat ≤ n then
      some (o, fun i => if at_ i < n then laneOf o.ty.width (c.vr o.va) (at_ i) else laneOf o.ty.width (c.vr o.vb) (at_ i - n))
    else none
  | .vins o =>
    if o.vimm.toNat < 512 / o.ty.width then
      some (o, fun i => if i = o.vimm.toNat then s0.toNat % 2 ^ o.ty.width else laneOf o.ty.width (c.vr o.vd) i)
    else none
  | _ => none
where
  /-- A bitwise or shifting command. -/
  bits (o : VArgs) (f : Nat → Nat → Nat) : Option (VArgs × (Nat → Nat)) :=
    some (o, fun i => f (laneOf o.ty.width (c.vr o.va) i) (laneOf o.ty.width (c.vr o.vb) i))
  /-- Integer arithmetic that wraps. -/
  int (o : VArgs) (w : Nat) (f : Nat → Nat → Nat → Nat → Nat) : Option (VArgs × (Nat → Nat)) :=
    if o.sat = false ∧ o.ty.isInt = true then
      some (o, fun i => f w (laneOf w (c.vr o.va) i) (laneOf w (c.vr o.vb) i) (laneOf w (c.vr o.vc) i))
    else none

/-- Whether a lane of a command is active (R262): every lane without a mask. -/
def active (c : Ctx) (o : VArgs) (i : Nat) : Bool := match o.mask with
  | none => true
  | some m => (c.vr m).getLsbD i

/-- The active lanes of a memory command with their addresses (R267): bytes of a lane, at least 1. -/
def lanesAt (c : Ctx) (o : VArgs) (addr : Nat → Word) : List Lane :=
  ((List.range (512 / o.ty.width)).filter fun i => active c o i && decide (i < 512)).map fun i =>
    ⟨i, addr i, if o.ty.width / 8 = 0 then 1 else o.ty.width / 8⟩

/-- The vector memory commands: fields, whether it loads, the alignment of a lane, and the lanes (R267): vld and vst take the block at S0,
aligned to 64 as a whole; vlds and vsts go by S1; vgath and vscat by the signed lanes of vb shifted by VIMM. -/
def vectorAccess (c : Ctx) : Instr → Option (VArgs × Bool × (Lane → Bool) × List Lane)
  | .vld o => some (o, true, fun _ => decide ((c.gpr o.a).toNat % 64 = 0), lanesAt c o (block o))
  | .vst o => some (o, false, fun _ => decide ((c.gpr o.a).toNat % 64 = 0), lanesAt c o (block o))
  | .vlds o => some (o, true, own, lanesAt c o (stride o))
  | .vsts o => some (o, false, own, lanesAt c o (stride o))
  | .vgath o => some (o, true, own, lanesAt c o (index o))
  | .vscat o => some (o, false, own, lanesAt c o (index o))
  | _ => none
where
  /-- Alignment to the lane's own bytes. -/
  own (l : Lane) : Bool := decide (l.va.toNat % l.n = 0)
  /-- S0 + i × w / 8. -/
  block (o : VArgs) (i : Nat) : Word := c.gpr o.a + BitVec.ofNat 64 (i * o.ty.width / 8)
  /-- S0 + i × S1. -/
  stride (o : VArgs) (i : Nat) : Word := c.gpr o.a + BitVec.ofNat 64 i * c.gpr o.b
  /-- S0 + sign_extend(lane i of vb) << VIMM. -/
  index (o : VArgs) (i : Nat) : Word :=
    let x := laneOf o.ty.width (c.vr o.vb) i
    let n : Int := if x < 2 ^ (o.ty.width - 1) then (x : Int) else (x : Int) - (2 : Int) ^ o.ty.width
    c.gpr o.a + BitVec.ofInt 64 n <<< o.vimm.toNat

end Sys2Proof.Claims

/-- R255: a vector command that is no memory command commits when it has entered its thread's queue, with S0, S1 and NSM captured; no other
register changes. With eight commands queued, the oldest runs first. -/
def Sys2Proof.Claims.vectorQueued : Prop := ∀ (s : State) (k : Nat) (t : Thread) (i : Instr) (o : VArgs), Selected s k t →
  queuedArgs i = some o →
  ∃ x : VCmd, x.instr = i ∧ x.s0 = t.ctx.gpr o.a ∧ x.s1 = t.ctx.gpr o.b ∧ x.nsm = t.ctx.tstat.getLsbD 4 ∧ x.pc = t.ctx.pc ∧
    (t.ctx.vq.length < 8 →
      exec i s = .next (done s k (withCtx t fun c => { c with vq := c.vq ++ [x] }) (t.ctx.pc + 12))) ∧
    (∀ (y : VCmd) (ys : List VCmd), t.ctx.vq = y :: ys → 8 ≤ t.ctx.vq.length →
      let c := runVector y.instr y.s0 y.nsm { t.ctx with vq := ys }
      exec i s = .next (done s k { t with ctx := { c with vq := c.vq ++ [x] } } (t.ctx.pc + 12)))

/-- R256, R262, R271, R273 and R275: when a command of integer arithmetic, of bits, or of lane moves starts, every active lane of vd takes
its result and every other lane keeps its value; no other vector register and no flag changes, and the command leaves the queue. -/
def Sys2Proof.Claims.vectorLanes : Prop := ∀ (s : State) (k : Nat) (t : Thread) (x : VCmd) (xs : List VCmd) (o : VArgs) (f : Nat → Nat),
  s.thread? k = some t → t.ctx.vq = x :: xs → laneValue t.ctx x.s0 x.instr = some (o, f) →
  ∃ (s' : State) (t' : Thread), exec (.vectorCommandStart k false) s = .next s' ∧ s'.mem = s.mem ∧ s'.thread? k = some t' ∧ t'.ctx.vq = xs ∧
    t'.ctx.g = t.ctx.g ∧ t'.ctx.pc = t.ctx.pc ∧ t'.ctx.vflags = t.ctx.vflags ∧ (∀ r : VNum, r ≠ o.vd → t'.ctx.vr r = t.ctx.vr r) ∧
    ∀ i, i < 512 / o.ty.width → laneOf o.ty.width (t'.ctx.vr o.vd) i =
      if active t.ctx o i then f i else laneOf o.ty.width (t.ctx.vr o.vd) i

/-- R256 and R260: the oldest queued command runs when it starts; where both runs fail the residue check nothing is written, the rest of the
queue is discarded, and the thread is left the command's record. -/
def Sys2Proof.Claims.vectorStart : Prop := ∀ (s : State) (k : Nat) (t : Thread) (x : VCmd) (xs : List VCmd), s.thread? k = some t →
  t.ctx.vq = x :: xs →
  (∃ s' : State, exec (.vectorCommandStart k false) s = .next s' ∧ s'.mem = s.mem ∧
    s'.thread? k = some { t with ctx := runVector x.instr x.s0 x.nsm { t.ctx with vq := xs } }) ∧
  (lookD 0 (.vector t.pcell) s.counts + 1 < 3 → ∃ s' : State, exec (.vectorCommandStart k true) s = .next s' ∧ s'.thread? k = some { t with
    ctx := { t.ctx with vq := [] }
    vErr := some { pc := x.pc, base := x.base, lit := x.lit, va := x.s0, vb := x.s1 } })

namespace Sys2Proof.Claims

/-- The oldest queued command has started: it has left the queue, no general register, no pc and no memory has changed, vector registers that
`d` does not name keep their values, and the new context is as P says (R256). -/
def Starts (s : State) (k : Nat) (t : Thread) (xs : List VCmd) (d : VNum → Prop) (P : Ctx → Prop) : Prop :=
  ∃ (s' : State) (t' : Thread), exec (.vectorCommandStart k false) s = .next s' ∧ s'.mem = s.mem ∧ s'.thread? k = some t' ∧ t'.ctx.vq = xs ∧
    t'.ctx.g = t.ctx.g ∧ t'.ctx.pc = t.ctx.pc ∧ (∀ r : VNum, ¬ d r → t'.ctx.vr r = t.ctx.vr r) ∧ P t'.ctx

/-- Lanes of width w of a register become what f gives, reduced to the width; where it gives nothing they keep their values. -/
def Lanes (w : Nat) (old new : VReg) (f : Nat → Option Nat) : Prop :=
  ∀ i, i < 512 / w → laneOf w new i = match f i with
    | some x => x % 2 ^ w
    | none => laneOf w old i

/-- An operand lane of a floating command: under FTZ an FP16 or BF16 subnormal reads as zero (R202). -/
def floatIn (o : VArgs) (f : Fmt) (x : Nat) : FVal := if o.ftz = true ∧ o.ty.isHalf = true then f.flush (f.decode x) else f.decode x

/-- Whether a value is a signalling NaN. -/
def signals : FVal → Bool
  | .nan s => s
  | _ => false

/-- The lesser or the greater of two values, -0 below +0 (R271, R272): a NaN beside any value gives a NaN, invalid where one signals. -/
def extreme (greater : Bool) (a b : FVal) : FVal × Bool :=
  if a.isNan || b.isNan then (.nan false, signals a || signals b)
  else (if cmpVal a b = .lt then (if greater then b else a) else (if greater then a else b), false)

/-- A floating command by lanes: fields, lane width of vd, and for each lane its rounded result; a lane with none keeps its value (R271, R272,
R277, R278). -/
def floatResult (c : Ctx) (nsm : Bool) : Instr → Option (VArgs × Nat × (Nat → Option Rounded))
  | .vadd o => arith o fun a b _ => addExact o.rm a b
  | .vsub o => arith o fun a b _ => addExact o.rm a b.neg
  | .vmul o => arith o fun a b _ => mulExact a b
  | .vfma o => arith o fun a b x => fmaExact o.rm a b x
  | .vfms o => arith o fun a b x => fmaExact o.rm a b x.neg
  | .vmin o => arith o fun a b _ => extreme false a b
  | .vmax o => arith o fun a b _ => extreme true a b
  | .vcvt o =>
    let ns := 512 / o.ty.width
    let nd := 512 / o.ty2.width
    let h := o.vimm.toNat
    let conv (j : Nat) : Rounded := convertElem o.ty o.ty2 nsm o.rm o.sat o.ftz (laneOf o.ty.width (c.vr o.va) j)
    some (o, o.ty2.width, fun j =>
      if nd ≤ ns then some (conv (nd * h + j)) else if ns * h ≤ j ∧ j < ns * h + ns then some (conv (j - ns * h)) else none)
  | .vbfpDec o =>
    let k := o.vimm.toNat % 4
    let h := o.vimm.toNat / 4 % 2
    let w := if o.ty2 = .eb2 then 4 else 8
    if 32 * k + 16 * h + 16 ≤ 512 / w then
      some (o, 32, fun j => some (f32.round o.rm false
        (decodeBlockElem o.ty2 nsm (laneOf 32 (c.vr o.vb) k % 2 ^ 24) (laneOf w (c.vr o.va) (32 * k + 16 * h + j)))))
    else none
  | _ => none
where
  /-- One operation on the exact values of three lanes, rounded once. -/
  arith (o : VArgs) (g : FVal → FVal → FVal → FVal × Bool) : Option (VArgs × Nat × (Nat → Option Rounded)) :=
    let w := o.ty.width
    (fmtOf o.ty nsm).map fun f => (o, w, fun i => some (f.finish o.rm (o.ftz && o.ty.isHalf)
      (g (floatIn o f (laneOf w (c.vr o.va) i)) (floatIn o f (laneOf w (c.vr o.vb) i)) (floatIn o f (laneOf w (c.vr o.vc) i)))))

/-- The conditions of the active lanes of n (R258). -/
def condsOf (c : Ctx) (o : VArgs) (n : Nat) (f : Nat → Option Rounded) : Conds :=
  Conds.all ((List.range n).map fun i => if active c o i then ((f i).map Rounded.conds).getD {} else {})

/-- One step of a reduction (R276): the sum, the lesser, the greater, and, or, exclusive or of two lanes. -/
def foldStep (o : VArgs) (nsm : Bool) (a b : Nat) : Rounded := match o.sub.toNat, fmtOf o.ty nsm with
  | 0, some f => f.finish o.rm (o.ftz && o.ty.isHalf) (addExact o.rm (floatIn o f a) (floatIn o f b))
  | 0, none => ⟨encodeInt o.ty o.sat (intOf o.ty a + intOf o.ty b), {}⟩
  | 1, some f => f.finish .rne false (extreme false (f.decode a) (f.decode b))
  | 1, none => ⟨encodeInt o.ty false (min (intOf o.ty a) (intOf o.ty b)), {}⟩
  | 2, some f => f.finish .rne false (extreme true (f.decode a) (f.decode b))
  | 2, none => ⟨encodeInt o.ty false (max (intOf o.ty a) (intOf o.ty b)), {}⟩
  | 3, _ => ⟨a &&& b, {}⟩
  | 4, _ => ⟨a ||| b, {}⟩
  | _, _ => ⟨a ^^^ b, {}⟩

/-- What an inactive lane enters a reduction as (R276). -/
def foldUnit (o : VArgs) (nsm : Bool) : Nat :=
  let w := o.ty.width
  match o.sub.toNat, fmtOf o.ty nsm with
  | 0, some _ => if o.rm = .rdn then 0 else 2 ^ (w - 1)
  | 1, some f => f.infCode
  | 1, none => wrapTo w (intMax o.ty)
  | 2, some f => 2 ^ (w - 1) + f.infCode
  | 2, none => wrapTo w (intMin o.ty)
  | 3, _ => 2 ^ w - 1
  | _, _ => 0

/-- The tree of pairs (R222): what lane i holds after m levels, and the conditions below it. -/
def treeAt (f : Nat → Nat → Rounded) (x : Nat → Nat) : Nat → Nat → Nat × Conds
  | 0, i => (x i, {})
  | m + 1, i =>
    let a := treeAt f x m (2 * i)
    let b := treeAt f x m (2 * i + 1)
    ((f a.1 b.1).code, ((f a.1 b.1).conds.or a.2).or b.2)

/-- Record h of a register (R279). -/
def recordAt (v : VReg) (h : Nat) : BitVec 256 := v.extractLsb' (256 * h) 256

end Sys2Proof.Claims

/-- R202, R203, R258, R262, R271, R272, R277 and R278: when a floating command starts, a conversion, or the decoding of a block, every active
lane of vd that it names takes its exact result rounded once, every other lane keeps its value, and the conditions of the active lanes join the
vector flags. -/
def Sys2Proof.Claims.floatLanes : Prop := ∀ (s : State) (k : Nat) (t : Thread) (x : VCmd) (xs : List VCmd) (o : VArgs) (w : Nat)
    (f : Nat → Option Rounded), s.thread? k = some t → t.ctx.vq = x :: xs → floatResult t.ctx x.nsm x.instr = some (o, w, f) →
  Starts s k t xs (· = o.vd) fun c =>
    Lanes w (t.ctx.vr o.vd) (c.vr o.vd) (fun i => if active t.ctx o i then (f i).map Rounded.code else none) ∧
    c.vflags = orFlags t.ctx.vflags (condsOf t.ctx o (512 / w) f)

/-- R222 and R276: vred folds the lanes of va in a tree of pairs, an inactive lane as the identity; lane 0 takes the result and every other lane
zero. -/
def Sys2Proof.Claims.reduction : Prop := ∀ (s : State) (k : Nat) (t : Thread) (x : VCmd) (xs : List VCmd) (o : VArgs),
  s.thread? k = some t → t.ctx.vq = x :: xs → x.instr = .vred o →
  let w := o.ty.width
  let r := treeAt (foldStep o x.nsm) (fun i => if active t.ctx o i then laneOf w (t.ctx.vr o.va) i else foldUnit o x.nsm)
    (Nat.log2 (512 / w)) 0
  Starts s k t xs (· = o.vd) fun c => Lanes w 0 (c.vr o.vd) (fun i => if i = 0 then some r.1 else some 0) ∧
    c.vflags = orFlags t.ctx.vflags r.2

/-- R214 and R278: vbfp enc writes the codes of 32 FP32 values to block k of vd and their scale record to lane k of the next register; other
lanes keep their values. Which conditions of a replaced element count is log 95. -/
def Sys2Proof.Claims.blockEncoding : Prop := ∀ (s : State) (k : Nat) (t : Thread) (x : VCmd) (xs : List VCmd) (o : VArgs),
  s.thread? k = some t → t.ctx.vq = x :: xs → x.instr = .vbfpEnc o →
  let b := o.vimm.toNat % 4
  let w := if o.ty2 = .eb2 then 4 else 8
  32 * b + 32 ≤ 512 / w →
  let e := encodeBlock o.ty2 x.nsm ((List.range 32).map fun i =>
    f32.decode (laneOf 32 (t.ctx.vr (if i < 16 then o.va else o.vb)) (i % 16)))
  Starts s k t xs (fun r => r = o.vd ∨ r = o.vd + 1) fun c =>
    Lanes w (t.ctx.vr o.vd) (c.vr o.vd) (fun i => if 32 * b ≤ i ∧ i < 32 * b + 32 then some (e.1.getD (i - 32 * b) 0) else none) ∧
    Lanes 32 (t.ctx.vr (o.vd + 1)) (c.vr (o.vd + 1)) (fun i => if i = b then some e.2.1 else none) ∧
    c.vflags = orFlags t.ctx.vflags e.2.2

/-- R218 to R221, R279 and R280: vxacc SUB 0 adds the active lanes of va to a record of vd, leaves a malformed record as it is, and sets ANCH
and clears INT where FMT is another type; SUB 1 combines both records of va and vb; vxfin rounds a record of va once to lane 0 of vd. -/
def Sys2Proof.Claims.exactSums : Prop := ∀ (s : State) (k : Nat) (t : Thread) (x : VCmd) (xs : List VCmd) (o : VArgs),
  s.thread? k = some t → t.ctx.vq = x :: xs →
  let h := o.vimm.toNat % 2
  let old := recordAt (t.ctx.vr o.vd) h
  (x.instr = .vxaccAdd o → xsumMalformed old = true →
    Starts s k t xs (fun _ => False) fun c => c.vflags = t.ctx.vflags) ∧
  (x.instr = .vxaccAdd o → xsumMalformed old = false → Starts s k t xs (· = o.vd) fun c =>
    recordAt (c.vr o.vd) h = (if (Xsum.ofBits old).fmt.toNat = o.ty.code then
        ((List.range (512 / o.ty.width)).filter fun i => active t.ctx o i).foldl
          (fun y i => y.add (decodeElem o.ty x.nsm (laneOf o.ty.width (t.ctx.vr o.va) i))) (Xsum.ofBits old)
      else { Xsum.ofBits old with flags := (Xsum.ofBits old).flags ||| 0x20, int := 0 }).toBits ∧
    recordAt (c.vr o.vd) (1 - h) = recordAt (t.ctx.vr o.vd) (1 - h) ∧ c.vflags = t.ctx.vflags) ∧
  (x.instr = .vxaccCombine o → Starts s k t xs (· = o.vd) fun c =>
    (∀ q < 2, recordAt (c.vr o.vd) q = ((xsumEnter (recordAt (t.ctx.vr o.va) q)).combine (xsumEnter (recordAt (t.ctx.vr o.vb) q))).toBits) ∧
    c.vflags = t.ctx.vflags) ∧
  (x.instr = .vxfin o →
    let r := xsumFinal (recordAt (t.ctx.vr o.va) h) o.ty2 x.nsm o.rm
    Starts s k t xs (· = o.vd) fun c => Lanes o.ty2.width 0 (c.vr o.vd) (fun i => if i = 0 then some r.code else some 0) ∧
      c.vflags = orFlags t.ctx.vflags r.conds)

/-- R257, R258 and R282: vfence waits until every queued command has run, in queue order; vstat does too, and then reads the flags and clears
them. A gang's leader waits for the queue of every member. -/
def Obligations.VectorFence : Prop := ∀ (s : State) (k : Nat) (t : Thread) (d : Reg), Selected s k t →
  let c : Ctx := { (t.ctx.vq.foldl (fun c x => runVector x.instr x.s0 x.nsm c) t.ctx) with vq := [] }
  ((∀ ms, t.gang ≠ .leader ms) →
    exec .vfence s = .next (done s k { t with ctx := c } (t.ctx.pc + 4)) ∧
    exec (.vstat d) s = .next (done s k { t with ctx := { (c.setGpr d (c.vflags.zeroExtend 64)) with vflags := 0 } } (t.ctx.pc + 4))) ∧
  (∀ ms, t.gang = .leader ms → ∀ i, i = .vfence ∨ i = .vstat d →
    ∃ s' : State, exec i s = .next s' ∧ s'.mem = s.mem ∧ ∀ m ∈ k :: ms, ∀ u, s.thread? m = some u →
      ∃ u' : Thread, s'.thread? m = some u' ∧ u'.ctx.vq = [])

/-- R266 to R268: a vector memory command outside alias windows first checks every active lane in ascending order; a load then writes the
lanes it read to vd, and a store writes the lanes of va at their places. The first lane that fails a check is the fault, and then nothing
is read or written. -/
def Obligations.VectorMemory : Prop := ∀ (s : State) (k : Nat) (t : Thread) (i : Instr) (o : VArgs) (load : Bool) (al : Lane → Bool)
    (ls : List Lane), Selected s k t → Still t → vectorAccess t.ctx i = some (o, load, al, ls) →
  (i = .vld o ∨ i = .vst o → Common (t.ctx.gpr o.a)) →
  (∀ (s1 s2 : State) (xs : List (Lane × Loc)) (vs : List (Nat × Nat)), load = true →
    checkLanes (s.whoOf t) .load al s ls = .ok (s1, xs) →
    readLanes (s.whoOf t) (o.ty.width == 4) t.ctx.pc s1 xs = .ok (s2, vs) →
    exec i s = .next (done s2 k (withCtx t fun c => c.setVr o.vd (pack o.ty.width
      (vs.foldl (fun l x => l.set x.1 x.2) (lanes o.ty.width (c.vr o.vd))))) (t.ctx.pc + 12))) ∧
  (∀ (s1 s2 : State) (xs : List (Lane × Loc)), load = false → checkLanes (s.whoOf t) .store al s ls = .ok (s1, xs) →
    writeLanesMem (s.whoOf t) (o.ty.width == 4) (lanes o.ty.width (t.ctx.vr o.va)) k s1 xs = .ok s2 →
    ∃ u : Thread, s2.thread? k = some u ∧ u.ctx = t.ctx ∧ exec i s = .next (done s2 k u (t.ctx.pc + 12))) ∧
  (∀ (s1 : State) (f : Flt), checkLanes (s.whoOf t) (if load then .load else .store) al s ls = .error (s1, f) →
    exec i s = .next ((takeFault s1 k f (recordOf i t.ctx 0)).unyield k) ∧ s1.mem = s.mem)

/-! ### The photonic unit and Gaussian blocks (chapters 14, 15) -/
namespace Sys2Proof.Claims

/-- No range is locked and no change of WAYS is pending: an engine command does not wait for a lock (R181, R247). -/
def NoLocks (s : State) : Prop := (∀ c ∈ s.clusters, c.2.locks = []) ∧ ∀ c ∈ s.cells, c.2.waysPending = none

/-- A thread with a ticket for a load of a bank in gd (R321). -/
def loadTicketed (t : Thread) (d : Reg) : Thread := withReg { t.takeTicket with outDec := t.outDec + 1 } d (BitVec.ofNat 64 t.ticket.toNat)

/-- A thread with a ticket for a pass or a probe in gd (R326, R329). -/
def passTicketed (t : Thread) (d : Reg) : Thread := withReg { t.takeTicket with outPass := t.outPass + 1 } d (BitVec.ofNat 64 t.ticket.toNat)

/-- OMUSTAT as R336 lays it out. -/
def omuStatus (o : Omu) : Word :=
  0#8 ++ BitVec.ofNat 8 o.queue.length ++ 0#8 ++ o.cb ++ (if o.cb = 0 then 0 else o.cb - 1) ++ 0#8 ++ BitVec.ofBool o.load.isSome ++
    BitVec.ofBool (o.queue.any fun e => e.post == .swap) ++ BitVec.ofBool o.b1.binding.isSome ++ BitVec.ofBool o.b0.binding.isSome ++
    BitVec.ofBool o.act ++ BitVec.ofNat 3 o.state ++ 0#6 ++ BitVec.ofBool o.uspr ++ BitVec.ofBool o.vspr ++ 0#2 ++ o.carr

end Sys2Proof.Claims

/-- R319, R321 and R322: pbank and pdec that pass their checks commit with a ticket in gd, after a release at partition scope that has no
generation to wait for; the load is in progress on the bank that is not active, which becomes unbound. A handle that names no image is an entry
with STATUS 1, and nothing starts, whatever is outstanding. -/
def Obligations.BankLoadStarts : Prop := ∀ (s : State) (k : Nat) (t : Thread) (i : Instr) (d a b : Reg) (dec : Bool), Selected s k t →
  (i = .pbank d a b ∧ dec = false ∨ i = .pdec d a b ∧ dec = true) → t.gang = .none → Quiet t → s.awaitsGen t .part = false →
  let c := clusterOf t.pcell
  let o := s.omu c
  let e := engineOrder s t
  let desc := (t.ctx.gpr b).toNat
  let h : BitVec 32 := (t.ctx.gpr b).setWidth 32
  (t.ctx.gpr a).toNat % 64 = 0 → (t.ctx.gpr a).toNat / 2 ^ 56 = 0x40 → desc / 2 ^ 34 = 0 → desc / 2 ^ 32 % 4 ≠ 3 →
  (∀ base : Word, t.outDec + t.decdone.length < 16 → (dec = true ∧ h = 0 ∧ base = 0 ∨
      h ≠ 0 ∧ ∃ n, e.handle t.pcell.pkg t.vf h 3 = some (base, n) ∧ 49152 ≤ n) →
    o.load = none → (∀ e ∈ o.queue, e.post ≠ .swap) → NoLocks s →
    ∃ (s' : State) (l : BankLoad), exec i s = .next s' ∧ s'.thread? k = some ((loadTicketed t d).commitAt (t.ctx.pc + 4)) ∧
      (s'.omu c).load = some l ∧ l.decomp = dec ∧ l.tile = t.ctx.gpr a ∧ l.wfmt = BitVec.ofNat 2 (desc / 2 ^ 32) ∧ l.handle = h ∧
      l.base = base ∧ l.bank = !o.act ∧ l.phase = 0 ∧ ((s'.omu c).bank l.bank).binding = none ∧
      (s'.omu c).bank o.act = o.bank o.act) ∧
  (h ≠ 0 → e.handle t.pcell.pkg t.vf h 3 = none → exec i s = .next (done e k { withReg t.takeTicket d (BitVec.ofNat 64 t.ticket.toNat) with
    decdone := t.decdone ++ [BitVec.ofNat 64 (t.ticket.toNat * 2 ^ 32 + 2 ^ 29 + (if o.act then 0 else 2 ^ 28))] } (t.ctx.pc + 4)))

/-- R326, R172 and R292: pass, and qpush to PASSPOST, read the record at g[A] after the release of R319; one that passes the checks of R33 is
placed at the end of the post queue, a pass's ticket in gd. A post that has parked has its record already. -/
def Obligations.PassPosts : Prop := ∀ (s : State) (k : Nat) (t : Thread) (d a : Reg) (q : BitVec 3) (r : Rec),
  Selected s k t → t.gang = .none → Quiet t → NoLocks s → (s.omu (clusterOf t.pcell)).queue.length < 32 →
  t.outPass + t.passdone.length < 16 → s.awaitsGen t .part = false →
  (t.posted = some r ∨ t.posted = none ∧ r.illFormed = false ∧ r.badAddr = none ∧ ∃ loc bs s1,
    resolve (engineOrder s t) ((engineOrder s t).whoOf t) .load (t.ctx.gpr a) 64 64 = .ok loc ∧
    readAt (engineOrder s t) ((engineOrder s t).whoOf t) loc 64 false = .ok (bs, s1) ∧ r = BitVec.ofNat 512 (leVal bs)) →
  (∃ s' : State, exec (.pass d a) s = .next s' ∧ s'.thread? k = some ((passTicketed t d).commitAt (t.ctx.pc + 4)) ∧
    (s'.omu (clusterOf t.pcell)).queue =
      (s.omu (clusterOf t.pcell)).queue ++ [⟨s.nextKey, .pass r, s.issuer k t (.pass d a), []⟩]) ∧
  (t.ctx.q.get q.toFin = some .passpost →
    ∃ s' : State, exec (.qpush q a) s = .next s' ∧
      s'.thread? k = some (({ t.takeTicket with outPass := t.outPass + 1 } : Thread).commitAt (t.ctx.pc + 4)) ∧
      (s'.omu (clusterOf t.pcell)).queue =
        (s.omu (clusterOf t.pcell)).queue ++ [⟨s.nextKey, .pass r, s.issuer k t (.qpush q a), []⟩])

/-- R292, R325 and R329: pswap queues a swap marker and takes no ticket; it waits while the queue is full, whatever is outstanding (log 99).
probe with PADDR 0 queues a probe of the next scout entry and puts its ticket in gd. -/
def Sys2Proof.Claims.postCommands : Prop := ∀ (s : State) (k : Nat) (t : Thread) (d a : Reg), Selected s k t → t.gang = .none → Quiet t →
  let c := clusterOf t.pcell
  let o := s.omu c
  let n := { s with nextKey := s.nextKey + 1 }
  (o.queue.length < 32 → exec .pswap s = .next (done
    (n.setOmu c { o with queue := o.queue ++ [⟨s.nextKey, .swap, s.issuer k t .pswap, []⟩] }) k t (t.ctx.pc + 4))) ∧
  (32 ≤ o.queue.length → t.run = .ready → ∃ s' : State, exec .pswap s = .next s' ∧ (s'.omu c).queue = o.queue ∧
    ∃ t' : Thread, s'.thread? k = some t' ∧ t'.run = .parked .engine (s.cycOf t) ∧ t'.ctx = t.ctx) ∧
  (o.queue.length < 32 → t.outPass + t.passdone.length < 16 → NoLocks s → s.awaitsGen t .part = false →
    (t.ctx.gpr a).toNat < 2 →
    ∃ s' : State, exec (.probe d a) s = .next s' ∧ s'.thread? k = some ((passTicketed t d).commitAt (t.ctx.pc + 4)) ∧
      (s'.omu c).queue = o.queue ++ [⟨s.nextKey, .probe ((t.ctx.gpr a).getLsbD 0) none, s.issuer k t (.probe d a), []⟩])

namespace Sys2Proof.Claims

/-- Whether pabort of a thread with the operand g selects a command (R331): the thread's own, under its record or its TID, with the ticket g,
or with any where g is 0. -/
def selects (k : Nat) (t : Thread) (g : Word) (b : Issuer) : Bool :=
  decide ((b.thread = k ∨ b.tid = t.tid ∧ b.launch = t.launch) ∧ (g = 0 ∨ b.opr.ticket.toNat = g.toNat))

/-- Whether a queued entry is a probe. -/
def isProbe (e : PostEntry) : Bool := match e.post with
  | .probe _ _ => true
  | _ => false

/-- Whether a queued entry is a pass. -/
def isPass (e : PostEntry) : Bool := match e.post with
  | .pass _ => true
  | _ => false

/-- Two probes of one thread (R342). -/
def oneThread (a b : PostEntry) : Prop := a.by_.thread = b.by_.thread ∨ a.by_.tid = b.by_.tid ∧ a.by_.launch = b.by_.launch

/-- The entry of PASSDONE that a withdrawn pass leaves (R327, R331): STATUS OK, RSN 2, FIRST 0. -/
def withdrawnPass (e : PostEntry) : Option Word := match e.post with
  | .pass r => some (BitVec.ofNat 64 (fld r 0 16 * 2 ^ 48 + 2 * 2 ^ 27 + e.by_.opr.ticket.toNat % 2 ^ 22))
  | _ => none

/-- The entry of PROBEOUT that a withdrawn probe leaves (R330, R331): STATUS OK, ERR 0. -/
def withdrawnProbe (e : PostEntry) : Option Word := match e.post with
  | .probe dir _ => some (BitVec.ofNat 64 (e.by_.opr.ticket.toNat * 2 ^ 32 + (if dir then 2 ^ 28 else 0)))
  | _ => none

end Sys2Proof.Claims

/-- R331 and R342: pabort takes out of the post queue exactly the pass and probe entries that it selects: swap markers, other threads' entries
and entries with other tickets stay, in their order. Each withdrawn pass releases its locks and gives its entry with STATUS OK, RSN 2 and FIRST
0, each withdrawn probe one with STATUS OK and ERR 0, which waits behind an earlier probe of its thread that is still queued. It commits where
no pass of its selection streams; while one that it has stopped streams it stays (how much of a pass streams before it stops is log 57). A
g[A] of more than 32 bits is ILLEGAL_INSN. -/
def Sys2Proof.Claims.pabortResult : Prop := ∀ (s : State) (k : Nat) (t : Thread) (a : Reg), Selected s k t → t.gang = .none →
  let c := clusterOf t.pcell
  let o := s.omu c
  let g := t.ctx.gpr a
  let out (e : PostEntry) : Bool := selects k t g e.by_ && e.post != .swap
  (2 ^ 32 ≤ g.toNat → exec (.pabort a) s = trapsWith s k t (.pabort a) { code := 0x01 }) ∧
  (g.toNat < 2 ^ 32 → (o.queue.map PostEntry.key).Nodup → (∀ p ∈ o.passes, selects k t g p.by_ = false) →
    ∃ (s' : State) (t' : Thread), exec (.pabort a) s = .next s' ∧ s'.mem = s.mem ∧ s'.thread? k = some t' ∧
      t'.ctx = { t.ctx with pc := t.ctx.pc + 4 } ∧
      (s'.omu c).queue.map (fun e => (e.key, e.post, e.by_)) =
        (o.queue.filter fun e => !out e).map (fun e => (e.key, e.post, e.by_)) ∧
      (∀ x, (s'.cluster x).locks = (s.cluster x).locks.filter fun l => !(o.queue.any fun e => out e && isPass e && e.key == l.owner)) ∧
      ((∀ e ∈ o.queue, out e = true → e.by_.thread = k) → t'.passdone = t.passdone ++ (o.queue.filter out).filterMap withdrawnPass) ∧
      (g = 0 → (∀ e ∈ o.queue, out e = true → e.by_.thread = k ∧ e.by_.tid = t.tid ∧ e.by_.launch = t.launch ∧ e.behind = []) →
        t'.probeout = t.probeout ++ (o.queue.filter out).filterMap withdrawnProbe) ∧
      (∀ (l1 l2 : List PostEntry) (e : PostEntry) (w : Word), o.queue = l1 ++ e :: l2 → withdrawnProbe e = some w → out e = true →
        (∀ x ∈ l1 ++ l2, out x = false) → e.by_.thread = k → e.behind = [] →
        ((∀ x ∈ l1, isProbe x = true → ¬ oneThread x e) → t'.probeout = t.probeout ++ [w] ∧ (s'.omu c).queue = l1 ++ l2) ∧
        (∀ (m1 m2 : List PostEntry) (x : PostEntry), l1 = m1 ++ x :: m2 → isProbe x = true → oneThread x e →
          (∀ y ∈ m2, isProbe y = true → ¬ oneThread y e) → t'.probeout = t.probeout ∧
            (s'.omu c).queue = m1 ++ { x with behind := x.behind ++ [(e.by_, w.getLsbD 28)] } :: (m2 ++ l2)))) ∧
  (g.toNat < 2 ^ 32 → (∃ p ∈ o.passes, selects k t g p.by_ = true ∧ p.rsn = 2 ∧ ∀ e ∈ o.queue, e.key ≠ p.key) →
    ∃ (s' : State) (t' : Thread), exec (.pabort a) s = .next s' ∧ s'.thread? k = some t' ∧ t'.ctx = t.ctx)

/-- R332 and R334 to R336: pcal writes a calibration entry, or adds to it with saturation, and ends DRIFTED; pstat reads the status registers
and the entries, and changes nothing but gd. -/
def Sys2Proof.Claims.omuRegisters : Prop := ∀ (s : State) (k : Nat) (t : Thread) (a b d : Reg), Selected s k t → t.gang = .none →
  let c := clusterOf t.pcell
  let o := s.omu c
  let n := (t.ctx.gpr a).toNat
  let x : Int := ((t.ctx.gpr b).setWidth 16 : BitVec 16).toInt
  let sat (v : Nat) : Nat := if v < 65535 then v else 65535
  (n < 32640 → (t.ctx.gpr b).toNat < 2 ^ 17 → ∃ s' : State, exec (.pcal a b) s = .next s' ∧ s'.mem = s.mem ∧
    s'.thread? k = some (t.commitAt (t.ctx.pc + 4)) ∧ (s'.omu c).maxerr = 0 ∧
    (s'.omu c).state = (if o.state = 2 then 0 else o.state) ∧
    ((s'.omu c).calAt n).toInt = (if (t.ctx.gpr b).toNat < 2 ^ 16 then x
      else if (o.calAt n).toInt + x < -32768 then -32768
      else if 32767 < (o.calAt n).toInt + x then 32767 else (o.calAt n).toInt + x) ∧
    (∀ m, m ≠ n → (s'.omu c).calAt m = o.calAt m)) ∧
  (2 ^ 17 ≤ (t.ctx.gpr b).toNat → exec (.pcal a b) s = trapsWith s k t (.pcal a b) { code := 0x01 }) ∧
  (32640 ≤ n → (t.ctx.gpr b).toNat < 2 ^ 17 →
    exec (.pcal a b) s = trapsWith s k t (.pcal a b) { code := 0x04, faddr := t.ctx.gpr a }) ∧
  (n = 0 → o.queue.length ≤ 32 → o.state < 4 →
    exec (.pstat d a) s = .next (done s k (withReg t d (omuStatus o)) (t.ctx.pc + 4))) ∧
  (n = 1 → ∃ v : Word, exec (.pstat d a) s = .next (done s k (withReg t d v) (t.ctx.pc + 4)) ∧
    v.toNat / 2 ^ 48 = sat o.lasterr ∧ v.toNat / 2 ^ 32 % 65536 = sat o.maxerr ∧ v.toNat / 2 ^ 16 % 65536 = sat o.guard ∧
    v.toNat / 2 ^ 8 % 256 = o.sidx % 64 ∧ v.toNat % 256 = (if o.dcnt < 255 then o.dcnt else 255)) ∧
  (n = 2 → exec (.pstat d a) s = .next (done s k (withReg t d (o.flagged ++ o.written)) (t.ctx.pc + 4))) ∧
  (∀ m, n = 0x10000 + m → m < 32640 →
    exec (.pstat d a) s = .next (done s k (withReg t d ((o.calAt m).signExtend 64)) (t.ctx.pc + 4))) ∧
  (3 ≤ n → n < 0x10000 → exec (.pstat d a) s = trapsWith s k t (.pstat d a) { code := 0x01 })

namespace Sys2Proof.Claims

/-! Blocks read directly from their registers (R345, R346), and FP32 arithmetic with one rounding (R202, R350). -/

/-- The header of a block: the upper half of its first register. -/
def hdrAt (c : Ctx) (v : VNum) : BitVec 256 := (c.vr v).extractLsb' 256 256
/-- DIM of a block. -/
def dimAt (c : Ctx) (v : VNum) : Nat := (hdrAt c v).toNat % 16
/-- VIDm of a block. -/
def vidAt (c : Ctx) (v : VNum) (m : Nat) : Nat := (hdrAt c v).toNat / 2 ^ (32 + 16 * m) % 2 ^ 16
/-- Entry m of a block's information vector. -/
def etaAt (c : Ctx) (v : VNum) (m : Nat) : Nat := laneOf 32 (c.vr v) m
/-- Entry p of a block's packed matrix: lane p of its last three registers. -/
def packedAt (c : Ctx) (v : VNum) (p : Nat) : Nat := laneOf 32 (c.vr (v + 1 + BitVec.ofNat 4 (p / 16))) (p % 16)
/-- Entry (i, j) of a block's matrix, i ≤ j. -/
def lamAt (c : Ctx) (v : VNum) (i j : Nat) : Nat := packedAt c v (8 * i - i * (i - 1) / 2 + (j - i))

/-- round(a + b). -/
def fadd (a b : Nat) : Nat := rounded (addExact .rne (f32.decode a) (f32.decode b))
/-- round(a - b). -/
def fsub (a b : Nat) : Nat := rounded (addExact .rne (f32.decode a) (f32.decode b).neg)
/-- round(a / b). -/
def fdiv (a b : Nat) : Nat := rounded (divExact (f32.decode a) (f32.decode b))
/-- round(a + b × c). -/
def fma (a b c : Nat) : Nat := rounded (fmaExact .rne (f32.decode b) (f32.decode c) (f32.decode a))
/-- round(a - b × c). -/
def fms (a b c : Nat) : Nat := rounded (fmaExact .rne (f32.decode b).neg (f32.decode c) (f32.decode a))

/-- The context in which a block instruction acts: the vector queue has run empty, in its order (R349). -/
def drained (c : Ctx) : Ctx := { (c.vq.foldl (fun c x => runVector x.instr x.s0 x.nsm c) c) with vq := [] }

/-- A block instruction's context is c' after it was c: the four registers of vd hold a block of dimension n with the values given, its header
is that of `h` with DIM n and no identifier above it, lanes outside the dimension are zero, and no other register has changed (R346, R349). -/
def BlockBecomes (c c' : Ctx) (vd : VNum) (h : BitVec 256) (n : Nat) (eta : Nat → Nat) (lam : Nat → Nat → Nat) : Prop :=
  c' = { c with v := c'.v, vflags := c'.vflags } ∧
  (∀ r : VNum, (∀ q < 4, r ≠ vd + BitVec.ofNat 4 q) → c'.vr r = c.vr r) ∧
  (∀ b < 256, (hdrAt c' vd).getLsbD b =
    if b < 4 then n.testBit b else if 32 + 16 * n ≤ b ∧ b < 160 then false else h.getLsbD b) ∧
  (∀ m < 8, etaAt c' vd m = if m < n then eta m % 2 ^ 32 else 0) ∧
  (∀ i j, i ≤ j → j < 8 → lamAt c' vd i j = if j < n then lam i j % 2 ^ 32 else 0) ∧
  (∀ p, 36 ≤ p → p < 48 → packedAt c' vd p = 0)

/-- Slot s_j of a slot map (R351). -/
def slotAt (gb : Word) (j : Nat) : Nat := gb.toNat / 2 ^ (4 * j) % 16

/-- A slot map that fits (R351): no bit above the slots, every slot within the target and its variable that of the message, no slot twice. -/
def slotsFit (c : Ctx) (gb : Word) (va vd : VNum) : Prop :=
  gb.toNat < 2 ^ 32 ∧ (∀ j < dimAt c va, slotAt gb j < dimAt c vd ∧ vidAt c va j = vidAt c vd (slotAt gb j)) ∧
    ∀ i j, i < j → j < dimAt c va → slotAt gb i ≠ slotAt gb j

/-- The message's variable whose slot is m. -/
def fromSlot (c : Ctx) (gb : Word) (va : VNum) (m : Nat) : Option Nat := (List.range (dimAt c va)).find? fun j => slotAt gb j == m

/-- A block as an information vector and a matrix of which entries (i, j), i ≤ j, are used. -/
abbrev Blk := (Nat → Nat) × (Nat → Nat → Nat)

/-- Variable e eliminated (R352): with t[i] := λ[i, e] / λ[e, e], λ[i, j] loses t[i] × λ[j, e] and η[i] loses t[i] × η[e]. -/
def schurStep (x : Blk) (e : Nat) : Blk :=
  let t (i : Nat) : Nat := fdiv (x.2 i e) (x.2 e e)
  (fun i => fms (x.1 i) (t i) (x.1 e), fun i j => fms (x.2 i j) (t i) (x.2 j e))

/-- A block of dimension n with variables n - 1 down to r eliminated. -/
def schurTo (c : Ctx) (v : VNum) (n r : Nat) : Blk := ((List.range (n - r)).map fun m => n - 1 - m).foldl schurStep (etaAt c v, lamAt c v)

/-- A pivot above the floor (R352): a number, and greater. -/
def aboveFloor (c : Ctx) (p : Nat) : Prop :=
  (f32.decode p).isNan = false ∧ cmpNum (f32.decode p) (f32.decode (c.gpiv.toNat % 2 ^ 32)) = .gt

/-- Σ and μ of gmarg with variables 0 to e - 1 done (R356). -/
def margTo (c : Ctx) (v : VNum) (n : Nat) : Nat → (Nat → Nat → Nat) × (Nat → Nat)
  | 0 => (fun _ _ => 0, fun _ => 0)
  | e + 1 =>
    let m := margTo c v n e
    let x := schurTo c v n (e + 1)
    let p := x.2 e e
    let t (i : Nat) : Nat := fdiv (x.2 i e) p
    let s (i : Nat) : Nat := (List.range e).foldl (fun a j => fms a (m.1 (min i j) (max i j)) (t j)) 0
    (fun i j => if j = e then (if i = e then (List.range e).foldl (fun a i => fms a (t i) (s i)) (fdiv 0x3F800000 p) else s i) else m.1 i j,
      fun i => if i = e then (List.range e).foldl (fun a i => fms a (t i) (m.2 i)) (fdiv (x.1 e) p) else m.2 i)

/-- A block instruction that ends in a fault, after the vector queue has run empty. -/
def blockTraps (s : State) (k : Nat) (t : Thread) (i : Instr) (f : Flt) : Host.Outcome State Fault Refusal :=
  trapsWith (s.setThread k { t with ctx := drained t.ctx }) k t i f

/-- SINGULAR_BLOCK with the word of R354. -/
def singularAt (c : Ctx) (v : VNum) (e p : Nat) : Flt :=
  { code := 0x0D, detail := BitVec.ofNat 64 (p * 2 ^ 32 + vidAt c v e * 2 ^ 16 + e * 2 ^ 8 + v.toNat) }

end Sys2Proof.Claims

/-- R346: the packed index numbers the entries (i, j), i ≤ j < 8, of a block's matrix from 0 to 35 in the order of the pairs. -/
def Sys2Proof.Claims.packedIndex : Prop :=
  (pairs 8).map (fun p => packIdx p.1 p.2) = List.range 36 ∧ (∀ i j : Fin 8, packIdx i.val j.val = packIdx j.val i.val) ∧
  ∀ i j : Fin 8, i ≤ j → packIdx i.val j.val = 8 * i.val - i.val * (i.val - 1) / 2 + (j.val - i.val)

/-- R347, R349 to R352: once the vector queue has run empty, gacc adds each entry of the message to the entry of the target that its slots name,
each sum rounded once, and gschur eliminates the variables from DIM - 1 down to K, each step rounded once. A header or a slot map that does not
fit, a K above DIM, and a bit of g[B] above the fields are ILLEGAL_INSN; a pivot at or below the floor is SINGULAR_BLOCK with the word of R354;
then no register is written. VIDs above a message's DIM are not looked at (log 55). -/
def Sys2Proof.Claims.blockSums : Prop := ∀ (s : State) (k : Nat) (t : Thread) (vd va : VNum) (b : Reg), Selected s k t →
  let c := drained t.ctx
  let gb := c.gpr b
  let n := dimAt c vd
  let kk := gb.toNat % 16
  let ends (i : Instr) (c' : Ctx) : Prop := exec i s = .next (done s k { t with ctx := c' } (t.ctx.pc + 4))
  (headerOk (hdrAt c va) = true → headerOk (hdrAt c vd) = true → slotsFit c gb va vd →
    ∃ c', ends (.gacc vd va b) c' ∧ BlockBecomes c c' vd (hdrAt c vd) n
      (fun m => match fromSlot c gb va m with
        | some j => fadd (etaAt c vd m) (etaAt c va j)
        | none => etaAt c vd m)
      (fun i j => match fromSlot c gb va i, fromSlot c gb va j with
        | some p, some q => fadd (lamAt c vd i j) (lamAt c va (min p q) (max p q))
        | _, _ => lamAt c vd i j)) ∧
  (headerOk (hdrAt c va) = false ∨ headerOk (hdrAt c vd) = false ∨ ¬ slotsFit c gb va vd →
    exec (.gacc vd va b) s = blockTraps s k t (.gacc vd va b) { code := 0x01 }) ∧
  (headerOk (hdrAt c vd) = true → gb.toNat < 16 → kk ≤ n →
    ((∀ e, kk ≤ e → e < n → aboveFloor c ((schurTo c vd n (e + 1)).2 e e)) →
      ∃ c', ends (.gschur vd b) c' ∧ BlockBecomes c c' vd (hdrAt c vd) kk (schurTo c vd n kk).1 (schurTo c vd n kk).2) ∧
    (∀ e, kk ≤ e → e < n → ¬ aboveFloor c ((schurTo c vd n (e + 1)).2 e e) →
      (∀ e', e < e' → e' < n → aboveFloor c ((schurTo c vd n (e' + 1)).2 e' e')) →
      exec (.gschur vd b) s = blockTraps s k t (.gschur vd b) (singularAt c vd e ((schurTo c vd n (e + 1)).2 e e)))) ∧
  (headerOk (hdrAt c vd) = false ∨ 16 ≤ gb.toNat ∨ n < kk →
    exec (.gschur vd b) s = blockTraps s k t (.gschur vd b) { code := 0x01 })

/-- R347, R349, R350, R355 and R356: gdamp moves each entry of the new block by BETA / 256 of its distance from the old one, and with BETA 0
changes nothing; gmarg writes the means and the variances of the marginals, with the header of va. Two blocks that do not match, and a header
that does not fit, are ILLEGAL_INSN; a pivot at or below the floor is SINGULAR_BLOCK; then no register is written. -/
def Sys2Proof.Claims.blockMessages : Prop := ∀ (s : State) (k : Nat) (t : Thread) (vd va : VNum), Selected s k t →
  let c := drained t.ctx
  let n := dimAt c vd
  let m := dimAt c va
  let beta := (hdrAt c vd).toNat / 2 ^ 8 % 256
  let w := (f32.round .rne false (.fin false beta 1 (-8))).code
  let ends (i : Instr) (c' : Ctx) : Prop := exec i s = .next (done s k { t with ctx := c' } (t.ctx.pc + 4))
  let matched : Prop := m = n ∧ ∀ j < n, vidAt c va j = vidAt c vd j
  (headerOk (hdrAt c va) = true → headerOk (hdrAt c vd) = true → matched →
    (beta = 0 → ends (.gdamp vd va) c) ∧
    (beta ≠ 0 → ∃ c', ends (.gdamp vd va) c' ∧ BlockBecomes c c' vd (hdrAt c vd) n
      (fun i => fma (etaAt c vd i) w (fsub (etaAt c va i) (etaAt c vd i)))
      (fun i j => fma (lamAt c vd i j) w (fsub (lamAt c va i j) (lamAt c vd i j))))) ∧
  (headerOk (hdrAt c va) = false ∨ headerOk (hdrAt c vd) = false ∨ ¬ matched →
    exec (.gdamp vd va) s = blockTraps s k t (.gdamp vd va) { code := 0x01 }) ∧
  (headerOk (hdrAt c va) = true →
    ((∀ e < m, aboveFloor c ((schurTo c va m (e + 1)).2 e e)) → ∃ c', ends (.gmarg vd va) c' ∧
      c' = { c with v := c'.v, vflags := c'.vflags } ∧ (∀ r : VNum, (∀ q < 4, r ≠ vd + BitVec.ofNat 4 q) → c'.vr r = c.vr r) ∧
      hdrAt c' vd = hdrAt c va ∧ (∀ i < 8, etaAt c' vd i = if i < m then (margTo c va m m).2 i % 2 ^ 32 else 0) ∧
      (∀ i < 16, laneOf 32 (c'.vr (vd + 1)) i = if i < m then (margTo c va m m).1 i i % 2 ^ 32 else 0) ∧
      c'.vr (vd + 2) = 0 ∧ c'.vr (vd + 3) = 0) ∧
    (∀ e < m, ¬ aboveFloor c ((schurTo c va m (e + 1)).2 e e) →
      (∀ e', e < e' → e' < m → aboveFloor c ((schurTo c va m (e' + 1)).2 e' e')) →
      exec (.gmarg vd va) s = blockTraps s k t (.gmarg vd va) (singularAt c va e ((schurTo c va m (e + 1)).2 e e)))) ∧
  (headerOk (hdrAt c va) = false → exec (.gmarg vd va) s = blockTraps s k t (.gmarg vd va) { code := 0x01 })

/-- R358 to R362: gpost of a block with a good header into an empty slot, or in MODE 1 into any, writes the control word and the block and leaves
the word full, after a release at the home scope. gtake of a full slot of its own MODE and NSM takes the block, with the sender in lane 14,
empties the word in MODE 0, and acquires. Nobody else waits on the word. A block that gpost posts with a bad header is ILLEGAL_INSN. -/
def Sys2Proof.Claims.mailboxResult : Prop := ∀ (s : State) (k : Nat) (t : Thread) (a : Reg) (v : VNum) (loc : Loc) (take : Bool),
  Selected s k t → t.gang = .none → Still t → NoWaiter s loc.key →
  let va := t.ctx.gpr a &&& 0xFFFFFFFFFFFFFFFE
  let mode := (t.ctx.gpr a).getLsbD 0
  (headerOk (hdrAt t.ctx v) = false → exec (.gpost a v) s = trapsWith s k t (.gpost a v) { code := 0x01 }) ∧
  (slotPlace s (s.whoOf t) va take = .ok loc → loc.disc = false →
    let s0 := s.fillTlb t.pcell false loc
    let s1 := if loc.isGlobal then s0.flushRange t.pcell loc.key 320 true else s0
    homeAnswer s1 (s.whoOf t) loc = none →
    let sc := homeScope (s.whoOf t) loc
    let amb (c : Ctx) : Ctx := if mode then { c with tstat := putFld c.tstat 24 1 1 } else c
    (take = false → headerOk (gRead t.ctx v).hdr = true → mode = true ∨ s1.full loc.key = false → s1.awaitsGen t sc = false →
      let x := gRead t.ctx v
      let cw := t.flat % 2 ^ 20 * 2 ^ 44 + x.hdr.toNat / 2 ^ 160 % 2 ^ 24 * 2 ^ 20 + x.beta * 2 ^ 12 + x.dim * 2 ^ 8 +
        (if mode then 2 else 0) + (if t.ctx.nsm then 1 else 0)
      let s2 := (((releaseAt s1 t.pcell sc).storeFrom t.pcell loc.key (leOf 8 cw)).storeFrom t.pcell (loc.key + 64)
        ((blockAt t.ctx v).flatMap fun r => leOf 64 r.toNat)).setFull loc.key true
      exec (.gpost a v) s = .next (done s2 k (withCtx (crossed s2 t (homeLoc loc)) amb) (t.ctx.pc + 4))) ∧
    (take = true → s1.full loc.key = true → s1.poisoned loc.key 320 = false →
      (BitVec.ofNat 64 (s1.num loc.key 8)).getLsbD 1 = mode → (BitVec.ofNat 64 (s1.num loc.key 8)).getLsbD 0 = t.ctx.nsm →
      exec (.gtake v a) s = .next (done (acquireAt (if mode then s1 else s1.setFull loc.key false) t.pcell sc) k
        (withCtx t fun c => amb (setBlock c v (s1.slotBody loc.key))) (t.ctx.pc + 4))))

/-! ### Fabric instructions (chapter 16) -/
namespace Sys2Proof.Claims

/-- The lowest n bits of a record are what a list of bytes gives. -/
def recordBits (n : Nat) (bs : List Byte) : BitVec n := BitVec.ofNat n (leVal bs)

/-- A thread after an engine command without a promise: a ticket taken and in gd, an operation outstanding, the pc past the instruction. -/
def posted (t : Thread) (d : Reg) : Thread := (ticketed t d).commitAt (t.ctx.pc + 4)

/-- An address of the classes in which a record may lie (R267, R405). -/
def InRecord (va : Word) : Prop :=
  let c := va.toNat / 2 ^ 56
  c < 0x40 ∨ c = 0x40 ∨ c = 0x50 ∨ c = 0x60

/-- The state after an instruction that reads descriptors at n bytes of an address, and the bytes. -/
def DescAt (s : State) (t : Thread) (va : Word) (n align : Nat) (bs : List Byte) (s' : State) : Prop :=
  readDesc s t va n align = .ok (bs, s')

end Sys2Proof.Claims

/-- R399 and R404: shufset with a descriptor and a block table that pass its checks makes a registration of its package and locks the side
store; one that wants no block completes at once. R400: shuf with a plan that passes its checks sends every block of the plan once and waits
for an answer of each of its destinations. -/
def Obligations.ExchangePosts : Prop :=
  (∀ (s : State) (k : Nat) (t : Thread) (d a : Reg) (b1 b2 : List Byte) (s1 s2 s3 : State),
    Selected s k t → t.gang = .none → Quiet t → t.outCpy + t.cpydone.length < 16 →
    s.awaitsGen t .part = false →
    DescAt (engineOrder s t) t (t.ctx.gpr a) 64 64 b1 s1 →
    let desc : BitVec 512 := recordBits 512 b1
    let len := desc.toNat / 2 ^ 128 % 2 ^ 64
    let side : Word := desc.extractLsb' 64 64
    let table := entriesOf b2
    let wants := table.any entryWant
    let pkg := t.pcell.pkg
    DescAt s1 t (desc.extractLsb' 192 64) (16 * (desc.toNat / 2 ^ 24 % 256 + 1)) 16 b2 s2 →
    setBad desc = false → tableBad (2 ^ (desc.toNat / 16 % 16 + 8)) len table = false →
    sideOk s2 (s2.whoOf t) (if wants then .store else .load) side len = true →
    s2.reg? pkg (desc.toNat / 2 ^ 16 % 256) = none → (∀ q ∈ (s2.pkg pkg).regs, q.key < s2.nextKey) →
    (s2.pkg pkg).regs.length < 16 → s2.heldBy (s2.whoOf t) [⟨side, len, true⟩] = none →
    tryLocks { s2 with nextKey := s2.nextKey + 1 } (s2.whoOf t) s2.nextKey .registration [⟨side, len, false⟩] (fun _ => false) = .ok s3 →
    ∃ s' : State, exec (.shufset d a) s = .next s' ∧ s'.mem = s2.mem ∧
      (∃ r ∈ (s'.pkg pkg).regs, r = { key := s2.nextKey, by_ := s2.issuer k t (.shufset d a), xid := desc.toNat / 2 ^ 16 % 256
                                      desc := desc, table := table, complete := !wants }) ∧
      s'.thread? k = some (if wants then posted t d else
        ({ withReg t.takeTicket d (BitVec.ofNat 64 t.ticket.toNat) with cpydone := t.cpydone ++ [entryAtOnce t 0] }).commitAt (t.ctx.pc + 4))) ∧
  (∀ (s : State) (k : Nat) (t : Thread) (d a : Reg) (b1 b2 : List Byte) (s1 s2 : State)
      (r : Registration), Selected s k t → t.gang = .none → Quiet t → t.outCpy + t.cpydone.length < 16 →
    s.awaitsGen t .part = false →
    DescAt (engineOrder s t) t (t.ctx.gpr a) 64 64 b1 s1 →
    let hd : BitVec 512 := recordBits 512 b1
    let plan := planOf b2
    DescAt s1 t (t.ctx.gpr a + 64) (128 * (hd.toNat / 2 ^ 16 % 2 ^ 12 + 1)) 64 b2 s2 →
    hd.toNat / 2 ^ 28 = 0 → hd.toNat / 2 ^ 8 % 256 = 0 → planBad t.pcell.pkg b2 = false →
    s2.reg? t.pcell.pkg (hd.toNat % 256) = some r → r.by_.cell = s2.cellFor t → (∀ x ∈ plan, (r.find false x.2).isSome = true) →
    (∃ x ∈ plan, x.1 ≠ 0) → (∀ f ∈ s2.fops, f.key < s2.nextKey) →
    ∃ (s' : State) (f : Fop), exec (.shuf d a) s = .next s' ∧ s'.thread? k = some (posted t d) ∧
      ((∀ x ∈ plan, (s2.readHeld r x.2).isOk = true) → s'.mem = s2.mem) ∧ s'.fops = s2.fops ++ [f] ∧ f.key = s2.nextKey ∧ f.kind = .shuf ∧
        f.xid = hd.toNat % 256 ∧ f.count = plan.length ∧
      s'.packets.length = s2.packets.length + plan.length ∧
      ∀ i p, (i, p) ∈ f.waiting ↔ ∃ x, plan[i]? = some x ∧ p < 512 ∧ x.1.getLsbD p = true)

/-- R398: mst with a descriptor that passes its checks reads its source, counts an answer of every destination package for each part of at
most 64 KiB, and sends each part as one multicast packet; its ticket is in gd. R405: xred sends the record that it reads, as one reduction,
to the home of its destination; a record that lies elsewhere than vlds may read one is ILLEGAL_ADDRESS. Parts of 64 KiB, and the source read at
issue, are the model's choice (log 18). -/
def Obligations.FabricPosts : Prop :=
  (∀ (s : State) (k : Nat) (t : Thread) (d a : Reg) (bs data : List Byte) (s1 s2 : State),
    Selected s k t → t.gang = .none → Quiet t → t.outCpy + t.cpydone.length < 16 →
    s.awaitsGen t .part = false →
    DescAt (engineOrder s t) t (t.ctx.gpr a) 128 64 bs s1 →
    let desc : BitVec 512 := recordBits 512 (bs.take 64)
    let dst : BitVec 512 := recordBits 512 (bs.drop 64)
    let src : Word := desc.extractLsb' 0 64
    let len := desc.toNat / 2 ^ 128 % 2 ^ 28
    mstBad desc dst = false → copyRange s1 (s1.whoOf t) src len = true → mstReaches (s1.whoOf t).ready desc dst = true →
    tryLocks { s1 with nextKey := s1.nextKey + 1 } (s1.whoOf t) s1.nextKey .copy [⟨src, len, false⟩] (fun _ => false) = .ok s2 →
    engRead s2 (s2.whoFor (s2.issuer k t (.mst d a))) src len = .ok data →
    ∃ (s' : State) (f : Fop), exec (.mst d a) s = .next s' ∧ s'.thread? k = some (posted t d) ∧ s'.mem = s1.mem ∧ s'.fops = s1.fops ++ [f] ∧
      f.key = s1.nextKey ∧ f.kind = .mst ∧ f.desc = desc ∧
      (∀ n p, (n, p) ∈ f.waiting ↔ n < (len + 65535) / 65536 ∧ p < 512 ∧ dst.getLsbD p = true) ∧
      s'.packets.length = s1.packets.length + (len + 65535) / 65536) ∧
  (∀ (s : State) (k : Nat) (t : Thread) (d a : Reg) (b1 b2 : List Byte) (s1 s2 : State) (h : Nat × Nat),
    Selected s k t → t.gang = .none → Quiet t → t.outCpy + t.cpydone.length < 16 →
    s.awaitsGen t .part = false →
    DescAt (engineOrder s t) t (t.ctx.gpr a) 16 16 b1 s1 → DescAt s1 t (BitVec.ofNat 64 (leVal (b1.take 8))) 32 32 b2 s2 →
    InRecord (BitVec.ofNat 64 (leVal (b1.take 8))) → xredHome s2 t (BitVec.ofNat 64 (leVal ((b1.drop 8).take 8))) = .ok h →
    ∃ (s' : State) (f : Fop) (p : Packet), exec (.xred d a) s = .next s' ∧ s'.thread? k = some (posted t d) ∧ s'.mem = s2.mem ∧
      s'.fops = s2.fops ++ [f] ∧
      f.key = s2.nextKey ∧ f.kind = .xred ∧ f.waiting = [(0, h.2)] ∧ s'.packets = s2.packets ++ [p] ∧ p.kind = .reduction ∧
      p.dst = h.2 ∧ p.addr = h.1 ∧ p.payload = b2 ∧ p.subs = [f.key] ∧ p.at_ = t.pcell.pkg ∧ p.delivered = false) ∧
  (∀ (s : State) (k : Nat) (t : Thread) (d a : Reg) (b1 : List Byte) (s1 : State), let src : Word := BitVec.ofNat 64 (leVal (b1.take 8))
    Selected s k t → t.gang = .none → Quiet t → t.outCpy + t.cpydone.length < 16 → s.awaitsGen t .part = false →
    DescAt (engineOrder s t) t (t.ctx.gpr a) 16 16 b1 s1 → ¬ InRecord src →
    exec (.xred d a) s = trapsWith s1 k t (.xred d a) { code := 0x04, faddr := src })

/-- R406, R407 and R410: outside gangs, bar counts one arrival in its word after a release. The last of N participants acquires, sets RTSEL.BANK
where SW asks for it, and commits; another parks with the target of its phase. An SW of 1, an N of 0 and a bit above SW are ILLEGAL_INSN, and
so is any bar in a gang (R89). -/
def Obligations.BarrierResult : Prop := ∀ (s : State) (k : Nat) (t : Thread) (a b : Reg) (i : Instr) (sc : Sys2Proof.Scope) (len : Nat),
  Selected s k t → (i = .bar a b ∧ sc = .sys ∧ len = 4 ∨ i = .barScoped a b sc ∧ len = 12) →
  let gb := (t.ctx.gpr b).toNat
  let n := gb % 2 ^ 32
  let sw := gb / 2 ^ 32 % 4
  (t.gang ≠ .none → exec i s = trapsWith s k t i { code := 0x01 }) ∧
  (gb / 2 ^ 34 ≠ 0 ∨ sw = 1 ∨ n = 0 → exec i s = trapsWith s k t i { code := 0x01 }) ∧
  (∀ (loc : Loc) (bs : List Byte) (s1 : State), t.gang = .none → gb / 2 ^ 34 = 0 → sw ≠ 1 → n ≠ 0 → Quiet t → s.awaitsGen t sc = false →
    AtPlace s t .atomic (t.ctx.gpr a) 8 (fun s => releaseAt s t.pcell sc) loc bs s1 → leVal bs + n < 2 ^ 64 →
    let s2 := s1.store loc.key (leOf 8 (leVal bs + 1))
    ((leVal bs + 1) % n = 0 → NoWaiter s loc.key →
      let s3 := acquireAt s2 t.pcell sc
      let s4 := if 2 ≤ sw then s3.setCell t.pcell { s3.cell t.pcell with bank := decide (sw = 3) } else s3
      exec i s = .next (done s4 k (crossed s1 t loc) (t.ctx.pc + BitVec.ofNat 64 len))) ∧
    ((leVal bs + 1) % n ≠ 0 → t.run = .ready → (∀ p ∈ s.parked, p.req.key = loc.key → s2.servable p.req = false) →
      (s.parked.filter fun p => p.req.home == homeOf loc.key).length < (match homeOf loc.key with
        | .cell _ => 64
        | .slice _ _ _ => 256) →
      ∃ (s' : State) (r : HomeReq), exec i s = .next s' ∧ s'.mem = s2.mem ∧ s'.parked = s.parked ++ [⟨k, r⟩] ∧ r.key = loc.key ∧
        r.target.toNat = (leVal bs / n + 1) * n ∧
        s'.thread? k = some { crossed s1 t loc with run := .parked .bar (s.cycOf t), req := some r }))

/-- R418: topo at supervisor privilege queues a command whose descriptor passes its checks; LOADRT also reads its bank image. -/
def Obligations.TopologyPosts : Prop := ∀ (s : State) (k : Nat) (t : Thread) (d a : Reg) (bs : List Byte) (s1 s2 : State)
    (img : List (BitVec 16)), Selected s k t → t.ctx.priv = true → t.gang = .none → Quiet t → t.outCpy + t.cpydone.length < 16 →
  s.awaitsGen t .part = false →
  DescAt (engineOrder s t) t (t.ctx.gpr a) 64 64 bs s1 →
  let desc : BitVec 512 := recordBits 512 bs
  topoBad (s1.pkg t.pcell.pkg) desc = none → topoImage s1 t desc = .ok (img, s2) → (s2.pkg t.pcell.pkg).topoQ.length < 8 →
  ∃ s' : State, exec (.topo d a) s = .next s' ∧ s'.thread? k = some (posted t d) ∧ s'.mem = s2.mem ∧
    (s'.pkg t.pcell.pkg).topoQ = (s2.pkg t.pcell.pkg).topoQ ++ [⟨s2.nextKey, s2.issuer k t (.topo d a), desc, img⟩]

/-! ### Events: launches, tasks and threads (chapters 03, 04, 05, 07, 18) -/
namespace Sys2Proof.Claims

/-- A thread whose task starts at an entry with its first five argument registers. -/
def StartsAt (u : Thread) (key flat slot : Nat) (pc : Word) : Prop :=
  u.launch = key ∧ u.flat = flat ∧ u.vslot = slot ∧ u.ctx.pc = pc ∧ u.run = .ready ∧ u.ctx.gpr 3 = BitVec.ofNat 64 flat ∧
    u.ctx.gpr 4 = BitVec.ofNat 64 slot ∧ u.ctx.priv = false ∧ u.gang = .none

end Sys2Proof.Claims

/-- R35, R46 to R52, R66, R195, R421, R443 and R466: what host writes to a queue window and to control space do while the package responds: each
register takes its writable bits, and one that has another writer keeps what it holds. The bits of a window write that become CRHEAD are the
model's choice (log 90). -/
def Obligations.HostWrites : Prop := ∀ (s : State) (pkg vf i q : Nat), (s.pkg pkg).boot = 0x00FF → (s.pkg pkg).queueOf vf i = some q →
  let x := (s.pkg pkg).queue q
  (∀ r, x.en = true → x.fifo.length < 16 →
    exec (.launchWrite pkg vf i r) s = .next (s.setQueue pkg q { x with fifo := x.fifo ++ [r] })) ∧
  (∀ r, x.en = false → exec (.launchWrite pkg vf i r) s = .next (s.setQueue pkg q { x with malf := satInc x.malf })) ∧
  exec (.malformedWrite pkg vf i) s = .next (s.setQueue pkg q { x with malf := satInc x.malf }) ∧
  (∀ v, x.en = true → exec (.crheadWrite pkg vf i v) s = .next (s.setQueue pkg q { x with crhead := v.extractLsb' 0 16 })) ∧
  (∀ v, x.en = false → exec (.crheadWrite pkg vf i v) s = .next (s.setQueue pkg q { x with malf := satInc x.malf })) ∧
  (∀ v : Word, v.getLsbD 31 = true → x.en = false → ∃ (s' : State) (y : Queue), exec (.queueEnable pkg q v) s = .next s' ∧ (s'.pkg pkg).queue q = y ∧
    y.en = true ∧ y.crhead = 0 ∧ y.crtail = 0 ∧ y.malf = 0 ∧ y.ovr = 0 ∧ y.crf = false ∧ y.phase = true ∧ y.fifo = x.fifo) ∧
  (∀ v : Word, v.getLsbD 31 = false → x.en = true → ∃ (s' : State) (y : Queue), exec (.queueDisable pkg q v) s = .next s' ∧ (s'.pkg pkg).queue q = y ∧
    y.en = false ∧ y.fifo = [] ∧ y.head = none) ∧
  (∀ (v : Word) (f : Nat), f < 17 → let old := (s.pkg pkg).fn f; let at_ := 0x10000 + 0x1000 * f
    let leaves (off : Nat) (new : FnRegs) : Prop :=
      ∃ s' : State, exec (.registerWrite pkg (at_ + off) v) s = .next s' ∧ (s'.pkg pkg).fn f = new ∧ s'.mem = s.mem
    (∀ r : Fin 64, leaves (8 * r.val) { old with roots := old.roots.set r (v &&& 0xFFFFFFFFFFFF7FF0) }) ∧
    leaves 0x200 { old with htbase := BitVec.ofNat 64 (v.toNat / 16 * 16) } ∧
    leaves 0x208 { old with htsize := BitVec.ofNat 64 (v.toNat % 2 ^ 24) } ∧
    leaves 0x210 { old with ptbase := BitVec.ofNat 64 (v.toNat / 32 * 32) } ∧
    leaves 0x218 { old with ptsize := BitVec.ofNat 64 (v.toNat % 2 ^ 16) }) ∧
  (∀ (v : Word) (n : Nat), n < 1024 → let old := (s.pkg pkg).queue n
    let leaves (off : Nat) (new : Queue) : Prop :=
      ∃ s' : State, exec (.registerWrite pkg (32 * n + off) v) s = .next s' ∧ (s'.pkg pkg).queue n = new ∧ s'.mem = s.mem
    (v.getLsbD 31 = old.en → ∃ new : Queue, leaves 0 new ∧ new = { old with qctl := new.qctl } ∧ new.en = v.getLsbD 31 ∧
      new.qctl.toNat / 2 ^ 32 = v.toNat / 2 ^ 32 % 2 ^ 10 ∧ new.vf = (if v.toNat / 2 ^ 20 % 32 ≤ 16 then v.toNat / 2 ^ 20 % 32 else old.vf) ∧
      new.qctl.toNat / 2 ^ 16 % 16 = v.toNat / 2 ^ 16 % 8 ∧ new.qctl.toNat % 2 ^ 16 = 0) ∧
    leaves 8 { old with crbase := BitVec.ofNat 64 (v.toNat / 4096 * 4096) } ∧
    leaves 16 { old with crhead := BitVec.ofNat 16 (v.toNat / 2 ^ 32), crlog2 := BitVec.ofNat 4 (min (v.toNat % 16) 12) }) ∧
  (∀ v : Word, exec (.registerWrite pkg 0x200000 v) s = .next (s.setPkg pkg { s.pkg pkg with
      elbase := BitVec.ofNat 64 (v.toNat / 4096 * 4096) }) ∧
    exec (.registerWrite pkg 0x200008 v) s = .next (s.setPkg pkg { s.pkg pkg with
      elhead := BitVec.ofNat 16 (v.toNat / 2 ^ 32), elint := v.getLsbD 4, ellog2 := BitVec.ofNat 4 v.toNat })) ∧
  (∀ (v : Word) (off : Nat), (off < 0x8000 ∧ off % 32 = 24) ∨ (0x40000 ≤ off ∧ off < 0x44000) ∨ (0x110000 ≤ off ∧ off < 0x110800) ∨
    off = 0x200010 ∨ off % 8 ≠ 0 → exec (.registerWrite pkg off v) s = .next s) ∧
  (∀ (v : Word) (p : Nat), p < 32 → ∃ s' : State, exec (.portstatWrite pkg p v) s = .next s' ∧ s'.mem = s.mem ∧
    (s'.pkg pkg).port p = { (s.pkg pkg).port p with afail := ((s.pkg pkg).port p).afail && !v.getLsbD 16 })

/-- R53 to R58: a captured head is validated when its queue's ring has a free entry, and waits ready or leaves with its record; the ready
head that R55 chooses is admitted; a cell of it that gets the swarm message starts a thread in each slot of its launch. -/
def Obligations.LaunchStarts : Prop := ∀ (s : State),
  (∀ (pkg q : Nat) (r : BitVec 512) (rest : List (BitVec 512)), let x := (s.pkg pkg).queue q
    x.head = none → x.fifo = r :: rest → x.isFull = false →
    (∀ y, s.validate pkg x r = .ok y → exec (.ringEntryReservation pkg q) s =
      .next (s.setQueue pkg q { x.reserve.2.2 with head := some (x.reserve.1, x.reserve.2.1, some y) })) ∧
    (∀ v, s.validate pkg x r = .error v → exec (.ringEntryReservation pkg q) s =
      .next ((s.setQueue pkg q { x.reserve.2.2 with fifo := rest }).writeRecord pkg q x.reserve.1 x.reserve.2.1 r v.1 v.2.1 v.2.2 0))) ∧
  (∀ (pkg prio q i : Nat) (ph : Bool) (r : BitVec 512) (y : Ready), s.toAdmit pkg = some (prio, q, i, ph, r, y) →
    ∃ (s' : State) (l : Launch), exec (.launchAdmission pkg) s = .next s' ∧ s'.launch? s.nextKey = some l ∧ l.pkg = pkg ∧ l.queue = q ∧ l.record = r ∧
      l.ring = i ∧ l.phase = ph ∧ l.ready = y ∧ l.started = s.cyc pkg 0 ∧ l.toWake = List.range (cellsEff r y) ∧
      ((s'.pkg pkg).queue q).fifo = ((s.pkg pkg).queue q).fifo.drop 1 ∧ ((s'.pkg pkg).queue q).head = none ∧
      (s'.pkg pkg).rr = (q + 1) % 1024 ∧ s'.threads = s.threads ∧ s'.mem = s.mem) ∧
  (∀ (key flat : Nat) (l : Launch) (x : Seat), s.launch? key = some l → s.seatAt key flat = some x → flat ∈ l.toWake → l.ending = none →
    ∃ s' : State, exec (.swarmMessage key flat) s = .next s' ∧
      s'.launch? key = some { l with toWake := l.toWake.filter fun n => n != flat } ∧
      ∀ n < l.ready.slots, ∃ u : Thread, s'.thread? (s.nextKey + n) = some u ∧
        StartsAt u key flat n (l.ready.codeBase + BitVec.ofNat 64 l.ready.entry))

/-- R463, R464, R465 and R479: a launch with nothing left to do retires; one whose thread took a supervisor trap is ended, with its threads gone,
but for an UNCORRECTABLE at an address of a logical cell that has been restarted since; a function-level reset disables the queues of its function,
and its drain drops the function's launches. -/
def Obligations.LaunchEnds : Prop := ∀ (s : State),
  (∀ (key : Nat) (l : Launch), s.launch? key = some l → l.ending = none → s.retires key l = true →
    ∃ s' : State, exec (.launchRetirement key) s = .next s' ∧ s'.launch? key = none) ∧
  (∀ (key : Nat) (l : Launch) (x : Trapped), s.launch? key = some l → l.trapped.find? (fun y => !s.covered l y) = some x →
    l.ending = none →
    ∃ s' : State, exec (.launchEnd key) s = .next s' ∧ s'.launch? key = some { l with
        toWake := [], ending := some (3, x.code, BitVec.ofNat 64 (x.tid.toNat % 2 ^ 32 * 2 ^ 32 + x.tepc.toNat % 2 ^ 32)) } ∧
      ∀ k t, s.thread? k = some t → t.nurse = false → t.launch = key → s'.thread? k = none) ∧
  (∀ (l : Launch) (x : Trapped), s.covered l x = true ↔ x.code = 0x10 ∧ x.faddr.toNat / 2 ^ 56 = 0x50 ∧ ∃ c n,
    l.ready.lcell (x.faddr.toNat / 2 ^ 36 % 2 ^ 20) = some c ∧ (s.vcell c).restarted = some n ∧ x.at_ < n) ∧
  (∀ (key : Nat) (l : Launch), s.launch? key = some l → (∀ x ∈ l.trapped, s.covered l x = true) → exec (.launchEnd key) s = .next s) ∧
  (∀ pkg vf : Nat, ∃ s' : State, exec (.functionLevelReset pkg vf) s = .next s' ∧ ⟨pkg, vf⟩ ∈ s'.flrs ∧
    ∀ q, ((s'.pkg pkg).queue q).vf = vf → ((s'.pkg pkg).queue q).en = false) ∧
  (∀ pkg vf : Nat, ⟨pkg, vf⟩ ∈ s.flrs → s.drained pkg vf = true → ∃ s' : State, exec (.flrDrainComplete pkg vf) s = .next s' ∧
    s'.flrs = s.flrs.filter (fun f => f != ⟨pkg, vf⟩) ∧ ∀ x ∈ s'.launches, ¬ (x.2.pkg = pkg ∧ x.2.vf = vf))

/-- R74, R78 to R81, R86 and R88: a free slot takes the bottom record of its deque, or the context that has waited longest; a steal attempt
sends a request, its victim answers with the first record that may go, and the thief starts what it gets, keeps it in its deque, or waits
while that is full (R76), of which the last two are the model's choice (log 33); a thread whose slice is over
is asked for its pre-emption; a slot that has become free is reserved for a gang that waits for it. R91, R144, R165, R166 and R450: a flying thread that reaches its destination takes a free slot there and goes on behind its
fly; a wake ends the wait of a thread in wfw, makes a suspended thread or one that ctxld holds parked resumable, and sets WP of any other;
the sleep of a thread commits once its count has run out. That a wfw commits as its wake is delivered is the model's reading (log 49). -/
def Obligations.ThreadEvents : Prop :=
  (∀ (s : State),
    (∀ (cell : LCell) (slot key flat : Nat) (x : Seat) (ds : List (BitVec 256)) (r : BitVec 256), s.seatOf cell = some (key, flat, x) →
      x.cell = cell → s.vslotFree x key flat slot = true → (s.vcell cell).deque = ds ++ [r] →
      ∃ (s' : State) (u : Thread), exec (.taskStart cell slot) s = .next s' ∧ (s'.vcell cell).deque = ds ∧ s'.thread? s.nextKey = some u ∧
        StartsAt u key flat slot (x.launch.ready.codeBase + BitVec.ofNat 64 (taskEntry r)) ∧ u.ctx.gpr 0 = r.extractLsb' 128 64 ∧
        u.ctx.gpr 1 = r.extractLsb' 192 64 ∧ u.ctx.joinAddr = taskJoin r ∧ u.ctx.origin = taskOrigin r ∧ u.ctx.domain = taskDomain r) ∧
    (∀ (cell : PCell) (slot k : Nat) (t : Thread), s.longest cell slot = some (k, t) → s.thread? k = some t → s.hasTasks t = false →
      t.gang = .none → s.crewFits [k] slot = true → t.ctx.head = none →
      ∃ u : Thread, exec (.contextResume cell slot) s = .next (s.setThread k u) ∧ u.place = .slot t.pcell slot ∧ u.run = t.run ∧
        u.ctx.pc = t.ctx.pc ∧ (t.forced = true → u.ctx = t.ctx) ∧
        (t.forced = false → ∀ r : Reg, u.ctx.gpr r = if t.masks.getLsbD r.toNat then t.ctx.gpr r else 0)) ∧
    (∀ (thief : LCell) (key flat : Nat) (x : Seat), s.seatOf thief = some (key, flat, x) → s.maySteal key flat x = true →
      ∀ y, x.launch.ready.victim flat (s.vcell thief).j = some y → ∃ s' : State, exec (.stealAttempt thief) s = .next s' ∧
        s'.steals = s.steals ++ [⟨s.nextKey, key, flat, y, none⟩] ∧
        s'.vcell thief = { s.vcell thief with j := (s.vcell thief).j + 1, stealing := true }) ∧
    (∀ (n i : Nat) (m : StealMsg) (x : Seat), (s.steals.find? fun m => m.id == n && m.answer.isNone) = some m →
      s.seatAt m.launch m.victim = some x → (s.cell x.place.cell).capped = false → (s.vcell x.cell).bhead = (s.vcell x.cell).btail →
      ((s.vcell x.cell).deque.findIdx? fun r => x.launch.ready.eligible r m.thief) = some i →
      ∃ s' : State, exec (.stealRequest n) s = .next s' ∧ (s'.vcell x.cell).deque = (s.vcell x.cell).deque.eraseIdx i ∧
        s'.steals = s.steals.map fun y => if y.id = n then { y with answer := some (s.vcell x.cell).deque[i]? } else y) ∧
    (∀ (n : Nat) (m : StealMsg) (x : Seat), (s.steals.find? fun m => m.id == n && m.answer.isSome) = some m →
      s.seatAt m.launch m.thief = some x →
      (m.answer = some none → exec (.stealAnswer n) s = .next ({ s with steals := s.steals.filter fun y => y.id != n }.setVcell x.cell
        ((s.vcell x.cell).noLuck (s.cyc x.cell.pkg x.cell.die)))) ∧
      (∀ r slot, m.answer = some (some r) →
        ((List.range x.launch.ready.slots).find? fun n => s.vslotFree x m.launch m.thief n) = some slot →
        ∃ (s' : State) (u : Thread), exec (.stealAnswer n) s = .next s' ∧ s'.steals = s.steals.filter (fun y => y.id != n) ∧
          s'.thread? s.nextKey = some u ∧
          StartsAt u m.launch m.thief slot (x.launch.ready.codeBase + BitVec.ofNat 64 (taskEntry r))) ∧
      (∀ r, m.answer = some (some r) → (∀ n < x.launch.ready.slots, s.vslotFree x m.launch m.thief n = false) →
        ((s.vcell x.cell).deque.length < x.dequeCap → ∃ s' : State, exec (.stealAnswer n) s = .next s' ∧
          s'.steals = s.steals.filter (fun y => y.id != n) ∧ (s'.vcell x.cell).deque = (s.vcell x.cell).deque ++ [r] ∧
          s'.threads = s.threads) ∧
        (x.dequeCap ≤ (s.vcell x.cell).deque.length → s.steals = [m] → exec (.stealAnswer n) s = .next s))) ∧
    (∀ (k : Nat) (t : Thread), s.thread? k = some t → s.sliceOver t = true →
      exec (.timesliceExpiry k) s = .next (s.setThread k { t with preempt := some (s.cycOf t) })) ∧
    (∀ (cell : LCell) (slot k f : Nat) (t : Thread) (x : Seat), s.threads = [(k, t)] → t.slot?.map Prod.snd = some slot →
      s.waitedSeats t = [(f, x)] → x.cell = cell → t.slot? ≠ some (x.place.cell, slot) → (s.cell x.place.cell).capped = false →
      (s.vcell cell).reserved = [] →
      exec (.gangSlotReservation cell slot) s = .next (s.setVcell cell { s.vcell cell with reserved := [(slot, k)] }))) ∧
  (∀ (s : State),
    (∀ (k n m f : Nat) (c : PCell) (d : LCell) (t : Thread) (y : Seat), s.thread? k = some t → t.place = .flying c n d f →
      s.seatAt t.launch f = some y → (s.cell y.place.cell).capped = false → s.freeSlot y = some m →
      ∃ (s' : State) (u : Thread), exec (.flyArrival k) s = .next s' ∧ s'.thread? k = some u ∧ u.place = .slot y.place.cell m ∧ u.flat = f ∧
        u.run = .ready ∧
        u.ctx.pc = t.ctx.pc + 4 ∧ (∀ r : Reg, u.ctx.gpr r = t.ctx.gpr r) ∧ (∀ v : VNum, u.ctx.vr v = 0)) ∧
    (∀ (n k : Nat) (w : Wake) (t : Thread), (s.wakes.find? fun w => w.id == n) = some w → s.thread? k = some t →
      (s.threads.find? fun x => x.2.tid == w.tid && x.2.launch == w.launch && !x.2.nurse) = some (k, t) →
      ∃ s' : State, exec (.wakeDelivery n) s = .next s' ∧ s'.wakes = s.wakes.filter (fun x => x.id != n) ∧ s'.mem = s.mem ∧
        (∀ m, t.run = .parked .wfw m → s'.thread? k = some (t.commitAt (t.ctx.pc + 4))) ∧
        (∀ c m, t.run = .suspended → t.place = .cache c false m →
          s'.thread? k = some { t with place := .cache c true s.stamp, run := .ready }) ∧
        (∀ c m, t.run = .ready → t.place = .slot c m →
          s'.thread? k = some (withCtx t fun c => { c with tstat := putFld c.tstat 25 1 1 })) ∧
        (∀ c m, t.run = .ready → t.place = .cache c false m → t.gang = .none → (s.cell c).capped = false →
          s'.thread? k = some { t with place := .cache c true s.stamp })) ∧
    (∀ (k n : Nat) (t : Thread), s.thread? k = some t → t.run = .sleeping n → n ≤ s.cycOf t →
      exec (.sleepExpiry k) s = .next (done s k t (t.ctx.pc + 4))))

/-! ### Events: interruptions, requests at homes, register writes -/

/-- R93, R145, R151, R196, R228, R235, R259, R260, R349, R440 to R442 and R469: what comes between a thread's instructions. An instruction that
the checker discards has no effect and uses its slot's turn; at the next it executes again, or mismatches again and is UNCORRECTABLE. A save of a
thread whose vector unit has found an error is the trap instead. The turn that a discarded instruction uses is the model's choice, and so is that
the vector unit counts a Gaussian instruction (log 63); so is a page walk as an event that fills the TLBs and nothing else (log 7). -/
def Obligations.Interruptions : Prop := ∀ (s : State) (k : Nat) (t : Thread), s.thread? k = some t →
  (∀ m, s.liveMask t = some m → s.between t = true → s.honours t = true → t.gang = .none → Still t → t.vErr = none →
    ∃ (s' : State) (u : Thread), exec (.preemption k) s = .next s' ∧ s'.thread? k = some u ∧ u.place = .cache t.pcell true s.stamp ∧ u.masks = m ∧
      u.forced = false ∧ u.preempt = none ∧ u.ctx = t.ctx ∧ s'.mem = s.mem) ∧
  (∀ m r, s.liveMask t = some m → s.between t = true → s.honours t = true → t.gang = .none → t.vErr = some r →
    exec (.preemption k) s = .next ((takeFault (s.unpark fun p => p.thread == k) k { code := 0x10 } {}).unyield k)) ∧
  (∀ r, s.forcedDue t = true → t.gang = .none → t.vErr = some r →
    exec (.forcedSave k) s = .next ((takeFault (s.unpark fun p => p.thread == k) k { code := 0x10 } {}).unyield k)) ∧
  (s.forcedDue t = true → t.gang = .none → Still t → t.vErr = none → ∃ (s' : State) (u : Thread), exec (.forcedSave k) s = .next s' ∧
    s'.thread? k = some u ∧
    u.place = .cache t.pcell true s.stamp ∧ u.masks = BitVec.allOnes 40 ∧ u.forced = true ∧ u.preempt = none ∧ u.ctx = t.ctx ∧
    s'.mem = s.mem) ∧
  (∀ n again, s.readyTurn t.pcell = some (k, n) → t.retry = none → exec (.checkerRetry k again) s =
    .next ((s.setThread k { t with retry := some again }).setCell t.pcell { s.cell t.pcell with rot := (n + 1) % 16 })) ∧
  (∀ i s1, let u := { t with retry := none }
    t.retry = some true → t.vErr = none → t.homeErr = none → s.before t = none → t.todo = none → t.ctx.head = none →
    fetchInstr (s.setThread k u) u = .ok (i, s1) →
    stepThread s k t = .next (((takeFault s1 k { code := 0x10 } (recordOf i t.ctx 0)).unyield k).countEvent
      (if (encode i).op = 0x2C then .vector t.pcell else .pipeline t.pcell) t.ctx.pc)) ∧
  (∀ h, t.ctx.opened = some h →
    (∀ s1, performHead s k t h = .ok s1 → exec (.accessCompletion k) s = .next s1) ∧
    (∀ s1 f, performHead s k t h = .error (s1, f) → exec (.accessCompletion k) s = .next ((takeFault s1 k f h.opr).unyield k))) ∧
  (∀ (x : RxStore) (xs : List RxStore), t.rx = x :: xs →
    (∀ s1, x.kind = .bytes →
      writeAt s { s.whoOf t with bank := x.bank } { key := x.key, domain := x.domain, peer := x.peer } x.bytes false = .ok s1 →
      ∃ s' : State, exec (.relaxedStoreAck k 0) s = .next s' ∧ s'.mem = s1.mem ∧ (x.gen = none → s'.thread? k = some { t with rx := xs })) ∧
    (∀ d e v nsm, x.kind = .elem d e v nsm → ∃ s' : State, exec (.relaxedStoreAck k 0) s = .next s' ∧
      s'.mem = (elemStore s x.key d e (elemEncode s x.key d e nsm v)).mem)) ∧
  (∀ (since : Nat), s.limitOver t since = true → t.cached = false → t.req = none →
    (∀ c n, t.run = .parked .wfw since → t.place = .slot c n → exec (.waitLimitExpiry k) s =
      .next (takeFault (s.setThread k t) k { code := 0x09, detail := 5 } t.waitOpr))) ∧
  (∀ (since : Nat), s.limitOver t since = true → t.run = .parked .fullEmpty since ∨ t.run = .parked .bar since →
    exec (.waitLimitExpiry k) s = .next (s.setThread k { t with run := .withdrawing, answer := none })) ∧
  (∀ (cell : PCell) (vf : Nat) (va : Word) (kind : AccessKind) (e : TlbEntry),
    let w := { pkgWho cell.pkg vf with cluster := clusterOf cell, cell := cell }
    (translate s w (kind == .fetch) va = .ok (e, false) →
      exec (.pageWalk cell vf va kind) s = .next (s.fillTlb cell (kind == .fetch) { key := 0, entry := some e })) ∧
    (∀ f, translate s w (kind == .fetch) va = .error f → exec (.pageWalk cell vf va kind) s = .next s))

/-- R192, R470 and R475: a new fault window starts the counts of its die again; a corrected error of a row whose bits are not all in the filter sets
them, and one in a new window meets an empty filter; a pseudo-channel retired while nothing uses the pages is noted in its stack. R72, R440 and
R473: a quiesce of a logical cluster that is quiet, with a map that may take the place of its own, writes the cluster map and the cell map, and one
that is not quiet becomes pending; the restart of a capped cell writes a map that names its target. How a quiesce waits, when pages are quiet and
which target a restart takes are the model's readings (log 23). -/
def Obligations.ErrorHandling : Prop :=
  (∀ (s : State) (pkg : Nat),
    (∀ die : Nat, (s.die pkg die).window < s.cyc pkg die / 2 ^ 30 → ∃ s' : State, exec (.faultWindowBoundary pkg die) s = .next s' ∧
      s'.mem = s.mem ∧ (s'.die pkg die).window = s.cyc pkg die / 2 ^ 30 ∧
      ∀ u : Monitored, lookD 0 u s'.counts = if (unitPlace u).1 = pkg ∧ (unitPlace u).2.1 = die then 0 else lookD 0 u s.counts) ∧
    (∀ die : Nat, s.cyc pkg die / 2 ^ 30 ≤ (s.die pkg die).window → exec (.faultWindowBoundary pkg die) s = .next s) ∧
    (∀ (stack : Nat) (ra : BitVec 32), (s.die pkg (stack / 2)).window < s.cyc pkg (stack / 2) / 2 ^ 30 →
      ∃ s' : State, exec (.correctedError pkg stack ra) s = .next s' ∧ ∀ h, h ∈ ((s'.pkg pkg).stack stack).filter ↔ h ∈ rowHashes ra) ∧
    (∀ (stack : Nat) (ra : BitVec 32) (h : Nat), s.cyc pkg (stack / 2) / 2 ^ 30 ≤ (s.die pkg (stack / 2)).window →
      h ∈ rowHashes ra → h ∉ ((s.pkg pkg).stack stack).filter →
      ∃ s' : State, exec (.correctedError pkg stack ra) s = .next s' ∧ (∀ h ∈ rowHashes ra, h ∈ ((s'.pkg pkg).stack stack).filter) ∧
        ∀ h ∈ ((s.pkg pkg).stack stack).filter, h ∈ ((s'.pkg pkg).stack stack).filter) ∧
    (∀ (stack : Nat) (ra : BitVec 32), s.cyc pkg (stack / 2) / 2 ^ 30 ≤ (s.die pkg (stack / 2)).window →
      (∀ h ∈ rowHashes ra, h ∈ ((s.pkg pkg).stack stack).filter) →
      ∃ s' : State, exec (.correctedError pkg stack ra) s = .next s' ∧
        lookD 0 (ra.toNat / 2 ^ 19) ((s'.pkg pkg).stack stack).repeats = lookD 0 (ra.toNat / 2 ^ 19) ((s.pkg pkg).stack stack).repeats + 1) ∧
    (∀ stack chan : Nat, chan < 192 → s.pagesQuiet pkg = true → ∃ s' : State, exec (.pseudoChannelRetirement pkg stack chan) s = .next s' ∧
      chan ∈ ((s'.pkg pkg).stack stack).retired) ∧
    (∀ stack chan : Nat, s.pagesQuiet pkg = false → exec (.pseudoChannelRetirement pkg stack chan) s = .next s)) ∧
  (∀ (s : State),
    (∀ (pkg die lcl target : Nat) (map : List (BitVec 16)) (old : ClusterId), lcl < 8 → s.physCluster pkg die lcl = some old →
      s.goalOf ⟨pkg, die, lcl⟩ = none → s.canHost ⟨pkg, die, lcl⟩ ⟨pkg, die, target⟩ = true →
      s.mapOk ⟨pkg, die, lcl⟩ ⟨pkg, die, target⟩ map = true →
      (s.quiet ⟨pkg, die, lcl⟩ old = true → ∃ s' : State, exec (.clusterQuiesce pkg die lcl target map) s = .next s' ∧
        (s'.die pkg die).clusterMap.toList.getD lcl 0 = BitVec.ofNat 8 (0x80 + target) ∧
        ∀ j < 32, (s'.cluster ⟨pkg, die, target⟩).cellMap.toList.getD j 0 = map.getD j 0 &&& 0xF81F) ∧
      (s.quiet ⟨pkg, die, lcl⟩ old = false → exec (.clusterQuiesce pkg die lcl target map) s =
        .next { s with quiesces := s.quiesces ++ [⟨pkg, die, lcl, .maps target map⟩] })) ∧
    (∀ (cell : PCell) (x : Lcl) (new : List (BitVec 16)), let map := (s.cluster (clusterOf cell)).cellMap.toList
      s.lclOf (clusterOf cell) = some x → s.cappedOn (clusterOf cell) map = [cell.cell] → s.goalOf x = none →
      s.quiet x (clusterOf cell) = true → s.retarget x (clusterOf cell) map cell.cell = some new →
      ∃ s' : State, exec (.cellRestart cell) s = .next s' ∧
        ∀ j < 32, (s'.cluster (clusterOf cell)).cellMap.toList.getD j 0 = new.getD j 0 &&& 0xF81F))

/-- R230, R233 to R236, R360 and R406: a request that is sent again and cannot be served parks, or traps where its home now answers with an
error; a parked one that can be served leaves its
table and its instruction commits; a refused one is sent again after 64 dclk; a withdrawal takes a parked request out, and its answer is the
WAIT_LIMIT upcall. A request that its home has ended with an error is the fault of its instruction when the thread's turn comes. -/
def Obligations.HomeEvents : Prop := ∀ (s : State) (k : Nat) (t : Thread) (r : HomeReq) (i : Instr), s.thread? k = some t →
  t.req = some r → (i = .fullEmptyRequest k ∨ i = .mailboxRequest k ∨ i = .barrierArrival k) →
  (∀ n, t.run = .resent n → r.answer s t = none → s.servable r = false → s.tableFull r.home = false → ∃ (s' : State) (why : Why),
    exec i s = .next s' ∧
    s'.parked = s.parked ++ [⟨k, r⟩] ∧ s'.mem = s.mem ∧ s'.thread? k = some { t with run := .parked why n, req := some r }) ∧
  (∀ n c, t.run = .resent n → r.answer s t = some c → exec i s =
    .next ((takeFault s k { code := c, faddr := r.va } (recordOf r.instr t.ctx 0)).unyield k)) ∧
  (∀ n, t.run = .parked .fullEmpty n → s.parked = [⟨k, r⟩] → s.saved = [] → s.servable r = true →
    (∀ o, r.instr = .ldfe o → s.poisoned r.key 8 = false → ∃ (s' : State) (u : Thread), exec i s = .next s' ∧ s'.parked = [] ∧ s'.full r.key = false ∧
      s'.thread? k = some u ∧ u.ctx.gpr o.d = BitVec.ofNat 64 (s.num r.key 8) ∧
      u.ctx.pc = t.ctx.pc + BitVec.ofNat 64 (dispLen o.imm) ∧ u.run = .ready ∧ u.req = none) ∧
    (∀ v a, r.instr = .gpost v a → r.vals.length = 4 → ∃ (s' : State) (u : Thread), exec i s = .next s' ∧ s'.parked = [] ∧ s'.full r.key = true ∧
      s'.thread? k = some u ∧ u.ctx.pc = t.ctx.pc + 4 ∧ u.run = .ready)) ∧
  (∀ n a b, t.run = .parked .bar n → s.parked = [⟨k, r⟩] → s.saved = [] → s.servable r = true → r.instr = .bar a b → t.ctx.head = none →
    ∃ (s' : State) (u : Thread), exec i s = .next s' ∧ s'.parked = [] ∧ s'.thread? k = some u ∧ u.ctx.pc = t.ctx.pc + 4 ∧ u.run = .ready) ∧
  (∀ c, t.homeErr = some c → r.isHead t = false → t.vErr = none → stepThread s k t =
    .next ((takeFault (s.setThread k { t with homeErr := none, req := none }) k { code := c, faddr := r.va } r.opr).unyield k)) ∧
  (∀ n m, t.run = .refused n m → m + 64 ≤ s.cycOf t → exec (.parkTableResend k) s = .next (s.setThread k { t with run := .resent n })) ∧
  (t.run = .withdrawing → t.answer = none → exec (.withdrawal k) s =
    .next ({ s with parked := s.parked.filter fun p => p.thread != k }.setThread k
      { t with answer := some (!(s.parked.any fun p => p.thread == k)) })) ∧
  (∀ o, t.run = .withdrawing → t.answer = some false → t.cached = false → r.instr = .ldfe o → exec (.withdrawalAnswer k) s =
    .next (takeFault (s.setThread k { t with req := none, answer := none }) k { code := 0x09, faddr := r.va, detail := 0 } r.opr))

/-- R155, R180 to R183, R353 and R436: the writes of control registers as steps of their own take the values that the registers take from an
instruction; a change of WAYS that waited is made once nothing is locked. -/
def Obligations.RegisterWriteEvents : Prop := ∀ (s : State) (k : Nat) (t : Thread) (v : Word), s.thread? k = some t →
  exec (.wlimWrite k v) s = .next (s.setThread k (withCtx t fun c => { c with
    wlim := BitVec.ofNat 64 (if v.toNat % 2 ^ 32 < 256 then 256 else v.toNat % 2 ^ 32) })) ∧
  exec (.gpivWrite k v) s = .next (s.setThread k (withCtx t fun c => { c with
    gpiv := if v.toNat % 2 ^ 32 ≤ 0x7F800000 then BitVec.ofNat 64 (v.toNat % 2 ^ 32) else 0 })) ∧
  (t.ctx.head = none → exec (.tcauseWrite k v) s =
    .next (s.setThread k (withCtx t fun c => { c with tcause := BitVec.ofNat 64 (v.toNat % 2 ^ 12) }))) ∧
  (∀ n : BitVec 3, n ≠ 0 → wdescOk v = true → exec (.wdescWrite k n v) s =
    .next (s.setCell t.pcell { s.cell t.pcell with wdesc := setIdx (s.cell t.pcell).wdesc (n.toNat - 1) (wdescMask v) })) ∧
  (∀ n : BitVec 3, n ≠ 0 → wdescOk v = false → exec (.wdescWrite k n v) s = .next (takeFault s k { code := 0x01 } {})) ∧
  (∀ c : PCell, ∃ s' : State, exec (.groupWrite c v) s = .next s' ∧ (s'.cell c).gsz = v.extractLsb' 0 2 ∧ s'.threads = s.threads ∧
    ∀ l ∈ (s'.cell c).lines, l.owner = none ∨ l.owner = some c) ∧
  ((s.ownPlace t).fold = 0 ∨ t.ctx.priv = true → 16 < v.toNat % 32 → exec (.waysWrite k v) s = .next (takeFault s k { code := 0x01 } {})) ∧
  ((s.ownPlace t).fold = 0 ∨ t.ctx.priv = true → v.toNat % 32 = (s.cell t.pcell).nscr.toNat → v.toNat % 32 ≤ 16 →
    (s.cell t.pcell).waysPending = none → exec (.waysWrite k v) s = .next s) ∧
  (∀ (c : PCell) (m : BitVec 5) (n : Nat) (i : Instr), (s.cell c).waysPending = some (k, m) → t.run = .parked .ways n → t.waitOpr.instr? = some i →
    s.waysLocked c m.toNat (s.cell c).nscr.toNat = false → s.parked = [] →
    (∀ y ∈ s.threads, ∀ c' va since, y.2.run ≠ .parked (.held c' va) since) →
    ∃ s' : State, exec (.waysChange c) s = .next s' ∧ (s'.cell c).nscr = m ∧ (s'.cell c).waysPending = none ∧
      s'.thread? k = some (t.commitAt (nextPc i t.ctx)))

/-! ### Events: the OMU (chapters 12, 13) -/

/-- R289, R291 and R322: the steps of a load. The tile is captured and the header of the image read, or the decomposition made; a load that
succeeds binds its bank to the tile, the cell and the number mode; a completed load leaves its entry in its thread's queue. -/
def Obligations.LoadSteps : Prop := ∀ (s : State) (c : ClusterId) (l : BankLoad), (s.omu c).load = some l →
  (∀ bs, l.phase = 0 → engRead s (s.whoFor l.by_) l.tile (tileSize l.wfmt.toNat) = .ok bs → tileBad l.wfmt.toNat l.by_.nsm bs = false →
    ∃ s' : State, exec (.tileCaptureEnd c) s = .next s' ∧ s'.mem = s.mem ∧
      (s'.omu c).load = some { l with captured := bs, phase := if l.decomp then 2 else 1 } ∧ ((s'.omu c).bank l.bank).tile = bs ∧
      ∀ x ∈ (s'.cluster c).locks, x.owner ≠ l.key + 1) ∧
  (∀ bs, l.phase = 1 → l.image = [] ∨ (s.handleLive l.by_.cell.pkg l.by_.vf l.handle 3).isSome = true →
    engRead s (s.whoFor l.by_) (l.base + BitVec.ofNat 64 l.image.length) 4096 = .ok bs →
    (l.image.length + bs.length < imageSize → ∃ s' : State, exec (.imageBlockRead c) s = .next s' ∧
      (s'.omu c).load = some { l with image := l.image ++ bs }) ∧
    (imageSize ≤ l.image.length + bs.length → imageOk (l.image ++ bs) l.captured l.wfmt.toNat l.by_.nsm = true →
      ∃ (s' : State) (r : BankLoad), exec (.imageBlockRead c) s = .next s' ∧ (s'.omu c).load = some r ∧ r.phase = 3 ∧ r.status = 0 ∧ r.fcode = 0 ∧
        ((s'.omu c).bank l.bank).binding = some { cell := l.by_.cell, tile := l.tile, wfmt := l.wfmt, nsm := l.by_.nsm } ∧
        ((s'.omu c).bank l.bank).image = l.image ++ bs ∧ ((s'.omu c).bank l.bank).tile = l.captured)) ∧
  (l.phase = 2 → l.handle = 0 → ∃ (s' : State) (r : BankLoad), exec (.decompositionComplete c) s = .next s' ∧ s'.mem = s.mem ∧
    (s'.omu c).load = some r ∧
    r.phase = 3 ∧ r.status = 0 ∧ r.fcode = 0 ∧
    ((s'.omu c).bank l.bank).binding = some { cell := l.by_.cell, tile := l.tile, wfmt := l.wfmt, nsm := l.by_.nsm } ∧
    ((s'.omu c).bank l.bank).tile = l.captured) ∧
  (∀ t, l.phase = 3 → l.fcode = 0 → s.thread? l.by_.thread = some t → ∃ s' : State, exec (.loadCompletion c) s = .next s' ∧
    (s'.omu c).load = none ∧ (∀ x ∈ (s'.cluster c).locks, x.owner ≠ l.key ∧ x.owner ≠ l.key + 1) ∧
    s'.thread? l.by_.thread = some { t with outDec := t.outDec - 1, decdone := t.decdone ++ [BitVec.ofNat 64
      (l.by_.opr.ticket.toNat * 2 ^ 32 + l.status % 8 * 2 ^ 29 + (if l.bank then 2 ^ 28 else 0) + l.gexpOut (s.omu c))] })

namespace Sys2Proof.Claims

/-- The PASSDONE entry of a pass that a failed scout or audit ends with a status (R311, R327, R328): FIRST is the first vector not written. One
that a check of R295 refused, and that only waits for earlier passes (log 58), ends as the check says. -/
def endedEntry (o : Omu) (status : Nat) (p : Pass) : Word :=
  let x : Nat × Nat × Nat := if o.refused p then (p.status, p.rsn, p.fcode) else (status, 0, 0)
  BitVec.ofNat 64 (fld p.record 0 16 * 2 ^ 48 + p.written % 2 ^ 16 * 2 ^ 32 + x.1 % 8 * 2 ^ 29 + x.2.1 % 4 * 2 ^ 27 + x.2.2 % 32 * 2 ^ 22 +
    p.by_.opr.ticket.toNat % 2 ^ 22)

/-- The entry with DRIFT and FIRST 0 of a queued pass that has not started. -/
def flushedEntry (e : PostEntry) : Option Word := match e.post with
  | .pass r => some (BitVec.ofNat 64 (fld r 0 16 * 2 ^ 48 + 3 * 2 ^ 29 + e.by_.opr.ticket.toNat % 2 ^ 22))
  | _ => none

/-- The issuers of the passes that stream and of those that are queued live. -/
def issuersLive (s : State) (o : Omu) : Prop :=
  (∀ p ∈ o.passes, (s.thread? p.by_.thread).isSome = true) ∧ ∀ e ∈ o.queue, (s.thread? e.by_.thread).isSome = true

/-- What a failure with a status leaves in a thread's PASSDONE: entries of its passes in the order of the stream, then of its queued ones. -/
def Flushed (s s' : State) (o : Omu) (status : Nat) : Prop := issuersLive s o → ∀ k t, s.thread? k = some t → ∃ t' : Thread, s'.thread? k = some t' ∧
  t'.passdone = t.passdone ++ (o.passes.filter fun p => p.by_.thread == k).map (endedEntry o status) ++
    (o.queue.filter fun e => e.by_.thread == k).filterMap flushedEntry

/-- n / d to the nearest integer, ties to even. -/
def nearestEven (n d : Nat) : Nat := if d < 2 * (n % d) ∨ d = 2 * (n % d) ∧ n / d % 2 = 1 then n / d + 1 else n / d

/-- round_E (R216): the output and its SAT bit of an exact product under an output scale X, F and a width E. -/
def outOf (oscale e : Nat) (y : FVal) : Int × Bool := match y with
  | .fin neg p q x =>
    let sh : Int := x + 135 - ((oscale / 2 ^ 16 % 256 : Nat) : Int) + e - 1
    let m := nearestEven (p * 2 ^ sh.toNat) (q * (256 + oscale / 2 ^ 8 % 256) * 2 ^ (-sh).toNat)
    let lim := 2 ^ (e - 1) - 1
    let o : Nat := if lim < m then lim else m
    (if neg then -(o : Int) else (o : Int), decide (lim < m))
  | _ => (0, false)

/-- Row i of the matrix of a pass (R287, R303): of the tile, or its column i in reverse. -/
def matrixRow (b : Bank) (nsm dir : Bool) (wfmt i : Nat) : List FVal :=
  if dir then (List.range 128).map fun j => (tileRow wfmt nsm b.tile j).getD i FVal.zero else tileRow wfmt nsm b.tile i

/-- The exact product of a matrix row and a latched vector (R303). -/
def productOf (row : List FVal) (x : Pif) : FVal :=
  (mulExact ((row.zip x.lanes).foldl (fun a p => (addExact .rne a (mulExact p.1 (FVal.ofInt p.2)).1).1) FVal.zero)
    (.fin false 1 1 ((x.x : Int) - 127))).1

/-- The 320 output bytes of a vector (R217, R303): four blocks of 32 outputs of 16 bits, each with its scale record, E, SAT bits and zeros. -/
def IsOutput (out : List Byte) (oscale e : Nat) (y : Nat → FVal) : Prop :=
  out.length = 320 ∧ ∀ b < 4,
    (∀ i < 32, (numAt out (80 * b + 2 * i) 2 : Int) = (outOf oscale e (y (32 * b + i))).1 % 65536) ∧
    numAt out (80 * b + 64) 3 = oscale % 2 ^ 24 ∧ numAt out (80 * b + 67) 1 = e ∧
    (∀ i < 32, (numAt out (80 * b + 68) 4).testBit i = (outOf oscale e (y (32 * b + i))).2) ∧ numAt out (80 * b + 72) 8 = 0

end Sys2Proof.Claims

/-- R216, R217, R295, R296, R303, R307, R309 to R311, R328, R330 and R342: what the head of a post queue and the stream of an OMU do, while the
cluster is not being quiesced. A swap marker exchanges the banks; a pass that a check of R295 refuses completes without streaming, after the
earlier passes of its thread, and another joins the stream, with the outputs of its vectors; a probe streams and leaves its entry, and after it
the entries that wait behind it. A verdict is noted: one that passes writes the outputs that streamed before its scout to OUTADDR, and one that
fails ends the passes of the stream and the queued ones with DRIFT, as a failed audit does with AUDIT. A pass that stops streams a closing
scout. That rows are read as a pass starts is the model's choice (log 57), and so are the passes that wait with a refusal (log 58) and the
order of scouts and items (log 70). -/
def Obligations.StreamSteps : Prop := ∀ (s : State) (c : ClusterId), let o := s.omu c
  (∀ (e : PostEntry) (es : List PostEntry), o.queue = e :: es → e.post = .swap → s.still c = false → o.load = none → o.stream = [] → o.state ≠ 3 →
    exec (.bankSwap c) s = .next (s.setOmu c { o with queue := es, act := !o.act })) ∧
  (∀ (e : PostEntry) (es : List PostEntry) (r : BitVec 512), o.queue = e :: es → e.post = .pass r → s.still c = false → o.state ≠ 3 →
    o.tagWaits r = false →
    (∀ t st rsn fc va, startCheck o e.by_ r = some (st, rsn, fc, va) → fc = 0 → s.thread? e.by_.thread = some t →
      (∀ p ∈ o.passes, p.by_.thread ≠ e.by_.thread) →
      ∃ s' : State, exec (.passStart c) s = .next s' ∧ s'.mem = s.mem ∧ (s'.omu c).queue = es ∧ (s'.omu c).stream = o.stream ∧
        s'.thread? e.by_.thread = some { t with outPass := t.outPass - 1, passdone := t.passdone ++ [BitVec.ofNat 64
          (r.toNat % 2 ^ 16 * 2 ^ 48 + st % 8 * 2 ^ 29 + rsn % 4 * 2 ^ 27 + e.by_.opr.ticket.toNat % 2 ^ 22)] }) ∧
    (∀ st rsn fc va q b l, startCheck o e.by_ r = some (st, rsn, fc, va) → (∃ p ∈ o.passes, p.by_.thread = e.by_.thread) →
      o.stream = .scout q b :: l → ∃ s' : State, exec (.passStart c) s = .next s' ∧ s'.threads = s.threads ∧ (s'.omu c).queue = es ∧
        (s'.omu c).stream = o.stream ++ [.done e.key] ∧ (s'.omu c).passes = o.passes ++ [e.ended r st rsn fc va]) ∧
    (∀ q b l, startCheck o e.by_ r = none → o.stream = [] →
      passItems (s.setOmu c { o with queue := es }) (s.whoFor e.by_) (o.bank o.act) e.by_.nsm e.key r = .scout q b :: l →
      ∃ s' : State, exec (.passStart c) s = .next s' ∧ s'.mem = s.mem ∧ (s'.omu c).queue = es ∧ (s'.omu c).state = 1 ∧
        (s'.omu c).stream = .scout q b :: l ∧ (s'.omu c).passes = o.passes ++ [e.ended r 0 0 0 0]) ∧
    (∀ row, let s1 := s.setOmu c { o with queue := es }; let w := s.whoFor e.by_; let bank := o.bank o.act; let nsm := e.by_.nsm
      startCheck o e.by_ r = none → o.stream = [] → Rec.vcount r = 1 → Rec.live r = false → Rec.idxAddr r = 0 → Rec.sp24 r = false →
      Rec.ifmt r = 3 → (Rec.inAddr r).toNat % 2 ^ 22 + 256 ≤ 2 ^ 22 → engRead s1 w (Rec.inAddr r) 256 = .ok row → row.length = 256 →
      engCheck s1 w (Rec.outAddr r) 320 = none →
      let x := latchPif ((List.range 128).map fun j => decodeElem .bf16 nsm (numAt row (2 * j) 2))
      x.inv = false → ∃ (s' : State) (out : List Byte), exec (.passStart c) s = .next s' ∧
        (s'.omu c).stream = [.scout e.key false, .vec e.key 0 true x.x out, .scout e.key true] ∧
        IsOutput out (Rec.oscale r) (Rec.e r) fun i => productOf (matrixRow bank nsm (Rec.dir r) (Rec.wfmt r) i) x)) ∧
  (∀ (e : PostEntry) (es : List PostEntry) (dir : Bool) (err : Nat) (t : Thread), o.queue = e :: es → e.post = .probe dir none →
    s.still c = false → o.state ≠ 1 → o.state ≠ 3 → (o.bank o.act).binding ≠ none → s.thread? e.by_.thread = some t →
    (∀ b ∈ e.behind, b.1.thread = e.by_.thread) →
    ∃ s' : State, exec (.probeStart c err) s = .next s' ∧ s'.mem = s.mem ∧ (s'.omu c).queue = es ∧ (s'.omu c).lasterr = min err 0xFFFF ∧
      (s'.omu c).maxerr = max o.maxerr (min err 0xFFFF) ∧
      let entry (b : Issuer) (d : Bool) (n : Nat) : Word :=
        BitVec.ofNat 64 (b.opr.ticket.toNat * 2 ^ 32 + (if d then 2 ^ 28 else 0) + n)
      s'.thread? e.by_.thread = some { t with
        outPass := t.outPass - (1 + e.behind.length)
        probeout := t.probeout ++ entry e.by_ dir (min err 0xFFFF) :: e.behind.map fun b => entry b.1 b.2 0 }) ∧
  (∀ (err : Nat) (before rest : List StreamItem) (sc : Nat × Bool) (p : Pass), splitScout o.stream = some (before, sc, rest) →
    o.pass? sc.1 = some p → let b := o.bank o.act; let ls := liveOf o before
    let passes := if ls.isEmpty then leVal_ (errQuanta b p.record o.scoutX err) halfGuard
      else ls.all fun x => accepts b o.lastPass err x.1 x.2
    ∃ s' : State, exec (.scoutVerdict c err) s = .next s' ∧ (s'.omu c).lasterr = min err 0xFFFF ∧ (s'.omu c).sidx = (o.sidx + 1) % 64 ∧
      (passes = true → (s'.omu c).lastPass = err ∧ (s'.omu c).dcnt = o.dcnt) ∧
      (∀ (v u : Nat) (live : Bool) (out : List Byte) (t : Thread) (m : List Host.Cell), passes = true →
        o.stream = [.vec p.key v live u out, .scout p.key true] → p.cut = false → p.written = v → (p.status, p.rsn, p.fcode) = (0, 0, 0) →
        s.thread? p.by_.thread = some t →
        (∀ o', (engWrite (s.setOmu c o') (s.whoFor p.by_) (Rec.outAddr p.record + BitVec.ofNat 64 (320 * v)) out).map State.mem = .ok m) →
        s'.mem = m ∧ (s'.omu c).stream = [] ∧ ∃ t' : Thread, s'.thread? p.by_.thread = some t' ∧ t'.passdone = t.passdone ++ [BitVec.ofNat 64
          (fld p.record 0 16 * 2 ^ 48 + (v + 1) % 2 ^ 16 * 2 ^ 32 + p.by_.opr.ticket.toNat % 2 ^ 22)]) ∧
      (passes = false → (s'.omu c).stream = [] ∧ (s'.omu c).passes = [] ∧ (s'.omu c).state = 2 ∧ s'.mem = s.mem ∧
        (s'.omu c).dcnt = min 255 (o.dcnt + 1) ∧ Flushed s s' o 3)) ∧
  (o.stream ≠ [] → ∃ s' : State, exec (.resolverAudit c true) s = .next s' ∧ (s'.omu c).stream = [] ∧ (s'.omu c).passes = [] ∧
    (s'.omu c).state = 2 ∧ (s'.omu c).dcnt = min 255 (o.dcnt + 1) ∧ Flushed s s' o 4) ∧
  exec (.resolverAudit c false) s = .next s ∧
  (∀ (key st f : Nat) (va : Word) (l : List StreamItem), o.stream = .stop key st f va :: l → ∃ s' : State, exec (.passStop c) s = .next s' ∧
    (s'.omu c).stream.head? = some (.scout key true) ∧ s'.mem = s.mem ∧
    ∀ p ∈ (s'.omu c).passes, p.key = key → p.status = st ∧ p.fcode = f ∧ p.va = va)

/-- R315, R415, R476 and R477: an OMU that loses its carrier or its set point is unavailable, with its passes ended; a spare line gives it a
carrier again, and a calibration makes it available. A cartridge that fails or is released takes its sixteen lines; a new one brings
them back as spares. That cartridge n carries the lines from 16n is the model's choice (log 21). -/
def Obligations.CombEvents : Prop := ∀ (s : State) (c : ClusterId), let o := s.omu c
  (∃ s' : State, exec (.carrierLoss c) s = .next s' ∧ (s'.omu c).carrLost = true ∧ (s'.omu c).state = 3 ∧
    (o.state ≠ 3 → (s'.omu c).stream = [] ∧ (s'.omu c).passes = [] ∧ (s'.omu c).queue = o.queue)) ∧
  (∃ s' : State, exec (.thermalLoss c) s = .next s' ∧ (s'.omu c).hot = true ∧ (s'.omu c).state = 3 ∧
    (o.state ≠ 3 → (s'.omu c).stream = [] ∧ (s'.omu c).passes = [] ∧ (s'.omu c).queue = o.queue)) ∧
  (∀ n u, ((s.pkg c.pkg).lines.find? fun x => x.2 == .spare) = some (n, u) → o.carrLost = true →
    ∃ s' : State, exec (.spareLineAssignment c) s = .next s' ∧ (s'.omu c).carrLost = false ∧ (s'.omu c).carr = BitVec.ofNat 6 n ∧
      lookD .lost n (s'.pkg c.pkg).lines = .carrier c ∧ s'.mem = s.mem) ∧
  (∀ x, o.state = 3 → o.carrLost = false → ∃ s' : State, exec (.omuRecalibration c x) s = .next s' ∧ s'.omu c = { o with
    cb := if 12 < x.cb.toNat then 12 else x.cb, uspr := o.uspr || x.uspr, vspr := o.vspr || x.vspr
    cal := x.entries, scouts := x.scouts, state := 0, maxerr := 0, hot := false }) ∧
  (∀ pkg cart : Nat, cart < 4 → (s.pkg pkg).carts.toList.getD cart false = true →
    (∃ s' : State, exec (.pumpCartridgeLost pkg cart) s = .next s' ∧ (s'.pkg pkg).carts.toList.getD cart true = false ∧
      ∀ n, n / 16 = cart → lookD .spare n (s'.pkg pkg).lines = .lost) ∧
    (((s.pkg pkg).lines.map Prod.fst).Nodup →
      ∃ s' : State, exec (.cartridgeRelease pkg cart) s = .next s' ∧ (s'.pkg pkg).carts.toList.getD cart true = false ∧
      ∀ n, n / 16 = cart → lookD .spare n (s'.pkg pkg).lines = .lost)) ∧
  (∀ pkg cart : Nat, cart < 4 → (s.pkg pkg).carts.toList.getD cart false = false → ∃ s' : State, exec (.cartridgeInsertion pkg cart) s = .next s' ∧
    (s'.pkg pkg).carts.toList.getD cart false = true ∧
    ∀ n, n / 16 = cart → lookD .lost n (s.pkg pkg).lines = .lost → lookD .lost n (s'.pkg pkg).lines = .spare)

/-! ### Events: packets (chapter 16) -/

/-- R393, R396, R398, R400, R403, R405, R408, R412 and R414: what a packet does where it is. An answer is routed to its package, to the port of
its route, where its flits take the next counters and wait for their acknowledgement, or, without a way, back as an error; multicast data is
written and answered; a block without a registration is held and sent again after 1,024 dclk; a wanted block is written; a coded packet that
cannot be decoded asks for its block, which its origin sends again; a reduction is added at its home; the last answer of an operation
delivers its entry. That a packet moves whole, and an error reply reaches its requester in one step, is the model's choice (log 18). -/
def Obligations.PacketEvents : Prop := ∀ (s : State) (n : Nat) (p : Packet), s.packet? n = some p →
  let rest := s.packets.filter fun x => x.id != n
  (p.kind = .ack → p.delivered = false → p.mcast = false →
    (p.dst = p.at_ → s.hop p p.dst = .here → exec (.routerPacket n) s = .next { s with
      packets := rest ++ [{ p with id := s.nextKey, delivered := true }], nextKey := s.nextKey + 1 }) ∧
    (∀ q, s.hop p p.dst = .port q → let r := (s.pkg p.at_).port q; r.txc + p.flits < 2 ^ 48 →
      ∃ s' : State, exec (.routerPacket n) s = .next s' ∧ s'.mem = s.mem ∧ s'.packets = rest ∧
        ((s'.pkg p.at_).port q).txc = r.txc + p.flits ∧ ((s'.pkg p.at_).port q).unacked = r.unacked ++
          (List.range (p.flits - 1)).map (fun j => (r.txc + j, .part)) ++ [(r.txc + (p.flits - 1), .last p)]) ∧
    (s.hop p p.dst = .gone → exec (.routerPacket n) s = .next { s with
      packets := rest ++ [{ p with id := s.nextKey, kind := .error, at_ := p.dst, delivered := true, poison := true }]
      nextKey := s.nextKey + 1 })) ∧
  (∀ f key, p.kind = .multicast → p.delivered = true → (s.fops.find? fun f => f.key == p.op) = some f →
    s.mstPlace f p.at_ p.addr p.payload.length = .ok key → f.desc.getLsbD 157 = false →
    ∃ (s' : State) (a : Packet), exec (.multicastData n) s = .next s' ∧ s'.mem = (s.store key p.payload).mem ∧ s'.packets = rest ++ [a] ∧
      a.kind = .ack ∧
      a.op = p.op ∧ a.entry = p.entry ∧ a.src = p.at_ ∧ a.dst = f.by_.cell.pkg ∧ a.code = 0 ∧ a.poison = false) ∧
  (p.kind = .block → p.delivered = true → p.refused = none →
    (s.reg? p.at_ p.xid = none → s.opEnds p.con.op = false → ∃ (s' : State) (q : Packet), exec (.shuffleBlock n) s = .next s' ∧ s'.mem = s.mem ∧
      s'.packets = rest ++ [q] ∧ q.refused = some s.clock ∧ q.payload = p.payload ∧ q.at_ = p.con.origin) ∧
    (∀ r e s1, s.reg? p.at_ p.xid = some r → r.find true p.con.bid = some e → p.con.bid ∉ r.done → p.poison = false → r.narrow = false →
      p.payload.length = r.size →
      engWrite (s.dropPacket n) { (s.dropPacket n).whoFor r.by_ with vf := p.vf } (r.side + BitVec.ofNat 64 (entryOfs e)) p.payload =
        .ok s1 → ∃ s' : State, exec (.shuffleBlock n) s = .next s' ∧ s'.mem = s1.mem)) ∧
  (∀ m, p.refused = some m → m + 1024 ≤ s.clock → ∃ s' : State, exec (.shuffleResend n) s = .next s' ∧ s'.mem = s.mem ∧
    ∃ q : Packet, s'.packets = rest ++ [q] ∧ q = { p with id := q.id, refused := none, delivered := false, gen := (s'.pkg p.src).gen }) ∧
  (∀ r c, p.kind = .coded → p.delivered = true → s.reg? p.at_ p.xid = some r →
    (p.cons.find? fun c => (r.find true c.bid).isSome) = some c → c.bid ∉ r.done → s.decodeWith r p c = none →
    look? c.bid r.asked = none → (∀ x ∈ p.cons, x = c ∨ r.find false x.bid = none ∨ (s.readHeld r x.bid).isOk = true) →
    ∃ (s' : State) (q : Packet), exec (.codedShuffle n) s = .next s' ∧ s'.mem = s.mem ∧ s'.packets = rest ++ [q] ∧ q.kind = .fallback ∧
      q.src = p.at_ ∧
      q.dst = c.origin ∧ q.xid = p.xid ∧ q.cons.map Con.bid = [c.bid] ∧ q.at_ = p.at_ ∧ q.gen = (s.pkg p.at_).gen) ∧
  (∀ r bs, p.kind = .fallback → p.delivered = true → s.reg? p.at_ p.xid = some r →
    s.readHeld r p.con.bid = .ok bs →
    ∃ (s' : State) (q : Packet), exec (.fallbackRequest n) s = .next s' ∧ s'.mem = s.mem ∧ s'.packets = rest ++ [q] ∧ q.kind = .block ∧
      q.payload = bs ∧
      q.viaFallback = true ∧ q.at_ = p.at_ ∧ q.dests = if p.src < 512 then [p.src] else []) ∧
  (p.kind = .reduction → p.delivered = true → s.poisoned p.addr 32 = false →
    xsumMalformed (BitVec.ofNat 256 (s.num p.addr 32)) = false → ∃ s' : State, exec (.xsumReduction n) s = .next s' ∧
      s'.mem = (s.store p.addr (xsumJoin (s.bytes p.addr 32) p.payload)).mem) ∧
  (∀ f t, p.kind = .ack → p.delivered = true → p.cons = [] → (s.fops.find? fun f => f.key == p.op) = some f →
    f.waiting = [(p.entry, p.src)] → p.code = 0 → p.poison = false → p.refused = none → f.kind ≠ .shuf → f.bad = [] → f.errs = [] →
    f.poisoned = false → s.thread? f.by_.thread = some t → (s.pkg p.at_).topo = none → f.by_.cell.pkg = p.at_ →
    ∃ s' : State, exec (.acknowledgement n) s = .next s' ∧ s'.mem = s.mem ∧ s'.fops = s.fops.filter (fun x => x.key != f.key) ∧
      s'.thread? f.by_.thread = some { t with
        outCpy := t.outCpy - 1, cpydone := t.cpydone ++ [BitVec.ofNat 64 (f.by_.opr.ticket.toNat * 2 ^ 32 + f.count)] })

/-! ### Events: fabric ports (chapter 16) -/
namespace Sys2Proof.Claims

/-- A port of a package after a step. -/
def portAfter (s : State) (i : Instr) (pkg q : Nat) (f : PortRegs) : Prop :=
  ∃ s' : State, exec i s = .next s' ∧ (s'.pkg pkg).port q = f ∧ s'.mem = s.mem

/-- The TXC that a flit's SEQ stands for at its receiver (R414): from 2,047 below to 2,048 above the next one expected. -/
def ExpectsTxc (r : PortRegs) (flit : BitVec 128) (txc : Nat) : Prop :=
  txc % 4096 = flit.toNat / 2 ^ 116 % 4096 ∧ txc ≤ r.rxNext + 2048 ∧ r.rxNext ≤ txc + 2047

/-- What the ACK of a flit leaves unacknowledged (R412): the flits from the next one that the other end expects. -/
def freed (r : PortRegs) (flit : BitVec 128) : List (Nat × Flit) :=
  let ack := flit.toNat / 2 ^ 104 % 4096
  if r.unacked.any fun x => x.1 % 4096 == ack then r.unacked.dropWhile fun x => x.1 % 4096 != ack
  else if r.txc % 4096 = ack then [] else r.unacked

/-- A control flit sent to the other end of a port, which takes a counter and a place in the replay buffer; what it asks for is to happen there. -/
def SendsControl (s s' : State) (r y : PortRegs) (pkg q : Nat) (what : Nat → Nat → Instr) : Prop :=
  s'.mem = s.mem ∧ s'.packets = s.packets ∧
  (s.peerPort pkg q = none → s'.agenda = s.agenda ∧ y.unacked = r.unacked ∧ y.txc = r.txc) ∧
  (∀ a i, s.peerPort pkg q = some (a, i) → r.unacked.length < 1024 → r.txc + 1 < 2 ^ 48 →
    s'.agenda = s.agenda ++ [what a i] ∧ y.unacked = r.unacked ++ [(r.txc, .control)] ∧ y.txc = r.txc + 1)

end Sys2Proof.Claims

/-- R411 to R415, R417 and R420: flits, replay, line codes, keys, lanes and power of a port. A flit that does not decode, whose MODE is not the
receiver's, with a reserved bit of its trailer set or with a bad tag is discarded, the sixteenth tag failure in a row retrains the port, and a
good one frees what its ACK names; the flit that is the next one expected is taken, and the last one of a packet brings the packet. A timeout of
ACK replays what the other end has discarded. That requests of line codes are control flits whose effect is an event, that a discarded flit waits
for a replay, and what becomes of reserved bits, are the model's choice (log 19). -/
def Obligations.LinkEvents : Prop := ∀ (s : State) (pkg q : Nat), let r := (s.pkg pkg).port q
  let more := if r.errs = 0xFFFF then r.errs else r.errs + 1
  let sound (flit : BitVec 128) : Prop := flit.toNat % 2 ^ 101 = 0 ∧ (flit.getLsbD 103 = r.rxMode ∨ r.dual = true)
  (∀ flit decodes tag, r.state = 6 → r.tagFails < 16 → decodes = false ∨ ¬ sound flit → portAfter s (.flitReceive pkg q flit decodes tag) pkg q
    { r with errs := more, newMode := 0, lost := true }) ∧
  (∀ flit : BitVec 128, r.state = 6 → sound flit → r.tagFails < 15 → portAfter s (.flitReceive pkg q flit true false) pkg q
    { r with errs := more, newMode := 0, lost := true, tagFails := r.tagFails + 1 }) ∧
  (∀ flit : BitVec 128, r.state = 6 → sound flit → r.tagFails = 15 → ∃ (s' : State) (y : PortRegs),
    exec (.flitReceive pkg q flit true false) s = .next s' ∧
    (s'.pkg pkg).port q = y ∧ y.state = 1 ∧ y.move = some .retrain ∧ y.tagFails = 0) ∧
  (∀ (flit : BitVec 128) (txc : Nat), r.state = 6 → sound flit → ExpectsTxc r flit txc →
    ∃ (s' : State) (y : PortRegs), exec (.flitReceive pkg q flit true true) s = .next s' ∧ (s'.pkg pkg).port q = y ∧ s'.mem = s.mem ∧
      y.state = 6 ∧ y.tagFails = 0 ∧ y.unacked = freed r flit ∧ y.errs = (if flit.getLsbD 102 then more else r.errs) ∧
      (let n := if flit.getLsbD 103 = r.rxMode then r.newMode + 1 else 0
       y.dual = (r.dual && decide (n < 1024)) ∧ y.newMode = if r.dual then n % 1024 else r.newMode) ∧
      (txc ≠ r.rxNext → s'.packets = s.packets) ∧
      (∀ a i, txc = r.rxNext → s.peerPort pkg q = some (a, i) → (a, i) ≠ (pkg, q) →
        (∀ p, (((s.pkg a).port i).unacked.find? fun x => x.1 == txc) = some (txc, .last p) → y.rxNext = txc + 1 ∧ s'.packets = s.packets ++ [{ p with
          id := s.nextKey, at_ := pkg, hops := p.hops + 1, delivered := false
          cons := p.cons.map fun c => { c with hops := c.hops + 1 } }]) ∧
        ((((s.pkg a).port i).unacked.find? fun x => x.1 == txc) = some (txc, .part) → y.rxNext = txc + 1 ∧ s'.packets = s.packets) ∧
        ((((s.pkg a).port i).unacked.find? fun x => x.1 == txc) = none → s'.packets = s.packets))) ∧
  (r.unacked ≠ [] → r.ackAt + 4096 ≤ s.clock → s.peerPort pkg q ≠ some (pkg, q) → ∃ s' : State, exec (.replayTimeout pkg q) s = .next s' ∧
    (s'.pkg pkg).port q = { r with errs := more, ackAt := s.clock } ∧ s'.mem = s.mem ∧ s'.packets = s.packets ∧
    ∀ a i, s.peerPort pkg q = some (a, i) → (s'.pkg a).port i = { (s.pkg a).port i with lost := false }) ∧
  (∀ m, r.state = 6 → r.dual = false → ∃ (s' : State) (y : PortRegs), exec (.codeRequest pkg q m) s = .next s' ∧ (s'.pkg pkg).port q = y ∧
    y.dual = true ∧ y.rxMode = m ∧ y.newMode = 0 ∧ SendsControl s s' r y pkg q .codeAcknowledgement) ∧
  (∀ m, r.code = some m → (s.pkg pkg).topo = none →
    portAfter s (.codeAcknowledgement pkg q) pkg q { r with txm := m, code := none }) ∧
  (∀ m, r.code = some m → r.codeAt + 8192 ≤ s.clock → ∃ (s' : State) (y : PortRegs), exec (.codeRequestRetry pkg q) s = .next s' ∧
    (s'.pkg pkg).port q = y ∧
    y.code = some m ∧ y.codeAt = s.clock ∧ SendsControl s s' r y pkg q fun a i => .codeRequest a i m) ∧
  (r.state = 6 → r.unacked = [] → r.peer.toNat ≠ pkg → portAfter s (.keyUpdate pkg q) pkg q { r with txc := 0 } ∧
    ∀ a i, s.peerPort pkg q = some (a, i) → portAfter s (.keyUpdate pkg q) a i { (s.pkg a).port i with rxNext := 0 }) ∧
  (∀ lost, r.lanes &&& lost ≠ 0 → 4 ≤ laneBits (r.lanes &&& ~~~lost) → r.unacked = [] →
    portAfter s (.laneLoss pkg q lost) pkg q { r with lanes := r.lanes &&& ~~~lost }) ∧
  (∀ lost, r.state = 6 → r.lanes &&& lost ≠ 0 → laneBits (r.lanes &&& ~~~lost) < 4 → ∃ (s' : State) (y : PortRegs),
    exec (.laneLoss pkg q lost) s = .next s' ∧
    (s'.pkg pkg).port q = y ∧ y.state = 0 ∧ y.unacked = [] ∧ y.lanes = r.lanes &&& ~~~lost) ∧
  (∀ lanes : BitVec 16, r.state = 6 → (∀ w < 16, lanes.getLsbD w = true → (s.pkg pkg).hasWave w = true) →
    portAfter s (.spareLineRejoin pkg q lanes) pkg q { r with lanes := r.lanes ||| lanes }) ∧
  (r.state = 6 → r.iw ≠ 0 → r.unacked = [] → r.idle + 2 ^ r.iw ≤ s.clock →
    portAfter s (.powerDown pkg q) pkg q { r with state := 7, since := s.clock }) ∧
  (r.state = 7 → ∃ (s' : State) (y : PortRegs), exec (.portWake pkg q) s = .next s' ∧ (s'.pkg pkg).port q = y ∧ y.state = 6 ∧ y.idle = s.clock) ∧
  (exec (.keyCacheExpiry pkg) s = .next (s.setPkg pkg { s.pkg pkg with
    keys := (s.pkg pkg).keys.filter fun e => decide (s.cyc pkg 0 < e.made + 2 ^ 40) }))

/-- R413 and R418 to R421: the states of a port between DRAIN and OPEN, and the topology commands that move them or set its route bank and
idle time. That both directions agree on LITE in TRAIN is the model's choice (log 19). -/
def Obligations.PortSequence : Prop := ∀ (s : State) (pkg q : Nat), let r := (s.pkg pkg).port q
  (r.state = 1 → r.unacked = [] → r.move = some .retrain → (s.pkg pkg).gDue = 0 → (s.pkg pkg).topo = none →
    ((s.pkg pkg).mayAdvance = true → portAfter s (.portDrainComplete pkg q) pkg q { r with state := 4, since := s.clock }) ∧
    ((s.pkg pkg).mayAdvance = false → portAfter s (.portDrainComplete pkg q) pkg q { r with state := 2, since := s.clock })) ∧
  (∀ c, (s.pkg pkg).topo = some c → r.state = 3 → q ∈ c.ports →
    portAfter s (.portSwitchComplete pkg q) pkg q { r with state := 4, since := s.clock, coupler := some (c.coupler q) }) ∧
  (∀ lanes, r.state = 4 → 4 ≤ laneBits lanes →
    portAfter s (.portTrainComplete pkg q lanes) pkg q { r with
      state := 5, since := s.clock, lanes := lanes, txm := false, rxMode := false, dual := false }) ∧
  (∀ lanes, r.state = 4 → laneBits lanes < 4 → ∃ s' : State, exec (.portTrainComplete pkg q lanes) s = .next s' ∧
    (s'.pkg pkg).port q = { r with state := 0, since := s.clock, lanes := lanes, move := none }) ∧
  (r.state = 4 → r.since + 2 ^ 24 ≤ s.clock → ∃ s' : State, exec (.trainTimeout pkg q) s = .next s' ∧
    (s'.pkg pkg).port q = { r with state := 0, since := s.clock, lanes := 0, move := none }) ∧
  (∀ peer leaf, r.state = 5 → peer < 512 → ∃ (s' : State) (y : PortRegs), exec (.portAuth pkg q true peer leaf) s = .next s' ∧
    (s'.pkg pkg).port q = y ∧
    y.state = 6 ∧ y.peer.toNat = peer ∧ y.pgen = (s.pkg pkg).gen ∧ y.txc = 0 ∧ y.unacked = [] ∧ y.move = none ∧ s'.mem = s.mem) ∧
  (∀ peer leaf, r.state = 5 → portAfter s (.portAuth pkg q false peer leaf) pkg q
    { r with state := 2, since := s.clock, move := none, afail := true }) ∧
  (∀ (c : Topo) (l : List Topo), (s.pkg pkg).topo = none → (s.pkg pkg).topoQ = c :: l →
    (c.cmd = 0 → ∃ s' : State, exec (.reconf pkg) s = .next s' ∧ (s'.pkg pkg).topoQ = l ∧
      ∀ p ∈ c.ports, ((s'.pkg pkg).port p).state = 1 ∧ ((s'.pkg pkg).port p).move = some .reconf) ∧
    (c.cmd = 4 → ∃ s' : State, exec (.close pkg) s = .next s' ∧ (s'.pkg pkg).topoQ = l ∧
      ∀ p ∈ c.ports, ((s'.pkg pkg).port p).state = 1 ∧ ((s'.pkg pkg).port p).move = some .close) ∧
    (c.cmd = 1 → ∃ s' : State, exec (.loadrt pkg) s = .next s' ∧ (s'.pkg pkg).topoQ = l ∧ (s'.pkg pkg).topo = none ∧ s'.mem = s.mem ∧
      (if c.desc.getLsbD 8 then (s'.pkg pkg).routes1 = bankOf c.image ∧ (s'.pkg pkg).routes0 = (s.pkg pkg).routes0
        else (s'.pkg pkg).routes0 = bankOf c.image ∧ (s'.pkg pkg).routes1 = (s.pkg pkg).routes1)) ∧
    (c.cmd = 2 → ∃ s' : State, exec (.code pkg) s = .next s' ∧ (s'.pkg pkg).topoQ = l ∧
      ∀ p ∈ c.ports, ((s.pkg pkg).port p).state = 6 → ((s'.pkg pkg).port p).code = some (c.param % 2 == 1)) ∧
    (c.cmd = 3 → ∃ s' : State, exec (.power pkg) s = .next s' ∧ (s'.pkg pkg).topoQ = l ∧ (s'.pkg pkg).topo = none ∧ s'.mem = s.mem ∧
      ∀ p ∈ c.ports, ((s'.pkg pkg).port p).iw = c.param))

/-! ### Events: the package (chapters 02, 03, 18) -/

/-- R39 to R43, R64, R65, R392: start-up, measurements, management, throttling and the two resets of a package. What a package reset and a loss of
power keep and clear is the model's choice (log 22), and so is the slot that a firmware update takes where no image has booted (log 92). -/
def Obligations.PackageEvents : Prop := ∀ (s : State) (k : Nat), let p := s.pkg k
  (∀ w x s1, p.boot = 0 → p.flash.select = .ok x → s.stages k x w = .ok s1 →
    exec (.powerOnBoot k w) s = .next s1 ∧ (s1.pkg k).boot = 0x00FF) ∧
  (∀ w n, p.boot = 0 → p.flash.select = .error n → ∃ s' : State, exec (.powerOnBoot k w) s = .next s' ∧ (s'.pkg k).boot.toNat % 256 = n ∧
    s'.mem = s.mem ∧ ∀ x ∈ s'.threads, x.2.pcell.pkg ≠ k) ∧
  (∀ i, p.boot = 0x00FF → (if p.flash.fromB then p.flash.slotB else p.flash.slotA) = some i →
    exec (.antiRollbackAdvance k) s = .next (s.setPkg k { p with flash := { p.flash with rollback := max p.flash.rollback i.svn } })) ∧
  (∀ (n : BitVec 4) (digest : List Byte), p.boot = 0x00FF → 3 ≤ n.toNat → ∃ s' : State, exec (.measurementExtend k n digest) s = .next s' ∧
    ∀ m < 16, (s'.pkg k).meas.toList.getD m 0 = if m = n.toNat
      then BitVec.ofNat 512 (leVal (shake256 (measBytes (p.meas.toList.getD m 0) ++ digest) 64)) else p.meas.toList.getD m 0) ∧
  (∀ (n : BitVec 4) (digest : List Byte), n.toNat < 3 → exec (.measurementExtend k n digest) s = .next s) ∧
  (∀ nonce, ∃ (s' : State) (a : List Byte), exec (.getMeasurements k nonce) s = .next s' ∧
    s'.pkg k = { p with flash := { p.flash with leaf := p.flash.leaf + 1 }, answers := p.answers ++ [a] }) ∧
  (∀ readings, ∃ a, exec (.pldmMonitoring k readings) s = .next (s.setPkg k { p with answers := p.answers ++ [a] })) ∧
  (∀ i, exec (.pldmFirmwareUpdate k i) s = .next (s.setPkg k { p with
    flash := if p.flash.fromB then { p.flash with slotA := some i } else { p.flash with slotB := some i } })) ∧
  (∀ w, 800 ≤ w → w ≤ 2000 → exec (.powerCapSet k w) s = .next (s.setPkg k { p with cap := w })) ∧
  (∀ w, w < 800 ∨ 2000 < w → exec (.powerCapSet k w) s = .next s) ∧
  (∀ d on, exec (.thermalThrottle k d on) s = .next (s.setDie k d { s.die k d with throttled := on })) ∧
  (∀ d, ∃ s' : State, exec (.thermalShutdown k d) s = .next s' ∧ (s'.die k d).shut = true ∧ s'.mem = s.mem ∧
    ∀ c : ClusterId, c.pkg = k → c.die = d → (s'.omu c).queue = [] ∧ (s'.omu c).stream = []) ∧
  (∃ s' : State, exec (.packageReset k) s = .next s' ∧ (s'.pkg k).boot = 0 ∧ (s'.pkg k).flash = p.flash ∧
    (∀ x ∈ s'.threads, x.2.pcell.pkg ≠ k) ∧ ∀ x ∈ s'.launches, x.2.pkg ≠ k) ∧
  (∃ s' : State, exec (.powerLoss k) s = .next s' ∧ (s'.pkg k).boot = 0 ∧ (s'.pkg k).flash = p.flash ∧
    (∀ x ∈ s'.threads, x.2.pcell.pkg ≠ k) ∧ ∀ x ∈ s'.mem, volatileAt k x.1 = false)

/-! ### Encoding, steps, reset -/
namespace Sys2Proof.Claims

/-- A base word with an extension word, or a literal, decodes to an instruction. -/
def Reads (base : BitVec 32) (p1 : Word) (i : Instr) : Prop := decode (Words.ofBits base p1 0) = .ok i

end Sys2Proof.Claims

/-- R96 to R107 and R119: every instruction that the encoding admits is what its own words decode to, with every operand at every value. -/
def Obligations.DecodeEncode : Prop := ∀ i : Instr, i.wf = true → isEvent i = false → decode (encode i) = .ok i

/-- Words printed in the spec's examples decode to the instructions they stand for (R105, R157, R158, R172, R223, R242, R265, R316, R353,
R406, R409, R447, R449), and the refused words of R103, R104 and R119 are refused. -/
def Obligations.SpecWords : Prop :=
  Reads 0x01354304 0 (.div ⟨3, 4, .reg 5, 0⟩) ∧ Reads 0x01231518 0 (.lil 5 0x0123) ∧
  Reads 0x00000519 0x0123456789ABCDEF (.liImm64 5 0x0123456789ABCDEF) ∧ Reads 0xFFFD2120 0 (.beq ⟨1, 2, 0xFFFD⟩) ∧
  Reads 0x00000080 0 .fence ∧ Reads 0x00998472 0x260A (.acas ⟨4, 8, .reg 9, 10, ⟨false, .rel, .cl⟩, 0⟩) ∧
  Reads 0x00076986 8 (.cpy ⟨9, 6, 7, 8, none⟩) ∧ Reads 0x010300C0 0 (.qbind 0 .decdone) ∧ Reads 0x013008C0 0 (.qpop 8 0) ∧
  Reads 0x00001091 0x0000000140000201 (.vld { vd := 2, ty := .f32, a := 1 }) ∧ Reads 0x001879A0 0 (.pdec 9 7 8) ∧
  Reads 0x001D08B0 0 (.gschur 8 13) ∧ Reads 0x003210D2 0x300 (.barScoped 1 2 .part) ∧ Reads 0x002018D0 0 (.shuf 8 1) ∧
  Reads 0x000C04E4 0 (.crr 4 .trec) ∧ Reads 0x000500E0 0 (.trap 5) ∧ Reads 0x002000E0 0 .urte ∧
  (decode (Words.ofBits 0x10000004 0 0)).toOption = none ∧ (decode (Words.ofBits 0x010010E4 0 0)).toOption = none ∧
  (decode (Words.ofBits 0x00000001 0 0)).toOption = none

/-- R118, R119, R121, R140, R151 and R169: a step whose turn falls to a thread with nothing to take before its instruction fetches the parts of
the instruction at its pc, and is the decoded instruction of that thread; one that its gang's leader has delivered is not fetched again, and a
leader delivers what it has decoded to every member. A step that an event's turn falls to is that event. The dclk of a check of a handle is noted
first, so that a free of the same dclk can come before it (R38, log 1). -/
def Obligations.StepRunsDecoded : Prop := ∀ (s s0 : State),
  (∀ (k : Nat) (t : Thread), s.passTime.choose = (.thread k, s0) → s0.thread? k = some t → s0.before t = none → t.vErr = none →
    t.homeErr = none → t.retry ≠ some true →
    let u := { t with retry := none }
    let s1 := if t.retry = none then s0 else s0.setThread k u
    (∀ i, t.todo = some i → step s = exec i { s1.noting i with cur := some k }) ∧
    (∀ (b4 rest : List Byte) (s2 s3 : State) (i : Instr), t.todo = none → fetchBytes s1 u t.ctx.pc 4 = .ok (b4, s2) →
      let base := BitVec.ofNat 32 (leNat b4)
      fetchBytes s2 u (t.ctx.pc + 4) (lengthOf base - 4) = .ok (rest, s3) →
      decode (Words.ofBits base (BitVec.ofNat 64 (leNat (rest.take 8))) (BitVec.ofNat 64 (leNat ((rest.drop 8).take 8)))) = .ok i →
      ((∀ ms, t.gang ≠ .leader ms) → step s = exec i { s3.noting i with cur := some k }) ∧
      (∀ ms, t.gang = .leader ms → ∃ s4 : State, step s = exec i { s4.noting i with cur := some k } ∧ s4.mem = s3.mem ∧
        ∀ m ∈ ms, ∀ v, s3.thread? m = some v → ∃ v' : Thread, s4.thread? m = some v' ∧ v'.todo = some i ∧ v'.ctx.pc = t.ctx.pc))) ∧
  (∀ i, s.passTime.choose = (.event i, s0) → step s = exec i { s0.noting i with cur := none })

/-- After reset no thread lives, no launch is live and nothing is in flight; every queue is disabled with an empty FIFO, no package has
booted, its measurement registers are 0 (R42), its fabric generation is 1 (R416) and IW of each port is 16 (R417). The rest of the values are the
model's (log 4). -/
def Obligations.ResetValues : Prop :=
  State.reset.threads = [] ∧ State.reset.launches = [] ∧ State.reset.packets = [] ∧ State.reset.parked = [] ∧
  ∀ k, (State.reset.pkg k).boot = 0 ∧ (∀ q, ((State.reset.pkg k).queue q).en = false ∧ ((State.reset.pkg k).queue q).fifo = []) ∧
    (∀ m < 16, (State.reset.pkg k).meas.toList.getD m 1 = 0) ∧ (State.reset.pkg k).gen = 1 ∧ ∀ q, ((State.reset.pkg k).port q).iw = 16

/-- Memory after reset is in canonical form (log 3). -/
def Obligations.ResetMemory : Prop := Memory.wf State.reset.mem = true

/-- Every step keeps the canonical form of memory: strictly rising keys, and no listed byte that is zero. -/
def Obligations.StepKeepsMemory : Prop := ∀ (s s' : State), Memory.wf s.mem = true → step s = .next s' → Memory.wf s'.mem = true

/-- Every step from every state answers a next state, unless an instruction finds no thread: no step is refused. -/
def Obligations.NoStepRefused : Prop := ∀ (s : State) (r : Refusal), step s ≠ .refused r

/-! ### Statements of several parts -/

/-- R156 and R157: the results of OP 0x01, division among them. -/
def Obligations.IntegerResult : Prop := integerRegisterResult ∧ divisionResult

/-- R226 to R228: stores and relaxed stores. -/
def Obligations.StoreResults : Prop := storeResult ∧ relaxedStoreQueues

/-- R237 to R241: the atomics and axadd. -/
def Obligations.AtomicResults : Prop := atomicResult ∧ axaddResult

/-- R50, R176 to R178, R183 and R184: the scratch addresses, the fault of an access that the checks refuse, and accesses to alias windows and to
control space (log 68). -/
def Obligations.AccessChecks : Prop := scratchAddress ∧ refusedAccessTraps ∧ windowAccess

/-- R230, R233 and R236: full/empty instructions that go on and that wait. -/
def Obligations.FullEmpty : Prop := fullEmptyResult ∧ fullEmptyWaits

/-- R223, R225 and R452: fence and tfence. -/
def Obligations.FenceResults : Prop := fenceResult ∧ translationFenceResult

/-- R171, R172 and R250: bindings, shared queues and completion queues (log 61). -/
def Obligations.QueueResults : Prop := queueBinding ∧ sharedQueueResult ∧ completionPop

/-- R168 and R170: gang and ungang. -/
def Obligations.GangResults : Prop := gangForms ∧ gangDisbands

/-- R429 to R435: the records, the supervisor trap, the double trap and the upcall. -/
def Obligations.TrapEntries : Prop := trapRecordLayout ∧ supervisorEntry ∧ doubleTrap ∧ upcallEntry

/-- R448, R449 and R451: rte, urte and halt. urte restores PRIV with the rest of TSTAT (log 54). -/
def Obligations.ReturnResults : Prop := rteResult ∧ urteResult ∧ haltResult

/-- R450: ctxsv and ctxld (log 83). -/
def Obligations.ContextTransfer : Prop := contextSave ∧ contextLoad

/-- R452 to R454: tlbi, cap and scrub (logs 38 and 53). -/
def Obligations.CellMaintenance : Prop := tlbiResult ∧ capResult ∧ scrubResult

/-- R153 to R155, R173, R174, R180 to R183, R353 and R436: writes of the control registers. -/
def Obligations.ControlWrites : Prop := controlWrite ∧ cellRegisterWrite ∧ waysWrite

/-- R245, R250, R251 and R428: the blocks of a copy, and its promise. -/
def Obligations.CopyRuns : Prop := copyBlockResult ∧ promiseMissed

/-- R255, R256, R261 to R263, R271 to R280: how a vector command is queued, when it starts, and what it does to its lanes (log 95). -/
def Obligations.VectorCommands : Prop :=
  vectorQueued ∧ vectorLanes ∧ vectorStart ∧ floatLanes ∧ reduction ∧ blockEncoding ∧ exactSums

/-- R318 to R336: pswap, probe, pabort, pcal and pstat (logs 57 and 99). -/
def Obligations.OmuCommands : Prop := postCommands ∧ pabortResult ∧ omuRegisters

/-- R344 to R362: the packed index, the block instructions and the mailbox (log 55). -/
def Obligations.BlockPrograms : Prop := packedIndex ∧ blockSums ∧ blockMessages ∧ mailboxResult
end

