-- ==== Sys2Proof/Laws/Memory.lean ====
section
/-! SUPPORT. Laws of tables and of memory: reading after writing, the canonical form, and that every operation on memory keeps it. -/
namespace Sys2Proof.Machine
open Sys2Proof

/-! ### Tables -/

section Tables
variable {α β : Type} [DecidableEq α]

/-- A key just put is found. -/
@[simp] theorem look?_putAt_same (k : α) (v : β) (l : List (α × β)) : look? k (putAt k v l) = some v := by
  induction l with
  | nil => simp [putAt, look?]
  | cons x l ih => by_cases h : x.1 = k <;> simp [putAt, look?, h, ih]

/-- Other keys are as before. -/
theorem look?_putAt_other {k j : α} (h : j ≠ k) (v : β) (l : List (α × β)) : look? j (putAt k v l) = look? j l := by
  induction l with
  | nil => simp [putAt, look?, Ne.symm h]
  | cons x l ih =>
    by_cases hk : x.1 = k
    · simp [putAt, look?, hk, Ne.symm h]
    · by_cases hj : x.1 = j
      · simp [putAt, look?, hj, h]
      · simp [putAt, look?, hk, hj, ih]

/-- A key just put is found, in a table with a default. -/
@[simp] theorem lookD_putAt_same (d : β) (k : α) (v : β) (l : List (α × β)) : lookD d k (putAt k v l) = v := by
  induction l with
  | nil => simp [putAt, lookD]
  | cons x l ih => by_cases h : x.1 = k <;> simp [putAt, lookD, h, ih]

/-- Other keys are as before, in a table with a default. -/
theorem lookD_putAt_other (d : β) {k j : α} (h : j ≠ k) (v : β) (l : List (α × β)) :
    lookD d j (putAt k v l) = lookD d j l := by
  induction l with
  | nil => simp [putAt, lookD, Ne.symm h]
  | cons x l ih =>
    by_cases hk : x.1 = k
    · simp [putAt, lookD, hk, Ne.symm h]
    · by_cases hj : x.1 = j
      · simp [putAt, lookD, hj, h]
      · simp [putAt, lookD, hk, hj, ih]

/-- The later of two puts at one key stays. -/
@[simp] theorem putAt_putAt (k : α) (v w : β) (l : List (α × β)) : putAt k w (putAt k v l) = putAt k w l := by
  induction l with
  | nil => simp [putAt]
  | cons x l ih => by_cases h : x.1 = k <;> simp [putAt, h, ih]

/-- A dropped key is not found. -/
@[simp] theorem look?_dropAt_same (k : α) (l : List (α × β)) : look? k (dropAt k l) = none := by
  induction l with
  | nil => simp [dropAt, look?]
  | cons x l ih => by_cases h : x.1 = k <;> simp [dropAt, look?, h, ih]

/-- Other keys stay when a key is dropped. -/
theorem look?_dropAt_other {k j : α} (h : j ≠ k) (l : List (α × β)) : look? j (dropAt k l) = look? j l := by
  induction l with
  | nil => simp [dropAt]
  | cons x l ih =>
    by_cases hk : x.1 = k
    · simp [dropAt, look?, hk, Ne.symm h, ih]
    · by_cases hj : x.1 = j
      · simp [dropAt, look?, hj, h]
      · simp [dropAt, look?, hk, hj, ih]

end Tables

/-! ### The canonical form -/

/-- A lower bound may fall. -/
theorem cellsAbove_mono {m n : Nat} (h : m ≤ n) : ∀ {l : List Host.Cell}, cellsAbove n l = true → cellsAbove m l = true
  | [], _ => rfl
  | (a, v) :: l, h' => by
    simp only [cellsAbove, Bool.and_eq_true, decide_eq_true_eq] at h' ⊢
    exact ⟨⟨Nat.le_trans h h'.1.1, h'.1.2⟩, h'.2⟩

/-- Cells joined to cells that lie above them. -/
theorem cellsAbove_append {n m : Nat} : ∀ {a b : List Host.Cell}, cellsAbove n a = true → cellsAbove m b = true → n ≤ m →
    (∀ c ∈ a, c.1 < m) → cellsAbove n (a ++ b) = true
  | [], _, _, hb, h, _ => cellsAbove_mono h hb
  | (x, v) :: a, b, ha, hb, _, hm => by
    simp only [cellsAbove, List.cons_append, Bool.and_eq_true, decide_eq_true_eq] at ha ⊢
    have hx := hm (x, v) (by simp)
    exact ⟨ha.1, cellsAbove_append ha.2 hb hx fun c hc => hm c (by simp [hc])⟩

/-- Cells below a key are in form. -/
theorem cellsAbove_takeWhile (k : Nat) : ∀ {n : Nat} {l : List Host.Cell}, cellsAbove n l = true →
    cellsAbove n (l.takeWhile fun c => decide (c.1 < k)) = true
  | _, [], _ => rfl
  | n, (x, v) :: l, h => by
    simp only [cellsAbove, Bool.and_eq_true, decide_eq_true_eq] at h
    by_cases hx : x < k
    · simp only [List.takeWhile_cons, hx, decide_true, ↓reduceIte, cellsAbove, Bool.and_eq_true, decide_eq_true_eq]
      exact ⟨h.1, cellsAbove_takeWhile k h.2⟩
    · simp [hx, cellsAbove]

/-- Cells from a key upwards are in form, and start there. -/
theorem cellsAbove_dropWhile (k : Nat) : ∀ {n : Nat} {l : List Host.Cell}, cellsAbove n l = true →
    cellsAbove k (l.dropWhile fun c => decide (c.1 < k)) = true
  | _, [], _ => rfl
  | n, (x, v) :: l, h => by
    simp only [cellsAbove, Bool.and_eq_true, decide_eq_true_eq] at h
    by_cases hx : x < k
    · simp only [List.dropWhile_cons, hx, decide_true, ↓reduceIte]
      exact cellsAbove_dropWhile k h.2
    · simp only [List.dropWhile_cons, hx, decide_false, Bool.false_eq_true, ↓reduceIte, cellsAbove, Bool.and_eq_true,
        decide_eq_true_eq]
      exact ⟨⟨Nat.le_of_not_lt hx, h.1.2⟩, h.2⟩

/-- The cells of written bytes are in form. -/
theorem cellsAbove_freshCells : ∀ (k : Nat) (bs : List Byte), cellsAbove k (freshCells k bs) = true
  | _, [] => rfl
  | k, b :: bs => by
    have ih := cellsAbove_freshCells (k + 1) bs
    by_cases hb : b = 0
    · simp only [freshCells, hb, ↓reduceIte]; exact cellsAbove_mono (Nat.le_succ k) ih
    · simp only [freshCells, hb, ↓reduceIte, cellsAbove, ih]; simpa using hb

/-- The cells of written bytes lie within their range. -/
theorem freshCells_lt : ∀ (k : Nat) (bs : List Byte), ∀ c ∈ freshCells k bs, c.1 < k + bs.length
  | _, [], c, h => by simp [freshCells] at h
  | k, b :: bs, c, h => by
    have ih := freshCells_lt (k + 1) bs c
    by_cases hb : b = 0
    · simp only [freshCells, hb, ↓reduceIte] at h
      have := ih h; simp only [List.length_cons]; omega
    · simp only [freshCells, hb, ↓reduceIte, List.mem_cons] at h
      simp only [List.length_cons]
      rcases h with h | h
      · subst h; simp only; omega
      · have := ih h; omega

/-- What takeWhile leaves meets its test. -/
theorem mem_takeWhile_lt {k : Nat} : ∀ {l : List Host.Cell}, ∀ c ∈ l.takeWhile (fun c => decide (c.1 < k)), c.1 < k
  | [], c, h => by simp at h
  | x :: l, c, h => by
    by_cases hx : x.1 < k
    · simp only [List.takeWhile_cons, hx, decide_true, ↓reduceIte, List.mem_cons] at h
      rcases h with h | h
      · exact h ▸ hx
      · exact mem_takeWhile_lt c h
    · simp [hx] at h

/-- Writing bytes keeps the canonical form. -/
theorem Memory.wf_writeBytes {l : List Host.Cell} (h : Memory.wf l = true) (k : Nat) (bs : List Byte) :
    Memory.wf (writeBytes l k bs) = true := by
  unfold Memory.wf writeBytes
  have h1 := cellsAbove_takeWhile k h
  have h2 : cellsAbove 0 ((l.takeWhile fun c => decide (c.1 < k)) ++ freshCells k bs) = true :=
    cellsAbove_append h1 (cellsAbove_freshCells k bs) (Nat.zero_le k) mem_takeWhile_lt
  refine cellsAbove_append h2 (cellsAbove_dropWhile (k + bs.length) h) (Nat.zero_le _) ?_
  intro c hc
  rcases List.mem_append.mp hc with hc | hc
  · have := mem_takeWhile_lt c hc; omega
  · exact freshCells_lt k bs c hc

/-- Taking cells out keeps the canonical form. -/
theorem cellsAbove_filter (p : Host.Cell → Bool) : ∀ {n : Nat} {l : List Host.Cell}, cellsAbove n l = true →
    cellsAbove n (l.filter p) = true
  | _, [], _ => rfl
  | n, (x, v) :: l, h => by
    simp only [cellsAbove, Bool.and_eq_true, decide_eq_true_eq] at h
    have ih := cellsAbove_filter p h.2
    by_cases hp : p (x, v) = true
    · simp only [List.filter_cons, hp, ↓reduceIte, cellsAbove, Bool.and_eq_true, decide_eq_true_eq]
      exact ⟨h.1, ih⟩
    · simp only [List.filter_cons, hp, Bool.false_eq_true, ↓reduceIte]
      exact cellsAbove_mono (by have := h.1.1; omega) ih

/-- Taking cells out keeps the canonical form. -/
theorem Memory.wf_filter {l : List Host.Cell} (h : Memory.wf l = true) (p : Host.Cell → Bool) :
    Memory.wf (l.filter p) = true := cellsAbove_filter p h

/-- A store keeps the canonical form. -/
theorem State.store_wf {s : State} (h : Memory.wf s.mem = true) (k : Nat) (bs : List Byte) :
    Memory.wf (s.store k bs).mem = true := Memory.wf_writeBytes h k bs

/-- A line written back keeps the canonical form (R179). -/
theorem State.writeBack_wf {s : State} (h : Memory.wf s.mem = true) (l : Line) :
    Memory.wf (s.writeBack l).mem = true := Memory.wf_writeBytes h _ _

/-- A cleared range keeps the canonical form (R181). -/
theorem State.clearRange_wf {s : State} (h : Memory.wf s.mem = true) (key n : Nat) :
    Memory.wf (s.clearRange key n).mem = true := Memory.wf_filter h _

/-- Lines written back one after the other keep the canonical form. -/
theorem State.writeBacks_wf : ∀ (ls : List Line) {s : State}, Memory.wf s.mem = true →
    Memory.wf (ls.foldl State.writeBack s).mem = true
  | [], _, h => h
  | l :: ls, _, h => State.writeBacks_wf ls (State.writeBack_wf h l)

/-- Ranges cleared one after the other keep the canonical form. -/
theorem State.clearRanges_wf {α : Type} (f : α → Nat × Nat) : ∀ (xs : List α) {s : State}, Memory.wf s.mem = true →
    Memory.wf (xs.foldl (fun s x => s.clearRange (f x).1 (f x).2) s).mem = true
  | [], _, h => h
  | _ :: xs, _, h => State.clearRanges_wf f xs (State.clearRange_wf h _ _)

/-- Bytes written one after the other keep the canonical form. -/
theorem Memory.wf_writeAll : ∀ (xs : List Host.Cell) {l : List Host.Cell}, Memory.wf l = true →
    Memory.wf (xs.foldl (fun m x => writeBytes m x.1 [x.2]) l) = true
  | [], _, h => h
  | _ :: xs, _, h => Memory.wf_writeAll xs (Memory.wf_writeBytes h _ _)

/-- Memory moved from cells to cells keeps the canonical form (R72). -/
theorem State.moveMem_wf {s : State} (h : Memory.wf s.mem = true) (cells : List PCell) (ms : List Move) :
    Memory.wf (s.moveMem cells ms).mem = true :=
  Memory.wf_writeAll _ (State.clearRanges_wf (fun m => (m.src, m.len)) ms
    (State.clearRanges_wf (fun c => (keyOf (.scratch c) 0, 16 * wayBytes)) cells h))

/-- Reset memory has the canonical form. -/
theorem State.reset_wf : Memory.wf State.reset.mem = true := rfl

/-! ### Reading after writing -/

/-- A byte below all cells reads zero. -/
theorem readCell_below : ∀ {n : Nat} {l : List Host.Cell} {k : Nat}, cellsAbove n l = true → k < n → readCell l k = 0
  | _, [], _, _, _ => rfl
  | n, (x, v) :: l, k, h, hk => by
    simp only [cellsAbove, Bool.and_eq_true, decide_eq_true_eq] at h
    have hx : x ≠ k := by have := h.1.1; omega
    have hl : k < x := by have := h.1.1; omega
    simp [readCell, hx, hl]

/-- Reading below a key looks only at the cells below it. -/
theorem readCell_append_low {m k : Nat} : ∀ {n : Nat} {a b : List Host.Cell}, cellsAbove n a = true → cellsAbove m b = true → k < m →
    readCell (a ++ b) k = readCell a k
  | _, [], _, _, hb, hk => by simpa [readCell] using readCell_below hb hk
  | n, (x, v) :: a, b, ha, hb, hk => by
    simp only [cellsAbove, Bool.and_eq_true, decide_eq_true_eq] at ha
    have ih := readCell_append_low ha.2 hb hk
    by_cases hx : x = k
    · simp [readCell, hx]
    · by_cases hl : k < x <;> simp [readCell, hx, hl, ih]

/-- Reading from a key upwards skips the cells below it. -/
theorem readCell_append_high {k : Nat} : ∀ {a b : List Host.Cell}, (∀ c ∈ a, c.1 < k) → readCell (a ++ b) k = readCell b k
  | [], _, _ => rfl
  | (x, v) :: a, b, h => by
    have hx := h (x, v) (by simp)
    simp only at hx
    have h1 : x ≠ k := by omega
    have h2 : ¬ k < x := by omega
    simp only [List.cons_append, readCell, h1, h2, ↓reduceIte]
    exact readCell_append_high fun c hc => h c (by simp [hc])

/-- The cells below a key hold what the memory holds there. -/
theorem readCell_takeWhile {k j : Nat} (hj : j < k) : ∀ {n : Nat} {l : List Host.Cell}, cellsAbove n l = true →
    readCell (l.takeWhile fun c => decide (c.1 < k)) j = readCell l j
  | _, [], _ => rfl
  | n, (x, v) :: l, h => by
    simp only [cellsAbove, Bool.and_eq_true, decide_eq_true_eq] at h
    by_cases hx : x < k
    · simp only [List.takeWhile_cons, hx, decide_true, ↓reduceIte, readCell]
      rw [readCell_takeWhile hj h.2]
    · have h1 : x ≠ j := by omega
      have h2 : j < x := by omega
      simp [hx, readCell, h1, h2]

/-- The cells from a key upwards hold what the memory holds there. -/
theorem readCell_dropWhile {k j : Nat} (hj : k ≤ j) : ∀ {l : List Host.Cell},
    readCell (l.dropWhile fun c => decide (c.1 < k)) j = readCell l j
  | [] => rfl
  | (x, v) :: l => by
    by_cases hx : x < k
    · have h1 : x ≠ j := by omega
      have h2 : ¬ j < x := by omega
      simp only [List.dropWhile_cons, hx, decide_true, ↓reduceIte, readCell, h1, h2]
      exact readCell_dropWhile hj
    · simp [hx]

/-- The cells of written bytes read as those bytes. -/
theorem readCell_freshCells : ∀ (k : Nat) (bs : List Byte) (i : Nat), i < bs.length →
    readCell (freshCells k bs) (k + i) = bs.getD i 0
  | _, [], _, h => by simp at h
  | k, b :: bs, 0, _ => by
    by_cases hb : b = 0
    · simp only [freshCells, hb, ↓reduceIte, Nat.add_zero, List.getD_cons_zero]
      exact readCell_below (cellsAbove_freshCells (k + 1) bs) (Nat.lt_succ_self k)
    · simp only [freshCells, hb, ↓reduceIte, readCell, Nat.add_zero, List.getD_cons_zero]
  | k, b :: bs, i + 1, h => by
    have ih := readCell_freshCells (k + 1) bs i (by simpa using h)
    have e : k + (i + 1) = k + 1 + i := by omega
    have h1 : ¬ k = k + 1 + i := by omega
    have h2 : ¬ k + 1 + i < k := by omega
    rw [e]
    by_cases hb : b = 0
    · simp only [freshCells, hb, ↓reduceIte, List.getD_cons_succ]; exact ih
    · simp only [freshCells, hb, ↓reduceIte, readCell, h1, h2, List.getD_cons_succ]; exact ih

/-- A byte within a written range reads as written. -/
theorem readCell_writeBytes_in {l : List Host.Cell} (h : Memory.wf l = true) {k : Nat} {bs : List Byte} {i : Nat}
    (hi : i < bs.length) : readCell (writeBytes l k bs) (k + i) = bs.getD i 0 := by
  unfold writeBytes
  rw [List.append_assoc, readCell_append_high (fun c hc => by have := mem_takeWhile_lt c hc; omega),
    readCell_append_low (cellsAbove_freshCells k bs) (cellsAbove_dropWhile (k + bs.length) h) (by omega)]
  exact readCell_freshCells k bs i hi

/-- A byte outside a written range reads as before. -/
theorem readCell_writeBytes_out {l : List Host.Cell} (h : Memory.wf l = true) {k j : Nat} {bs : List Byte}
    (hj : j < k ∨ k + bs.length ≤ j) : readCell (writeBytes l k bs) j = readCell l j := by
  unfold writeBytes
  rcases hj with hj | hj
  · have hlow : cellsAbove k (freshCells k bs ++ l.dropWhile fun c => decide (c.1 < k + bs.length)) = true :=
      cellsAbove_append (cellsAbove_freshCells k bs) (cellsAbove_dropWhile (k + bs.length) h) (by omega)
        (freshCells_lt k bs)
    rw [List.append_assoc, readCell_append_low (cellsAbove_takeWhile k h) hlow hj]
    exact readCell_takeWhile hj h
  · rw [readCell_append_high (fun c hc => ?_)]
    · exact readCell_dropWhile hj
    · rcases List.mem_append.mp hc with hc | hc
      · have := mem_takeWhile_lt c hc; omega
      · have := freshCells_lt k bs c hc; omega

/-- A store changes no byte outside its range. -/
theorem State.byte_store_out {s : State} (h : Memory.wf s.mem = true) {k j : Nat} {bs : List Byte}
    (hj : j < k ∨ k + bs.length ≤ j) : (s.store k bs).byte j = s.byte j := readCell_writeBytes_out h hj

/-- A stored byte is read back. -/
theorem State.byte_store_in {s : State} (h : Memory.wf s.mem = true) {k i : Nat} {bs : List Byte} (hi : i < bs.length) :
    (s.store k bs).byte (k + i) = bs.getD i 0 := readCell_writeBytes_in h hi

/-- Bytes read from cells that start at or above a key are the bytes one by one. -/
theorem readFrom_eq : ∀ (n : Nat) {k : Nat} {l : List Host.Cell}, cellsAbove k l = true →
    readFrom l k n = (List.range' k n).map (readCell l)
  | 0, _, _, _ => by simp [readFrom]
  | n + 1, k, [], h => by
    have ih := readFrom_eq n (k := k + 1) (l := []) rfl
    simp only [readFrom, ih, List.range'_succ, List.map_cons, readCell]
  | n + 1, k, (x, v) :: l, h => by
    have h' := h
    simp only [cellsAbove, Bool.and_eq_true, decide_eq_true_eq] at h'
    have hs : ∀ j ∈ List.range' (k + 1) n, k + 1 ≤ j := fun j hj => by
      have := List.mem_range'_1.mp hj; omega
    by_cases hx : x = k
    · subst hx
      have ih := readFrom_eq n (k := x + 1) (l := l) h'.2
      simp only [readFrom, ↓reduceIte, ih, List.range'_succ, List.map_cons, readCell, List.cons.injEq, true_and]
      apply List.map_congr_left
      intro j hj
      have := hs j hj
      have h1 : ¬ x = j := by omega
      have h2 : ¬ j < x := by omega
      simp [h1, h2]
    · have hk : cellsAbove (k + 1) ((x, v) :: l) = true := by
        simp only [cellsAbove, Bool.and_eq_true, decide_eq_true_eq]
        exact ⟨⟨by have := h'.1.1; omega, h'.1.2⟩, h'.2⟩
      have hlt : k < x := by have := h'.1.1; omega
      simp only [readFrom, hx, ↓reduceIte, readFrom_eq n hk, List.range'_succ, List.map_cons, readCell, hlt]

/-- Bytes read are the bytes one by one. -/
theorem readBytes_eq {l : List Host.Cell} (h : Memory.wf l = true) (k n : Nat) :
    readBytes l k n = (List.range' k n).map (readCell l) := by
  unfold readBytes
  rw [readFrom_eq n (cellsAbove_dropWhile k h)]
  apply List.map_congr_left
  intro j hj
  exact readCell_dropWhile (List.mem_range'_1.mp hj).1

/-- Bytes just stored are read back. -/
theorem State.bytes_store {s : State} (h : Memory.wf s.mem = true) (k : Nat) (bs : List Byte) :
    (s.store k bs).bytes k bs.length = bs := by
  unfold State.bytes State.store
  rw [readBytes_eq (Memory.wf_writeBytes h k bs)]
  apply List.ext_getElem
  · simp
  · intro i h1 h2
    simp only [List.getElem_map, List.getElem_range', Nat.one_mul]
    rw [readCell_writeBytes_in h h2]
    simp [h2]

end Sys2Proof.Machine
end

