-- ==== Sys2Proof/Laws/State.lean ====
section
/-! SUPPORT. What each plain update of the state, of a context and of a thread's record leaves in each field: one lemma per field and
update, true by rfl, so that no later proof unfolds a record update. -/
namespace Sys2Proof.Machine
open Sys2Proof

/-! ### The state -/

@[simp] theorem State.store_mem (s : State) (k : Nat) (bs : List Byte) : (s.store k bs).mem = writeBytes s.mem k bs := rfl
@[simp] theorem State.store_fe (s : State) (k : Nat) (bs : List Byte) : (s.store k bs).fe = s.fe := rfl
@[simp] theorem State.store_poison (s : State) (k : Nat) (bs : List Byte) : (s.store k bs).poison = s.poison := rfl
@[simp] theorem State.store_threads (s : State) (k : Nat) (bs : List Byte) : (s.store k bs).threads = s.threads := rfl
@[simp] theorem State.store_saved (s : State) (k : Nat) (bs : List Byte) : (s.store k bs).saved = s.saved := rfl
@[simp] theorem State.store_cells (s : State) (k : Nat) (bs : List Byte) : (s.store k bs).cells = s.cells := rfl
@[simp] theorem State.store_vcells (s : State) (k : Nat) (bs : List Byte) : (s.store k bs).vcells = s.vcells := rfl
@[simp] theorem State.store_clusters (s : State) (k : Nat) (bs : List Byte) : (s.store k bs).clusters = s.clusters := rfl
@[simp] theorem State.store_omus (s : State) (k : Nat) (bs : List Byte) : (s.store k bs).omus = s.omus := rfl
@[simp] theorem State.store_dies (s : State) (k : Nat) (bs : List Byte) : (s.store k bs).dies = s.dies := rfl
@[simp] theorem State.store_pkgs (s : State) (k : Nat) (bs : List Byte) : (s.store k bs).pkgs = s.pkgs := rfl
@[simp] theorem State.store_launches (s : State) (k : Nat) (bs : List Byte) : (s.store k bs).launches = s.launches := rfl
@[simp] theorem State.store_parked (s : State) (k : Nat) (bs : List Byte) : (s.store k bs).parked = s.parked := rfl
@[simp] theorem State.store_packets (s : State) (k : Nat) (bs : List Byte) : (s.store k bs).packets = s.packets := rfl
@[simp] theorem State.store_fops (s : State) (k : Nat) (bs : List Byte) : (s.store k bs).fops = s.fops := rfl
@[simp] theorem State.store_steals (s : State) (k : Nat) (bs : List Byte) : (s.store k bs).steals = s.steals := rfl
@[simp] theorem State.store_wakes (s : State) (k : Nat) (bs : List Byte) : (s.store k bs).wakes = s.wakes := rfl
@[simp] theorem State.store_counts (s : State) (k : Nat) (bs : List Byte) : (s.store k bs).counts = s.counts := rfl
@[simp] theorem State.store_flrs (s : State) (k : Nat) (bs : List Byte) : (s.store k bs).flrs = s.flrs := rfl
@[simp] theorem State.store_quiesces (s : State) (k : Nat) (bs : List Byte) : (s.store k bs).quiesces = s.quiesces := rfl
@[simp] theorem State.store_agenda (s : State) (k : Nat) (bs : List Byte) : (s.store k bs).agenda = s.agenda := rfl
@[simp] theorem State.store_pick (s : State) (k : Nat) (bs : List Byte) : (s.store k bs).pick = s.pick := rfl
@[simp] theorem State.store_turn (s : State) (k : Nat) (bs : List Byte) : (s.store k bs).turn = s.turn := rfl
@[simp] theorem State.store_cur (s : State) (k : Nat) (bs : List Byte) : (s.store k bs).cur = s.cur := rfl
@[simp] theorem State.store_nextCell (s : State) (k : Nat) (bs : List Byte) : (s.store k bs).nextCell = s.nextCell := rfl
@[simp] theorem State.store_nextEvent (s : State) (k : Nat) (bs : List Byte) : (s.store k bs).nextEvent = s.nextEvent := rfl
@[simp] theorem State.store_clock (s : State) (k : Nat) (bs : List Byte) : (s.store k bs).clock = s.clock := rfl
@[simp] theorem State.store_gaps (s : State) (k : Nat) (bs : List Byte) : (s.store k bs).gaps = s.gaps := rfl
@[simp] theorem State.store_checked (s : State) (k : Nat) (bs : List Byte) : (s.store k bs).checked = s.checked := rfl
@[simp] theorem State.store_free (s : State) (k : Nat) (bs : List Byte) : (s.store k bs).free = s.free := rfl
@[simp] theorem State.store_stamp (s : State) (k : Nat) (bs : List Byte) : (s.store k bs).stamp = s.stamp := rfl
@[simp] theorem State.store_nextKey (s : State) (k : Nat) (bs : List Byte) : (s.store k bs).nextKey = s.nextKey := rfl

@[simp] theorem State.setFull_mem (s : State) (k : Nat) (v : Bool) : (s.setFull k v).mem = s.mem := rfl
@[simp] theorem State.setFull_poison (s : State) (k : Nat) (v : Bool) : (s.setFull k v).poison = s.poison := rfl
@[simp] theorem State.setFull_threads (s : State) (k : Nat) (v : Bool) : (s.setFull k v).threads = s.threads := rfl
@[simp] theorem State.setFull_saved (s : State) (k : Nat) (v : Bool) : (s.setFull k v).saved = s.saved := rfl
@[simp] theorem State.setFull_cells (s : State) (k : Nat) (v : Bool) : (s.setFull k v).cells = s.cells := rfl
@[simp] theorem State.setFull_vcells (s : State) (k : Nat) (v : Bool) : (s.setFull k v).vcells = s.vcells := rfl
@[simp] theorem State.setFull_clusters (s : State) (k : Nat) (v : Bool) : (s.setFull k v).clusters = s.clusters := rfl
@[simp] theorem State.setFull_omus (s : State) (k : Nat) (v : Bool) : (s.setFull k v).omus = s.omus := rfl
@[simp] theorem State.setFull_dies (s : State) (k : Nat) (v : Bool) : (s.setFull k v).dies = s.dies := rfl
@[simp] theorem State.setFull_pkgs (s : State) (k : Nat) (v : Bool) : (s.setFull k v).pkgs = s.pkgs := rfl
@[simp] theorem State.setFull_launches (s : State) (k : Nat) (v : Bool) : (s.setFull k v).launches = s.launches := rfl
@[simp] theorem State.setFull_parked (s : State) (k : Nat) (v : Bool) : (s.setFull k v).parked = s.parked := rfl
@[simp] theorem State.setFull_packets (s : State) (k : Nat) (v : Bool) : (s.setFull k v).packets = s.packets := rfl
@[simp] theorem State.setFull_fops (s : State) (k : Nat) (v : Bool) : (s.setFull k v).fops = s.fops := rfl
@[simp] theorem State.setFull_steals (s : State) (k : Nat) (v : Bool) : (s.setFull k v).steals = s.steals := rfl
@[simp] theorem State.setFull_wakes (s : State) (k : Nat) (v : Bool) : (s.setFull k v).wakes = s.wakes := rfl
@[simp] theorem State.setFull_counts (s : State) (k : Nat) (v : Bool) : (s.setFull k v).counts = s.counts := rfl
@[simp] theorem State.setFull_flrs (s : State) (k : Nat) (v : Bool) : (s.setFull k v).flrs = s.flrs := rfl
@[simp] theorem State.setFull_quiesces (s : State) (k : Nat) (v : Bool) : (s.setFull k v).quiesces = s.quiesces := rfl
@[simp] theorem State.setFull_agenda (s : State) (k : Nat) (v : Bool) : (s.setFull k v).agenda = s.agenda := rfl
@[simp] theorem State.setFull_pick (s : State) (k : Nat) (v : Bool) : (s.setFull k v).pick = s.pick := rfl
@[simp] theorem State.setFull_turn (s : State) (k : Nat) (v : Bool) : (s.setFull k v).turn = s.turn := rfl
@[simp] theorem State.setFull_cur (s : State) (k : Nat) (v : Bool) : (s.setFull k v).cur = s.cur := rfl
@[simp] theorem State.setFull_nextCell (s : State) (k : Nat) (v : Bool) : (s.setFull k v).nextCell = s.nextCell := rfl
@[simp] theorem State.setFull_nextEvent (s : State) (k : Nat) (v : Bool) : (s.setFull k v).nextEvent = s.nextEvent := rfl
@[simp] theorem State.setFull_clock (s : State) (k : Nat) (v : Bool) : (s.setFull k v).clock = s.clock := rfl
@[simp] theorem State.setFull_gaps (s : State) (k : Nat) (v : Bool) : (s.setFull k v).gaps = s.gaps := rfl
@[simp] theorem State.setFull_checked (s : State) (k : Nat) (v : Bool) : (s.setFull k v).checked = s.checked := rfl
@[simp] theorem State.setFull_free (s : State) (k : Nat) (v : Bool) : (s.setFull k v).free = s.free := rfl
@[simp] theorem State.setFull_stamp (s : State) (k : Nat) (v : Bool) : (s.setFull k v).stamp = s.stamp := rfl
@[simp] theorem State.setFull_nextKey (s : State) (k : Nat) (v : Bool) : (s.setFull k v).nextKey = s.nextKey := rfl

@[simp] theorem State.setCell_mem (s : State) (c : PCell) (x : Cell) : (s.setCell c x).mem = s.mem := rfl
@[simp] theorem State.setCell_fe (s : State) (c : PCell) (x : Cell) : (s.setCell c x).fe = s.fe := rfl
@[simp] theorem State.setCell_poison (s : State) (c : PCell) (x : Cell) : (s.setCell c x).poison = s.poison := rfl
@[simp] theorem State.setCell_threads (s : State) (c : PCell) (x : Cell) : (s.setCell c x).threads = s.threads := rfl
@[simp] theorem State.setCell_saved (s : State) (c : PCell) (x : Cell) : (s.setCell c x).saved = s.saved := rfl
@[simp] theorem State.setCell_cells (s : State) (c : PCell) (x : Cell) : (s.setCell c x).cells = putAt c x s.cells := rfl
@[simp] theorem State.setCell_vcells (s : State) (c : PCell) (x : Cell) : (s.setCell c x).vcells = s.vcells := rfl
@[simp] theorem State.setCell_clusters (s : State) (c : PCell) (x : Cell) : (s.setCell c x).clusters = s.clusters := rfl
@[simp] theorem State.setCell_omus (s : State) (c : PCell) (x : Cell) : (s.setCell c x).omus = s.omus := rfl
@[simp] theorem State.setCell_dies (s : State) (c : PCell) (x : Cell) : (s.setCell c x).dies = s.dies := rfl
@[simp] theorem State.setCell_pkgs (s : State) (c : PCell) (x : Cell) : (s.setCell c x).pkgs = s.pkgs := rfl
@[simp] theorem State.setCell_launches (s : State) (c : PCell) (x : Cell) : (s.setCell c x).launches = s.launches := rfl
@[simp] theorem State.setCell_parked (s : State) (c : PCell) (x : Cell) : (s.setCell c x).parked = s.parked := rfl
@[simp] theorem State.setCell_packets (s : State) (c : PCell) (x : Cell) : (s.setCell c x).packets = s.packets := rfl
@[simp] theorem State.setCell_fops (s : State) (c : PCell) (x : Cell) : (s.setCell c x).fops = s.fops := rfl
@[simp] theorem State.setCell_steals (s : State) (c : PCell) (x : Cell) : (s.setCell c x).steals = s.steals := rfl
@[simp] theorem State.setCell_wakes (s : State) (c : PCell) (x : Cell) : (s.setCell c x).wakes = s.wakes := rfl
@[simp] theorem State.setCell_counts (s : State) (c : PCell) (x : Cell) : (s.setCell c x).counts = s.counts := rfl
@[simp] theorem State.setCell_flrs (s : State) (c : PCell) (x : Cell) : (s.setCell c x).flrs = s.flrs := rfl
@[simp] theorem State.setCell_quiesces (s : State) (c : PCell) (x : Cell) : (s.setCell c x).quiesces = s.quiesces := rfl
@[simp] theorem State.setCell_agenda (s : State) (c : PCell) (x : Cell) : (s.setCell c x).agenda = s.agenda := rfl
@[simp] theorem State.setCell_pick (s : State) (c : PCell) (x : Cell) : (s.setCell c x).pick = s.pick := rfl
@[simp] theorem State.setCell_turn (s : State) (c : PCell) (x : Cell) : (s.setCell c x).turn = s.turn := rfl
@[simp] theorem State.setCell_cur (s : State) (c : PCell) (x : Cell) : (s.setCell c x).cur = s.cur := rfl
@[simp] theorem State.setCell_nextCell (s : State) (c : PCell) (x : Cell) : (s.setCell c x).nextCell = s.nextCell := rfl
@[simp] theorem State.setCell_nextEvent (s : State) (c : PCell) (x : Cell) : (s.setCell c x).nextEvent = s.nextEvent := rfl
@[simp] theorem State.setCell_clock (s : State) (c : PCell) (x : Cell) : (s.setCell c x).clock = s.clock := rfl
@[simp] theorem State.setCell_gaps (s : State) (c : PCell) (x : Cell) : (s.setCell c x).gaps = s.gaps := rfl
@[simp] theorem State.setCell_checked (s : State) (c : PCell) (x : Cell) : (s.setCell c x).checked = s.checked := rfl
@[simp] theorem State.setCell_free (s : State) (c : PCell) (x : Cell) : (s.setCell c x).free = s.free := rfl
@[simp] theorem State.setCell_stamp (s : State) (c : PCell) (x : Cell) : (s.setCell c x).stamp = s.stamp := rfl
@[simp] theorem State.setCell_nextKey (s : State) (c : PCell) (x : Cell) : (s.setCell c x).nextKey = s.nextKey := rfl

@[simp] theorem State.setVcell_mem (s : State) (c : LCell) (x : VCell) : (s.setVcell c x).mem = s.mem := rfl
@[simp] theorem State.setVcell_fe (s : State) (c : LCell) (x : VCell) : (s.setVcell c x).fe = s.fe := rfl
@[simp] theorem State.setVcell_poison (s : State) (c : LCell) (x : VCell) : (s.setVcell c x).poison = s.poison := rfl
@[simp] theorem State.setVcell_threads (s : State) (c : LCell) (x : VCell) : (s.setVcell c x).threads = s.threads := rfl
@[simp] theorem State.setVcell_saved (s : State) (c : LCell) (x : VCell) : (s.setVcell c x).saved = s.saved := rfl
@[simp] theorem State.setVcell_cells (s : State) (c : LCell) (x : VCell) : (s.setVcell c x).cells = s.cells := rfl
@[simp] theorem State.setVcell_vcells (s : State) (c : LCell) (x : VCell) : (s.setVcell c x).vcells = putAt c x s.vcells := rfl
@[simp] theorem State.setVcell_clusters (s : State) (c : LCell) (x : VCell) : (s.setVcell c x).clusters = s.clusters := rfl
@[simp] theorem State.setVcell_omus (s : State) (c : LCell) (x : VCell) : (s.setVcell c x).omus = s.omus := rfl
@[simp] theorem State.setVcell_dies (s : State) (c : LCell) (x : VCell) : (s.setVcell c x).dies = s.dies := rfl
@[simp] theorem State.setVcell_pkgs (s : State) (c : LCell) (x : VCell) : (s.setVcell c x).pkgs = s.pkgs := rfl
@[simp] theorem State.setVcell_launches (s : State) (c : LCell) (x : VCell) : (s.setVcell c x).launches = s.launches := rfl
@[simp] theorem State.setVcell_parked (s : State) (c : LCell) (x : VCell) : (s.setVcell c x).parked = s.parked := rfl
@[simp] theorem State.setVcell_packets (s : State) (c : LCell) (x : VCell) : (s.setVcell c x).packets = s.packets := rfl
@[simp] theorem State.setVcell_fops (s : State) (c : LCell) (x : VCell) : (s.setVcell c x).fops = s.fops := rfl
@[simp] theorem State.setVcell_steals (s : State) (c : LCell) (x : VCell) : (s.setVcell c x).steals = s.steals := rfl
@[simp] theorem State.setVcell_wakes (s : State) (c : LCell) (x : VCell) : (s.setVcell c x).wakes = s.wakes := rfl
@[simp] theorem State.setVcell_counts (s : State) (c : LCell) (x : VCell) : (s.setVcell c x).counts = s.counts := rfl
@[simp] theorem State.setVcell_flrs (s : State) (c : LCell) (x : VCell) : (s.setVcell c x).flrs = s.flrs := rfl
@[simp] theorem State.setVcell_quiesces (s : State) (c : LCell) (x : VCell) : (s.setVcell c x).quiesces = s.quiesces := rfl
@[simp] theorem State.setVcell_agenda (s : State) (c : LCell) (x : VCell) : (s.setVcell c x).agenda = s.agenda := rfl
@[simp] theorem State.setVcell_pick (s : State) (c : LCell) (x : VCell) : (s.setVcell c x).pick = s.pick := rfl
@[simp] theorem State.setVcell_turn (s : State) (c : LCell) (x : VCell) : (s.setVcell c x).turn = s.turn := rfl
@[simp] theorem State.setVcell_cur (s : State) (c : LCell) (x : VCell) : (s.setVcell c x).cur = s.cur := rfl
@[simp] theorem State.setVcell_nextCell (s : State) (c : LCell) (x : VCell) : (s.setVcell c x).nextCell = s.nextCell := rfl
@[simp] theorem State.setVcell_nextEvent (s : State) (c : LCell) (x : VCell) : (s.setVcell c x).nextEvent = s.nextEvent := rfl
@[simp] theorem State.setVcell_clock (s : State) (c : LCell) (x : VCell) : (s.setVcell c x).clock = s.clock := rfl
@[simp] theorem State.setVcell_gaps (s : State) (c : LCell) (x : VCell) : (s.setVcell c x).gaps = s.gaps := rfl
@[simp] theorem State.setVcell_checked (s : State) (c : LCell) (x : VCell) : (s.setVcell c x).checked = s.checked := rfl
@[simp] theorem State.setVcell_free (s : State) (c : LCell) (x : VCell) : (s.setVcell c x).free = s.free := rfl
@[simp] theorem State.setVcell_stamp (s : State) (c : LCell) (x : VCell) : (s.setVcell c x).stamp = s.stamp := rfl
@[simp] theorem State.setVcell_nextKey (s : State) (c : LCell) (x : VCell) : (s.setVcell c x).nextKey = s.nextKey := rfl

@[simp] theorem State.setCluster_mem (s : State) (c : ClusterId) (x : Cluster) : (s.setCluster c x).mem = s.mem := rfl
@[simp] theorem State.setCluster_fe (s : State) (c : ClusterId) (x : Cluster) : (s.setCluster c x).fe = s.fe := rfl
@[simp] theorem State.setCluster_poison (s : State) (c : ClusterId) (x : Cluster) : (s.setCluster c x).poison = s.poison := rfl
@[simp] theorem State.setCluster_threads (s : State) (c : ClusterId) (x : Cluster) : (s.setCluster c x).threads = s.threads := rfl
@[simp] theorem State.setCluster_saved (s : State) (c : ClusterId) (x : Cluster) : (s.setCluster c x).saved = s.saved := rfl
@[simp] theorem State.setCluster_cells (s : State) (c : ClusterId) (x : Cluster) : (s.setCluster c x).cells = s.cells := rfl
@[simp] theorem State.setCluster_vcells (s : State) (c : ClusterId) (x : Cluster) : (s.setCluster c x).vcells = s.vcells := rfl
@[simp] theorem State.setCluster_clusters (s : State) (c : ClusterId) (x : Cluster) : (s.setCluster c x).clusters = putAt c x s.clusters := rfl
@[simp] theorem State.setCluster_omus (s : State) (c : ClusterId) (x : Cluster) : (s.setCluster c x).omus = s.omus := rfl
@[simp] theorem State.setCluster_dies (s : State) (c : ClusterId) (x : Cluster) : (s.setCluster c x).dies = s.dies := rfl
@[simp] theorem State.setCluster_pkgs (s : State) (c : ClusterId) (x : Cluster) : (s.setCluster c x).pkgs = s.pkgs := rfl
@[simp] theorem State.setCluster_launches (s : State) (c : ClusterId) (x : Cluster) : (s.setCluster c x).launches = s.launches := rfl
@[simp] theorem State.setCluster_parked (s : State) (c : ClusterId) (x : Cluster) : (s.setCluster c x).parked = s.parked := rfl
@[simp] theorem State.setCluster_packets (s : State) (c : ClusterId) (x : Cluster) : (s.setCluster c x).packets = s.packets := rfl
@[simp] theorem State.setCluster_fops (s : State) (c : ClusterId) (x : Cluster) : (s.setCluster c x).fops = s.fops := rfl
@[simp] theorem State.setCluster_steals (s : State) (c : ClusterId) (x : Cluster) : (s.setCluster c x).steals = s.steals := rfl
@[simp] theorem State.setCluster_wakes (s : State) (c : ClusterId) (x : Cluster) : (s.setCluster c x).wakes = s.wakes := rfl
@[simp] theorem State.setCluster_counts (s : State) (c : ClusterId) (x : Cluster) : (s.setCluster c x).counts = s.counts := rfl
@[simp] theorem State.setCluster_flrs (s : State) (c : ClusterId) (x : Cluster) : (s.setCluster c x).flrs = s.flrs := rfl
@[simp] theorem State.setCluster_quiesces (s : State) (c : ClusterId) (x : Cluster) : (s.setCluster c x).quiesces = s.quiesces := rfl
@[simp] theorem State.setCluster_agenda (s : State) (c : ClusterId) (x : Cluster) : (s.setCluster c x).agenda = s.agenda := rfl
@[simp] theorem State.setCluster_pick (s : State) (c : ClusterId) (x : Cluster) : (s.setCluster c x).pick = s.pick := rfl
@[simp] theorem State.setCluster_turn (s : State) (c : ClusterId) (x : Cluster) : (s.setCluster c x).turn = s.turn := rfl
@[simp] theorem State.setCluster_cur (s : State) (c : ClusterId) (x : Cluster) : (s.setCluster c x).cur = s.cur := rfl
@[simp] theorem State.setCluster_nextCell (s : State) (c : ClusterId) (x : Cluster) : (s.setCluster c x).nextCell = s.nextCell := rfl
@[simp] theorem State.setCluster_nextEvent (s : State) (c : ClusterId) (x : Cluster) : (s.setCluster c x).nextEvent = s.nextEvent := rfl
@[simp] theorem State.setCluster_clock (s : State) (c : ClusterId) (x : Cluster) : (s.setCluster c x).clock = s.clock := rfl
@[simp] theorem State.setCluster_gaps (s : State) (c : ClusterId) (x : Cluster) : (s.setCluster c x).gaps = s.gaps := rfl
@[simp] theorem State.setCluster_checked (s : State) (c : ClusterId) (x : Cluster) : (s.setCluster c x).checked = s.checked := rfl
@[simp] theorem State.setCluster_free (s : State) (c : ClusterId) (x : Cluster) : (s.setCluster c x).free = s.free := rfl
@[simp] theorem State.setCluster_stamp (s : State) (c : ClusterId) (x : Cluster) : (s.setCluster c x).stamp = s.stamp := rfl
@[simp] theorem State.setCluster_nextKey (s : State) (c : ClusterId) (x : Cluster) : (s.setCluster c x).nextKey = s.nextKey := rfl

@[simp] theorem State.setOmu_mem (s : State) (c : ClusterId) (x : Omu) : (s.setOmu c x).mem = s.mem := rfl
@[simp] theorem State.setOmu_fe (s : State) (c : ClusterId) (x : Omu) : (s.setOmu c x).fe = s.fe := rfl
@[simp] theorem State.setOmu_poison (s : State) (c : ClusterId) (x : Omu) : (s.setOmu c x).poison = s.poison := rfl
@[simp] theorem State.setOmu_threads (s : State) (c : ClusterId) (x : Omu) : (s.setOmu c x).threads = s.threads := rfl
@[simp] theorem State.setOmu_saved (s : State) (c : ClusterId) (x : Omu) : (s.setOmu c x).saved = s.saved := rfl
@[simp] theorem State.setOmu_cells (s : State) (c : ClusterId) (x : Omu) : (s.setOmu c x).cells = s.cells := rfl
@[simp] theorem State.setOmu_vcells (s : State) (c : ClusterId) (x : Omu) : (s.setOmu c x).vcells = s.vcells := rfl
@[simp] theorem State.setOmu_clusters (s : State) (c : ClusterId) (x : Omu) : (s.setOmu c x).clusters = s.clusters := rfl
@[simp] theorem State.setOmu_omus (s : State) (c : ClusterId) (x : Omu) : (s.setOmu c x).omus = putAt c x s.omus := rfl
@[simp] theorem State.setOmu_dies (s : State) (c : ClusterId) (x : Omu) : (s.setOmu c x).dies = s.dies := rfl
@[simp] theorem State.setOmu_pkgs (s : State) (c : ClusterId) (x : Omu) : (s.setOmu c x).pkgs = s.pkgs := rfl
@[simp] theorem State.setOmu_launches (s : State) (c : ClusterId) (x : Omu) : (s.setOmu c x).launches = s.launches := rfl
@[simp] theorem State.setOmu_parked (s : State) (c : ClusterId) (x : Omu) : (s.setOmu c x).parked = s.parked := rfl
@[simp] theorem State.setOmu_packets (s : State) (c : ClusterId) (x : Omu) : (s.setOmu c x).packets = s.packets := rfl
@[simp] theorem State.setOmu_fops (s : State) (c : ClusterId) (x : Omu) : (s.setOmu c x).fops = s.fops := rfl
@[simp] theorem State.setOmu_steals (s : State) (c : ClusterId) (x : Omu) : (s.setOmu c x).steals = s.steals := rfl
@[simp] theorem State.setOmu_wakes (s : State) (c : ClusterId) (x : Omu) : (s.setOmu c x).wakes = s.wakes := rfl
@[simp] theorem State.setOmu_counts (s : State) (c : ClusterId) (x : Omu) : (s.setOmu c x).counts = s.counts := rfl
@[simp] theorem State.setOmu_flrs (s : State) (c : ClusterId) (x : Omu) : (s.setOmu c x).flrs = s.flrs := rfl
@[simp] theorem State.setOmu_quiesces (s : State) (c : ClusterId) (x : Omu) : (s.setOmu c x).quiesces = s.quiesces := rfl
@[simp] theorem State.setOmu_agenda (s : State) (c : ClusterId) (x : Omu) : (s.setOmu c x).agenda = s.agenda := rfl
@[simp] theorem State.setOmu_pick (s : State) (c : ClusterId) (x : Omu) : (s.setOmu c x).pick = s.pick := rfl
@[simp] theorem State.setOmu_turn (s : State) (c : ClusterId) (x : Omu) : (s.setOmu c x).turn = s.turn := rfl
@[simp] theorem State.setOmu_cur (s : State) (c : ClusterId) (x : Omu) : (s.setOmu c x).cur = s.cur := rfl
@[simp] theorem State.setOmu_nextCell (s : State) (c : ClusterId) (x : Omu) : (s.setOmu c x).nextCell = s.nextCell := rfl
@[simp] theorem State.setOmu_nextEvent (s : State) (c : ClusterId) (x : Omu) : (s.setOmu c x).nextEvent = s.nextEvent := rfl
@[simp] theorem State.setOmu_clock (s : State) (c : ClusterId) (x : Omu) : (s.setOmu c x).clock = s.clock := rfl
@[simp] theorem State.setOmu_gaps (s : State) (c : ClusterId) (x : Omu) : (s.setOmu c x).gaps = s.gaps := rfl
@[simp] theorem State.setOmu_checked (s : State) (c : ClusterId) (x : Omu) : (s.setOmu c x).checked = s.checked := rfl
@[simp] theorem State.setOmu_free (s : State) (c : ClusterId) (x : Omu) : (s.setOmu c x).free = s.free := rfl
@[simp] theorem State.setOmu_stamp (s : State) (c : ClusterId) (x : Omu) : (s.setOmu c x).stamp = s.stamp := rfl
@[simp] theorem State.setOmu_nextKey (s : State) (c : ClusterId) (x : Omu) : (s.setOmu c x).nextKey = s.nextKey := rfl

@[simp] theorem State.setDie_mem (s : State) (p d : Nat) (x : Die) : (s.setDie p d x).mem = s.mem := rfl
@[simp] theorem State.setDie_fe (s : State) (p d : Nat) (x : Die) : (s.setDie p d x).fe = s.fe := rfl
@[simp] theorem State.setDie_poison (s : State) (p d : Nat) (x : Die) : (s.setDie p d x).poison = s.poison := rfl
@[simp] theorem State.setDie_threads (s : State) (p d : Nat) (x : Die) : (s.setDie p d x).threads = s.threads := rfl
@[simp] theorem State.setDie_saved (s : State) (p d : Nat) (x : Die) : (s.setDie p d x).saved = s.saved := rfl
@[simp] theorem State.setDie_cells (s : State) (p d : Nat) (x : Die) : (s.setDie p d x).cells = s.cells := rfl
@[simp] theorem State.setDie_vcells (s : State) (p d : Nat) (x : Die) : (s.setDie p d x).vcells = s.vcells := rfl
@[simp] theorem State.setDie_clusters (s : State) (p d : Nat) (x : Die) : (s.setDie p d x).clusters = s.clusters := rfl
@[simp] theorem State.setDie_omus (s : State) (p d : Nat) (x : Die) : (s.setDie p d x).omus = s.omus := rfl
@[simp] theorem State.setDie_dies (s : State) (p d : Nat) (x : Die) : (s.setDie p d x).dies = putAt (p, d) x s.dies := rfl
@[simp] theorem State.setDie_pkgs (s : State) (p d : Nat) (x : Die) : (s.setDie p d x).pkgs = s.pkgs := rfl
@[simp] theorem State.setDie_launches (s : State) (p d : Nat) (x : Die) : (s.setDie p d x).launches = s.launches := rfl
@[simp] theorem State.setDie_parked (s : State) (p d : Nat) (x : Die) : (s.setDie p d x).parked = s.parked := rfl
@[simp] theorem State.setDie_packets (s : State) (p d : Nat) (x : Die) : (s.setDie p d x).packets = s.packets := rfl
@[simp] theorem State.setDie_fops (s : State) (p d : Nat) (x : Die) : (s.setDie p d x).fops = s.fops := rfl
@[simp] theorem State.setDie_steals (s : State) (p d : Nat) (x : Die) : (s.setDie p d x).steals = s.steals := rfl
@[simp] theorem State.setDie_wakes (s : State) (p d : Nat) (x : Die) : (s.setDie p d x).wakes = s.wakes := rfl
@[simp] theorem State.setDie_counts (s : State) (p d : Nat) (x : Die) : (s.setDie p d x).counts = s.counts := rfl
@[simp] theorem State.setDie_flrs (s : State) (p d : Nat) (x : Die) : (s.setDie p d x).flrs = s.flrs := rfl
@[simp] theorem State.setDie_quiesces (s : State) (p d : Nat) (x : Die) : (s.setDie p d x).quiesces = s.quiesces := rfl
@[simp] theorem State.setDie_agenda (s : State) (p d : Nat) (x : Die) : (s.setDie p d x).agenda = s.agenda := rfl
@[simp] theorem State.setDie_pick (s : State) (p d : Nat) (x : Die) : (s.setDie p d x).pick = s.pick := rfl
@[simp] theorem State.setDie_turn (s : State) (p d : Nat) (x : Die) : (s.setDie p d x).turn = s.turn := rfl
@[simp] theorem State.setDie_cur (s : State) (p d : Nat) (x : Die) : (s.setDie p d x).cur = s.cur := rfl
@[simp] theorem State.setDie_nextCell (s : State) (p d : Nat) (x : Die) : (s.setDie p d x).nextCell = s.nextCell := rfl
@[simp] theorem State.setDie_nextEvent (s : State) (p d : Nat) (x : Die) : (s.setDie p d x).nextEvent = s.nextEvent := rfl
@[simp] theorem State.setDie_clock (s : State) (p d : Nat) (x : Die) : (s.setDie p d x).clock = s.clock := rfl
@[simp] theorem State.setDie_gaps (s : State) (p d : Nat) (x : Die) : (s.setDie p d x).gaps = s.gaps := rfl
@[simp] theorem State.setDie_checked (s : State) (p d : Nat) (x : Die) : (s.setDie p d x).checked = s.checked := rfl
@[simp] theorem State.setDie_free (s : State) (p d : Nat) (x : Die) : (s.setDie p d x).free = s.free := rfl
@[simp] theorem State.setDie_stamp (s : State) (p d : Nat) (x : Die) : (s.setDie p d x).stamp = s.stamp := rfl
@[simp] theorem State.setDie_nextKey (s : State) (p d : Nat) (x : Die) : (s.setDie p d x).nextKey = s.nextKey := rfl

@[simp] theorem State.setPkg_mem (s : State) (p : Nat) (x : Package) : (s.setPkg p x).mem = s.mem := rfl
@[simp] theorem State.setPkg_fe (s : State) (p : Nat) (x : Package) : (s.setPkg p x).fe = s.fe := rfl
@[simp] theorem State.setPkg_poison (s : State) (p : Nat) (x : Package) : (s.setPkg p x).poison = s.poison := rfl
@[simp] theorem State.setPkg_threads (s : State) (p : Nat) (x : Package) : (s.setPkg p x).threads = s.threads := rfl
@[simp] theorem State.setPkg_saved (s : State) (p : Nat) (x : Package) : (s.setPkg p x).saved = s.saved := rfl
@[simp] theorem State.setPkg_cells (s : State) (p : Nat) (x : Package) : (s.setPkg p x).cells = s.cells := rfl
@[simp] theorem State.setPkg_vcells (s : State) (p : Nat) (x : Package) : (s.setPkg p x).vcells = s.vcells := rfl
@[simp] theorem State.setPkg_clusters (s : State) (p : Nat) (x : Package) : (s.setPkg p x).clusters = s.clusters := rfl
@[simp] theorem State.setPkg_omus (s : State) (p : Nat) (x : Package) : (s.setPkg p x).omus = s.omus := rfl
@[simp] theorem State.setPkg_dies (s : State) (p : Nat) (x : Package) : (s.setPkg p x).dies = s.dies := rfl
@[simp] theorem State.setPkg_pkgs (s : State) (p : Nat) (x : Package) : (s.setPkg p x).pkgs = putAt p x s.pkgs := rfl
@[simp] theorem State.setPkg_launches (s : State) (p : Nat) (x : Package) : (s.setPkg p x).launches = s.launches := rfl
@[simp] theorem State.setPkg_parked (s : State) (p : Nat) (x : Package) : (s.setPkg p x).parked = s.parked := rfl
@[simp] theorem State.setPkg_packets (s : State) (p : Nat) (x : Package) : (s.setPkg p x).packets = s.packets := rfl
@[simp] theorem State.setPkg_fops (s : State) (p : Nat) (x : Package) : (s.setPkg p x).fops = s.fops := rfl
@[simp] theorem State.setPkg_steals (s : State) (p : Nat) (x : Package) : (s.setPkg p x).steals = s.steals := rfl
@[simp] theorem State.setPkg_wakes (s : State) (p : Nat) (x : Package) : (s.setPkg p x).wakes = s.wakes := rfl
@[simp] theorem State.setPkg_counts (s : State) (p : Nat) (x : Package) : (s.setPkg p x).counts = s.counts := rfl
@[simp] theorem State.setPkg_flrs (s : State) (p : Nat) (x : Package) : (s.setPkg p x).flrs = s.flrs := rfl
@[simp] theorem State.setPkg_quiesces (s : State) (p : Nat) (x : Package) : (s.setPkg p x).quiesces = s.quiesces := rfl
@[simp] theorem State.setPkg_agenda (s : State) (p : Nat) (x : Package) : (s.setPkg p x).agenda = s.agenda := rfl
@[simp] theorem State.setPkg_pick (s : State) (p : Nat) (x : Package) : (s.setPkg p x).pick = s.pick := rfl
@[simp] theorem State.setPkg_turn (s : State) (p : Nat) (x : Package) : (s.setPkg p x).turn = s.turn := rfl
@[simp] theorem State.setPkg_cur (s : State) (p : Nat) (x : Package) : (s.setPkg p x).cur = s.cur := rfl
@[simp] theorem State.setPkg_nextCell (s : State) (p : Nat) (x : Package) : (s.setPkg p x).nextCell = s.nextCell := rfl
@[simp] theorem State.setPkg_nextEvent (s : State) (p : Nat) (x : Package) : (s.setPkg p x).nextEvent = s.nextEvent := rfl
@[simp] theorem State.setPkg_clock (s : State) (p : Nat) (x : Package) : (s.setPkg p x).clock = s.clock := rfl
@[simp] theorem State.setPkg_gaps (s : State) (p : Nat) (x : Package) : (s.setPkg p x).gaps = s.gaps := rfl
@[simp] theorem State.setPkg_checked (s : State) (p : Nat) (x : Package) : (s.setPkg p x).checked = s.checked := rfl
@[simp] theorem State.setPkg_free (s : State) (p : Nat) (x : Package) : (s.setPkg p x).free = s.free := rfl
@[simp] theorem State.setPkg_stamp (s : State) (p : Nat) (x : Package) : (s.setPkg p x).stamp = s.stamp := rfl
@[simp] theorem State.setPkg_nextKey (s : State) (p : Nat) (x : Package) : (s.setPkg p x).nextKey = s.nextKey := rfl

@[simp] theorem State.setThread_mem (s : State) (k : Nat) (t : Thread) : (s.setThread k t).mem = s.mem := rfl
@[simp] theorem State.setThread_fe (s : State) (k : Nat) (t : Thread) : (s.setThread k t).fe = s.fe := rfl
@[simp] theorem State.setThread_poison (s : State) (k : Nat) (t : Thread) : (s.setThread k t).poison = s.poison := rfl
@[simp] theorem State.setThread_threads (s : State) (k : Nat) (t : Thread) : (s.setThread k t).threads = putAt k t s.threads := rfl
@[simp] theorem State.setThread_saved (s : State) (k : Nat) (t : Thread) : (s.setThread k t).saved = s.saved := rfl
@[simp] theorem State.setThread_cells (s : State) (k : Nat) (t : Thread) : (s.setThread k t).cells = s.cells := rfl
@[simp] theorem State.setThread_vcells (s : State) (k : Nat) (t : Thread) : (s.setThread k t).vcells = s.vcells := rfl
@[simp] theorem State.setThread_clusters (s : State) (k : Nat) (t : Thread) : (s.setThread k t).clusters = s.clusters := rfl
@[simp] theorem State.setThread_omus (s : State) (k : Nat) (t : Thread) : (s.setThread k t).omus = s.omus := rfl
@[simp] theorem State.setThread_dies (s : State) (k : Nat) (t : Thread) : (s.setThread k t).dies = s.dies := rfl
@[simp] theorem State.setThread_pkgs (s : State) (k : Nat) (t : Thread) : (s.setThread k t).pkgs = s.pkgs := rfl
@[simp] theorem State.setThread_launches (s : State) (k : Nat) (t : Thread) : (s.setThread k t).launches = s.launches := rfl
@[simp] theorem State.setThread_parked (s : State) (k : Nat) (t : Thread) : (s.setThread k t).parked = s.parked := rfl
@[simp] theorem State.setThread_packets (s : State) (k : Nat) (t : Thread) : (s.setThread k t).packets = s.packets := rfl
@[simp] theorem State.setThread_fops (s : State) (k : Nat) (t : Thread) : (s.setThread k t).fops = s.fops := rfl
@[simp] theorem State.setThread_steals (s : State) (k : Nat) (t : Thread) : (s.setThread k t).steals = s.steals := rfl
@[simp] theorem State.setThread_wakes (s : State) (k : Nat) (t : Thread) : (s.setThread k t).wakes = s.wakes := rfl
@[simp] theorem State.setThread_counts (s : State) (k : Nat) (t : Thread) : (s.setThread k t).counts = s.counts := rfl
@[simp] theorem State.setThread_flrs (s : State) (k : Nat) (t : Thread) : (s.setThread k t).flrs = s.flrs := rfl
@[simp] theorem State.setThread_quiesces (s : State) (k : Nat) (t : Thread) : (s.setThread k t).quiesces = s.quiesces := rfl
@[simp] theorem State.setThread_agenda (s : State) (k : Nat) (t : Thread) : (s.setThread k t).agenda = s.agenda := rfl
@[simp] theorem State.setThread_pick (s : State) (k : Nat) (t : Thread) : (s.setThread k t).pick = s.pick := rfl
@[simp] theorem State.setThread_turn (s : State) (k : Nat) (t : Thread) : (s.setThread k t).turn = s.turn := rfl
@[simp] theorem State.setThread_cur (s : State) (k : Nat) (t : Thread) : (s.setThread k t).cur = s.cur := rfl
@[simp] theorem State.setThread_nextCell (s : State) (k : Nat) (t : Thread) : (s.setThread k t).nextCell = s.nextCell := rfl
@[simp] theorem State.setThread_nextEvent (s : State) (k : Nat) (t : Thread) : (s.setThread k t).nextEvent = s.nextEvent := rfl
@[simp] theorem State.setThread_clock (s : State) (k : Nat) (t : Thread) : (s.setThread k t).clock = s.clock := rfl
@[simp] theorem State.setThread_gaps (s : State) (k : Nat) (t : Thread) : (s.setThread k t).gaps = s.gaps := rfl
@[simp] theorem State.setThread_checked (s : State) (k : Nat) (t : Thread) : (s.setThread k t).checked = s.checked := rfl
@[simp] theorem State.setThread_free (s : State) (k : Nat) (t : Thread) : (s.setThread k t).free = s.free := rfl
@[simp] theorem State.setThread_stamp (s : State) (k : Nat) (t : Thread) : (s.setThread k t).stamp = s.stamp := rfl
@[simp] theorem State.setThread_nextKey (s : State) (k : Nat) (t : Thread) : (s.setThread k t).nextKey = s.nextKey := rfl

@[simp] theorem State.dropThread_mem (s : State) (k : Nat) : (s.dropThread k).mem = s.mem := rfl
@[simp] theorem State.dropThread_fe (s : State) (k : Nat) : (s.dropThread k).fe = s.fe := rfl
@[simp] theorem State.dropThread_poison (s : State) (k : Nat) : (s.dropThread k).poison = s.poison := rfl
@[simp] theorem State.dropThread_threads (s : State) (k : Nat) : (s.dropThread k).threads = dropAt k s.threads := rfl
@[simp] theorem State.dropThread_saved (s : State) (k : Nat) : (s.dropThread k).saved = s.saved := rfl
@[simp] theorem State.dropThread_cells (s : State) (k : Nat) : (s.dropThread k).cells = s.cells := rfl
@[simp] theorem State.dropThread_vcells (s : State) (k : Nat) : (s.dropThread k).vcells = s.vcells := rfl
@[simp] theorem State.dropThread_clusters (s : State) (k : Nat) : (s.dropThread k).clusters = s.clusters := rfl
@[simp] theorem State.dropThread_omus (s : State) (k : Nat) : (s.dropThread k).omus = s.omus := rfl
@[simp] theorem State.dropThread_dies (s : State) (k : Nat) : (s.dropThread k).dies = s.dies := rfl
@[simp] theorem State.dropThread_pkgs (s : State) (k : Nat) : (s.dropThread k).pkgs = s.pkgs := rfl
@[simp] theorem State.dropThread_launches (s : State) (k : Nat) : (s.dropThread k).launches = s.launches := rfl
@[simp] theorem State.dropThread_parked (s : State) (k : Nat) : (s.dropThread k).parked = s.parked := rfl
@[simp] theorem State.dropThread_packets (s : State) (k : Nat) : (s.dropThread k).packets = s.packets := rfl
@[simp] theorem State.dropThread_fops (s : State) (k : Nat) : (s.dropThread k).fops = s.fops := rfl
@[simp] theorem State.dropThread_steals (s : State) (k : Nat) : (s.dropThread k).steals = s.steals := rfl
@[simp] theorem State.dropThread_wakes (s : State) (k : Nat) : (s.dropThread k).wakes = s.wakes := rfl
@[simp] theorem State.dropThread_counts (s : State) (k : Nat) : (s.dropThread k).counts = s.counts := rfl
@[simp] theorem State.dropThread_flrs (s : State) (k : Nat) : (s.dropThread k).flrs = s.flrs := rfl
@[simp] theorem State.dropThread_quiesces (s : State) (k : Nat) : (s.dropThread k).quiesces = s.quiesces := rfl
@[simp] theorem State.dropThread_agenda (s : State) (k : Nat) : (s.dropThread k).agenda = s.agenda := rfl
@[simp] theorem State.dropThread_pick (s : State) (k : Nat) : (s.dropThread k).pick = s.pick := rfl
@[simp] theorem State.dropThread_turn (s : State) (k : Nat) : (s.dropThread k).turn = s.turn := rfl
@[simp] theorem State.dropThread_cur (s : State) (k : Nat) : (s.dropThread k).cur = s.cur := rfl
@[simp] theorem State.dropThread_nextCell (s : State) (k : Nat) : (s.dropThread k).nextCell = s.nextCell := rfl
@[simp] theorem State.dropThread_nextEvent (s : State) (k : Nat) : (s.dropThread k).nextEvent = s.nextEvent := rfl
@[simp] theorem State.dropThread_clock (s : State) (k : Nat) : (s.dropThread k).clock = s.clock := rfl
@[simp] theorem State.dropThread_gaps (s : State) (k : Nat) : (s.dropThread k).gaps = s.gaps := rfl
@[simp] theorem State.dropThread_checked (s : State) (k : Nat) : (s.dropThread k).checked = s.checked := rfl
@[simp] theorem State.dropThread_free (s : State) (k : Nat) : (s.dropThread k).free = s.free := rfl
@[simp] theorem State.dropThread_stamp (s : State) (k : Nat) : (s.dropThread k).stamp = s.stamp := rfl
@[simp] theorem State.dropThread_nextKey (s : State) (k : Nat) : (s.dropThread k).nextKey = s.nextKey := rfl

@[simp] theorem State.setLaunch_mem (s : State) (k : Nat) (l : Launch) : (s.setLaunch k l).mem = s.mem := rfl
@[simp] theorem State.setLaunch_fe (s : State) (k : Nat) (l : Launch) : (s.setLaunch k l).fe = s.fe := rfl
@[simp] theorem State.setLaunch_poison (s : State) (k : Nat) (l : Launch) : (s.setLaunch k l).poison = s.poison := rfl
@[simp] theorem State.setLaunch_threads (s : State) (k : Nat) (l : Launch) : (s.setLaunch k l).threads = s.threads := rfl
@[simp] theorem State.setLaunch_saved (s : State) (k : Nat) (l : Launch) : (s.setLaunch k l).saved = s.saved := rfl
@[simp] theorem State.setLaunch_cells (s : State) (k : Nat) (l : Launch) : (s.setLaunch k l).cells = s.cells := rfl
@[simp] theorem State.setLaunch_vcells (s : State) (k : Nat) (l : Launch) : (s.setLaunch k l).vcells = s.vcells := rfl
@[simp] theorem State.setLaunch_clusters (s : State) (k : Nat) (l : Launch) : (s.setLaunch k l).clusters = s.clusters := rfl
@[simp] theorem State.setLaunch_omus (s : State) (k : Nat) (l : Launch) : (s.setLaunch k l).omus = s.omus := rfl
@[simp] theorem State.setLaunch_dies (s : State) (k : Nat) (l : Launch) : (s.setLaunch k l).dies = s.dies := rfl
@[simp] theorem State.setLaunch_pkgs (s : State) (k : Nat) (l : Launch) : (s.setLaunch k l).pkgs = s.pkgs := rfl
@[simp] theorem State.setLaunch_launches (s : State) (k : Nat) (l : Launch) : (s.setLaunch k l).launches = putAt k l s.launches := rfl
@[simp] theorem State.setLaunch_parked (s : State) (k : Nat) (l : Launch) : (s.setLaunch k l).parked = s.parked := rfl
@[simp] theorem State.setLaunch_packets (s : State) (k : Nat) (l : Launch) : (s.setLaunch k l).packets = s.packets := rfl
@[simp] theorem State.setLaunch_fops (s : State) (k : Nat) (l : Launch) : (s.setLaunch k l).fops = s.fops := rfl
@[simp] theorem State.setLaunch_steals (s : State) (k : Nat) (l : Launch) : (s.setLaunch k l).steals = s.steals := rfl
@[simp] theorem State.setLaunch_wakes (s : State) (k : Nat) (l : Launch) : (s.setLaunch k l).wakes = s.wakes := rfl
@[simp] theorem State.setLaunch_counts (s : State) (k : Nat) (l : Launch) : (s.setLaunch k l).counts = s.counts := rfl
@[simp] theorem State.setLaunch_flrs (s : State) (k : Nat) (l : Launch) : (s.setLaunch k l).flrs = s.flrs := rfl
@[simp] theorem State.setLaunch_quiesces (s : State) (k : Nat) (l : Launch) : (s.setLaunch k l).quiesces = s.quiesces := rfl
@[simp] theorem State.setLaunch_agenda (s : State) (k : Nat) (l : Launch) : (s.setLaunch k l).agenda = s.agenda := rfl
@[simp] theorem State.setLaunch_pick (s : State) (k : Nat) (l : Launch) : (s.setLaunch k l).pick = s.pick := rfl
@[simp] theorem State.setLaunch_turn (s : State) (k : Nat) (l : Launch) : (s.setLaunch k l).turn = s.turn := rfl
@[simp] theorem State.setLaunch_cur (s : State) (k : Nat) (l : Launch) : (s.setLaunch k l).cur = s.cur := rfl
@[simp] theorem State.setLaunch_nextCell (s : State) (k : Nat) (l : Launch) : (s.setLaunch k l).nextCell = s.nextCell := rfl
@[simp] theorem State.setLaunch_nextEvent (s : State) (k : Nat) (l : Launch) : (s.setLaunch k l).nextEvent = s.nextEvent := rfl
@[simp] theorem State.setLaunch_clock (s : State) (k : Nat) (l : Launch) : (s.setLaunch k l).clock = s.clock := rfl
@[simp] theorem State.setLaunch_gaps (s : State) (k : Nat) (l : Launch) : (s.setLaunch k l).gaps = s.gaps := rfl
@[simp] theorem State.setLaunch_checked (s : State) (k : Nat) (l : Launch) : (s.setLaunch k l).checked = s.checked := rfl
@[simp] theorem State.setLaunch_free (s : State) (k : Nat) (l : Launch) : (s.setLaunch k l).free = s.free := rfl
@[simp] theorem State.setLaunch_stamp (s : State) (k : Nat) (l : Launch) : (s.setLaunch k l).stamp = s.stamp := rfl
@[simp] theorem State.setLaunch_nextKey (s : State) (k : Nat) (l : Launch) : (s.setLaunch k l).nextKey = s.nextKey := rfl

@[simp] theorem State.fresh_mem (s : State) : (s.fresh.2).mem = s.mem := rfl
@[simp] theorem State.fresh_fe (s : State) : (s.fresh.2).fe = s.fe := rfl
@[simp] theorem State.fresh_poison (s : State) : (s.fresh.2).poison = s.poison := rfl
@[simp] theorem State.fresh_threads (s : State) : (s.fresh.2).threads = s.threads := rfl
@[simp] theorem State.fresh_saved (s : State) : (s.fresh.2).saved = s.saved := rfl
@[simp] theorem State.fresh_cells (s : State) : (s.fresh.2).cells = s.cells := rfl
@[simp] theorem State.fresh_vcells (s : State) : (s.fresh.2).vcells = s.vcells := rfl
@[simp] theorem State.fresh_clusters (s : State) : (s.fresh.2).clusters = s.clusters := rfl
@[simp] theorem State.fresh_omus (s : State) : (s.fresh.2).omus = s.omus := rfl
@[simp] theorem State.fresh_dies (s : State) : (s.fresh.2).dies = s.dies := rfl
@[simp] theorem State.fresh_pkgs (s : State) : (s.fresh.2).pkgs = s.pkgs := rfl
@[simp] theorem State.fresh_launches (s : State) : (s.fresh.2).launches = s.launches := rfl
@[simp] theorem State.fresh_parked (s : State) : (s.fresh.2).parked = s.parked := rfl
@[simp] theorem State.fresh_packets (s : State) : (s.fresh.2).packets = s.packets := rfl
@[simp] theorem State.fresh_fops (s : State) : (s.fresh.2).fops = s.fops := rfl
@[simp] theorem State.fresh_steals (s : State) : (s.fresh.2).steals = s.steals := rfl
@[simp] theorem State.fresh_wakes (s : State) : (s.fresh.2).wakes = s.wakes := rfl
@[simp] theorem State.fresh_counts (s : State) : (s.fresh.2).counts = s.counts := rfl
@[simp] theorem State.fresh_flrs (s : State) : (s.fresh.2).flrs = s.flrs := rfl
@[simp] theorem State.fresh_quiesces (s : State) : (s.fresh.2).quiesces = s.quiesces := rfl
@[simp] theorem State.fresh_agenda (s : State) : (s.fresh.2).agenda = s.agenda := rfl
@[simp] theorem State.fresh_pick (s : State) : (s.fresh.2).pick = s.pick := rfl
@[simp] theorem State.fresh_turn (s : State) : (s.fresh.2).turn = s.turn := rfl
@[simp] theorem State.fresh_cur (s : State) : (s.fresh.2).cur = s.cur := rfl
@[simp] theorem State.fresh_nextCell (s : State) : (s.fresh.2).nextCell = s.nextCell := rfl
@[simp] theorem State.fresh_nextEvent (s : State) : (s.fresh.2).nextEvent = s.nextEvent := rfl
@[simp] theorem State.fresh_clock (s : State) : (s.fresh.2).clock = s.clock := rfl
@[simp] theorem State.fresh_gaps (s : State) : (s.fresh.2).gaps = s.gaps := rfl
@[simp] theorem State.fresh_checked (s : State) : (s.fresh.2).checked = s.checked := rfl
@[simp] theorem State.fresh_free (s : State) : (s.fresh.2).free = s.free := rfl
@[simp] theorem State.fresh_stamp (s : State) : (s.fresh.2).stamp = s.stamp := rfl
@[simp] theorem State.fresh_nextKey (s : State) : (s.fresh.2).nextKey = s.nextKey + 1 := rfl

@[simp] theorem State.tick_mem (s : State) : (s.tick.2).mem = s.mem := rfl
@[simp] theorem State.tick_fe (s : State) : (s.tick.2).fe = s.fe := rfl
@[simp] theorem State.tick_poison (s : State) : (s.tick.2).poison = s.poison := rfl
@[simp] theorem State.tick_threads (s : State) : (s.tick.2).threads = s.threads := rfl
@[simp] theorem State.tick_saved (s : State) : (s.tick.2).saved = s.saved := rfl
@[simp] theorem State.tick_cells (s : State) : (s.tick.2).cells = s.cells := rfl
@[simp] theorem State.tick_vcells (s : State) : (s.tick.2).vcells = s.vcells := rfl
@[simp] theorem State.tick_clusters (s : State) : (s.tick.2).clusters = s.clusters := rfl
@[simp] theorem State.tick_omus (s : State) : (s.tick.2).omus = s.omus := rfl
@[simp] theorem State.tick_dies (s : State) : (s.tick.2).dies = s.dies := rfl
@[simp] theorem State.tick_pkgs (s : State) : (s.tick.2).pkgs = s.pkgs := rfl
@[simp] theorem State.tick_launches (s : State) : (s.tick.2).launches = s.launches := rfl
@[simp] theorem State.tick_parked (s : State) : (s.tick.2).parked = s.parked := rfl
@[simp] theorem State.tick_packets (s : State) : (s.tick.2).packets = s.packets := rfl
@[simp] theorem State.tick_fops (s : State) : (s.tick.2).fops = s.fops := rfl
@[simp] theorem State.tick_steals (s : State) : (s.tick.2).steals = s.steals := rfl
@[simp] theorem State.tick_wakes (s : State) : (s.tick.2).wakes = s.wakes := rfl
@[simp] theorem State.tick_counts (s : State) : (s.tick.2).counts = s.counts := rfl
@[simp] theorem State.tick_flrs (s : State) : (s.tick.2).flrs = s.flrs := rfl
@[simp] theorem State.tick_quiesces (s : State) : (s.tick.2).quiesces = s.quiesces := rfl
@[simp] theorem State.tick_agenda (s : State) : (s.tick.2).agenda = s.agenda := rfl
@[simp] theorem State.tick_pick (s : State) : (s.tick.2).pick = s.pick := rfl
@[simp] theorem State.tick_turn (s : State) : (s.tick.2).turn = s.turn := rfl
@[simp] theorem State.tick_cur (s : State) : (s.tick.2).cur = s.cur := rfl
@[simp] theorem State.tick_nextCell (s : State) : (s.tick.2).nextCell = s.nextCell := rfl
@[simp] theorem State.tick_nextEvent (s : State) : (s.tick.2).nextEvent = s.nextEvent := rfl
@[simp] theorem State.tick_clock (s : State) : (s.tick.2).clock = s.clock := rfl
@[simp] theorem State.tick_gaps (s : State) : (s.tick.2).gaps = s.gaps := rfl
@[simp] theorem State.tick_checked (s : State) : (s.tick.2).checked = s.checked := rfl
@[simp] theorem State.tick_free (s : State) : (s.tick.2).free = s.free := rfl
@[simp] theorem State.tick_stamp (s : State) : (s.tick.2).stamp = s.stamp + 1 := rfl
@[simp] theorem State.tick_nextKey (s : State) : (s.tick.2).nextKey = s.nextKey := rfl

@[simp] theorem State.unyield_mem (s : State) (k : Nat) : (s.unyield k).mem = s.mem := rfl
@[simp] theorem State.unyield_fe (s : State) (k : Nat) : (s.unyield k).fe = s.fe := rfl
@[simp] theorem State.unyield_poison (s : State) (k : Nat) : (s.unyield k).poison = s.poison := rfl
@[simp] theorem State.unyield_saved (s : State) (k : Nat) : (s.unyield k).saved = s.saved := rfl
@[simp] theorem State.unyield_cells (s : State) (k : Nat) : (s.unyield k).cells = s.cells := rfl
@[simp] theorem State.unyield_vcells (s : State) (k : Nat) : (s.unyield k).vcells = s.vcells := rfl
@[simp] theorem State.unyield_clusters (s : State) (k : Nat) : (s.unyield k).clusters = s.clusters := rfl
@[simp] theorem State.unyield_omus (s : State) (k : Nat) : (s.unyield k).omus = s.omus := rfl
@[simp] theorem State.unyield_dies (s : State) (k : Nat) : (s.unyield k).dies = s.dies := rfl
@[simp] theorem State.unyield_pkgs (s : State) (k : Nat) : (s.unyield k).pkgs = s.pkgs := rfl
@[simp] theorem State.unyield_launches (s : State) (k : Nat) : (s.unyield k).launches = s.launches := rfl
@[simp] theorem State.unyield_parked (s : State) (k : Nat) : (s.unyield k).parked = s.parked := rfl
@[simp] theorem State.unyield_packets (s : State) (k : Nat) : (s.unyield k).packets = s.packets := rfl
@[simp] theorem State.unyield_fops (s : State) (k : Nat) : (s.unyield k).fops = s.fops := rfl
@[simp] theorem State.unyield_steals (s : State) (k : Nat) : (s.unyield k).steals = s.steals := rfl
@[simp] theorem State.unyield_wakes (s : State) (k : Nat) : (s.unyield k).wakes = s.wakes := rfl
@[simp] theorem State.unyield_counts (s : State) (k : Nat) : (s.unyield k).counts = s.counts := rfl
@[simp] theorem State.unyield_flrs (s : State) (k : Nat) : (s.unyield k).flrs = s.flrs := rfl
@[simp] theorem State.unyield_quiesces (s : State) (k : Nat) : (s.unyield k).quiesces = s.quiesces := rfl
@[simp] theorem State.unyield_agenda (s : State) (k : Nat) : (s.unyield k).agenda = s.agenda := rfl
@[simp] theorem State.unyield_pick (s : State) (k : Nat) : (s.unyield k).pick = s.pick := rfl
@[simp] theorem State.unyield_turn (s : State) (k : Nat) : (s.unyield k).turn = s.turn := rfl
@[simp] theorem State.unyield_cur (s : State) (k : Nat) : (s.unyield k).cur = s.cur := rfl
@[simp] theorem State.unyield_nextCell (s : State) (k : Nat) : (s.unyield k).nextCell = s.nextCell := rfl
@[simp] theorem State.unyield_nextEvent (s : State) (k : Nat) : (s.unyield k).nextEvent = s.nextEvent := rfl
@[simp] theorem State.unyield_clock (s : State) (k : Nat) : (s.unyield k).clock = s.clock := rfl
@[simp] theorem State.unyield_gaps (s : State) (k : Nat) : (s.unyield k).gaps = s.gaps := rfl
@[simp] theorem State.unyield_checked (s : State) (k : Nat) : (s.unyield k).checked = s.checked := rfl
@[simp] theorem State.unyield_free (s : State) (k : Nat) : (s.unyield k).free = s.free := rfl
@[simp] theorem State.unyield_stamp (s : State) (k : Nat) : (s.unyield k).stamp = s.stamp := rfl
@[simp] theorem State.unyield_nextKey (s : State) (k : Nat) : (s.unyield k).nextKey = s.nextKey := rfl

@[simp] theorem State.releaseSlots_mem (s : State) (k : Nat) : (s.releaseSlots k).mem = s.mem := rfl
@[simp] theorem State.releaseSlots_fe (s : State) (k : Nat) : (s.releaseSlots k).fe = s.fe := rfl
@[simp] theorem State.releaseSlots_poison (s : State) (k : Nat) : (s.releaseSlots k).poison = s.poison := rfl
@[simp] theorem State.releaseSlots_threads (s : State) (k : Nat) : (s.releaseSlots k).threads = s.threads := rfl
@[simp] theorem State.releaseSlots_saved (s : State) (k : Nat) : (s.releaseSlots k).saved = s.saved := rfl
@[simp] theorem State.releaseSlots_cells (s : State) (k : Nat) : (s.releaseSlots k).cells = s.cells := rfl
@[simp] theorem State.releaseSlots_clusters (s : State) (k : Nat) : (s.releaseSlots k).clusters = s.clusters := rfl
@[simp] theorem State.releaseSlots_omus (s : State) (k : Nat) : (s.releaseSlots k).omus = s.omus := rfl
@[simp] theorem State.releaseSlots_dies (s : State) (k : Nat) : (s.releaseSlots k).dies = s.dies := rfl
@[simp] theorem State.releaseSlots_pkgs (s : State) (k : Nat) : (s.releaseSlots k).pkgs = s.pkgs := rfl
@[simp] theorem State.releaseSlots_launches (s : State) (k : Nat) : (s.releaseSlots k).launches = s.launches := rfl
@[simp] theorem State.releaseSlots_parked (s : State) (k : Nat) : (s.releaseSlots k).parked = s.parked := rfl
@[simp] theorem State.releaseSlots_packets (s : State) (k : Nat) : (s.releaseSlots k).packets = s.packets := rfl
@[simp] theorem State.releaseSlots_fops (s : State) (k : Nat) : (s.releaseSlots k).fops = s.fops := rfl
@[simp] theorem State.releaseSlots_steals (s : State) (k : Nat) : (s.releaseSlots k).steals = s.steals := rfl
@[simp] theorem State.releaseSlots_wakes (s : State) (k : Nat) : (s.releaseSlots k).wakes = s.wakes := rfl
@[simp] theorem State.releaseSlots_counts (s : State) (k : Nat) : (s.releaseSlots k).counts = s.counts := rfl
@[simp] theorem State.releaseSlots_flrs (s : State) (k : Nat) : (s.releaseSlots k).flrs = s.flrs := rfl
@[simp] theorem State.releaseSlots_quiesces (s : State) (k : Nat) : (s.releaseSlots k).quiesces = s.quiesces := rfl
@[simp] theorem State.releaseSlots_agenda (s : State) (k : Nat) : (s.releaseSlots k).agenda = s.agenda := rfl
@[simp] theorem State.releaseSlots_pick (s : State) (k : Nat) : (s.releaseSlots k).pick = s.pick := rfl
@[simp] theorem State.releaseSlots_turn (s : State) (k : Nat) : (s.releaseSlots k).turn = s.turn := rfl
@[simp] theorem State.releaseSlots_cur (s : State) (k : Nat) : (s.releaseSlots k).cur = s.cur := rfl
@[simp] theorem State.releaseSlots_nextCell (s : State) (k : Nat) : (s.releaseSlots k).nextCell = s.nextCell := rfl
@[simp] theorem State.releaseSlots_nextEvent (s : State) (k : Nat) : (s.releaseSlots k).nextEvent = s.nextEvent := rfl
@[simp] theorem State.releaseSlots_clock (s : State) (k : Nat) : (s.releaseSlots k).clock = s.clock := rfl
@[simp] theorem State.releaseSlots_gaps (s : State) (k : Nat) : (s.releaseSlots k).gaps = s.gaps := rfl
@[simp] theorem State.releaseSlots_checked (s : State) (k : Nat) : (s.releaseSlots k).checked = s.checked := rfl
@[simp] theorem State.releaseSlots_free (s : State) (k : Nat) : (s.releaseSlots k).free = s.free := rfl
@[simp] theorem State.releaseSlots_stamp (s : State) (k : Nat) : (s.releaseSlots k).stamp = s.stamp := rfl
@[simp] theorem State.releaseSlots_nextKey (s : State) (k : Nat) : (s.releaseSlots k).nextKey = s.nextKey := rfl

/-! ### A context -/

@[simp] theorem Ctx.setGpr_pc (c : Ctx) (r : Reg) (v : Word) : (c.setGpr r v).pc = c.pc := rfl
@[simp] theorem Ctx.setGpr_tstat (c : Ctx) (r : Reg) (v : Word) : (c.setGpr r v).tstat = c.tstat := rfl
@[simp] theorem Ctx.setGpr_tid (c : Ctx) (r : Reg) (v : Word) : (c.setGpr r v).tid = c.tid := rfl
@[simp] theorem Ctx.setGpr_seg (c : Ctx) (r : Reg) (v : Word) : (c.setGpr r v).seg = c.seg := rfl
@[simp] theorem Ctx.setGpr_wlim (c : Ctx) (r : Reg) (v : Word) : (c.setGpr r v).wlim = c.wlim := rfl
@[simp] theorem Ctx.setGpr_gpiv (c : Ctx) (r : Reg) (v : Word) : (c.setGpr r v).gpiv = c.gpiv := rfl
@[simp] theorem Ctx.setGpr_tcause (c : Ctx) (r : Reg) (v : Word) : (c.setGpr r v).tcause = c.tcause := rfl
@[simp] theorem Ctx.setGpr_tepc (c : Ctx) (r : Reg) (v : Word) : (c.setGpr r v).tepc = c.tepc := rfl
@[simp] theorem Ctx.setGpr_trec (c : Ctx) (r : Reg) (v : Word) : (c.setGpr r v).trec = c.trec := rfl
@[simp] theorem Ctx.setGpr_uvec (c : Ctx) (r : Reg) (v : Word) : (c.setGpr r v).uvec = c.uvec := rfl
@[simp] theorem Ctx.setGpr_g (c : Ctx) (r : Reg) (v : Word) : (c.setGpr r v).g = c.g.set r.toNat v r.isLt := rfl
@[simp] theorem Ctx.setGpr_v (c : Ctx) (r : Reg) (v : Word) : (c.setGpr r v).v = c.v := rfl
@[simp] theorem Ctx.setGpr_q (c : Ctx) (r : Reg) (v : Word) : (c.setGpr r v).q = c.q := rfl
@[simp] theorem Ctx.setGpr_vflags (c : Ctx) (r : Reg) (v : Word) : (c.setGpr r v).vflags = c.vflags := rfl
@[simp] theorem Ctx.setGpr_vq (c : Ctx) (r : Reg) (v : Word) : (c.setGpr r v).vq = c.vq := rfl
@[simp] theorem Ctx.setGpr_joinAddr (c : Ctx) (r : Reg) (v : Word) : (c.setGpr r v).joinAddr = c.joinAddr := rfl
@[simp] theorem Ctx.setGpr_origin (c : Ctx) (r : Reg) (v : Word) : (c.setGpr r v).origin = c.origin := rfl
@[simp] theorem Ctx.setGpr_domain (c : Ctx) (r : Reg) (v : Word) : (c.setGpr r v).domain = c.domain := rfl
@[simp] theorem Ctx.setGpr_head (c : Ctx) (r : Reg) (v : Word) : (c.setGpr r v).head = c.head := rfl
@[simp] theorem Ctx.setGpr_win (c : Ctx) (r : Reg) (v : Word) : (c.setGpr r v).win = c.win := rfl

@[simp] theorem Ctx.setVr_pc (c : Ctx) (r : VNum) (v : VReg) : (c.setVr r v).pc = c.pc := rfl
@[simp] theorem Ctx.setVr_tstat (c : Ctx) (r : VNum) (v : VReg) : (c.setVr r v).tstat = c.tstat := rfl
@[simp] theorem Ctx.setVr_tid (c : Ctx) (r : VNum) (v : VReg) : (c.setVr r v).tid = c.tid := rfl
@[simp] theorem Ctx.setVr_seg (c : Ctx) (r : VNum) (v : VReg) : (c.setVr r v).seg = c.seg := rfl
@[simp] theorem Ctx.setVr_wlim (c : Ctx) (r : VNum) (v : VReg) : (c.setVr r v).wlim = c.wlim := rfl
@[simp] theorem Ctx.setVr_gpiv (c : Ctx) (r : VNum) (v : VReg) : (c.setVr r v).gpiv = c.gpiv := rfl
@[simp] theorem Ctx.setVr_tcause (c : Ctx) (r : VNum) (v : VReg) : (c.setVr r v).tcause = c.tcause := rfl
@[simp] theorem Ctx.setVr_tepc (c : Ctx) (r : VNum) (v : VReg) : (c.setVr r v).tepc = c.tepc := rfl
@[simp] theorem Ctx.setVr_trec (c : Ctx) (r : VNum) (v : VReg) : (c.setVr r v).trec = c.trec := rfl
@[simp] theorem Ctx.setVr_uvec (c : Ctx) (r : VNum) (v : VReg) : (c.setVr r v).uvec = c.uvec := rfl
@[simp] theorem Ctx.setVr_g (c : Ctx) (r : VNum) (v : VReg) : (c.setVr r v).g = c.g := rfl
@[simp] theorem Ctx.setVr_v (c : Ctx) (r : VNum) (v : VReg) : (c.setVr r v).v = c.v.set r.toNat v r.isLt := rfl
@[simp] theorem Ctx.setVr_q (c : Ctx) (r : VNum) (v : VReg) : (c.setVr r v).q = c.q := rfl
@[simp] theorem Ctx.setVr_vflags (c : Ctx) (r : VNum) (v : VReg) : (c.setVr r v).vflags = c.vflags := rfl
@[simp] theorem Ctx.setVr_vq (c : Ctx) (r : VNum) (v : VReg) : (c.setVr r v).vq = c.vq := rfl
@[simp] theorem Ctx.setVr_joinAddr (c : Ctx) (r : VNum) (v : VReg) : (c.setVr r v).joinAddr = c.joinAddr := rfl
@[simp] theorem Ctx.setVr_origin (c : Ctx) (r : VNum) (v : VReg) : (c.setVr r v).origin = c.origin := rfl
@[simp] theorem Ctx.setVr_domain (c : Ctx) (r : VNum) (v : VReg) : (c.setVr r v).domain = c.domain := rfl
@[simp] theorem Ctx.setVr_head (c : Ctx) (r : VNum) (v : VReg) : (c.setVr r v).head = c.head := rfl
@[simp] theorem Ctx.setVr_win (c : Ctx) (r : VNum) (v : VReg) : (c.setVr r v).win = c.win := rfl

@[simp] theorem Ctx.setQr_pc (c : Ctx) (r : BitVec 3) (p : Option Port) : (c.setQr r p).pc = c.pc := rfl
@[simp] theorem Ctx.setQr_tstat (c : Ctx) (r : BitVec 3) (p : Option Port) : (c.setQr r p).tstat = c.tstat := rfl
@[simp] theorem Ctx.setQr_tid (c : Ctx) (r : BitVec 3) (p : Option Port) : (c.setQr r p).tid = c.tid := rfl
@[simp] theorem Ctx.setQr_seg (c : Ctx) (r : BitVec 3) (p : Option Port) : (c.setQr r p).seg = c.seg := rfl
@[simp] theorem Ctx.setQr_wlim (c : Ctx) (r : BitVec 3) (p : Option Port) : (c.setQr r p).wlim = c.wlim := rfl
@[simp] theorem Ctx.setQr_gpiv (c : Ctx) (r : BitVec 3) (p : Option Port) : (c.setQr r p).gpiv = c.gpiv := rfl
@[simp] theorem Ctx.setQr_tcause (c : Ctx) (r : BitVec 3) (p : Option Port) : (c.setQr r p).tcause = c.tcause := rfl
@[simp] theorem Ctx.setQr_tepc (c : Ctx) (r : BitVec 3) (p : Option Port) : (c.setQr r p).tepc = c.tepc := rfl
@[simp] theorem Ctx.setQr_trec (c : Ctx) (r : BitVec 3) (p : Option Port) : (c.setQr r p).trec = c.trec := rfl
@[simp] theorem Ctx.setQr_uvec (c : Ctx) (r : BitVec 3) (p : Option Port) : (c.setQr r p).uvec = c.uvec := rfl
@[simp] theorem Ctx.setQr_g (c : Ctx) (r : BitVec 3) (p : Option Port) : (c.setQr r p).g = c.g := rfl
@[simp] theorem Ctx.setQr_v (c : Ctx) (r : BitVec 3) (p : Option Port) : (c.setQr r p).v = c.v := rfl
@[simp] theorem Ctx.setQr_q (c : Ctx) (r : BitVec 3) (p : Option Port) : (c.setQr r p).q = c.q.set r.toNat p r.isLt := rfl
@[simp] theorem Ctx.setQr_vflags (c : Ctx) (r : BitVec 3) (p : Option Port) : (c.setQr r p).vflags = c.vflags := rfl
@[simp] theorem Ctx.setQr_vq (c : Ctx) (r : BitVec 3) (p : Option Port) : (c.setQr r p).vq = c.vq := rfl
@[simp] theorem Ctx.setQr_joinAddr (c : Ctx) (r : BitVec 3) (p : Option Port) : (c.setQr r p).joinAddr = c.joinAddr := rfl
@[simp] theorem Ctx.setQr_origin (c : Ctx) (r : BitVec 3) (p : Option Port) : (c.setQr r p).origin = c.origin := rfl
@[simp] theorem Ctx.setQr_domain (c : Ctx) (r : BitVec 3) (p : Option Port) : (c.setQr r p).domain = c.domain := rfl
@[simp] theorem Ctx.setQr_head (c : Ctx) (r : BitVec 3) (p : Option Port) : (c.setQr r p).head = c.head := rfl
@[simp] theorem Ctx.setQr_win (c : Ctx) (r : BitVec 3) (p : Option Port) : (c.setQr r p).win = c.win := rfl

@[simp] theorem Ctx.setTstat_pc (c : Ctx) (b : Nat) (v : Bool) : (c.setTstat b v).pc = c.pc := rfl
@[simp] theorem Ctx.setTstat_tid (c : Ctx) (b : Nat) (v : Bool) : (c.setTstat b v).tid = c.tid := rfl
@[simp] theorem Ctx.setTstat_seg (c : Ctx) (b : Nat) (v : Bool) : (c.setTstat b v).seg = c.seg := rfl
@[simp] theorem Ctx.setTstat_wlim (c : Ctx) (b : Nat) (v : Bool) : (c.setTstat b v).wlim = c.wlim := rfl
@[simp] theorem Ctx.setTstat_gpiv (c : Ctx) (b : Nat) (v : Bool) : (c.setTstat b v).gpiv = c.gpiv := rfl
@[simp] theorem Ctx.setTstat_tcause (c : Ctx) (b : Nat) (v : Bool) : (c.setTstat b v).tcause = c.tcause := rfl
@[simp] theorem Ctx.setTstat_tepc (c : Ctx) (b : Nat) (v : Bool) : (c.setTstat b v).tepc = c.tepc := rfl
@[simp] theorem Ctx.setTstat_trec (c : Ctx) (b : Nat) (v : Bool) : (c.setTstat b v).trec = c.trec := rfl
@[simp] theorem Ctx.setTstat_uvec (c : Ctx) (b : Nat) (v : Bool) : (c.setTstat b v).uvec = c.uvec := rfl
@[simp] theorem Ctx.setTstat_g (c : Ctx) (b : Nat) (v : Bool) : (c.setTstat b v).g = c.g := rfl
@[simp] theorem Ctx.setTstat_v (c : Ctx) (b : Nat) (v : Bool) : (c.setTstat b v).v = c.v := rfl
@[simp] theorem Ctx.setTstat_q (c : Ctx) (b : Nat) (v : Bool) : (c.setTstat b v).q = c.q := rfl
@[simp] theorem Ctx.setTstat_vflags (c : Ctx) (b : Nat) (v : Bool) : (c.setTstat b v).vflags = c.vflags := rfl
@[simp] theorem Ctx.setTstat_vq (c : Ctx) (b : Nat) (v : Bool) : (c.setTstat b v).vq = c.vq := rfl
@[simp] theorem Ctx.setTstat_joinAddr (c : Ctx) (b : Nat) (v : Bool) : (c.setTstat b v).joinAddr = c.joinAddr := rfl
@[simp] theorem Ctx.setTstat_origin (c : Ctx) (b : Nat) (v : Bool) : (c.setTstat b v).origin = c.origin := rfl
@[simp] theorem Ctx.setTstat_domain (c : Ctx) (b : Nat) (v : Bool) : (c.setTstat b v).domain = c.domain := rfl
@[simp] theorem Ctx.setTstat_head (c : Ctx) (b : Nat) (v : Bool) : (c.setTstat b v).head = c.head := rfl
@[simp] theorem Ctx.setTstat_win (c : Ctx) (b : Nat) (v : Bool) : (c.setTstat b v).win = c.win := rfl

@[simp] theorem Ctx.setPc_pc (c : Ctx) (p : Word) : (c.setPc p).pc = p := rfl
@[simp] theorem Ctx.setPc_tstat (c : Ctx) (p : Word) : (c.setPc p).tstat = c.tstat := rfl
@[simp] theorem Ctx.setPc_tid (c : Ctx) (p : Word) : (c.setPc p).tid = c.tid := rfl
@[simp] theorem Ctx.setPc_seg (c : Ctx) (p : Word) : (c.setPc p).seg = c.seg := rfl
@[simp] theorem Ctx.setPc_wlim (c : Ctx) (p : Word) : (c.setPc p).wlim = c.wlim := rfl
@[simp] theorem Ctx.setPc_gpiv (c : Ctx) (p : Word) : (c.setPc p).gpiv = c.gpiv := rfl
@[simp] theorem Ctx.setPc_tcause (c : Ctx) (p : Word) : (c.setPc p).tcause = c.tcause := rfl
@[simp] theorem Ctx.setPc_tepc (c : Ctx) (p : Word) : (c.setPc p).tepc = c.tepc := rfl
@[simp] theorem Ctx.setPc_trec (c : Ctx) (p : Word) : (c.setPc p).trec = c.trec := rfl
@[simp] theorem Ctx.setPc_uvec (c : Ctx) (p : Word) : (c.setPc p).uvec = c.uvec := rfl
@[simp] theorem Ctx.setPc_g (c : Ctx) (p : Word) : (c.setPc p).g = c.g := rfl
@[simp] theorem Ctx.setPc_v (c : Ctx) (p : Word) : (c.setPc p).v = c.v := rfl
@[simp] theorem Ctx.setPc_q (c : Ctx) (p : Word) : (c.setPc p).q = c.q := rfl
@[simp] theorem Ctx.setPc_vflags (c : Ctx) (p : Word) : (c.setPc p).vflags = c.vflags := rfl
@[simp] theorem Ctx.setPc_vq (c : Ctx) (p : Word) : (c.setPc p).vq = c.vq := rfl
@[simp] theorem Ctx.setPc_joinAddr (c : Ctx) (p : Word) : (c.setPc p).joinAddr = c.joinAddr := rfl
@[simp] theorem Ctx.setPc_origin (c : Ctx) (p : Word) : (c.setPc p).origin = c.origin := rfl
@[simp] theorem Ctx.setPc_domain (c : Ctx) (p : Word) : (c.setPc p).domain = c.domain := rfl
@[simp] theorem Ctx.setPc_head (c : Ctx) (p : Word) : (c.setPc p).head = c.head := rfl
@[simp] theorem Ctx.setPc_win (c : Ctx) (p : Word) : (c.setPc p).win = c.win := rfl

/-! ### A thread -/

@[simp] theorem Thread.modCtx_ctx (t : Thread) (f : Ctx → Ctx) : (t.modCtx f).ctx = f t.ctx := rfl
@[simp] theorem Thread.modCtx_seq (t : Thread) (f : Ctx → Ctx) : (t.modCtx f).seq = t.seq := rfl
@[simp] theorem Thread.modCtx_passdone (t : Thread) (f : Ctx → Ctx) : (t.modCtx f).passdone = t.passdone := rfl
@[simp] theorem Thread.modCtx_cpydone (t : Thread) (f : Ctx → Ctx) : (t.modCtx f).cpydone = t.cpydone := rfl
@[simp] theorem Thread.modCtx_decdone (t : Thread) (f : Ctx → Ctx) : (t.modCtx f).decdone = t.decdone := rfl
@[simp] theorem Thread.modCtx_probeout (t : Thread) (f : Ctx → Ctx) : (t.modCtx f).probeout = t.probeout := rfl
@[simp] theorem Thread.modCtx_outPass (t : Thread) (f : Ctx → Ctx) : (t.modCtx f).outPass = t.outPass := rfl
@[simp] theorem Thread.modCtx_outCpy (t : Thread) (f : Ctx → Ctx) : (t.modCtx f).outCpy = t.outCpy := rfl
@[simp] theorem Thread.modCtx_outDec (t : Thread) (f : Ctx → Ctx) : (t.modCtx f).outDec = t.outDec := rfl
@[simp] theorem Thread.modCtx_fctx (t : Thread) (f : Ctx → Ctx) : (t.modCtx f).fctx = t.fctx := rfl
@[simp] theorem Thread.modCtx_trapRep (t : Thread) (f : Ctx → Ctx) : (t.modCtx f).trapRep = t.trapRep := rfl
@[simp] theorem Thread.modCtx_watch (t : Thread) (f : Ctx → Ctx) : (t.modCtx f).watch = t.watch := rfl
@[simp] theorem Thread.modCtx_rx (t : Thread) (f : Ctx → Ctx) : (t.modCtx f).rx = t.rx := rfl
@[simp] theorem Thread.modCtx_rxErrs (t : Thread) (f : Ctx → Ctx) : (t.modCtx f).rxErrs = t.rxErrs := rfl
@[simp] theorem Thread.modCtx_gens (t : Thread) (f : Ctx → Ctx) : (t.modCtx f).gens = t.gens := rfl
@[simp] theorem Thread.modCtx_engFlts (t : Thread) (f : Ctx → Ctx) : (t.modCtx f).engFlts = t.engFlts := rfl
@[simp] theorem Thread.modCtx_promises (t : Thread) (f : Ctx → Ctx) : (t.modCtx f).promises = t.promises := rfl
@[simp] theorem Thread.modCtx_req (t : Thread) (f : Ctx → Ctx) : (t.modCtx f).req = t.req := rfl
@[simp] theorem Thread.modCtx_answer (t : Thread) (f : Ctx → Ctx) : (t.modCtx f).answer = t.answer := rfl
@[simp] theorem Thread.modCtx_homeErr (t : Thread) (f : Ctx → Ctx) : (t.modCtx f).homeErr = t.homeErr := rfl
@[simp] theorem Thread.modCtx_heldSince (t : Thread) (f : Ctx → Ctx) : (t.modCtx f).heldSince = t.heldSince := rfl
@[simp] theorem Thread.modCtx_waitOpr (t : Thread) (f : Ctx → Ctx) : (t.modCtx f).waitOpr = t.waitOpr := rfl
@[simp] theorem Thread.modCtx_run (t : Thread) (f : Ctx → Ctx) : (t.modCtx f).run = t.run := rfl
@[simp] theorem Thread.modCtx_place (t : Thread) (f : Ctx → Ctx) : (t.modCtx f).place = t.place := rfl
@[simp] theorem Thread.modCtx_vf (t : Thread) (f : Ctx → Ctx) : (t.modCtx f).vf = t.vf := rfl
@[simp] theorem Thread.modCtx_launch (t : Thread) (f : Ctx → Ctx) : (t.modCtx f).launch = t.launch := rfl
@[simp] theorem Thread.modCtx_flat (t : Thread) (f : Ctx → Ctx) : (t.modCtx f).flat = t.flat := rfl
@[simp] theorem Thread.modCtx_vslot (t : Thread) (f : Ctx → Ctx) : (t.modCtx f).vslot = t.vslot := rfl
@[simp] theorem Thread.modCtx_nurse (t : Thread) (f : Ctx → Ctx) : (t.modCtx f).nurse = t.nurse := rfl
@[simp] theorem Thread.modCtx_gang (t : Thread) (f : Ctx → Ctx) : (t.modCtx f).gang = t.gang := rfl
@[simp] theorem Thread.modCtx_todo (t : Thread) (f : Ctx → Ctx) : (t.modCtx f).todo = t.todo := rfl
@[simp] theorem Thread.modCtx_retry (t : Thread) (f : Ctx → Ctx) : (t.modCtx f).retry = t.retry := rfl
@[simp] theorem Thread.modCtx_posted (t : Thread) (f : Ctx → Ctx) : (t.modCtx f).posted = t.posted := rfl
@[simp] theorem Thread.modCtx_preempt (t : Thread) (f : Ctx → Ctx) : (t.modCtx f).preempt = t.preempt := rfl
@[simp] theorem Thread.modCtx_forced (t : Thread) (f : Ctx → Ctx) : (t.modCtx f).forced = t.forced := rfl
@[simp] theorem Thread.modCtx_masks (t : Thread) (f : Ctx → Ctx) : (t.modCtx f).masks = t.masks := rfl
@[simp] theorem Thread.modCtx_spilled (t : Thread) (f : Ctx → Ctx) : (t.modCtx f).spilled = t.spilled := rfl
@[simp] theorem Thread.modCtx_slotSince (t : Thread) (f : Ctx → Ctx) : (t.modCtx f).slotSince = t.slotSince := rfl
@[simp] theorem Thread.modCtx_vErr (t : Thread) (f : Ctx → Ctx) : (t.modCtx f).vErr = t.vErr := rfl

@[simp] theorem Thread.commitAt_seq (t : Thread) (p : Word) : (t.commitAt p).seq = t.seq := rfl
@[simp] theorem Thread.commitAt_passdone (t : Thread) (p : Word) : (t.commitAt p).passdone = t.passdone := rfl
@[simp] theorem Thread.commitAt_cpydone (t : Thread) (p : Word) : (t.commitAt p).cpydone = t.cpydone := rfl
@[simp] theorem Thread.commitAt_decdone (t : Thread) (p : Word) : (t.commitAt p).decdone = t.decdone := rfl
@[simp] theorem Thread.commitAt_probeout (t : Thread) (p : Word) : (t.commitAt p).probeout = t.probeout := rfl
@[simp] theorem Thread.commitAt_outPass (t : Thread) (p : Word) : (t.commitAt p).outPass = t.outPass := rfl
@[simp] theorem Thread.commitAt_outCpy (t : Thread) (p : Word) : (t.commitAt p).outCpy = t.outCpy := rfl
@[simp] theorem Thread.commitAt_outDec (t : Thread) (p : Word) : (t.commitAt p).outDec = t.outDec := rfl
@[simp] theorem Thread.commitAt_fctx (t : Thread) (p : Word) : (t.commitAt p).fctx = t.fctx := rfl
@[simp] theorem Thread.commitAt_trapRep (t : Thread) (p : Word) : (t.commitAt p).trapRep = t.trapRep := rfl
@[simp] theorem Thread.commitAt_watch (t : Thread) (p : Word) : (t.commitAt p).watch = none := rfl
@[simp] theorem Thread.commitAt_rx (t : Thread) (p : Word) : (t.commitAt p).rx = t.rx := rfl
@[simp] theorem Thread.commitAt_rxErrs (t : Thread) (p : Word) : (t.commitAt p).rxErrs = t.rxErrs := rfl
@[simp] theorem Thread.commitAt_gens (t : Thread) (p : Word) : (t.commitAt p).gens = t.gens := rfl
@[simp] theorem Thread.commitAt_engFlts (t : Thread) (p : Word) : (t.commitAt p).engFlts = t.engFlts := rfl
@[simp] theorem Thread.commitAt_promises (t : Thread) (p : Word) : (t.commitAt p).promises = t.promises := rfl
@[simp] theorem Thread.commitAt_req (t : Thread) (p : Word) : (t.commitAt p).req = none := rfl
@[simp] theorem Thread.commitAt_answer (t : Thread) (p : Word) : (t.commitAt p).answer = none := rfl
@[simp] theorem Thread.commitAt_homeErr (t : Thread) (p : Word) : (t.commitAt p).homeErr = none := rfl
@[simp] theorem Thread.commitAt_heldSince (t : Thread) (p : Word) : (t.commitAt p).heldSince = none := rfl
@[simp] theorem Thread.commitAt_waitOpr (t : Thread) (p : Word) : (t.commitAt p).waitOpr = t.waitOpr := rfl
@[simp] theorem Thread.commitAt_run (t : Thread) (p : Word) : (t.commitAt p).run = .ready := rfl
@[simp] theorem Thread.commitAt_place (t : Thread) (p : Word) : (t.commitAt p).place = t.place := rfl
@[simp] theorem Thread.commitAt_vf (t : Thread) (p : Word) : (t.commitAt p).vf = t.vf := rfl
@[simp] theorem Thread.commitAt_launch (t : Thread) (p : Word) : (t.commitAt p).launch = t.launch := rfl
@[simp] theorem Thread.commitAt_flat (t : Thread) (p : Word) : (t.commitAt p).flat = t.flat := rfl
@[simp] theorem Thread.commitAt_vslot (t : Thread) (p : Word) : (t.commitAt p).vslot = t.vslot := rfl
@[simp] theorem Thread.commitAt_nurse (t : Thread) (p : Word) : (t.commitAt p).nurse = t.nurse := rfl
@[simp] theorem Thread.commitAt_gang (t : Thread) (p : Word) : (t.commitAt p).gang = t.gang := rfl
@[simp] theorem Thread.commitAt_todo (t : Thread) (p : Word) : (t.commitAt p).todo = none := rfl
@[simp] theorem Thread.commitAt_retry (t : Thread) (p : Word) : (t.commitAt p).retry = t.retry := rfl
@[simp] theorem Thread.commitAt_posted (t : Thread) (p : Word) : (t.commitAt p).posted = none := rfl
@[simp] theorem Thread.commitAt_preempt (t : Thread) (p : Word) : (t.commitAt p).preempt = t.preempt := rfl
@[simp] theorem Thread.commitAt_forced (t : Thread) (p : Word) : (t.commitAt p).forced = t.forced := rfl
@[simp] theorem Thread.commitAt_masks (t : Thread) (p : Word) : (t.commitAt p).masks = t.masks := rfl
@[simp] theorem Thread.commitAt_spilled (t : Thread) (p : Word) : (t.commitAt p).spilled = t.spilled := rfl
@[simp] theorem Thread.commitAt_slotSince (t : Thread) (p : Word) : (t.commitAt p).slotSince = t.slotSince := rfl
@[simp] theorem Thread.commitAt_vErr (t : Thread) (p : Word) : (t.commitAt p).vErr = t.vErr := rfl

/-! ### Registers -/

/-- A general register just written reads as written. -/
@[simp] theorem Ctx.gpr_setGpr_same (c : Ctx) (r : Reg) (v : Word) : (c.setGpr r v).gpr r = v := by
  show (c.g.set r.toNat v r.isLt)[r.toNat] = v
  exact Vector.getElem_set_self ..

/-- Other general registers read as before. -/
theorem Ctx.gpr_setGpr_other (c : Ctx) {r q : Reg} (h : q ≠ r) (v : Word) : (c.setGpr r v).gpr q = c.gpr q := by
  have h' : r.toNat ≠ q.toNat := fun e => h (BitVec.eq_of_toNat_eq e.symm)
  show (c.g.set r.toNat v r.isLt)[q.toNat] = c.g[q.toNat]
  exact Vector.getElem_set_ne _ _ h'

/-! ### Threads and units by name -/

@[simp] theorem State.thread?_setThread (s : State) (k : Nat) (t : Thread) : (s.setThread k t).thread? k = some t :=
  look?_putAt_same k t s.threads

theorem State.thread?_setThread_other (s : State) {k j : Nat} (h : j ≠ k) (t : Thread) :
    (s.setThread k t).thread? j = s.thread? j := look?_putAt_other h t s.threads

@[simp] theorem State.setThread_setThread (s : State) (k : Nat) (t u : Thread) :
    (s.setThread k t).setThread k u = s.setThread k u := by
  simp [State.setThread]

@[simp] theorem State.cell_setCell (s : State) (c : PCell) (x : Cell) : (s.setCell c x).cell c = x :=
  lookD_putAt_same _ c x s.cells
@[simp] theorem State.vcell_setVcell (s : State) (c : LCell) (x : VCell) : (s.setVcell c x).vcell c = x :=
  lookD_putAt_same _ c x s.vcells
@[simp] theorem State.cluster_setCluster (s : State) (c : ClusterId) (x : Cluster) : (s.setCluster c x).cluster c = x :=
  lookD_putAt_same _ c x s.clusters
@[simp] theorem State.omu_setOmu (s : State) (c : ClusterId) (x : Omu) : (s.setOmu c x).omu c = x :=
  lookD_putAt_same _ c x s.omus
@[simp] theorem State.die_setDie (s : State) (p d : Nat) (x : Die) : (s.setDie p d x).die p d = x :=
  lookD_putAt_same _ (p, d) x s.dies
@[simp] theorem State.pkg_setPkg (s : State) (p : Nat) (x : Package) : (s.setPkg p x).pkg p = x :=
  lookD_putAt_same _ p x s.pkgs
@[simp] theorem State.launch?_setLaunch (s : State) (k : Nat) (l : Launch) : (s.setLaunch k l).launch? k = some l :=
  look?_putAt_same k l s.launches

/-- A change of a live thread's record puts the changed record. -/
theorem State.modThread_some {s : State} {k : Nat} {t : Thread} (h : s.thread? k = some t) (f : Thread → Thread) :
    s.modThread k f = s.setThread k (f t) := by
  simp [State.modThread, h]

/-- A thread that does not live is not changed. -/
theorem State.modThread_none {s : State} {k : Nat} (h : s.thread? k = none) (f : Thread → Thread) :
    s.modThread k f = s := by
  simp [State.modThread, h]

end Sys2Proof.Machine
end

