-- ==== Sys2Proof/Laws/Ops.lean ====
section
/-! SUPPORT. What the operations that meanings share can do: issue, the end of an instruction, registers, and what none of them touches. -/
namespace Sys2Proof.Machine
open Sys2Proof

/-! ### Issue -/

/-- An instruction always answers a next state where its thread lives. -/
theorem issue_next {i : Instr} {s : State} {b : Body} {k : Nat} {t : Thread} (hk : s.cur = some k)
    (ht : s.thread? k = some t) : ∃ s', issue i s b = .next s' := by
  unfold issue
  simp only [hk, ht]
  cases t.ctx.head with
  | none => exact ⟨_, rfl⟩
  | some h => exact ⟨_, rfl⟩

/-- An instruction without a live thread is a fault. -/
theorem issue_noThread {i : Instr} {s : State} {b : Body} (h : s.cur.bind s.thread? = none) :
    issue i s b = .fault .noThread := by
  unfold issue
  cases hk : s.cur with
  | none => rfl
  | some k => simp only [hk, Option.bind_some] at h; simp only [h]

/-- With no head held, an instruction ends as its own part says. -/
theorem issue_plain {i : Instr} {s : State} {b : Body} {k : Nat} {t : Thread} (hk : s.cur = some k)
    (ht : s.thread? k = some t) (hh : t.ctx.head = none) : issue i s b = .next (settle i k t (b s k t)) := by
  unfold issue
  simp only [hk, ht, hh]

/-! ### Committing -/

/-- A register written and the instruction committed: the record of the thread is put once. -/
theorem State.setReg_eq {s : State} {k : Nat} {t : Thread} (ht : s.thread? k = some t) (d : Reg) (v : Word) :
    s.setReg k d v = s.setThread k { t with ctx := t.ctx.setGpr d v } := State.modThread_some ht _

/-- A commit of a live thread puts its committed record. -/
theorem State.commit_eq {s : State} {k : Nat} {t : Thread} (ht : s.thread? k = some t) (pc : Word) :
    s.commit k pc = (s.setThread k (t.commitAt pc)).unyield k := by
  unfold State.commit
  rw [State.modThread_some ht]

/-- A commit after a thread's record was put. -/
@[simp] theorem State.commit_setThread (s : State) (k : Nat) (t : Thread) (pc : Word) :
    (s.setThread k t).commit k pc = (s.setThread k (t.commitAt pc)).unyield k := by
  rw [State.commit_eq (State.thread?_setThread s k t), State.setThread_setThread]

/-- A table with every value mapped. -/
theorem look?_map {α β γ : Type} [DecidableEq α] (f : β → γ) (k : α) : ∀ l : List (α × β),
    look? k (l.map fun x => (x.1, f x.2)) = (look? k l).map f
  | [] => rfl
  | (a, b) :: l => by
    by_cases h : a = k
    · simp [look?, h]
    · simp only [List.map_cons, look?, h, ↓reduceIte]; exact look?_map f k l

/-- What a yielded thread waits for shrinks; every other record is as it was (R165). -/
@[simp] theorem State.thread?_unyield (s : State) (k j : Nat) :
    (s.unyield k).thread? j = (s.thread? j).map fun t => t.unwait k := look?_map (fun t : Thread => t.unwait k) j s.threads

/-- A thread that has not yielded is as it was. -/
theorem Thread.unwait_ready {t : Thread} (h : t.run = .ready) (k : Nat) : t.unwait k = t := by
  simp [Thread.unwait, h]

/-- Only what a thread waits for changes. -/
@[simp] theorem Thread.unwait_ctx (t : Thread) (k : Nat) : (t.unwait k).ctx = t.ctx := by
  unfold Thread.unwait; split <;> rfl

/-- A committed thread: its record after the commit. -/
@[simp] theorem State.thread?_committed (s : State) (k : Nat) (t : Thread) (pc : Word) :
    ((s.setThread k (t.commitAt pc)).unyield k).thread? k = some (t.commitAt pc) := by
  simp [Thread.unwait]

end Sys2Proof.Machine
end

