-- ==== Sys2Proof/Laws/Access.lean ====
section
/-! SUPPORT. What the operations of an access leave alone: translation, cache ways and fences never touch a thread's record or a parked
request, and fences commute with a change of a thread's record. -/
namespace Sys2Proof.Machine
open Sys2Proof

/-! ### A thread's own record -/

/-- The value a table already holds, put again, changes nothing. -/
theorem putAt_self {α β : Type} [DecidableEq α] {k : α} {v : β} : ∀ {l : List (α × β)}, look? k l = some v → putAt k v l = l
  | [], h => by simp [look?] at h
  | (a, b) :: l, h => by
    by_cases e : a = k
    · simp only [look?, e, ↓reduceIte, Option.some.injEq] at h
      simp [putAt, e, h]
    · simp only [look?, e, ↓reduceIte] at h
      simp only [putAt, e, ↓reduceIte, putAt_self h]

/-- A thread's record put again changes nothing. -/
theorem State.setThread_self {s : State} {k : Nat} {t : Thread} (h : s.thread? k = some t) : s.setThread k t = s := by
  show { s with threads := putAt k t s.threads } = s
  rw [putAt_self h]

/-- A thread with no unacknowledged store has nothing to drain. -/
theorem State.drainRx_quiet {s : State} {k : Nat} {t : Thread} (h : s.thread? k = some t) (hr : t.rx = []) : s.drainRx k = s := by
  have e : ({ t with rx := [] } : Thread) = t := by rw [← hr]
  simp only [State.drainRx, h, hr, List.foldl_nil, State.modThread_some h, e, State.setThread_self h]

/-- A thread with no relaxed store outstanding does not wait for one. -/
theorem State.waitRx_quiet {s : State} {k : Nat} {t : Thread} (h : s.thread? k = some t) (hr : t.rx = []) (he : t.rxErrs = []) :
    s.waitRx k = .ok s := by
  simp only [State.waitRx, State.drainRx_quiet h hr, h, Option.map_some, he]

/-! ### Translation and cache ways -/

@[simp] theorem State.fillTlb_threads (s : State) (c : PCell) (f : Bool) (l : Loc) : (s.fillTlb c f l).threads = s.threads := by
  unfold State.fillTlb; split <;> rfl
@[simp] theorem State.fillTlb_parked (s : State) (c : PCell) (f : Bool) (l : Loc) : (s.fillTlb c f l).parked = s.parked := by
  unfold State.fillTlb; split <;> rfl
@[simp] theorem State.fillTlb_fe (s : State) (c : PCell) (f : Bool) (l : Loc) : (s.fillTlb c f l).fe = s.fe := by
  unfold State.fillTlb; split <;> rfl
@[simp] theorem State.fillTlb_mem (s : State) (c : PCell) (f : Bool) (l : Loc) : (s.fillTlb c f l).mem = s.mem := by
  unfold State.fillTlb; split <;> rfl
@[simp] theorem State.fillTlb_launches (s : State) (c : PCell) (f : Bool) (l : Loc) : (s.fillTlb c f l).launches = s.launches := by
  unfold State.fillTlb; split <;> rfl

/-- What s holds of threads, parked requests, launches, full/empty bits, dies and the clock is also what s' holds. -/
structure State.SameWorld (s s' : State) : Prop where
  threads : s'.threads = s.threads
  parked : s'.parked = s.parked
  launches : s'.launches = s.launches
  fe : s'.fe = s.fe
  dies : s'.dies = s.dies
  clock : s'.clock = s.clock
  tlbs : ∀ c, (s'.cluster c).tlbis = (s.cluster c).tlbis

theorem State.SameWorld.rfl' (s : State) : State.SameWorld s s := ⟨rfl, rfl, rfl, rfl, rfl, rfl, fun _ => rfl⟩

theorem State.SameWorld.trans {a b c : State} (h : State.SameWorld a b) (g : State.SameWorld b c) : State.SameWorld a c :=
  ⟨g.threads.trans h.threads, g.parked.trans h.parked, g.launches.trans h.launches, g.fe.trans h.fe, g.dies.trans h.dies,
    g.clock.trans h.clock, fun x => (g.tlbs x).trans (h.tlbs x)⟩

/-- A thread's record after an operation that leaves the world alone. -/
theorem State.SameWorld.thread {a b : State} (h : State.SameWorld a b) (k : Nat) : b.thread? k = a.thread? k := by
  unfold State.thread?; rw [h.threads]

theorem State.sameWorld_setCell (s : State) (c : PCell) (x : Cell) : State.SameWorld s (s.setCell c x) :=
  ⟨rfl, rfl, rfl, rfl, rfl, rfl, fun _ => rfl⟩
theorem State.sameWorld_store (s : State) (k : Nat) (bs : List Byte) : State.SameWorld s (s.store k bs) :=
  ⟨rfl, rfl, rfl, rfl, rfl, rfl, fun _ => rfl⟩
theorem State.sameWorld_writeBack (s : State) (l : Line) : State.SameWorld s (s.writeBack l) :=
  ⟨rfl, rfl, rfl, rfl, rfl, rfl, fun _ => rfl⟩
theorem State.sameWorld_writeBacks : ∀ (ls : List Line) (s : State), State.SameWorld s (ls.foldl State.writeBack s)
  | [], s => .rfl' s
  | l :: ls, s => (State.sameWorld_writeBack s l).trans (State.sameWorld_writeBacks ls (s.writeBack l))

theorem State.sameWorld_fillTlb (s : State) (c : PCell) (f : Bool) (l : Loc) : State.SameWorld s (s.fillTlb c f l) := by
  unfold State.fillTlb
  split
  · exact .rfl' s
  · refine ⟨rfl, rfl, rfl, rfl, rfl, rfl, fun x => ?_⟩
    simp only [State.setCluster, State.setCell, State.cluster]
    by_cases h : clusterOf c = x
    · subst h; rw [lookD_putAt_same]
    · rw [lookD_putAt_other _ (Ne.symm h)]

theorem State.sameWorld_free (s : State) (n : Nat) : State.SameWorld s { s with free := n } :=
  ⟨rfl, rfl, rfl, rfl, rfl, rfl, fun _ => rfl⟩

theorem State.sameWorld_mapLines (s : State) (f : PCell → List Line → List Line) : State.SameWorld s (s.mapLines f) :=
  ⟨rfl, rfl, rfl, rfl, rfl, rfl, fun _ => rfl⟩

theorem State.sameWorld_cleanWhere (s : State) (p : PCell → Line → Bool) : State.SameWorld s (s.cleanWhere p) :=
  (sameWorld_writeBacks _ s).trans (sameWorld_mapLines ..)

theorem State.sameWorld_flushWhere (s : State) (p : PCell → Line → Bool) : State.SameWorld s (s.flushWhere p) :=
  (sameWorld_writeBacks _ s).trans (sameWorld_mapLines ..)

/-- A line placed changes cache ways, memory and the count of free values at most. -/
theorem State.sameWorld_placeLine (pin : Nat) : ∀ (n : Nat) (s : State) (c : PCell) (l : Line), State.SameWorld s (s.placeLine pin n c l)
  | 0, s, _, l => sameWorld_writeBack s l
  | n + 1, s, c, l => by
    rw [State.placeLine]
    simp only
    split
    · exact sameWorld_setCell ..
    · split
      · exact sameWorld_writeBack ..
      · split
        · refine State.SameWorld.trans ?_ (sameWorld_placeLine pin n _ _ _)
          exact ((sameWorld_setCell ..).trans (sameWorld_free ..)).trans (sameWorld_flushWhere ..)
        · exact ((sameWorld_setCell ..).trans (sameWorld_free ..)).trans (sameWorld_writeBack ..)

theorem State.sameWorld_fetchLine (s : State) (c : PCell) (key : Nat) : State.SameWorld s (s.fetchLine c key).2 := by
  unfold State.fetchLine
  split
  · exact .rfl' s
  · simp only
    split
    · exact sameWorld_placeLine ..
    · split
      · exact (sameWorld_setCell ..).trans (sameWorld_placeLine ..)
      · exact sameWorld_placeLine ..

/-- A read changes cache ways at most. -/
theorem readAt_same {s s' : State} {w : Who} {loc : Loc} {n : Nat} {b : Bool} {bs : List Byte} (h : readAt s w loc n b = .ok (bs, s')) :
    State.SameWorld s s' := by
  unfold readAt at h
  split at h
  · cases h; exact .rfl' s
  · split at h
    · cases h
    · split at h
      · cases h
      · split at h
        · cases h; exact State.sameWorld_fetchLine ..
        · cases h; exact .rfl' s

theorem State.sameWorld_flushRange (s : State) (c : PCell) (key n : Nat) (d : Bool) : State.SameWorld s (s.flushRange c key n d) := by
  unfold State.flushRange
  simp only
  split
  · exact sameWorld_flushWhere ..
  · exact sameWorld_cleanWhere ..

/-- A read of a thread changes memory and cache ways at most. -/
theorem readOwn_same {s s' : State} {w : Who} {loc : Loc} {n : Nat} {b : Bool} {bs : List Byte} (h : readOwn s w loc n b = .ok (bs, s')) :
    State.SameWorld s s' := by
  unfold readOwn at h
  split at h
  · exact (State.sameWorld_flushRange ..).trans (readAt_same h)
  · exact readAt_same h

theorem State.sameWorld_updateLines (s : State) (c : PCell) (key : Nat) (bs : List Byte) : State.SameWorld s (s.updateLines c key bs) :=
  sameWorld_mapLines s fun m ls => ls.map fun l => if l.key == lineKey key && s.meets c m l then l.put (key % 64) bs true else l

/-- Bytes stored at their home by a cell change memory and cache ways at most. -/
theorem State.sameWorld_storeFrom (s : State) (c : PCell) (key : Nat) (bs : List Byte) : State.SameWorld s (s.storeFrom c key bs) :=
  let victim (m : PCell) (l : Line) : Bool := l.key == lineKey key && l.owner.isSome && s.meets c m l
  ((sameWorld_cleanWhere s victim).trans (sameWorld_store _ key bs)).trans (sameWorld_updateLines ..)

/-- A write changes memory and cache ways at most. -/
theorem writeAt_same {s s' : State} {w : Who} {loc : Loc} {bs : List Byte} {b : Bool} (h : writeAt s w loc bs b = .ok s') :
    State.SameWorld s s' := by
  unfold writeAt at h
  split at h
  · cases h
  · split at h
    · cases h
      exact (State.sameWorld_fetchLine ..).trans (State.sameWorld_setCell ..)
    · cases h
      exact State.sameWorld_storeFrom ..

/-! ### Fences -/

theorem State.sameWorld_cleanAll (s : State) (c : PCell) : State.SameWorld s (s.cleanAll c) := sameWorld_cleanWhere ..

theorem State.sameWorld_flushAll (s : State) (c : PCell) : State.SameWorld s (s.flushAll c) := sameWorld_flushWhere ..

theorem releaseAt_same (s : State) (c : PCell) (sc : Sys2Proof.Scope) : State.SameWorld s (releaseAt s c sc) := by
  unfold releaseAt; split
  · exact State.sameWorld_cleanAll ..
  · exact .rfl' s

theorem acquireAt_same (s : State) (c : PCell) (sc : Sys2Proof.Scope) : State.SameWorld s (acquireAt s c sc) := by
  unfold acquireAt; split
  · exact State.sameWorld_flushAll ..
  · exact .rfl' s

theorem Loc.settle_same (loc : Loc) (s : State) (c : PCell) (n : Nat) : State.SameWorld s (loc.settle s c n) := by
  unfold Loc.settle; split
  · exact State.sameWorld_flushRange ..
  · exact .rfl' s

/-- Lines written back beside a change of a thread's record. -/
theorem State.writeBacks_setThread (k : Nat) (t : Thread) : ∀ (ls : List Line) (s : State),
    ls.foldl State.writeBack (s.setThread k t) = (ls.foldl State.writeBack s).setThread k t
  | [], _ => rfl
  | l :: ls, s => State.writeBacks_setThread k t ls (s.writeBack l)

/-- An acquire and a change of a thread's record commute. -/
theorem acquireAt_setThread (s : State) (c : PCell) (sc : Sys2Proof.Scope) (k : Nat) (t : Thread) :
    acquireAt (s.setThread k t) c sc = (acquireAt s c sc).setThread k t := by
  unfold acquireAt
  split
  · unfold State.flushAll State.flushWhere
    have : (s.setThread k t).linesWhere ((s.setThread k t).meets c) = s.linesWhere (s.meets c) := rfl
    rw [this, State.writeBacks_setThread]; rfl
  · rfl

/-- Nothing but a word's waiters is served when the word changes: with none waiting, nothing happens. -/
theorem State.wordChanged_none {s : State} {key : Nat} (h : ∀ p ∈ s.parked, p.req.key ≠ key) : s.wordChanged key = s := by
  unfold State.wordChanged State.serveWord
  have : (s.parked.find? fun p => p.req.key == key && s.servable p.req) = none := by
    rw [List.find?_eq_none]
    intro p hp
    simp [h p hp]
  simp only [this]

end Sys2Proof.Machine
end

