-- ==== Sys2Proof/Laws/Dispatch.lean ====
section
/-! SUPPORT. Each instruction and event is its own meaning: one lemma per constructor, so that no proof unfolds the dispatch. -/
namespace Sys2Proof.Machine
open Sys2Proof

theorem exec_add (s : State) (o : RRS) : exec (.add o) s = execAdd o s := rfl
theorem exec_sub (s : State) (o : RRS) : exec (.sub o) s = execSub o s := rfl
theorem exec_and (s : State) (o : RRS) : exec (.and o) s = execAnd o s := rfl
theorem exec_or (s : State) (o : RRS) : exec (.or o) s = execOr o s := rfl
theorem exec_xor (s : State) (o : RRS) : exec (.xor o) s = execXor o s := rfl
theorem exec_andn (s : State) (o : RRS) : exec (.andn o) s = execAndn o s := rfl
theorem exec_shl (s : State) (o : RRS) : exec (.shl o) s = execShl o s := rfl
theorem exec_shr (s : State) (o : RRS) : exec (.shr o) s = execShr o s := rfl
theorem exec_sar (s : State) (o : RRS) : exec (.sar o) s = execSar o s := rfl
theorem exec_rol (s : State) (o : RRS) : exec (.rol o) s = execRol o s := rfl
theorem exec_mul (s : State) (o : RRSL) : exec (.mul o) s = execMul o s := rfl
theorem exec_mulh (s : State) (o : RRSL) : exec (.mulh o) s = execMulh o s := rfl
theorem exec_mulhn (s : State) (o : RRSL) : exec (.mulhn o) s = execMulhn o s := rfl
theorem exec_div (s : State) (o : RRSL) : exec (.div o) s = execDiv o s := rfl
theorem exec_divn (s : State) (o : RRSL) : exec (.divn o) s = execDivn o s := rfl
theorem exec_rem (s : State) (o : RRSL) : exec (.rem o) s = execRem o s := rfl
theorem exec_remn (s : State) (o : RRSL) : exec (.remn o) s = execRemn o s := rfl
theorem exec_min (s : State) (o : RRS) : exec (.min o) s = execMin o s := rfl
theorem exec_max (s : State) (o : RRS) : exec (.max o) s = execMax o s := rfl
theorem exec_minn (s : State) (o : RRS) : exec (.minn o) s = execMinn o s := rfl
theorem exec_maxn (s : State) (o : RRS) : exec (.maxn o) s = execMaxn o s := rfl
theorem exec_slt (s : State) (o : RRS) : exec (.slt o) s = execSlt o s := rfl
theorem exec_sltn (s : State) (o : RRS) : exec (.sltn o) s = execSltn o s := rfl
theorem exec_seq (s : State) (o : RRS) : exec (.seq o) s = execSeq o s := rfl
theorem exec_sel (s : State) (d : Reg) (a : Reg) (b : Reg) (c : Reg) : exec (.sel d a b c) s = execSel d a b c s := rfl
theorem exec_clz (s : State) (d : Reg) (a : Reg) : exec (.clz d a) s = execClz d a s := rfl
theorem exec_ctz (s : State) (d : Reg) (a : Reg) : exec (.ctz d a) s = execCtz d a s := rfl
theorem exec_popc (s : State) (d : Reg) (a : Reg) : exec (.popc d a) s = execPopc d a s := rfl
theorem exec_bext (s : State) (o : RRS) : exec (.bext o) s = execBext o s := rfl
theorem exec_bins (s : State) (o : RRS) : exec (.bins o) s = execBins o s := rfl
theorem exec_sext (s : State) (d : Reg) (a : Reg) (w : Width) : exec (.sext d a w) s = execSext d a w s := rfl
theorem exec_zext (s : State) (d : Reg) (a : Reg) (w : Width) : exec (.zext d a w) s = execZext d a w s := rfl
theorem exec_bswap (s : State) (d : Reg) (a : Reg) : exec (.bswap d a) s = execBswap d a s := rfl
theorem exec_addi (s : State) (o : RRI) : exec (.addi o) s = execAddi o s := rfl
theorem exec_andi (s : State) (o : RRI) : exec (.andi o) s = execAndi o s := rfl
theorem exec_ori (s : State) (o : RRI) : exec (.ori o) s = execOri o s := rfl
theorem exec_xori (s : State) (o : RRI) : exec (.xori o) s = execXori o s := rfl
theorem exec_li (s : State) (d : Reg) (imm : BitVec 16) : exec (.li d imm) s = execLi d imm s := rfl
theorem exec_liImm64 (s : State) (d : Reg) (w : Word) : exec (.liImm64 d w) s = execLiImm64 d w s := rfl
theorem exec_lil (s : State) (d : Reg) (imm : BitVec 16) : exec (.lil d imm) s = execLil d imm s := rfl
theorem exec_lhi (s : State) (d : Reg) (imm : BitVec 16) : exec (.lhi d imm) s = execLhi d imm s := rfl
theorem exec_shli (s : State) (o : RRN) : exec (.shli o) s = execShli o s := rfl
theorem exec_shri (s : State) (o : RRN) : exec (.shri o) s = execShri o s := rfl
theorem exec_sari (s : State) (o : RRN) : exec (.sari o) s = execSari o s := rfl
theorem exec_slti (s : State) (o : RMem) : exec (.slti o) s = execSlti o s := rfl
theorem exec_sltni (s : State) (o : RMem) : exec (.sltni o) s = execSltni o s := rfl
theorem exec_lea (s : State) (o : RMem) : exec (.lea o) s = execLea o s := rfl
theorem exec_beq (s : State) (o : Branch) : exec (.beq o) s = execBeq o s := rfl
theorem exec_bne (s : State) (o : Branch) : exec (.bne o) s = execBne o s := rfl
theorem exec_blt (s : State) (o : Branch) : exec (.blt o) s = execBlt o s := rfl
theorem exec_bge (s : State) (o : Branch) : exec (.bge o) s = execBge o s := rfl
theorem exec_bltn (s : State) (o : Branch) : exec (.bltn o) s = execBltn o s := rfl
theorem exec_bgen (s : State) (o : Branch) : exec (.bgen o) s = execBgen o s := rfl
theorem exec_beqi (s : State) (o : BranchI) : exec (.beqi o) s = execBeqi o s := rfl
theorem exec_bnei (s : State) (o : BranchI) : exec (.bnei o) s = execBnei o s := rfl
theorem exec_loop (s : State) (a : Reg) (off : BitVec 16) : exec (.loop a off) s = execLoop a off s := rfl
theorem exec_j (s : State) (off : BitVec 16) : exec (.j off) s = execJ off s := rfl
theorem exec_jr (s : State) (a : Reg) : exec (.jr a) s = execJr a s := rfl
theorem exec_jalr (s : State) (a : Reg) : exec (.jalr a) s = execJalr a s := rfl
theorem exec_jal (s : State) (d : Reg) (off : BitVec 20) : exec (.jal d off) s = execJal d off s := rfl
theorem exec_ldb (s : State) (o : Load) : exec (.ldb o) s = execLdb o s := rfl
theorem exec_ldh (s : State) (o : Load) : exec (.ldh o) s = execLdh o s := rfl
theorem exec_ldw (s : State) (o : Load) : exec (.ldw o) s = execLdw o s := rfl
theorem exec_ldd (s : State) (o : Load) : exec (.ldd o) s = execLdd o s := rfl
theorem exec_ldbn (s : State) (o : Load) : exec (.ldbn o) s = execLdbn o s := rfl
theorem exec_ldhn (s : State) (o : Load) : exec (.ldhn o) s = execLdhn o s := rfl
theorem exec_ldwn (s : State) (o : Load) : exec (.ldwn o) s = execLdwn o s := rfl
theorem exec_stb (s : State) (o : Store) : exec (.stb o) s = execStb o s := rfl
theorem exec_sth (s : State) (o : Store) : exec (.sth o) s = execSth o s := rfl
theorem exec_stw (s : State) (o : Store) : exec (.stw o) s = execStw o s := rfl
theorem exec_std (s : State) (o : Store) : exec (.std o) s = execStd o s := rfl
theorem exec_ldff (s : State) (o : RMem) : exec (.ldff o) s = execLdff o s := rfl
theorem exec_ldfe (s : State) (o : RMem) : exec (.ldfe o) s = execLdfe o s := rfl
theorem exec_stef (s : State) (o : RMem) : exec (.stef o) s = execStef o s := rfl
theorem exec_stff (s : State) (o : RMem) : exec (.stff o) s = execStff o s := rfl
theorem exec_feq (s : State) (o : RMem) : exec (.feq o) s = execFeq o s := rfl
theorem exec_feset (s : State) (a : Reg) (imm : Disp) : exec (.feset a imm) s = execFeset a imm s := rfl
theorem exec_feclr (s : State) (a : Reg) (imm : Disp) : exec (.feclr a imm) s = execFeclr a imm s := rfl
theorem exec_afadd (s : State) (o : Atomic) : exec (.afadd o) s = execAfadd o s := rfl
theorem exec_afand (s : State) (o : Atomic) : exec (.afand o) s = execAfand o s := rfl
theorem exec_afor (s : State) (o : Atomic) : exec (.afor o) s = execAfor o s := rfl
theorem exec_afxor (s : State) (o : Atomic) : exec (.afxor o) s = execAfxor o s := rfl
theorem exec_afmin (s : State) (o : Atomic) : exec (.afmin o) s = execAfmin o s := rfl
theorem exec_afmax (s : State) (o : Atomic) : exec (.afmax o) s = execAfmax o s := rfl
theorem exec_afminn (s : State) (o : Atomic) : exec (.afminn o) s = execAfminn o s := rfl
theorem exec_afmaxn (s : State) (o : Atomic) : exec (.afmaxn o) s = execAfmaxn o s := rfl
theorem exec_aswap (s : State) (o : Atomic) : exec (.aswap o) s = execAswap o s := rfl
theorem exec_acas (s : State) (o : Cas) : exec (.acas o) s = execAcas o s := rfl
theorem exec_axadd (s : State) (o : Atomic) : exec (.axadd o) s = execAxadd o s := rfl
theorem exec_afaddW (s : State) (o : Atomic) : exec (.afaddW o) s = execAfaddW o s := rfl
theorem exec_afandW (s : State) (o : Atomic) : exec (.afandW o) s = execAfandW o s := rfl
theorem exec_aforW (s : State) (o : Atomic) : exec (.aforW o) s = execAforW o s := rfl
theorem exec_afxorW (s : State) (o : Atomic) : exec (.afxorW o) s = execAfxorW o s := rfl
theorem exec_afminW (s : State) (o : Atomic) : exec (.afminW o) s = execAfminW o s := rfl
theorem exec_afmaxW (s : State) (o : Atomic) : exec (.afmaxW o) s = execAfmaxW o s := rfl
theorem exec_afminnW (s : State) (o : Atomic) : exec (.afminnW o) s = execAfminnW o s := rfl
theorem exec_afmaxnW (s : State) (o : Atomic) : exec (.afmaxnW o) s = execAfmaxnW o s := rfl
theorem exec_aswapW (s : State) (o : Atomic) : exec (.aswapW o) s = execAswapW o s := rfl
theorem exec_acasW (s : State) (o : Cas) : exec (.acasW o) s = execAcasW o s := rfl
theorem exec_fence (s : State) : exec (.fence) s = execFence s := rfl
theorem exec_fenceExt (s : State) (ord : Ord) (scope : Scope) : exec (.fenceExt ord scope) s = execFenceExt ord scope s := rfl
theorem exec_tfence (s : State) : exec (.tfence) s = execTfence s := rfl
theorem exec_tfenceExt (s : State) (scope : Scope) : exec (.tfenceExt scope) s = execTfenceExt scope s := rfl
theorem exec_cpy (s : State) (o : Copy) : exec (.cpy o) s = execCpy o s := rfl
theorem exec_cpyh (s : State) (o : Copy) : exec (.cpyh o) s = execCpyh o s := rfl
theorem exec_cpyw (s : State) (o : Copy) : exec (.cpyw o) s = execCpyw o s := rfl
theorem exec_vfence (s : State) : exec (.vfence) s = execVfence s := rfl
theorem exec_vstat (s : State) (d : Reg) : exec (.vstat d) s = execVstat d s := rfl
theorem exec_gang (s : State) (w : GangWidth) : exec (.gang w) s = execGang w s := rfl
theorem exec_ungang (s : State) : exec (.ungang) s = execUngang s := rfl
theorem exec_vld (s : State) (o : VArgs) : exec (.vld o) s = execVld o s := rfl
theorem exec_vst (s : State) (o : VArgs) : exec (.vst o) s = execVst o s := rfl
theorem exec_vlds (s : State) (o : VArgs) : exec (.vlds o) s = execVlds o s := rfl
theorem exec_vsts (s : State) (o : VArgs) : exec (.vsts o) s = execVsts o s := rfl
theorem exec_vgath (s : State) (o : VArgs) : exec (.vgath o) s = execVgath o s := rfl
theorem exec_vscat (s : State) (o : VArgs) : exec (.vscat o) s = execVscat o s := rfl
theorem exec_vadd (s : State) (o : VArgs) : exec (.vadd o) s = execVadd o s := rfl
theorem exec_vsub (s : State) (o : VArgs) : exec (.vsub o) s = execVsub o s := rfl
theorem exec_vmul (s : State) (o : VArgs) : exec (.vmul o) s = execVmul o s := rfl
theorem exec_vfma (s : State) (o : VArgs) : exec (.vfma o) s = execVfma o s := rfl
theorem exec_vfms (s : State) (o : VArgs) : exec (.vfms o) s = execVfms o s := rfl
theorem exec_vmin (s : State) (o : VArgs) : exec (.vmin o) s = execVmin o s := rfl
theorem exec_vmax (s : State) (o : VArgs) : exec (.vmax o) s = execVmax o s := rfl
theorem exec_vabs (s : State) (o : VArgs) : exec (.vabs o) s = execVabs o s := rfl
theorem exec_vneg (s : State) (o : VArgs) : exec (.vneg o) s = execVneg o s := rfl
theorem exec_vand (s : State) (o : VArgs) : exec (.vand o) s = execVand o s := rfl
theorem exec_vor (s : State) (o : VArgs) : exec (.vor o) s = execVor o s := rfl
theorem exec_vxor (s : State) (o : VArgs) : exec (.vxor o) s = execVxor o s := rfl
theorem exec_vshl (s : State) (o : VArgs) : exec (.vshl o) s = execVshl o s := rfl
theorem exec_vshr (s : State) (o : VArgs) : exec (.vshr o) s = execVshr o s := rfl
theorem exec_vsar (s : State) (o : VArgs) : exec (.vsar o) s = execVsar o s := rfl
theorem exec_vcmp (s : State) (o : VArgs) : exec (.vcmp o) s = execVcmp o s := rfl
theorem exec_vsel (s : State) (o : VArgs) : exec (.vsel o) s = execVsel o s := rfl
theorem exec_vred (s : State) (o : VArgs) : exec (.vred o) s = execVred o s := rfl
theorem exec_vcvt (s : State) (o : VArgs) : exec (.vcvt o) s = execVcvt o s := rfl
theorem exec_vbfpEnc (s : State) (o : VArgs) : exec (.vbfpEnc o) s = execVbfpEnc o s := rfl
theorem exec_vbfpDec (s : State) (o : VArgs) : exec (.vbfpDec o) s = execVbfpDec o s := rfl
theorem exec_vxaccAdd (s : State) (o : VArgs) : exec (.vxaccAdd o) s = execVxaccAdd o s := rfl
theorem exec_vxaccCombine (s : State) (o : VArgs) : exec (.vxaccCombine o) s = execVxaccCombine o s := rfl
theorem exec_vxfin (s : State) (o : VArgs) : exec (.vxfin o) s = execVxfin o s := rfl
theorem exec_vsplat (s : State) (o : VArgs) : exec (.vsplat o) s = execVsplat o s := rfl
theorem exec_vperm (s : State) (o : VArgs) : exec (.vperm o) s = execVperm o s := rfl
theorem exec_vmov (s : State) (o : VArgs) : exec (.vmov o) s = execVmov o s := rfl
theorem exec_vext (s : State) (o : VArgs) : exec (.vext o) s = execVext o s := rfl
theorem exec_vins (s : State) (o : VArgs) : exec (.vins o) s = execVins o s := rfl
theorem exec_vrngDraw (s : State) (o : VArgs) : exec (.vrngDraw o) s = execVrngDraw o s := rfl
theorem exec_vrngAdv (s : State) (o : VArgs) : exec (.vrngAdv o) s = execVrngAdv o s := rfl
theorem exec_pbank (s : State) (d : Reg) (a : Reg) (b : Reg) : exec (.pbank d a b) s = execPbank d a b s := rfl
theorem exec_pdec (s : State) (d : Reg) (a : Reg) (b : Reg) : exec (.pdec d a b) s = execPdec d a b s := rfl
theorem exec_pswap (s : State) : exec (.pswap) s = execPswap s := rfl
theorem exec_pass (s : State) (d : Reg) (a : Reg) : exec (.pass d a) s = execPass d a s := rfl
theorem exec_probe (s : State) (d : Reg) (a : Reg) : exec (.probe d a) s = execProbe d a s := rfl
theorem exec_pcal (s : State) (a : Reg) (b : Reg) : exec (.pcal a b) s = execPcal a b s := rfl
theorem exec_pstat (s : State) (d : Reg) (a : Reg) : exec (.pstat d a) s = execPstat d a s := rfl
theorem exec_pabort (s : State) (a : Reg) : exec (.pabort a) s = execPabort a s := rfl
theorem exec_gacc (s : State) (vd : VNum) (va : VNum) (b : Reg) : exec (.gacc vd va b) s = execGacc vd va b s := rfl
theorem exec_gschur (s : State) (vd : VNum) (b : Reg) : exec (.gschur vd b) s = execGschur vd b s := rfl
theorem exec_gdamp (s : State) (vd : VNum) (va : VNum) : exec (.gdamp vd va) s = execGdamp vd va s := rfl
theorem exec_gmarg (s : State) (vd : VNum) (va : VNum) : exec (.gmarg vd va) s = execGmarg vd va s := rfl
theorem exec_gpost (s : State) (a : Reg) (vd : VNum) : exec (.gpost a vd) s = execGpost a vd s := rfl
theorem exec_gtake (s : State) (vd : VNum) (a : Reg) : exec (.gtake vd a) s = execGtake vd a s := rfl
theorem exec_fork (s : State) (a : Reg) : exec (.fork a) s = execFork a s := rfl
theorem exec_join (s : State) (a : Reg) : exec (.join a) s = execJoin a s := rfl
theorem exec_tend (s : State) : exec (.tend) s = execTend s := rfl
theorem exec_yield (s : State) : exec (.yield) s = execYield s := rfl
theorem exec_fly (s : State) (a : Reg) : exec (.fly a) s = execFly a s := rfl
theorem exec_sleep (s : State) (a : Reg) : exec (.sleep a) s = execSleep a s := rfl
theorem exec_wfw (s : State) : exec (.wfw) s = execWfw s := rfl
theorem exec_wake (s : State) (a : Reg) : exec (.wake a) s = execWake a s := rfl
theorem exec_qbind (s : State) (qd : BitVec 3) (port : Port) : exec (.qbind qd port) s = execQbind qd port s := rfl
theorem exec_qrel (s : State) (qd : BitVec 3) : exec (.qrel qd) s = execQrel qd s := rfl
theorem exec_qpush (s : State) (qd : BitVec 3) (a : Reg) : exec (.qpush qd a) s = execQpush qd a s := rfl
theorem exec_qpop (s : State) (d : Reg) (qa : BitVec 3) : exec (.qpop d qa) s = execQpop d qa s := rfl
theorem exec_mst (s : State) (d : Reg) (a : Reg) : exec (.mst d a) s = execMst d a s := rfl
theorem exec_shufset (s : State) (d : Reg) (a : Reg) : exec (.shufset d a) s = execShufset d a s := rfl
theorem exec_shuf (s : State) (d : Reg) (a : Reg) : exec (.shuf d a) s = execShuf d a s := rfl
theorem exec_bar (s : State) (a : Reg) (b : Reg) : exec (.bar a b) s = execBar a b s := rfl
theorem exec_barScoped (s : State) (a : Reg) (b : Reg) (scope : Scope) : exec (.barScoped a b scope) s = execBarScoped a b scope s := rfl
theorem exec_xred (s : State) (d : Reg) (a : Reg) : exec (.xred d a) s = execXred d a s := rfl
theorem exec_topo (s : State) (d : Reg) (a : Reg) : exec (.topo d a) s = execTopo d a s := rfl
theorem exec_trap (s : State) (n : BitVec 4) : exec (.trap n) s = execTrap n s := rfl
theorem exec_rte (s : State) : exec (.rte) s = execRte s := rfl
theorem exec_urte (s : State) : exec (.urte) s = execUrte s := rfl
theorem exec_ctxsv (s : State) (a : Reg) (b : Reg) : exec (.ctxsv a b) s = execCtxsv a b s := rfl
theorem exec_ctxld (s : State) (a : Reg) (b : Reg) : exec (.ctxld a b) s = execCtxld a b s := rfl
theorem exec_halt (s : State) : exec (.halt) s = execHalt s := rfl
theorem exec_tlbi (s : State) (a : Reg) (b : Reg) : exec (.tlbi a b) s = execTlbi a b s := rfl
theorem exec_cap (s : State) (a : Reg) : exec (.cap a) s = execCap a s := rfl
theorem exec_scrub (s : State) (a : Reg) (b : Reg) : exec (.scrub a b) s = execScrub a b s := rfl
theorem exec_crr (s : State) (d : Reg) (creg : CReg) : exec (.crr d creg) s = execCrr d creg s := rfl
theorem exec_crw (s : State) (creg : CReg) (a : Reg) : exec (.crw creg a) s = execCrw creg a s := rfl
theorem exec_crs (s : State) (creg : CReg) (a : Reg) : exec (.crs creg a) s = execCrs creg a s := rfl
theorem exec_crc (s : State) (creg : CReg) (a : Reg) : exec (.crc creg a) s = execCrc creg a s := rfl
theorem exec_powerOnBoot (s : State) (pkg : Nat) (world : BootWorld) : exec (.powerOnBoot pkg world) s = execPowerOnBoot pkg world s := rfl
theorem exec_antiRollbackAdvance (s : State) (pkg : Nat) : exec (.antiRollbackAdvance pkg) s = execAntiRollbackAdvance pkg s := rfl
theorem exec_measurementExtend (s : State) (pkg : Nat) (n : BitVec 4) (digest : List Byte) : exec (.measurementExtend pkg n digest) s = execMeasurementExtend pkg n digest s := rfl
theorem exec_getMeasurements (s : State) (pkg : Nat) (nonce : List Byte) : exec (.getMeasurements pkg nonce) s = execGetMeasurements pkg nonce s := rfl
theorem exec_pldmMonitoring (s : State) (pkg : Nat) (readings : List Nat) : exec (.pldmMonitoring pkg readings) s = execPldmMonitoring pkg readings s := rfl
theorem exec_pldmFirmwareUpdate (s : State) (pkg : Nat) (image : ConfigImage) : exec (.pldmFirmwareUpdate pkg image) s = execPldmFirmwareUpdate pkg image s := rfl
theorem exec_powerCapSet (s : State) (pkg : Nat) (watts : Nat) : exec (.powerCapSet pkg watts) s = execPowerCapSet pkg watts s := rfl
theorem exec_thermalThrottle (s : State) (pkg : Nat) (die : Nat) (on : Bool) : exec (.thermalThrottle pkg die on) s = execThermalThrottle pkg die on s := rfl
theorem exec_thermalShutdown (s : State) (pkg : Nat) (die : Nat) : exec (.thermalShutdown pkg die) s = execThermalShutdown pkg die s := rfl
theorem exec_packageReset (s : State) (pkg : Nat) : exec (.packageReset pkg) s = execPackageReset pkg s := rfl
theorem exec_launchWrite (s : State) (pkg : Nat) (vf : Nat) (qlocal : Nat) (rec : BitVec 512) : exec (.launchWrite pkg vf qlocal rec) s = execLaunchWrite pkg vf qlocal rec s := rfl
theorem exec_malformedWrite (s : State) (pkg : Nat) (vf : Nat) (qlocal : Nat) : exec (.malformedWrite pkg vf qlocal) s = execMalformedWrite pkg vf qlocal s := rfl
theorem exec_crheadWrite (s : State) (pkg : Nat) (vf : Nat) (qlocal : Nat) (value : Word) : exec (.crheadWrite pkg vf qlocal value) s = execCrheadWrite pkg vf qlocal value s := rfl
theorem exec_queueEnable (s : State) (pkg : Nat) (q : Nat) (qctl : Word) : exec (.queueEnable pkg q qctl) s = execQueueEnable pkg q qctl s := rfl
theorem exec_queueDisable (s : State) (pkg : Nat) (q : Nat) (qctl : Word) : exec (.queueDisable pkg q qctl) s = execQueueDisable pkg q qctl s := rfl
theorem exec_registerWrite (s : State) (pkg : Nat) (off : Nat) (value : Word) : exec (.registerWrite pkg off value) s = execRegisterWrite pkg off value s := rfl
theorem exec_portstatWrite (s : State) (pkg : Nat) (port : Nat) (value : Word) : exec (.portstatWrite pkg port value) s = execPortstatWrite pkg port value s := rfl
theorem exec_ringEntryReservation (s : State) (pkg : Nat) (q : Nat) : exec (.ringEntryReservation pkg q) s = execRingEntryReservation pkg q s := rfl
theorem exec_launchAdmission (s : State) (pkg : Nat) : exec (.launchAdmission pkg) s = execLaunchAdmission pkg s := rfl
theorem exec_swarmMessage (s : State) (launch : Nat) (flat : Nat) : exec (.swarmMessage launch flat) s = execSwarmMessage launch flat s := rfl
theorem exec_launchRetirement (s : State) (launch : Nat) : exec (.launchRetirement launch) s = execLaunchRetirement launch s := rfl
theorem exec_taskStart (s : State) (cell : LCell) (slot : Nat) : exec (.taskStart cell slot) s = execTaskStart cell slot s := rfl
theorem exec_contextResume (s : State) (cell : PCell) (slot : Nat) : exec (.contextResume cell slot) s = execContextResume cell slot s := rfl
theorem exec_stealAttempt (s : State) (thief : LCell) : exec (.stealAttempt thief) s = execStealAttempt thief s := rfl
theorem exec_stealRequest (s : State) (msg : Nat) : exec (.stealRequest msg) s = execStealRequest msg s := rfl
theorem exec_stealAnswer (s : State) (msg : Nat) : exec (.stealAnswer msg) s = execStealAnswer msg s := rfl
theorem exec_timesliceExpiry (s : State) (thread : Nat) : exec (.timesliceExpiry thread) s = execTimesliceExpiry thread s := rfl
theorem exec_gangSlotReservation (s : State) (cell : LCell) (slot : Nat) : exec (.gangSlotReservation cell slot) s = execGangSlotReservation cell slot s := rfl
theorem exec_flyArrival (s : State) (thread : Nat) : exec (.flyArrival thread) s = execFlyArrival thread s := rfl
theorem exec_wakeDelivery (s : State) (msg : Nat) : exec (.wakeDelivery msg) s = execWakeDelivery msg s := rfl
theorem exec_clusterQuiesce (s : State) (pkg : Nat) (die : Nat) (lcl : Nat) (target : Nat) (cellMap : List (BitVec 16)) : exec (.clusterQuiesce pkg die lcl target cellMap) s = execClusterQuiesce pkg die lcl target cellMap s := rfl
theorem exec_preemption (s : State) (thread : Nat) : exec (.preemption thread) s = execPreemption thread s := rfl
theorem exec_forcedSave (s : State) (thread : Nat) : exec (.forcedSave thread) s = execForcedSave thread s := rfl
theorem exec_checkerRetry (s : State) (thread : Nat) (mismatch : Bool) : exec (.checkerRetry thread mismatch) s = execCheckerRetry thread mismatch s := rfl
theorem exec_accessCompletion (s : State) (thread : Nat) : exec (.accessCompletion thread) s = execAccessCompletion thread s := rfl
theorem exec_pageWalk (s : State) (cell : PCell) (vf : Nat) (va : Word) (kind : AccessKind) : exec (.pageWalk cell vf va kind) s = execPageWalk cell vf va kind s := rfl
theorem exec_relaxedStoreAck (s : State) (thread : Nat) (n : Nat) : exec (.relaxedStoreAck thread n) s = execRelaxedStoreAck thread n s := rfl
theorem exec_waitLimitExpiry (s : State) (thread : Nat) : exec (.waitLimitExpiry thread) s = execWaitLimitExpiry thread s := rfl
theorem exec_fullEmptyRequest (s : State) (thread : Nat) : exec (.fullEmptyRequest thread) s = execFullEmptyRequest thread s := rfl
theorem exec_parkTableResend (s : State) (thread : Nat) : exec (.parkTableResend thread) s = execParkTableResend thread s := rfl
theorem exec_withdrawal (s : State) (thread : Nat) : exec (.withdrawal thread) s = execWithdrawal thread s := rfl
theorem exec_withdrawalAnswer (s : State) (thread : Nat) : exec (.withdrawalAnswer thread) s = execWithdrawalAnswer thread s := rfl
theorem exec_sleepExpiry (s : State) (thread : Nat) : exec (.sleepExpiry thread) s = execSleepExpiry thread s := rfl
theorem exec_promiseExpiry (s : State) (copy : Nat) : exec (.promiseExpiry copy) s = execPromiseExpiry copy s := rfl
theorem exec_promiseMissedUpcall (s : State) (thread : Nat) : exec (.promiseMissedUpcall thread) s = execPromiseMissedUpcall thread s := rfl
theorem exec_waysWrite (s : State) (thread : Nat) (value : Word) : exec (.waysWrite thread value) s = execWaysWrite thread value s := rfl
theorem exec_waysChange (s : State) (cell : PCell) : exec (.waysChange cell) s = execWaysChange cell s := rfl
theorem exec_groupWrite (s : State) (cell : PCell) (value : Word) : exec (.groupWrite cell value) s = execGroupWrite cell value s := rfl
theorem exec_wdescWrite (s : State) (thread : Nat) (n : BitVec 3) (value : Word) : exec (.wdescWrite thread n value) s = execWdescWrite thread n value s := rfl
theorem exec_wlimWrite (s : State) (thread : Nat) (value : Word) : exec (.wlimWrite thread value) s = execWlimWrite thread value s := rfl
theorem exec_gpivWrite (s : State) (thread : Nat) (value : Word) : exec (.gpivWrite thread value) s = execGpivWrite thread value s := rfl
theorem exec_tcauseWrite (s : State) (thread : Nat) (value : Word) : exec (.tcauseWrite thread value) s = execTcauseWrite thread value s := rfl
theorem exec_copyBlock (s : State) (copy : Nat) : exec (.copyBlock copy) s = execCopyBlock copy s := rfl
theorem exec_vectorCommandStart (s : State) (thread : Nat) (mismatch : Bool) : exec (.vectorCommandStart thread mismatch) s = execVectorCommandStart thread mismatch s := rfl
theorem exec_tileCaptureEnd (s : State) (omu : ClusterId) : exec (.tileCaptureEnd omu) s = execTileCaptureEnd omu s := rfl
theorem exec_imageBlockRead (s : State) (omu : ClusterId) : exec (.imageBlockRead omu) s = execImageBlockRead omu s := rfl
theorem exec_decompositionComplete (s : State) (omu : ClusterId) : exec (.decompositionComplete omu) s = execDecompositionComplete omu s := rfl
theorem exec_loadCompletion (s : State) (omu : ClusterId) : exec (.loadCompletion omu) s = execLoadCompletion omu s := rfl
theorem exec_bankSwap (s : State) (omu : ClusterId) : exec (.bankSwap omu) s = execBankSwap omu s := rfl
theorem exec_passStart (s : State) (omu : ClusterId) : exec (.passStart omu) s = execPassStart omu s := rfl
theorem exec_probeStart (s : State) (omu : ClusterId) (err : Nat) : exec (.probeStart omu err) s = execProbeStart omu err s := rfl
theorem exec_scoutVerdict (s : State) (omu : ClusterId) (err : Nat) : exec (.scoutVerdict omu err) s = execScoutVerdict omu err s := rfl
theorem exec_resolverAudit (s : State) (omu : ClusterId) (mismatch : Bool) : exec (.resolverAudit omu mismatch) s = execResolverAudit omu mismatch s := rfl
theorem exec_passStop (s : State) (omu : ClusterId) : exec (.passStop omu) s = execPassStop omu s := rfl
theorem exec_carrierLoss (s : State) (omu : ClusterId) : exec (.carrierLoss omu) s = execCarrierLoss omu s := rfl
theorem exec_thermalLoss (s : State) (omu : ClusterId) : exec (.thermalLoss omu) s = execThermalLoss omu s := rfl
theorem exec_spareLineAssignment (s : State) (omu : ClusterId) : exec (.spareLineAssignment omu) s = execSpareLineAssignment omu s := rfl
theorem exec_omuRecalibration (s : State) (omu : ClusterId) (cal : Calibration) : exec (.omuRecalibration omu cal) s = execOmuRecalibration omu cal s := rfl
theorem exec_mailboxRequest (s : State) (thread : Nat) : exec (.mailboxRequest thread) s = execMailboxRequest thread s := rfl
theorem exec_routerPacket (s : State) (packet : Nat) : exec (.routerPacket packet) s = execRouterPacket packet s := rfl
theorem exec_multicastData (s : State) (packet : Nat) : exec (.multicastData packet) s = execMulticastData packet s := rfl
theorem exec_shuffleBlock (s : State) (packet : Nat) : exec (.shuffleBlock packet) s = execShuffleBlock packet s := rfl
theorem exec_shuffleResend (s : State) (packet : Nat) : exec (.shuffleResend packet) s = execShuffleResend packet s := rfl
theorem exec_codedShuffle (s : State) (packet : Nat) : exec (.codedShuffle packet) s = execCodedShuffle packet s := rfl
theorem exec_fallbackRequest (s : State) (packet : Nat) : exec (.fallbackRequest packet) s = execFallbackRequest packet s := rfl
theorem exec_xsumReduction (s : State) (packet : Nat) : exec (.xsumReduction packet) s = execXsumReduction packet s := rfl
theorem exec_acknowledgement (s : State) (packet : Nat) : exec (.acknowledgement packet) s = execAcknowledgement packet s := rfl
theorem exec_barrierArrival (s : State) (thread : Nat) : exec (.barrierArrival thread) s = execBarrierArrival thread s := rfl
theorem exec_flitReceive (s : State) (pkg : Nat) (port : Nat) (flit : BitVec 128) (decodes : Bool) (tagOk : Bool) : exec (.flitReceive pkg port flit decodes tagOk) s = execFlitReceive pkg port flit decodes tagOk s := rfl
theorem exec_replayTimeout (s : State) (pkg : Nat) (port : Nat) : exec (.replayTimeout pkg port) s = execReplayTimeout pkg port s := rfl
theorem exec_codeRequest (s : State) (pkg : Nat) (port : Nat) (mode : Bool) : exec (.codeRequest pkg port mode) s = execCodeRequest pkg port mode s := rfl
theorem exec_codeAcknowledgement (s : State) (pkg : Nat) (port : Nat) : exec (.codeAcknowledgement pkg port) s = execCodeAcknowledgement pkg port s := rfl
theorem exec_codeRequestRetry (s : State) (pkg : Nat) (port : Nat) : exec (.codeRequestRetry pkg port) s = execCodeRequestRetry pkg port s := rfl
theorem exec_keyUpdate (s : State) (pkg : Nat) (port : Nat) : exec (.keyUpdate pkg port) s = execKeyUpdate pkg port s := rfl
theorem exec_laneLoss (s : State) (pkg : Nat) (port : Nat) (lost : BitVec 16) : exec (.laneLoss pkg port lost) s = execLaneLoss pkg port lost s := rfl
theorem exec_powerDown (s : State) (pkg : Nat) (port : Nat) : exec (.powerDown pkg port) s = execPowerDown pkg port s := rfl
theorem exec_portWake (s : State) (pkg : Nat) (port : Nat) : exec (.portWake pkg port) s = execPortWake pkg port s := rfl
theorem exec_loadrt (s : State) (pkg : Nat) : exec (.loadrt pkg) s = execLoadrt pkg s := rfl
theorem exec_code (s : State) (pkg : Nat) : exec (.code pkg) s = execCode pkg s := rfl
theorem exec_power (s : State) (pkg : Nat) : exec (.power pkg) s = execPower pkg s := rfl
theorem exec_reconf (s : State) (pkg : Nat) : exec (.reconf pkg) s = execReconf pkg s := rfl
theorem exec_close (s : State) (pkg : Nat) : exec (.close pkg) s = execClose pkg s := rfl
theorem exec_portDrainComplete (s : State) (pkg : Nat) (port : Nat) : exec (.portDrainComplete pkg port) s = execPortDrainComplete pkg port s := rfl
theorem exec_portSwitchComplete (s : State) (pkg : Nat) (port : Nat) : exec (.portSwitchComplete pkg port) s = execPortSwitchComplete pkg port s := rfl
theorem exec_portTrainComplete (s : State) (pkg : Nat) (port : Nat) (lanes : BitVec 16) : exec (.portTrainComplete pkg port lanes) s = execPortTrainComplete pkg port lanes s := rfl
theorem exec_trainTimeout (s : State) (pkg : Nat) (port : Nat) : exec (.trainTimeout pkg port) s = execTrainTimeout pkg port s := rfl
theorem exec_portAuth (s : State) (pkg : Nat) (port : Nat) (ok : Bool) (peer : Nat) (leaf : List Byte) : exec (.portAuth pkg port ok peer leaf) s = execPortAuth pkg port ok peer leaf s := rfl
theorem exec_keyCacheExpiry (s : State) (pkg : Nat) : exec (.keyCacheExpiry pkg) s = execKeyCacheExpiry pkg s := rfl
theorem exec_launchEnd (s : State) (launch : Nat) : exec (.launchEnd launch) s = execLaunchEnd launch s := rfl
theorem exec_faultWindowBoundary (s : State) (pkg : Nat) (die : Nat) : exec (.faultWindowBoundary pkg die) s = execFaultWindowBoundary pkg die s := rfl
theorem exec_cellRestart (s : State) (cell : PCell) : exec (.cellRestart cell) s = execCellRestart cell s := rfl
theorem exec_correctedError (s : State) (pkg : Nat) (stack : Nat) (ra : BitVec 32) : exec (.correctedError pkg stack ra) s = execCorrectedError pkg stack ra s := rfl
theorem exec_pseudoChannelRetirement (s : State) (pkg : Nat) (stack : Nat) (chan : Nat) : exec (.pseudoChannelRetirement pkg stack chan) s = execPseudoChannelRetirement pkg stack chan s := rfl
theorem exec_cartridgeRelease (s : State) (pkg : Nat) (cart : Nat) : exec (.cartridgeRelease pkg cart) s = execCartridgeRelease pkg cart s := rfl
theorem exec_cartridgeInsertion (s : State) (pkg : Nat) (cart : Nat) : exec (.cartridgeInsertion pkg cart) s = execCartridgeInsertion pkg cart s := rfl
theorem exec_functionLevelReset (s : State) (pkg : Nat) (vf : Nat) : exec (.functionLevelReset pkg vf) s = execFunctionLevelReset pkg vf s := rfl
theorem exec_flrDrainComplete (s : State) (pkg : Nat) (vf : Nat) : exec (.flrDrainComplete pkg vf) s = execFlrDrainComplete pkg vf s := rfl
theorem exec_pumpCartridgeLost (s : State) (pkg : Nat) (cart : Nat) : exec (.pumpCartridgeLost pkg cart) s = execPumpCartridgeLost pkg cart s := rfl
theorem exec_spareLineRejoin (s : State) (pkg : Nat) (port : Nat) (lanes : BitVec 16) : exec (.spareLineRejoin pkg port lanes) s = execSpareLineRejoin pkg port lanes s := rfl
theorem exec_powerLoss (s : State) (pkg : Nat) : exec (.powerLoss pkg) s = execPowerLoss pkg s := rfl

end Sys2Proof.Machine
end

