-- ==== Sys2Proof/Laws/PerInstr.lean ====
section
/-! SUPPORT. Facts of every instruction as syntax, one lemma per constructor. Length: the words that encode an instruction are as long as
the L field of their base word says (R96). -/
namespace Sys2Proof.Laws

/-- Bit 0 of a base word says that a literal follows (R96). -/
theorem base_bit0 (w : Words) : w.base.getLsbD 0 = w.lit.isSome := by
  rw [Words.base, BitVec.getLsbD_append]
  simp

/-- Bit 1 of a base word says that an extension word follows (R96). -/
theorem base_bit1 (w : Words) : w.base.getLsbD 1 = w.ext.isSome := by
  rw [Words.base, BitVec.getLsbD_append, BitVec.getLsbD_append]
  simp

/-- The L field of a base word gives the length of its words (R96). -/
theorem lengthOf_base (w : Words) : lengthOf w.base = w.len := by
  rw [lengthOf, Words.len, base_bit0, base_bit1]

/-- Length of an instruction. -/
def Length.Statement (i : Instr) : Prop := lengthOf (encode i).base = (encode i).len

namespace Length
theorem add : ∀ x0, Statement (.add x0) := fun _ => lengthOf_base _
theorem sub : ∀ x0, Statement (.sub x0) := fun _ => lengthOf_base _
theorem and : ∀ x0, Statement (.and x0) := fun _ => lengthOf_base _
theorem or : ∀ x0, Statement (.or x0) := fun _ => lengthOf_base _
theorem xor : ∀ x0, Statement (.xor x0) := fun _ => lengthOf_base _
theorem andn : ∀ x0, Statement (.andn x0) := fun _ => lengthOf_base _
theorem shl : ∀ x0, Statement (.shl x0) := fun _ => lengthOf_base _
theorem shr : ∀ x0, Statement (.shr x0) := fun _ => lengthOf_base _
theorem sar : ∀ x0, Statement (.sar x0) := fun _ => lengthOf_base _
theorem rol : ∀ x0, Statement (.rol x0) := fun _ => lengthOf_base _
theorem mul : ∀ x0, Statement (.mul x0) := fun _ => lengthOf_base _
theorem mulh : ∀ x0, Statement (.mulh x0) := fun _ => lengthOf_base _
theorem mulhn : ∀ x0, Statement (.mulhn x0) := fun _ => lengthOf_base _
theorem div : ∀ x0, Statement (.div x0) := fun _ => lengthOf_base _
theorem divn : ∀ x0, Statement (.divn x0) := fun _ => lengthOf_base _
theorem rem : ∀ x0, Statement (.rem x0) := fun _ => lengthOf_base _
theorem remn : ∀ x0, Statement (.remn x0) := fun _ => lengthOf_base _
theorem min : ∀ x0, Statement (.min x0) := fun _ => lengthOf_base _
theorem max : ∀ x0, Statement (.max x0) := fun _ => lengthOf_base _
theorem minn : ∀ x0, Statement (.minn x0) := fun _ => lengthOf_base _
theorem maxn : ∀ x0, Statement (.maxn x0) := fun _ => lengthOf_base _
theorem slt : ∀ x0, Statement (.slt x0) := fun _ => lengthOf_base _
theorem sltn : ∀ x0, Statement (.sltn x0) := fun _ => lengthOf_base _
theorem seq : ∀ x0, Statement (.seq x0) := fun _ => lengthOf_base _
theorem sel : ∀ x0 x1 x2 x3, Statement (.sel x0 x1 x2 x3) := fun _ _ _ _ => lengthOf_base _
theorem clz : ∀ x0 x1, Statement (.clz x0 x1) := fun _ _ => lengthOf_base _
theorem ctz : ∀ x0 x1, Statement (.ctz x0 x1) := fun _ _ => lengthOf_base _
theorem popc : ∀ x0 x1, Statement (.popc x0 x1) := fun _ _ => lengthOf_base _
theorem bext : ∀ x0, Statement (.bext x0) := fun _ => lengthOf_base _
theorem bins : ∀ x0, Statement (.bins x0) := fun _ => lengthOf_base _
theorem sext : ∀ x0 x1 x2, Statement (.sext x0 x1 x2) := fun _ _ _ => lengthOf_base _
theorem zext : ∀ x0 x1 x2, Statement (.zext x0 x1 x2) := fun _ _ _ => lengthOf_base _
theorem bswap : ∀ x0 x1, Statement (.bswap x0 x1) := fun _ _ => lengthOf_base _
theorem addi : ∀ x0, Statement (.addi x0) := fun _ => lengthOf_base _
theorem andi : ∀ x0, Statement (.andi x0) := fun _ => lengthOf_base _
theorem ori : ∀ x0, Statement (.ori x0) := fun _ => lengthOf_base _
theorem xori : ∀ x0, Statement (.xori x0) := fun _ => lengthOf_base _
theorem li : ∀ x0 x1, Statement (.li x0 x1) := fun _ _ => lengthOf_base _
theorem liImm64 : ∀ x0 x1, Statement (.liImm64 x0 x1) := fun _ _ => lengthOf_base _
theorem lil : ∀ x0 x1, Statement (.lil x0 x1) := fun _ _ => lengthOf_base _
theorem lhi : ∀ x0 x1, Statement (.lhi x0 x1) := fun _ _ => lengthOf_base _
theorem shli : ∀ x0, Statement (.shli x0) := fun _ => lengthOf_base _
theorem shri : ∀ x0, Statement (.shri x0) := fun _ => lengthOf_base _
theorem sari : ∀ x0, Statement (.sari x0) := fun _ => lengthOf_base _
theorem slti : ∀ x0, Statement (.slti x0) := fun _ => lengthOf_base _
theorem sltni : ∀ x0, Statement (.sltni x0) := fun _ => lengthOf_base _
theorem lea : ∀ x0, Statement (.lea x0) := fun _ => lengthOf_base _
theorem beq : ∀ x0, Statement (.beq x0) := fun _ => lengthOf_base _
theorem bne : ∀ x0, Statement (.bne x0) := fun _ => lengthOf_base _
theorem blt : ∀ x0, Statement (.blt x0) := fun _ => lengthOf_base _
theorem bge : ∀ x0, Statement (.bge x0) := fun _ => lengthOf_base _
theorem bltn : ∀ x0, Statement (.bltn x0) := fun _ => lengthOf_base _
theorem bgen : ∀ x0, Statement (.bgen x0) := fun _ => lengthOf_base _
theorem beqi : ∀ x0, Statement (.beqi x0) := fun _ => lengthOf_base _
theorem bnei : ∀ x0, Statement (.bnei x0) := fun _ => lengthOf_base _
theorem loop : ∀ x0 x1, Statement (.loop x0 x1) := fun _ _ => lengthOf_base _
theorem j : ∀ x0, Statement (.j x0) := fun _ => lengthOf_base _
theorem jr : ∀ x0, Statement (.jr x0) := fun _ => lengthOf_base _
theorem jalr : ∀ x0, Statement (.jalr x0) := fun _ => lengthOf_base _
theorem jal : ∀ x0 x1, Statement (.jal x0 x1) := fun _ _ => lengthOf_base _
theorem ldb : ∀ x0, Statement (.ldb x0) := fun _ => lengthOf_base _
theorem ldh : ∀ x0, Statement (.ldh x0) := fun _ => lengthOf_base _
theorem ldw : ∀ x0, Statement (.ldw x0) := fun _ => lengthOf_base _
theorem ldd : ∀ x0, Statement (.ldd x0) := fun _ => lengthOf_base _
theorem ldbn : ∀ x0, Statement (.ldbn x0) := fun _ => lengthOf_base _
theorem ldhn : ∀ x0, Statement (.ldhn x0) := fun _ => lengthOf_base _
theorem ldwn : ∀ x0, Statement (.ldwn x0) := fun _ => lengthOf_base _
theorem stb : ∀ x0, Statement (.stb x0) := fun _ => lengthOf_base _
theorem sth : ∀ x0, Statement (.sth x0) := fun _ => lengthOf_base _
theorem stw : ∀ x0, Statement (.stw x0) := fun _ => lengthOf_base _
theorem std : ∀ x0, Statement (.std x0) := fun _ => lengthOf_base _
theorem ldff : ∀ x0, Statement (.ldff x0) := fun _ => lengthOf_base _
theorem ldfe : ∀ x0, Statement (.ldfe x0) := fun _ => lengthOf_base _
theorem stef : ∀ x0, Statement (.stef x0) := fun _ => lengthOf_base _
theorem stff : ∀ x0, Statement (.stff x0) := fun _ => lengthOf_base _
theorem feq : ∀ x0, Statement (.feq x0) := fun _ => lengthOf_base _
theorem feset : ∀ x0 x1, Statement (.feset x0 x1) := fun _ _ => lengthOf_base _
theorem feclr : ∀ x0 x1, Statement (.feclr x0 x1) := fun _ _ => lengthOf_base _
theorem afadd : ∀ x0, Statement (.afadd x0) := fun _ => lengthOf_base _
theorem afand : ∀ x0, Statement (.afand x0) := fun _ => lengthOf_base _
theorem afor : ∀ x0, Statement (.afor x0) := fun _ => lengthOf_base _
theorem afxor : ∀ x0, Statement (.afxor x0) := fun _ => lengthOf_base _
theorem afmin : ∀ x0, Statement (.afmin x0) := fun _ => lengthOf_base _
theorem afmax : ∀ x0, Statement (.afmax x0) := fun _ => lengthOf_base _
theorem afminn : ∀ x0, Statement (.afminn x0) := fun _ => lengthOf_base _
theorem afmaxn : ∀ x0, Statement (.afmaxn x0) := fun _ => lengthOf_base _
theorem aswap : ∀ x0, Statement (.aswap x0) := fun _ => lengthOf_base _
theorem acas : ∀ x0, Statement (.acas x0) := fun _ => lengthOf_base _
theorem axadd : ∀ x0, Statement (.axadd x0) := fun _ => lengthOf_base _
theorem afaddW : ∀ x0, Statement (.afaddW x0) := fun _ => lengthOf_base _
theorem afandW : ∀ x0, Statement (.afandW x0) := fun _ => lengthOf_base _
theorem aforW : ∀ x0, Statement (.aforW x0) := fun _ => lengthOf_base _
theorem afxorW : ∀ x0, Statement (.afxorW x0) := fun _ => lengthOf_base _
theorem afminW : ∀ x0, Statement (.afminW x0) := fun _ => lengthOf_base _
theorem afmaxW : ∀ x0, Statement (.afmaxW x0) := fun _ => lengthOf_base _
theorem afminnW : ∀ x0, Statement (.afminnW x0) := fun _ => lengthOf_base _
theorem afmaxnW : ∀ x0, Statement (.afmaxnW x0) := fun _ => lengthOf_base _
theorem aswapW : ∀ x0, Statement (.aswapW x0) := fun _ => lengthOf_base _
theorem acasW : ∀ x0, Statement (.acasW x0) := fun _ => lengthOf_base _
theorem fenceExt : ∀ x0 x1, Statement (.fenceExt x0 x1) := fun _ _ => lengthOf_base _
theorem tfenceExt : ∀ x0, Statement (.tfenceExt x0) := fun _ => lengthOf_base _
theorem cpy : ∀ x0, Statement (.cpy x0) := fun _ => lengthOf_base _
theorem cpyh : ∀ x0, Statement (.cpyh x0) := fun _ => lengthOf_base _
theorem cpyw : ∀ x0, Statement (.cpyw x0) := fun _ => lengthOf_base _
theorem vstat : ∀ x0, Statement (.vstat x0) := fun _ => lengthOf_base _
theorem gang : ∀ x0, Statement (.gang x0) := fun _ => lengthOf_base _
theorem vld : ∀ x0, Statement (.vld x0) := fun _ => lengthOf_base _
theorem vst : ∀ x0, Statement (.vst x0) := fun _ => lengthOf_base _
theorem vlds : ∀ x0, Statement (.vlds x0) := fun _ => lengthOf_base _
theorem vsts : ∀ x0, Statement (.vsts x0) := fun _ => lengthOf_base _
theorem vgath : ∀ x0, Statement (.vgath x0) := fun _ => lengthOf_base _
theorem vscat : ∀ x0, Statement (.vscat x0) := fun _ => lengthOf_base _
theorem vadd : ∀ x0, Statement (.vadd x0) := fun _ => lengthOf_base _
theorem vsub : ∀ x0, Statement (.vsub x0) := fun _ => lengthOf_base _
theorem vmul : ∀ x0, Statement (.vmul x0) := fun _ => lengthOf_base _
theorem vfma : ∀ x0, Statement (.vfma x0) := fun _ => lengthOf_base _
theorem vfms : ∀ x0, Statement (.vfms x0) := fun _ => lengthOf_base _
theorem vmin : ∀ x0, Statement (.vmin x0) := fun _ => lengthOf_base _
theorem vmax : ∀ x0, Statement (.vmax x0) := fun _ => lengthOf_base _
theorem vabs : ∀ x0, Statement (.vabs x0) := fun _ => lengthOf_base _
theorem vneg : ∀ x0, Statement (.vneg x0) := fun _ => lengthOf_base _
theorem vand : ∀ x0, Statement (.vand x0) := fun _ => lengthOf_base _
theorem vor : ∀ x0, Statement (.vor x0) := fun _ => lengthOf_base _
theorem vxor : ∀ x0, Statement (.vxor x0) := fun _ => lengthOf_base _
theorem vshl : ∀ x0, Statement (.vshl x0) := fun _ => lengthOf_base _
theorem vshr : ∀ x0, Statement (.vshr x0) := fun _ => lengthOf_base _
theorem vsar : ∀ x0, Statement (.vsar x0) := fun _ => lengthOf_base _
theorem vcmp : ∀ x0, Statement (.vcmp x0) := fun _ => lengthOf_base _
theorem vsel : ∀ x0, Statement (.vsel x0) := fun _ => lengthOf_base _
theorem vred : ∀ x0, Statement (.vred x0) := fun _ => lengthOf_base _
theorem vcvt : ∀ x0, Statement (.vcvt x0) := fun _ => lengthOf_base _
theorem vbfpEnc : ∀ x0, Statement (.vbfpEnc x0) := fun _ => lengthOf_base _
theorem vbfpDec : ∀ x0, Statement (.vbfpDec x0) := fun _ => lengthOf_base _
theorem vxaccAdd : ∀ x0, Statement (.vxaccAdd x0) := fun _ => lengthOf_base _
theorem vxaccCombine : ∀ x0, Statement (.vxaccCombine x0) := fun _ => lengthOf_base _
theorem vxfin : ∀ x0, Statement (.vxfin x0) := fun _ => lengthOf_base _
theorem vsplat : ∀ x0, Statement (.vsplat x0) := fun _ => lengthOf_base _
theorem vperm : ∀ x0, Statement (.vperm x0) := fun _ => lengthOf_base _
theorem vmov : ∀ x0, Statement (.vmov x0) := fun _ => lengthOf_base _
theorem vext : ∀ x0, Statement (.vext x0) := fun _ => lengthOf_base _
theorem vins : ∀ x0, Statement (.vins x0) := fun _ => lengthOf_base _
theorem vrngDraw : ∀ x0, Statement (.vrngDraw x0) := fun _ => lengthOf_base _
theorem vrngAdv : ∀ x0, Statement (.vrngAdv x0) := fun _ => lengthOf_base _
theorem pbank : ∀ x0 x1 x2, Statement (.pbank x0 x1 x2) := fun _ _ _ => lengthOf_base _
theorem pdec : ∀ x0 x1 x2, Statement (.pdec x0 x1 x2) := fun _ _ _ => lengthOf_base _
theorem pass : ∀ x0 x1, Statement (.pass x0 x1) := fun _ _ => lengthOf_base _
theorem probe : ∀ x0 x1, Statement (.probe x0 x1) := fun _ _ => lengthOf_base _
theorem pcal : ∀ x0 x1, Statement (.pcal x0 x1) := fun _ _ => lengthOf_base _
theorem pstat : ∀ x0 x1, Statement (.pstat x0 x1) := fun _ _ => lengthOf_base _
theorem pabort : ∀ x0, Statement (.pabort x0) := fun _ => lengthOf_base _
theorem gacc : ∀ x0 x1 x2, Statement (.gacc x0 x1 x2) := fun _ _ _ => lengthOf_base _
theorem gschur : ∀ x0 x1, Statement (.gschur x0 x1) := fun _ _ => lengthOf_base _
theorem gdamp : ∀ x0 x1, Statement (.gdamp x0 x1) := fun _ _ => lengthOf_base _
theorem gmarg : ∀ x0 x1, Statement (.gmarg x0 x1) := fun _ _ => lengthOf_base _
theorem gpost : ∀ x0 x1, Statement (.gpost x0 x1) := fun _ _ => lengthOf_base _
theorem gtake : ∀ x0 x1, Statement (.gtake x0 x1) := fun _ _ => lengthOf_base _
theorem fork : ∀ x0, Statement (.fork x0) := fun _ => lengthOf_base _
theorem join : ∀ x0, Statement (.join x0) := fun _ => lengthOf_base _
theorem fly : ∀ x0, Statement (.fly x0) := fun _ => lengthOf_base _
theorem sleep : ∀ x0, Statement (.sleep x0) := fun _ => lengthOf_base _
theorem wake : ∀ x0, Statement (.wake x0) := fun _ => lengthOf_base _
theorem qbind : ∀ x0 x1, Statement (.qbind x0 x1) := fun _ _ => lengthOf_base _
theorem qrel : ∀ x0, Statement (.qrel x0) := fun _ => lengthOf_base _
theorem qpush : ∀ x0 x1, Statement (.qpush x0 x1) := fun _ _ => lengthOf_base _
theorem qpop : ∀ x0 x1, Statement (.qpop x0 x1) := fun _ _ => lengthOf_base _
theorem mst : ∀ x0 x1, Statement (.mst x0 x1) := fun _ _ => lengthOf_base _
theorem shufset : ∀ x0 x1, Statement (.shufset x0 x1) := fun _ _ => lengthOf_base _
theorem shuf : ∀ x0 x1, Statement (.shuf x0 x1) := fun _ _ => lengthOf_base _
theorem bar : ∀ x0 x1, Statement (.bar x0 x1) := fun _ _ => lengthOf_base _
theorem barScoped : ∀ x0 x1 x2, Statement (.barScoped x0 x1 x2) := fun _ _ _ => lengthOf_base _
theorem xred : ∀ x0 x1, Statement (.xred x0 x1) := fun _ _ => lengthOf_base _
theorem topo : ∀ x0 x1, Statement (.topo x0 x1) := fun _ _ => lengthOf_base _
theorem trap : ∀ x0, Statement (.trap x0) := fun _ => lengthOf_base _
theorem ctxsv : ∀ x0 x1, Statement (.ctxsv x0 x1) := fun _ _ => lengthOf_base _
theorem ctxld : ∀ x0 x1, Statement (.ctxld x0 x1) := fun _ _ => lengthOf_base _
theorem tlbi : ∀ x0 x1, Statement (.tlbi x0 x1) := fun _ _ => lengthOf_base _
theorem cap : ∀ x0, Statement (.cap x0) := fun _ => lengthOf_base _
theorem scrub : ∀ x0 x1, Statement (.scrub x0 x1) := fun _ _ => lengthOf_base _
theorem crr : ∀ x0 x1, Statement (.crr x0 x1) := fun _ _ => lengthOf_base _
theorem crw : ∀ x0 x1, Statement (.crw x0 x1) := fun _ _ => lengthOf_base _
theorem crs : ∀ x0 x1, Statement (.crs x0 x1) := fun _ _ => lengthOf_base _
theorem crc : ∀ x0 x1, Statement (.crc x0 x1) := fun _ _ => lengthOf_base _
theorem ringEntryReservation : ∀ x0 x1, Statement (.ringEntryReservation x0 x1) := fun _ _ => lengthOf_base _
theorem launchAdmission : ∀ x0, Statement (.launchAdmission x0) := fun _ => lengthOf_base _
theorem swarmMessage : ∀ x0 x1, Statement (.swarmMessage x0 x1) := fun _ _ => lengthOf_base _
theorem launchRetirement : ∀ x0, Statement (.launchRetirement x0) := fun _ => lengthOf_base _
theorem taskStart : ∀ x0 x1, Statement (.taskStart x0 x1) := fun _ _ => lengthOf_base _
theorem contextResume : ∀ x0 x1, Statement (.contextResume x0 x1) := fun _ _ => lengthOf_base _
theorem stealAttempt : ∀ x0, Statement (.stealAttempt x0) := fun _ => lengthOf_base _
theorem stealRequest : ∀ x0, Statement (.stealRequest x0) := fun _ => lengthOf_base _
theorem stealAnswer : ∀ x0, Statement (.stealAnswer x0) := fun _ => lengthOf_base _
theorem timesliceExpiry : ∀ x0, Statement (.timesliceExpiry x0) := fun _ => lengthOf_base _
theorem gangSlotReservation : ∀ x0 x1, Statement (.gangSlotReservation x0 x1) := fun _ _ => lengthOf_base _
theorem flyArrival : ∀ x0, Statement (.flyArrival x0) := fun _ => lengthOf_base _
theorem wakeDelivery : ∀ x0, Statement (.wakeDelivery x0) := fun _ => lengthOf_base _
theorem preemption : ∀ x0, Statement (.preemption x0) := fun _ => lengthOf_base _
theorem forcedSave : ∀ x0, Statement (.forcedSave x0) := fun _ => lengthOf_base _
theorem accessCompletion : ∀ x0, Statement (.accessCompletion x0) := fun _ => lengthOf_base _
theorem relaxedStoreAck : ∀ x0 x1, Statement (.relaxedStoreAck x0 x1) := fun _ _ => lengthOf_base _
theorem waitLimitExpiry : ∀ x0, Statement (.waitLimitExpiry x0) := fun _ => lengthOf_base _
theorem fullEmptyRequest : ∀ x0, Statement (.fullEmptyRequest x0) := fun _ => lengthOf_base _
theorem parkTableResend : ∀ x0, Statement (.parkTableResend x0) := fun _ => lengthOf_base _
theorem withdrawal : ∀ x0, Statement (.withdrawal x0) := fun _ => lengthOf_base _
theorem withdrawalAnswer : ∀ x0, Statement (.withdrawalAnswer x0) := fun _ => lengthOf_base _
theorem sleepExpiry : ∀ x0, Statement (.sleepExpiry x0) := fun _ => lengthOf_base _
theorem promiseExpiry : ∀ x0, Statement (.promiseExpiry x0) := fun _ => lengthOf_base _
theorem promiseMissedUpcall : ∀ x0, Statement (.promiseMissedUpcall x0) := fun _ => lengthOf_base _
theorem waysChange : ∀ x0, Statement (.waysChange x0) := fun _ => lengthOf_base _
theorem copyBlock : ∀ x0, Statement (.copyBlock x0) := fun _ => lengthOf_base _
theorem vectorCommandStart : ∀ x0 x1, Statement (.vectorCommandStart x0 x1) := fun _ _ => lengthOf_base _
theorem tileCaptureEnd : ∀ x0, Statement (.tileCaptureEnd x0) := fun _ => lengthOf_base _
theorem imageBlockRead : ∀ x0, Statement (.imageBlockRead x0) := fun _ => lengthOf_base _
theorem decompositionComplete : ∀ x0, Statement (.decompositionComplete x0) := fun _ => lengthOf_base _
theorem loadCompletion : ∀ x0, Statement (.loadCompletion x0) := fun _ => lengthOf_base _
theorem bankSwap : ∀ x0, Statement (.bankSwap x0) := fun _ => lengthOf_base _
theorem passStart : ∀ x0, Statement (.passStart x0) := fun _ => lengthOf_base _
theorem passStop : ∀ x0, Statement (.passStop x0) := fun _ => lengthOf_base _
theorem mailboxRequest : ∀ x0, Statement (.mailboxRequest x0) := fun _ => lengthOf_base _
theorem routerPacket : ∀ x0, Statement (.routerPacket x0) := fun _ => lengthOf_base _
theorem multicastData : ∀ x0, Statement (.multicastData x0) := fun _ => lengthOf_base _
theorem shuffleBlock : ∀ x0, Statement (.shuffleBlock x0) := fun _ => lengthOf_base _
theorem shuffleResend : ∀ x0, Statement (.shuffleResend x0) := fun _ => lengthOf_base _
theorem codedShuffle : ∀ x0, Statement (.codedShuffle x0) := fun _ => lengthOf_base _
theorem fallbackRequest : ∀ x0, Statement (.fallbackRequest x0) := fun _ => lengthOf_base _
theorem xsumReduction : ∀ x0, Statement (.xsumReduction x0) := fun _ => lengthOf_base _
theorem acknowledgement : ∀ x0, Statement (.acknowledgement x0) := fun _ => lengthOf_base _
theorem barrierArrival : ∀ x0, Statement (.barrierArrival x0) := fun _ => lengthOf_base _
theorem flitReceive : ∀ x0 x1 x2 x3 x4, Statement (.flitReceive x0 x1 x2 x3 x4) := fun _ _ _ _ _ => lengthOf_base _
theorem codeRequest : ∀ x0 x1 x2, Statement (.codeRequest x0 x1 x2) := fun _ _ _ => lengthOf_base _
theorem codeAcknowledgement : ∀ x0 x1, Statement (.codeAcknowledgement x0 x1) := fun _ _ => lengthOf_base _
theorem loadrt : ∀ x0, Statement (.loadrt x0) := fun _ => lengthOf_base _
theorem code : ∀ x0, Statement (.code x0) := fun _ => lengthOf_base _
theorem power : ∀ x0, Statement (.power x0) := fun _ => lengthOf_base _
theorem reconf : ∀ x0, Statement (.reconf x0) := fun _ => lengthOf_base _
theorem close : ∀ x0, Statement (.close x0) := fun _ => lengthOf_base _
theorem portDrainComplete : ∀ x0 x1, Statement (.portDrainComplete x0 x1) := fun _ _ => lengthOf_base _
theorem portSwitchComplete : ∀ x0 x1, Statement (.portSwitchComplete x0 x1) := fun _ _ => lengthOf_base _
theorem trainTimeout : ∀ x0 x1, Statement (.trainTimeout x0 x1) := fun _ _ => lengthOf_base _
theorem portWake : ∀ x0 x1, Statement (.portWake x0 x1) := fun _ _ => lengthOf_base _
theorem launchEnd : ∀ x0, Statement (.launchEnd x0) := fun _ => lengthOf_base _
theorem flrDrainComplete : ∀ x0 x1, Statement (.flrDrainComplete x0 x1) := fun _ _ => lengthOf_base _
theorem powerDown : ∀ x0 x1, Statement (.powerDown x0 x1) := fun _ _ => lengthOf_base _
theorem faultWindowBoundary : ∀ x0 x1, Statement (.faultWindowBoundary x0 x1) := fun _ _ => lengthOf_base _
theorem fence : Statement .fence := lengthOf_base _
theorem tfence : Statement .tfence := lengthOf_base _
theorem vfence : Statement .vfence := lengthOf_base _
theorem ungang : Statement .ungang := lengthOf_base _
theorem pswap : Statement .pswap := lengthOf_base _
theorem tend : Statement .tend := lengthOf_base _
theorem yield : Statement .yield := lengthOf_base _
theorem wfw : Statement .wfw := lengthOf_base _
theorem rte : Statement .rte := lengthOf_base _
theorem urte : Statement .urte := lengthOf_base _
theorem halt : Statement .halt := lengthOf_base _
theorem powerOnBoot : ∀ x0 x1, Statement (.powerOnBoot x0 x1) := fun _ _ => lengthOf_base _
theorem antiRollbackAdvance : ∀ x0, Statement (.antiRollbackAdvance x0) := fun _ => lengthOf_base _
theorem measurementExtend : ∀ x0 x1 x2, Statement (.measurementExtend x0 x1 x2) := fun _ _ _ => lengthOf_base _
theorem getMeasurements : ∀ x0 x1, Statement (.getMeasurements x0 x1) := fun _ _ => lengthOf_base _
theorem pldmMonitoring : ∀ x0 x1, Statement (.pldmMonitoring x0 x1) := fun _ _ => lengthOf_base _
theorem pldmFirmwareUpdate : ∀ x0 x1, Statement (.pldmFirmwareUpdate x0 x1) := fun _ _ => lengthOf_base _
theorem powerCapSet : ∀ x0 x1, Statement (.powerCapSet x0 x1) := fun _ _ => lengthOf_base _
theorem thermalThrottle : ∀ x0 x1 x2, Statement (.thermalThrottle x0 x1 x2) := fun _ _ _ => lengthOf_base _
theorem thermalShutdown : ∀ x0 x1, Statement (.thermalShutdown x0 x1) := fun _ _ => lengthOf_base _
theorem packageReset : ∀ x0, Statement (.packageReset x0) := fun _ => lengthOf_base _
theorem launchWrite : ∀ x0 x1 x2 x3, Statement (.launchWrite x0 x1 x2 x3) := fun _ _ _ _ => lengthOf_base _
theorem malformedWrite : ∀ x0 x1 x2, Statement (.malformedWrite x0 x1 x2) := fun _ _ _ => lengthOf_base _
theorem crheadWrite : ∀ x0 x1 x2 x3, Statement (.crheadWrite x0 x1 x2 x3) := fun _ _ _ _ => lengthOf_base _
theorem queueEnable : ∀ x0 x1 x2, Statement (.queueEnable x0 x1 x2) := fun _ _ _ => lengthOf_base _
theorem queueDisable : ∀ x0 x1 x2, Statement (.queueDisable x0 x1 x2) := fun _ _ _ => lengthOf_base _
theorem registerWrite : ∀ x0 x1 x2, Statement (.registerWrite x0 x1 x2) := fun _ _ _ => lengthOf_base _
theorem portstatWrite : ∀ x0 x1 x2, Statement (.portstatWrite x0 x1 x2) := fun _ _ _ => lengthOf_base _
theorem clusterQuiesce : ∀ x0 x1 x2 x3 x4, Statement (.clusterQuiesce x0 x1 x2 x3 x4) := fun _ _ _ _ _ => lengthOf_base _
theorem checkerRetry : ∀ x0 x1, Statement (.checkerRetry x0 x1) := fun _ _ => lengthOf_base _
theorem pageWalk : ∀ x0 x1 x2 x3, Statement (.pageWalk x0 x1 x2 x3) := fun _ _ _ _ => lengthOf_base _
theorem waysWrite : ∀ x0 x1, Statement (.waysWrite x0 x1) := fun _ _ => lengthOf_base _
theorem groupWrite : ∀ x0 x1, Statement (.groupWrite x0 x1) := fun _ _ => lengthOf_base _
theorem wdescWrite : ∀ x0 x1 x2, Statement (.wdescWrite x0 x1 x2) := fun _ _ _ => lengthOf_base _
theorem wlimWrite : ∀ x0 x1, Statement (.wlimWrite x0 x1) := fun _ _ => lengthOf_base _
theorem gpivWrite : ∀ x0 x1, Statement (.gpivWrite x0 x1) := fun _ _ => lengthOf_base _
theorem tcauseWrite : ∀ x0 x1, Statement (.tcauseWrite x0 x1) := fun _ _ => lengthOf_base _
theorem probeStart : ∀ x0 x1, Statement (.probeStart x0 x1) := fun _ _ => lengthOf_base _
theorem scoutVerdict : ∀ x0 x1, Statement (.scoutVerdict x0 x1) := fun _ _ => lengthOf_base _
theorem resolverAudit : ∀ x0 x1, Statement (.resolverAudit x0 x1) := fun _ _ => lengthOf_base _
theorem carrierLoss : ∀ x0, Statement (.carrierLoss x0) := fun _ => lengthOf_base _
theorem thermalLoss : ∀ x0, Statement (.thermalLoss x0) := fun _ => lengthOf_base _
theorem spareLineAssignment : ∀ x0, Statement (.spareLineAssignment x0) := fun _ => lengthOf_base _
theorem omuRecalibration : ∀ x0 x1, Statement (.omuRecalibration x0 x1) := fun _ _ => lengthOf_base _
theorem replayTimeout : ∀ x0 x1, Statement (.replayTimeout x0 x1) := fun _ _ => lengthOf_base _
theorem codeRequestRetry : ∀ x0 x1, Statement (.codeRequestRetry x0 x1) := fun _ _ => lengthOf_base _
theorem keyUpdate : ∀ x0 x1, Statement (.keyUpdate x0 x1) := fun _ _ => lengthOf_base _
theorem laneLoss : ∀ x0 x1 x2, Statement (.laneLoss x0 x1 x2) := fun _ _ _ => lengthOf_base _
theorem portTrainComplete : ∀ x0 x1 x2, Statement (.portTrainComplete x0 x1 x2) := fun _ _ _ => lengthOf_base _
theorem portAuth : ∀ x0 x1 x2 x3 x4, Statement (.portAuth x0 x1 x2 x3 x4) := fun _ _ _ _ _ => lengthOf_base _
theorem keyCacheExpiry : ∀ x0, Statement (.keyCacheExpiry x0) := fun _ => lengthOf_base _
theorem cellRestart : ∀ x0, Statement (.cellRestart x0) := fun _ => lengthOf_base _
theorem correctedError : ∀ x0 x1 x2, Statement (.correctedError x0 x1 x2) := fun _ _ _ => lengthOf_base _
theorem pseudoChannelRetirement : ∀ x0 x1 x2, Statement (.pseudoChannelRetirement x0 x1 x2) := fun _ _ _ => lengthOf_base _
theorem cartridgeRelease : ∀ x0 x1, Statement (.cartridgeRelease x0 x1) := fun _ _ => lengthOf_base _
theorem cartridgeInsertion : ∀ x0 x1, Statement (.cartridgeInsertion x0 x1) := fun _ _ => lengthOf_base _
theorem functionLevelReset : ∀ x0 x1, Statement (.functionLevelReset x0 x1) := fun _ _ => lengthOf_base _
theorem pumpCartridgeLost : ∀ x0 x1, Statement (.pumpCartridgeLost x0 x1) := fun _ _ => lengthOf_base _
theorem spareLineRejoin : ∀ x0 x1 x2, Statement (.spareLineRejoin x0 x1 x2) := fun _ _ _ => lengthOf_base _
theorem powerLoss : ∀ x0, Statement (.powerLoss x0) := fun _ => lengthOf_base _
end Length

end Sys2Proof.Laws
end

