-- ==== Sys2Proof/Tests/Slice0.lean ====
section
/-! SUPPORT. The model's own tests: ill-formed terms that the checks refuse, words of the spec's examples, single steps with values worked
out from the spec, and for each statement with hypotheses a state and operands that meet them. -/
namespace Sys2Proof.Tests
open Sys2Proof Sys2Proof.Machine Sys2Proof.Claims
set_option Elab.async false

/-! ### A small state -/

/-- A thread placed by hand (log 2), with a context changed. -/
def thr (f : Ctx → Ctx) : Thread := let t := placedThread 2; { t with ctx := f t.ctx }

/-- A context with registers written. -/
def regs (l : List (Reg × Word)) (c : Ctx) : Ctx := l.foldl (fun c x => c.setGpr x.1 x.2) c

/-- The thread of a placed program with registers written. -/
def thrR (l : List (Reg × Word)) : Thread := thr (regs l)

/-- The same at supervisor privilege. -/
def thrP (l : List (Reg × Word)) : Thread := thr fun c => regs l { c with tstat := putFld c.tstat 8 1 1 }

/-- The state of a placed program with its thread replaced and selected. -/
def at0 (t : Thread) : State := { State.reset.withFetchWord 32 0 with cur := some 1, threads := [(1, t)] }

/-- Whether an outcome is a next state with a property. -/
def nextIs (o : Host.Outcome State Fault Refusal) (f : State → Bool) : Bool := match o with
  | .next s => f s
  | _ => false

/-- Whether an instruction leaves a thread of the given context with a property. -/
def runs (i : Instr) (t : Thread) (f : Thread → Bool) : Bool :=
  nextIs (exec i (at0 t)) fun s => ((s.thread? 1).map f).getD false

theorem selected (t : Thread) (h : t.ctx.head = none) : Selected (at0 t) 1 t := ⟨rfl, rfl, h⟩

/-! ### Ill-formed terms -/

theorem wf_reserved_creg : Instr.wf (.crr 4 (.wdesc 0)) = false := by decide
theorem wf_load_release : Instr.wf (.ldd ⟨1, 2, .imm 0, some ⟨false, .rel, .sys⟩, 0⟩) = false := by decide
theorem wf_load_scope_without_order : Instr.wf (.ldd ⟨1, 2, .imm 0, some ⟨false, .none, .cl⟩, 0⟩) = false := by decide
theorem wf_load_relaxed_acquire : Instr.wf (.ldd ⟨1, 2, .imm 0, some ⟨true, .acq, .sys⟩, 0⟩) = false := by decide
theorem wf_load_window_acquire : Instr.wf (.ldd ⟨1, 2, .imm 0, some ⟨false, .acq, .sys⟩, 3⟩) = false := by decide
theorem wf_store_acquire : Instr.wf (.std ⟨1, 2, .imm 0, some ⟨false, .acq, .sys⟩⟩) = false := by decide
theorem wf_atomic_relaxed : Instr.wf (.afadd ⟨1, 2, .reg 3, some ⟨true, .none, .sys⟩, 0⟩) = false := by decide
theorem wf_cas_window_release : Instr.wf (.acas ⟨1, 2, .reg 3, 4, ⟨false, .rel, .sys⟩, 2⟩) = false := by decide
theorem wf_fence_none : Instr.wf (.fenceExt .none .sys) = false := by decide
theorem wf_block_register : Instr.wf (.gschur 6 13) = false := by decide
theorem wf_vadd_type : Instr.wf (.vadd { ty := .eb2 }) = false := by decide
theorem wf_vadd_sat_float : Instr.wf (.vadd { ty := .f32, sat := true }) = false := by decide
theorem wf_vadd_round_int : Instr.wf (.vadd { ty := .i32, rm := .rtz }) = false := by decide
theorem wf_vadd_ftz_double : Instr.wf (.vadd { ty := .f64, ftz := true }) = false := by decide
theorem wf_vadd_unused_vc : Instr.wf (.vadd { ty := .i32, vc := 1 }) = false := by decide
theorem wf_vgath_type : Instr.wf (.vgath { ty := .i8 }) = false := by decide
theorem wf_vgath_shift : Instr.wf (.vgath { ty := .f32, vimm := 4 }) = false := by decide
theorem wf_vshl_count : Instr.wf (.vshl { ty := .i32, sub := 1, vimm := 32 }) = false := by decide
theorem wf_vcmp_unordered_int : Instr.wf (.vcmp { ty := .i32, sub := 6 }) = false := by decide
theorem wf_vred_and_float : Instr.wf (.vred { ty := .f32, sub := 3 }) = false := by decide
theorem wf_vcvt_same : Instr.wf (.vcvt { ty := .f32, ty2 := .f32 }) = false := by decide
theorem wf_vbfp_last_register : Instr.wf (.vbfpEnc { vd := 15, ty := .f32, ty2 := .eb2 }) = false := by decide
theorem wf_vbfp_block : Instr.wf (.vbfpDec { ty := .f32, ty2 := .eb4, vimm := 2 }) = false := by decide
theorem wf_vxacc_half : Instr.wf (.vxaccAdd { ty := .f32, vimm := 2 }) = false := by decide
theorem wf_vxfin_type : Instr.wf (.vxfin { ty := .f32, ty2 := .f32 }) = false := by decide
theorem wf_vext_index : Instr.wf (.vext { ty := .f64, vimm := 8 }) = false := by decide
theorem wf_vrng_type : Instr.wf (.vrngAdv { ty := .f32 }) = false := by decide

/-! ### Words of the spec's encodings -/

/-- Whether words decode to an instruction. -/
def reads (base : BitVec 32) (p1 : Word) (i : Instr) : Bool :=
  match decode (Words.ofBits base p1 0) with
  | .ok j => decide (j = i)
  | .error _ => false

/-- Whether a base word is refused. -/
def refuses (base : BitVec 32) : Bool :=
  match decode (Words.ofBits base 0 0) with
  | .ok _ => false
  | .error _ => true

theorem word_div : reads 0x01354304 0 (.div ⟨3, 4, .reg 5, 0⟩) = true := by decide
theorem word_bext : reads 0x03309505 0xF20 (.bext ⟨5, 9, .lit 0xF20⟩) = true := by decide
theorem word_lil : reads 0x01231518 0 (.lil 5 0x0123) = true := by decide
theorem word_li_literal : reads 0x00000519 0x0123456789ABCDEF (.liImm64 5 0x0123456789ABCDEF) = true := by decide
theorem word_beq : reads 0xFFFD2120 0 (.beq ⟨1, 2, 0xFFFD⟩) = true := by decide
theorem word_fence : reads 0x00000080 0 .fence = true := by decide
theorem word_acas : reads 0x00998472 0x260A (.acas ⟨4, 8, .reg 9, 10, ⟨false, .rel, .cl⟩, 0⟩) = true := by decide
theorem word_cpy : reads 0x00076986 8 (.cpy ⟨9, 6, 7, 8, none⟩) = true := by decide
theorem word_vld : reads 0x00001091 0x0000000140000201 (.vld { vd := 2, ty := .f32, a := 1 }) = true := by decide
theorem word_pswap : reads 0x002000A0 0 .pswap = true := by decide
theorem word_pass : reads 0x003017A0 0 (.pass 7 1) = true := by decide
theorem word_pbank : reads 0x000326A0 0 (.pbank 6 2 3) = true := by decide
theorem word_pdec : reads 0x001879A0 0 (.pdec 9 7 8) = true := by decide
theorem word_pcal : reads 0x005980A0 0 (.pcal 8 9) = true := by decide
theorem word_gschur : reads 0x001D08B0 0 (.gschur 8 13) = true := by decide
theorem word_gacc : reads 0x000DC8B0 0 (.gacc 8 12 13) = true := by decide
theorem word_gpost : reads 0x0040D8B0 0 (.gpost 13 8) = true := by decide
theorem word_qbind : reads 0x010300C0 0 (.qbind 0 .decdone) = true := by decide
theorem word_qpop : reads 0x013008C0 0 (.qpop 8 0) = true := by decide
theorem word_wfw : reads 0x006000C0 0 .wfw = true := by decide
theorem word_bar_part : reads 0x003210D2 0x300 (.barScoped 1 2 .part) = true := by decide
theorem word_shuf : reads 0x002018D0 0 (.shuf 8 1) = true := by decide
theorem word_shufset : reads 0x001018D0 0 (.shufset 8 1) = true := by decide
theorem word_xred : reads 0x004078D0 0 (.xred 8 7) = true := by decide
theorem word_trap : reads 0x000500E0 0 (.trap 5) = true := by decide
theorem word_urte : reads 0x002000E0 0 .urte = true := by decide
theorem word_crr_trec : reads 0x000C04E4 0 (.crr 4 .trec) = true := by decide
theorem word_crw_tcause : reads 0x000A50E8 0 (.crw .tcause 5) = true := by decide
theorem word_crw_ways : reads 0x000350E8 0 (.crw .ways 5) = true := by decide
theorem word_reserved_bit : refuses 0x10000004 = true := by decide
theorem word_reserved_creg : refuses 0x010010E4 = true := by decide
theorem word_reserved_length : refuses 0x00000001 = true := by decide

/-! ### Single steps, with values from the spec's examples and tables -/

/-- Whether an instruction writes a register. -/
def writes (i : Instr) (t : Thread) (d : Reg) (v : Word) : Bool :=
  runs i t fun u => u.ctx.gpr d == v && u.ctx.pc == t.ctx.pc + BitVec.ofNat 64 (encode i).len

/-- g4 = -7, g5 = 2, g6 = 0 (the example under R157). -/
def div7 : Thread := thrR [(4, 0xFFFFFFFFFFFFFFF9), (5, 2)]

theorem step_div : writes (.div ⟨3, 4, .reg 5, 0⟩) div7 3 0xFFFFFFFFFFFFFFFD = true := by decide +kernel
theorem step_rem : writes (.rem ⟨3, 4, .reg 5, 0⟩) div7 3 0xFFFFFFFFFFFFFFFF = true := by decide +kernel
theorem step_divn : writes (.divn ⟨3, 4, .reg 5, 0⟩) div7 3 0x7FFFFFFFFFFFFFFC = true := by decide +kernel
theorem step_remn : writes (.remn ⟨3, 4, .reg 5, 0⟩) div7 3 1 = true := by decide +kernel
theorem step_div_zero : writes (.div ⟨3, 4, .reg 6, 0⟩) div7 3 0xFFFFFFFFFFFFFFFF = true := by decide +kernel
theorem step_rem_zero : writes (.rem ⟨3, 4, .reg 6, 0⟩) div7 3 0xFFFFFFFFFFFFFFF9 = true := by decide +kernel
/-- R157: the most negative number divided by -1. -/
theorem step_div_overflow : writes (.div ⟨3, 4, .lit 0xFFFFFFFFFFFFFFFF, 0⟩) (thrR [(4, 0x8000000000000000)]) 3 0x8000000000000000 = true := by
  decide +kernel
/-- R156: a shift counts modulo 64, sar keeps the sign, bext takes WIDTH + 1 bits from POS. -/
theorem step_shl : writes (.shl ⟨3, 4, .lit 65⟩) (thrR [(4, 3)]) 3 6 = true := by decide +kernel
theorem step_sar : writes (.sar ⟨3, 4, .lit 4⟩) (thrR [(4, 0x8000000000000000)]) 3 0xF800000000000000 = true := by decide +kernel
theorem step_mulh : writes (.mulh ⟨3, 4, .lit 2, 0⟩) (thrR [(4, 0xFFFFFFFFFFFFFFFF)]) 3 0xFFFFFFFFFFFFFFFF = true := by decide +kernel
theorem step_mulhn : writes (.mulhn ⟨3, 4, .lit 2, 0⟩) (thrR [(4, 0xFFFFFFFFFFFFFFFF)]) 3 1 = true := by decide +kernel
theorem step_bext : writes (.bext ⟨5, 9, .lit 0xF20⟩) (thrR [(9, 0x1234ABCD00000000)]) 5 0xABCD = true := by decide +kernel
theorem step_clz : writes (.clz 3 4) (thrR [(4, 1)]) 3 63 = true := by decide +kernel
theorem step_ctz_zero : writes (.ctz 3 4) (thrR []) 3 64 = true := by decide +kernel
theorem step_bswap : writes (.bswap 3 4) (thrR [(4, 0x0102030405060708)]) 3 0x0807060504030201 = true := by decide +kernel
/-- The example under R158: the fourth lhi of a constant. -/
theorem step_lhi : writes (.lhi 5 0xCDEF) (thrR [(5, 0x0123456789AB)]) 5 0x0123456789ABCDEF = true := by decide +kernel
theorem step_sltni : writes (.sltni ⟨3, 4, .imm 0xFFF⟩) (thrR [(4, 0xFFE)]) 3 1 = true := by decide +kernel
theorem step_slti : writes (.slti ⟨3, 4, .imm 0xFFF⟩) (thrR [(4, 0xFFE)]) 3 0 = true := by decide +kernel
/-- R159: loop with a count of 0 wraps and is taken; jalr lr jumps to the old lr; R105: offset -3. -/
theorem step_loop : runs (.loop 2 0xFFFD) (thrR []) (fun u => u.ctx.gpr 2 == 0xFFFFFFFFFFFFFFFF && u.ctx.pc == placedPc - 12) = true := by
  decide +kernel
theorem step_jalr : runs (.jalr 15) (thrR [(15, 0x1230)]) (fun u => u.ctx.gpr 15 == placedPc + 4 && u.ctx.pc == 0x1230) = true := by decide +kernel
theorem step_beq : runs (.beq ⟨1, 2, 0xFFFD⟩) (thrR []) (fun u => u.ctx.pc == placedPc - 12) = true := by decide +kernel

/-- The placed thread with a word of its scratch at 0x200. -/
def withWord (t : Thread) (v : Nat) : State := (at0 t).store (keyOf (.scratch placedCell) 0x200) (leOf 8 v)

/-- Whether an instruction in a state leaves its thread and the word at scratch 0x200 with a property. -/
def runsW (i : Instr) (s : State) (f : Thread → Word → Bool) : Bool :=
  nextIs (exec i s) fun s => ((s.thread? 1).map fun u => f u (BitVec.ofNat 64 (s.num (keyOf (.scratch placedCell) 0x200) 8))).getD false

/-- The example under R241: a compare-and-swap that matches, and one that does not. -/
theorem step_acas : runsW (.acas ⟨4, 8, .reg 9, 10, ⟨false, .rel, .cl⟩, 0⟩)
    (withWord (thrR [(8, 0x4000000000000200), (9, 7), (10, 9)]) 7) (fun u w => u.ctx.gpr 4 == 7 && w == 9) = true := by decide +kernel
theorem step_acas_differs : runsW (.acas ⟨4, 8, .reg 9, 10, ⟨false, .rel, .cl⟩, 0⟩)
    (withWord (thrR [(8, 0x4000000000000200), (9, 7), (10, 9)]) 8) (fun u w => u.ctx.gpr 4 == 8 && w == 8) = true := by decide +kernel
/-- R238: signed minimum of 32 bits writes the low word and returns the old value zero-extended. -/
theorem step_afmin_w : runsW (.afminW ⟨4, 8, .reg 9, none, 0⟩)
    (withWord (thrR [(8, 0x4000000000000200), (9, 0xFFFFFFFF)]) 0x1111111180000001) (fun u w =>
      u.ctx.gpr 4 == 0x80000001 && w == 0x1111111180000001) = true := by decide +kernel
theorem step_ldh : runsW (.ldh ⟨4, 8, .imm 2, none, 0⟩) (withWord (thrR [(8, 0x4000000000000200)]) 0x80000000)
    (fun u _ => u.ctx.gpr 4 == 0xFFFFFFFFFFFF8000) = true := by decide +kernel
theorem step_ldhn : runsW (.ldhn ⟨4, 8, .imm 2, none, 0⟩) (withWord (thrR [(8, 0x4000000000000200)]) 0x80000000)
    (fun u _ => u.ctx.gpr 4 == 0x8000) = true := by decide +kernel
theorem step_stb : runsW (.stb ⟨4, 8, .imm 1, none⟩) (withWord (thrR [(4, 0xABCD), (8, 0x4000000000000200)]) 0x1111)
    (fun _ w => w == 0xCD11) = true := by decide +kernel
/-- R230: ldfe of a full word empties it (scratch is empty by default, so the word is made full first). -/
theorem step_ldfe : nextIs (exec (.ldfe ⟨2, 8, .imm 0⟩)
      ((withWord (thrR [(8, 0x4000000000000200)]) 41).setFull (keyOf (.scratch placedCell) 0x200) true))
    (fun s => (s.thread? 1).map (fun u => u.ctx.gpr 2) == some 41 && !s.full (keyOf (.scratch placedCell) 0x200)) = true := by decide +kernel
/-- The example under R184: two EB2 elements through WDESC1. -/
def windowed (a : Word) : State :=
  let s := at0 (thrR [(1, a)])
  let c := s.cell placedCell
  let s := s.setCell placedCell { c with wdesc := c.wdesc.set 0 0x020000100000050F }
  let s := s.store (keyOf (.scratch placedCell) 0x1012) [0x68]
  s.store (keyOf (.scratch placedCell) 0x2003) [0x94, 0x80, 0x7E]

theorem step_window_odd : nextIs (exec (.ldw ⟨2, 1, .imm 0x94, none, 0⟩) (windowed 0x4100000000000000))
    (fun s => (s.thread? 1).map (fun u => u.ctx.gpr 2) == some 0x40400000) = true := by decide +kernel
theorem step_window_special : nextIs (exec (.ldw ⟨2, 1, .imm 0x90, none, 0⟩) (windowed 0x4100000000000000))
    (fun s => (s.thread? 1).map (fun u => u.ctx.gpr 2) == some 0xFFFFFFFFBFF00000) = true := by decide +kernel

/-! ### Traps -/

/-- The placed thread after an instruction that takes a supervisor trap with the given code: its TCAUSE, TEPC and PRIV (R429). The area of
its slot lies in the mapped page. -/
def trapped (i : Instr) (t : Thread) (code : Nat) (tepc : Word) : Bool :=
  let s := at0 t
  let s := s.setCell placedCell { s.cell placedCell with tvec := 0x6000 }
  nextIs (exec i s) fun s => match s.thread? 1 with
    | some u => u.ctx.tcause == BitVec.ofNat 64 code && u.ctx.tepc == tepc && u.ctx.priv && u.ctx.pc == 0x6000
    | none => false

/-- R447: trap commits first, so TEPC is the pc behind it. -/
theorem step_trap : trapped (.trap 5) (thrR []) 0x13 (placedPc + 4) = true := by decide +kernel
theorem step_jr_misaligned : trapped (.jr 2) (thrR [(2, 0x1002)]) 0x03 placedPc = true := by decide +kernel
theorem step_load_misaligned : trapped (.ldw ⟨4, 8, .imm 2, none, 0⟩) (thrR [(8, 0x4000000000000200)]) 0x03 placedPc = true := by decide +kernel
theorem step_crr_tvec_user : trapped (.crr 0 .tvec) (thrR []) 0x02 placedPc = true := by decide +kernel
theorem step_rte_user : trapped .rte (thrR []) 0x02 placedPc = true := by decide +kernel
theorem step_qpop_unbound : trapped (.qpop 2 0) (thrR []) 0x0E placedPc = true := by decide +kernel

/-! ### Vectors and Gaussian blocks -/

/-- A thread whose queue holds one vector command. -/
def queued (i : Instr) (f : Ctx → Ctx) : State := at0 (thr fun c => { (f c) with vq := [⟨i, 0, 0, false, 0, 0, 0⟩] })

/-- Whether the command's start leaves a context with a property. -/
def starts (i : Instr) (f : Ctx → Ctx) (g : Ctx → Bool) : Bool :=
  nextIs (exec (.vectorCommandStart 1 false) (queued i f)) fun s => ((s.thread? 1).map fun u => g u.ctx).getD false

/-- The example under R222 and R276: the tree of vred rounds at each level and gives 2.0 with NX. -/
theorem step_vred : starts (.vred { vd := 0, va := 1, ty := .f32 })
    (fun c => c.setVr 1 (pack 32 [0x4B800000, 0x3F800000, 0x3F800000, 0xCB7FFFFF]))
    (fun c => laneOf 32 (c.vr 0) 0 == 0x40000000 && c.vflags != 0) = true := by decide +kernel
/-- The same sum in an XSUM record: INT 3, no INX. -/
theorem step_vxacc : starts (.vxaccAdd { vd := 6, va := 1, ty := .f32 })
    (fun c => (c.setVr 1 (pack 32 [0x4B800000, 0x3F800000, 0x3F800000, 0xCB7FFFFF])).setVr 6 (pack 64 [0, 0, 0, 0x000A0000]))
    (fun c => laneOf 64 (c.vr 6) 0 == 3 && laneOf 64 (c.vr 6) 3 == 0x000A0000) = true := by decide +kernel
/-- The example under R221: finalising INT 4, ANCHOR -2 gives 1.0. -/
theorem step_vxfin : starts (.vxfin { vd := 7, va := 6, ty := .xsum, ty2 := .f32 })
    (fun c => c.setVr 6 (pack 64 [4, 0, 0, 0x0000000010_0AFFFE]))
    (fun c => laneOf 32 (c.vr 7) 0 == 0x3F800000) = true := by decide +kernel
/-- The examples under R211: 300.0 and 0.3 into E4M3, E5M2 and E2M1. -/
theorem step_vcvt_e4m3 : starts (.vcvt { vd := 2, va := 1, ty := .f32, ty2 := .e4m3 }) (fun c => c.setVr 1 (pack 32 [0x43960000, 0x3E99999A]))
    (fun c => laneOf 8 (c.vr 2) 0 == 0x79 && laneOf 8 (c.vr 2) 1 == 0x2A) = true := by decide +kernel
theorem step_vcvt_e5m2 : starts (.vcvt { vd := 2, va := 1, ty := .f32, ty2 := .e5m2 }) (fun c => c.setVr 1 (pack 32 [0x43960000]))
    (fun c => laneOf 8 (c.vr 2) 0 == 0x5D) = true := by decide +kernel
theorem step_vcvt_e2m1 : starts (.vcvt { vd := 2, va := 1, ty := .f32, ty2 := .e2m1 }) (fun c => c.setVr 1 (pack 32 [0x43960000, 0x3E99999A]))
    (fun c => laneOf 4 (c.vr 2) 0 == 7 && laneOf 4 (c.vr 2) 1 == 1) = true := by decide +kernel
/-- R262: a lane whose mask bit is 0 keeps its value. -/
theorem step_vadd_masked : starts (.vadd { vd := 2, va := 1, vb := 1, mask := some 7, ty := .n32 })
    (fun c => ((c.setVr 1 (pack 32 [5, 6])).setVr 2 (pack 32 [1, 2])).setVr 7 1)
    (fun c => laneOf 32 (c.vr 2) 0 == 10 && laneOf 32 (c.vr 2) 1 == 2) = true := by decide +kernel

/-- The block of the example under R355. -/
def chainBlock (c : Ctx) : Ctx :=
  ((((regs [(13, 1)] c).setVr 8 (pack 32 [0, 0, 0, 0, 0, 0, 0, 0, 0x8002, 0x00030002])).setVr 9
    (pack 32 [0, 0xC0800000, 0, 0, 0, 0, 0, 0, 0x41000000])).setVr 10 0).setVr 11 0

theorem step_gschur : runs (.gschur 8 13) (thr chainBlock) (fun u =>
    laneOf 32 (u.ctx.vr 8) 8 == 0x8001 && laneOf 32 (u.ctx.vr 8) 9 == 2 && laneOf 32 (u.ctx.vr 9) 0 == 0xC0000000 &&
    laneOf 32 (u.ctx.vr 9) 1 == 0 && laneOf 32 (u.ctx.vr 9) 8 == 0) = true := by decide +kernel

/-- The same block with GPIV 8.0 is SINGULAR_BLOCK, and its DETAIL is in the trap record (R354, R432). -/
theorem step_gschur_singular :
    (let s := at0 (thr fun c => { (chainBlock c) with gpiv := 0x41000000 })
     let s := s.setCell placedCell { s.cell placedCell with tvec := 0x6000 }
     nextIs (exec (.gschur 8 13) s) fun s => match s.thread? 1 with
       | some u => u.ctx.tcause == 0x0D && (s.num (keyOf (.hbm 0 0) 0x7018) 8) == 0x4100000000030108 && u.ctx.vr 8 == (chainBlock {}).vr 8
       | none => false) = true := by decide +kernel

/-! ### Placement, blocks, records -/

/-- R78 and the example of victims of cell 37. -/
theorem step_victims : (let r : Ready := { placedReady with part := placedReady.part + 1, clusters := [0, 1] }
    (List.range 4).map fun j => r.victim 37 j) = [some 44, some 45, some 46, some 11] := by decide +kernel

/-! ### States and operands that meet the hypotheses of the statements -/

/-- The value of a result, or a default. -/
def okOr {ε α : Type} (d : α) : Except ε α → α
  | .ok x => x
  | .error _ => d

/-- Whether a result is a value. -/
def isOk {ε α : Type} : Except ε α → Bool
  | .ok _ => true
  | .error _ => false

theorem ok_eq {ε α : Type} {e : Except ε α} (d : α) (h : isOk e = true) : e = .ok (okOr d e) := by
  cases e with
  | ok x => rfl
  | error x => cases h

theorem ok_pair {ε α β : Type} {e : Except ε (α × β)} (d : α × β) (h : isOk e = true) : e = .ok ((okOr d e).1, (okOr d e).2) := ok_eq d h

/-- The error of a result, or a default. -/
def errOr {ε α : Type} (d : ε) : Except ε α → ε
  | .ok _ => d
  | .error x => x

theorem err_eq {ε α : Type} {e : Except ε α} (d : ε) (h : isOk e = false) : e = .error (errOr d e) := by
  cases e with
  | ok x => cases h
  | error x => rfl

/-- A result that is a value, or an error. -/
theorem exists_ok {ε α : Type} {e : Except ε α} (h : isOk e = true) : ∃ x, e = .ok x := by
  cases e with
  | ok x => exact ⟨x, rfl⟩
  | error y => cases h
theorem exists_err {ε α : Type} {e : Except ε α} (h : isOk e = false) : ∃ x, e = .error x := by
  cases e with
  | ok x => cases h
  | error y => exact ⟨y, rfl⟩

/-- A next state of the same instruction in the same state. -/
def Goes (i : Instr) (s : State) : Prop := ∃ s', exec i s = .next s'

theorem goes_of {i : Instr} {s s' : State} (h : exec i s = .next s') : Goes i s := ⟨s', h⟩

theorem goes_ex {i : Instr} {s : State} {p : State → Prop} (h : ∃ s', exec i s = .next s' ∧ p s') : Goes i s :=
  let ⟨s', e, _⟩ := h
  ⟨s', e⟩

theorem goes_ex2 {α : Type} {i : Instr} {s : State} {p : State → α → Prop} (h : ∃ s' x, exec i s = .next s' ∧ p s' x) : Goes i s :=
  let ⟨s', _, e, _⟩ := h
  ⟨s', e⟩

/-- The scratch word at offset 0x200. -/
def scr : Word := 0x4000000000000200

/-- Its place. -/
def scrLoc : Loc := { key := keyOf (.scratch placedCell) 0x200 }

/-! Each theorem below applies its statement to a state and operands, with proofs that the hypotheses hold there. -/

theorem meets_integerRegisterResult (h : integerRegisterResult) : Goes (.sub ⟨3, 4, .lit 1⟩) (at0 (thrR [(4, 0)])) :=
  goes_of (h _ 1 _ (.sub ⟨3, 4, .lit 1⟩) 3 (0 - 1) 12 (selected (thrR [(4, 0)]) rfl) rfl)

theorem meets_divisionResult (h : divisionResult) : Goes (.rem ⟨3, 4, .reg 6, 0⟩) (at0 div7) :=
  goes_of (h _ 1 _ (.rem ⟨3, 4, .reg 6, 0⟩) 3 0xFFFFFFFFFFFFFFF9 4 (selected div7 rfl) (by decide +kernel))

theorem meets_ImmediateResult (h : Obligations.ImmediateResult) : Goes (.lea ⟨3, 4, .imm 0xFFF⟩) (at0 (thrR [(4, 0)])) :=
  goes_of (h _ 1 _ (.lea ⟨3, 4, .imm 0xFFF⟩) 3 0xFFFFFFFFFFFFFFFF 4 (selected (thrR [(4, 0)]) rfl) (by decide +kernel))

/-- A thread with jump targets, one of them misaligned. -/
def jumper : Thread := thrR [(1, 0x1000), (2, 0x1002)]

theorem meets_ControlFlow_branch (h : Obligations.ControlFlow) : Goes (.bge ⟨1, 2, 0x7FFF⟩) (at0 jumper) :=
  goes_of ((h _ 1 _ (selected jumper rfl)).1 (.bge ⟨1, 2, 0x7FFF⟩) false 0x7FFF 4 (by decide +kernel))
theorem meets_ControlFlow_jr (h : Obligations.ControlFlow) : Goes (.jr 1) (at0 jumper) :=
  goes_of ((h _ 1 _ (selected jumper rfl)).2.2.1 1 (by decide +kernel))
theorem meets_ControlFlow_jalr (h : Obligations.ControlFlow) : Goes (.jalr 1) (at0 jumper) :=
  goes_of ((h _ 1 _ (selected jumper rfl)).2.2.2.1 1 (by decide +kernel))
theorem meets_ControlFlow_misaligned (h : Obligations.ControlFlow) : Goes (.jalr 2) (at0 jumper) :=
  goes_of ((h _ 1 _ (selected jumper rfl)).2.2.2.2.2.1 2 (.jalr 2) (by decide +kernel) rfl (.inr rfl))

/-- A follower of a gang whose jump target is misaligned. -/
def followerT : Thread := { thr (regs [(2, 0x1002)]) with gang := .follower 2 }

theorem meets_ControlFlow_follower (h : Obligations.ControlFlow) : Goes (.jr 2) (at0 followerT) :=
  goes_of ((h _ 1 _ (selected followerT rfl)).2.2.2.2.1 2 rfl).1

/-! Memory -/

/-- A thread with the scratch word's address in g8. -/
def memT : Thread := thrR [(4, 5), (8, scr), (9, 7)]

theorem quiet (t : Thread) (h1 : t.rx = []) (h2 : t.rxErrs = []) : Quiet t := ⟨h1, h2⟩

theorem common_scr : Common scr := by unfold Common; decide +kernel

theorem awaits0 {s : State} {t : Thread} {sc : Sys2Proof.Scope} (h : t.gens = []) : s.awaitsGen t sc = false := by
  simp [State.awaitsGen, h]

theorem freed (o : Ord) (sc : Sys2Proof.Scope) : Freed (at0 memT) memT o sc := fun _ => awaits0 rfl

theorem resolves {t : Thread} {acc : Acc} {va : Word} {n al : Nat} (loc : Loc)
    (h : (match resolve (at0 t) ((at0 t).whoOf t) acc va n al with
      | .ok l => decide (l = loc)
      | .error _ => false) = true) : resolve (at0 t) ((at0 t).whoOf t) acc va n al = .ok loc := by
  cases e : resolve (at0 t) ((at0 t).whoOf t) acc va n al with
  | ok l => rw [e] at h; exact congrArg _ (of_decide_eq_true h)
  | error f => rw [e] at h; cases h

theorem meets_LoadResult (h : Obligations.LoadResult) : Goes (.ldw ⟨4, 8, .imm 4, none, 0⟩) (at0 memT) :=
  goes_of (h _ 1 _ (.ldw ⟨4, 8, .imm 4, none, 0⟩) 4 true ⟨4, 8, .imm 4, none, 0⟩ { key := scrLoc.key + 4 } _ _ (selected memT rfl) rfl rfl
    (.inr ⟨rfl, rfl⟩) (by unfold Common; decide +kernel) (resolves _ (by decide +kernel)) (ok_eq ([], State.reset) (by decide +kernel)))

/-- A thread one of whose stores crossed the fabric in generation 0. -/
def owing (t : Thread) : Thread := { t with gens := [(0, 0)] }

/-- Its state where that generation is passed and not closed, in a partition of two packages (R224). -/
def opened (t : Thread) : State :=
  let s := at0 (owing t)
  let s := s.setPkg 0 { s.pkg 0 with gen := 1, outstanding := [(0, 1)] }
  s.setLaunch 2 { placedLaunch with ready := { placedReady with clusters := [0, 0x100] } }

theorem held (t : Thread) (o : Ord) (h : o = .rel) (w : (opened t).awaitsGen (owing t) .part = true) : ¬ Freed (opened t) (owing t) o .part :=
  fun f => by rw [f (.inl h)] at w; cases w

theorem meets_storeResult (h : storeResult) : Goes (.sth ⟨4, 8, .imm 2, none⟩) (at0 memT) :=
  goes_of (h _ 1 _ (.sth ⟨4, 8, .imm 2, none⟩) 2 ⟨4, 8, .imm 2, none⟩ { key := scrLoc.key + 2 } _ (selected memT rfl) rfl rfl ⟨rfl, rfl⟩
    (by unfold Common; decide +kernel) (resolves _ (by decide +kernel)) (ok_eq State.reset (by decide +kernel)) |>.1 (freed _ _))

/-- A store with a release at partition scope. -/
def relStore : Store := ⟨4, 8, .imm 0, some ⟨false, .rel, .part⟩⟩

theorem meets_storeResult_held (h : storeResult) : Goes (.std relStore) (opened memT) :=
  goes_of (h _ 1 (owing memT) (.std relStore) 8 relStore scrLoc _ ⟨rfl, rfl, rfl⟩ rfl rfl ⟨rfl, rfl⟩ common_scr
    ((ok_eq scrLoc (by decide +kernel)).trans (congrArg _ (by decide +kernel))) (ok_eq State.reset (by decide +kernel))
    |>.2 (held memT _ rfl (by decide +kernel)))

/-- A relaxed store to the scratch word. -/
def relaxed : Store := ⟨4, 8, .imm 0, some ⟨true, .none, .sys⟩⟩

/-- A relaxed store that is not yet acknowledged. -/
def pendingRx : RxStore := { opr := {}, va := scr, key := scrLoc.key, bytes := [1, 2], domain := none, peer := none, bank := false }

/-- A thread with eight relaxed stores on their way. -/
def fullT : Thread := { memT with rx := List.replicate 8 pendingRx }

/-- A thread at supervisor privilege with an address in g8. -/
def ctlT (va : Word) : Thread := thrP [(4, 5), (8, va)]

theorem meets_relaxedStoreQueues (h : relaxedStoreQueues) : Goes (.std relaxed) (at0 memT) :=
  goes_of (((h _ 1 _ (.std relaxed) 8 relaxed (selected memT rfl) rfl rfl).1 scrLoc (by unfold Common; decide +kernel)
    (resolves _ (by decide +kernel))).1 (by decide))
theorem meets_relaxedStoreQueues_full (h : relaxedStoreQueues) : Goes (.std relaxed) (at0 fullT) :=
  goes_of (((h _ 1 _ (.std relaxed) 8 relaxed (selected fullT rfl) rfl rfl).1 scrLoc (by unfold Common; decide +kernel)
    (resolves _ (by decide +kernel))).2 pendingRx (List.replicate 7 pendingRx) _ (by decide +kernel) rfl (by decide) rfl rfl
      (ok_eq State.reset (by decide +kernel)))
theorem meets_relaxedStoreQueues_control (h : relaxedStoreQueues) : Goes (.std relaxed) (at0 (ctlT 0x7F00000000200000)) :=
  goes_of ((h _ 1 _ (.std relaxed) 8 relaxed (selected (ctlT 0x7F00000000200000) rfl) rfl rfl).2.1 .elbase (by decide +kernel) (by decide +kernel)
      (by decide))

theorem meets_relaxedStoreQueues_alias (h : relaxedStoreQueues) :
    Goes (.stw relaxed) { windowed 0 with threads := [(1, thrR [(8, 0x4100000000000090)])] } :=
  goes_of ((h _ 1 (thrR [(8, 0x4100000000000090)]) (.stw relaxed) 4 relaxed ⟨rfl, rfl, rfl⟩ rfl rfl).2.2 _ _ (by decide +kernel) (by decide +kernel)
    rfl rfl (ok_eq () (by decide +kernel)) (by decide))

theorem meets_atomicResult (h : atomicResult) : Goes (.afadd ⟨4, 8, .reg 9, none, 0⟩) (at0 memT) :=
  goes_of (h _ 1 _ (.afadd ⟨4, 8, .reg 9, none, 0⟩) 8 4 8 none 4 _ scrLoc _ _ (selected memT rfl) rfl ⟨rfl, rfl⟩
    (resolves _ (by decide +kernel)) (ok_eq ([], State.reset) (by decide +kernel)) |>.1 (freed _ _))

/-- An atomic with a release at partition scope. -/
def relAtomic : Atomic := ⟨4, 8, .reg 9, some ⟨false, .rel, .part⟩, 0⟩

theorem meets_atomicResult_held (h : atomicResult) : Goes (.afadd relAtomic) (opened memT) :=
  goes_of (h _ 1 (owing memT) (.afadd relAtomic) 8 4 8 (some ⟨false, .rel, .part⟩) 12 _ scrLoc _ _ ⟨rfl, rfl, rfl⟩ rfl ⟨rfl, rfl⟩
    ((ok_eq scrLoc (by decide +kernel)).trans (congrArg _ (by decide +kernel))) (ok_eq ([], State.reset) (by decide +kernel))
    |>.2 (held memT _ rfl (by decide +kernel)))

theorem meets_axaddResult (h : axaddResult) : Goes (.axadd ⟨4, 8, .reg 9, none, 0⟩) (at0 memT) :=
  goes_of (h _ 1 _ ⟨4, 8, .reg 9, none, 0⟩ scrLoc _ _ (selected memT rfl) rfl ⟨rfl, rfl⟩ (freed _ _)
    (resolves _ (by decide +kernel)) (ok_eq ([], State.reset) (by decide +kernel)))

/-- A thread at supervisor privilege. -/
def privT0 : Thread := thrP []

/-- What an access of one thread to its own memory answers. -/
def answerAt (va : Word) (n al : Nat) : Except Flt Loc := resolve (at0 memT) ((at0 memT).whoOf memT) .load va n al

/-- R177: the last byte within the limit, and the first beyond it, of eight scratch ways. -/
theorem meets_scratchAddress_within (h : scratchAddress) :
    answerAt 0x400000000007FFFF 1 1 = .ok { key := keyOf (.scratch placedCell) 0x7FFFF } := by
  refine (h (at0 memT) memT .load 0x400000000007FFFF 1 1 (by decide)).2.2.1 ?_ ?_ ?_ ?_ <;> decide +kernel
theorem meets_scratchAddress_beyond (h : scratchAddress) :
    answerAt 0x4000000000080000 1 1 = .error { code := 0x04, faddr := 0x4000000000080000 } := by
  refine (h (at0 memT) memT .load 0x4000000000080000 1 1 (by decide)).2.1 ?_ ?_ ?_ <;> decide +kernel
theorem meets_scratchAddress_misaligned (h : scratchAddress) :
    answerAt 0x4000000000000001 2 2 = .error { code := 0x03, faddr := 0x4000000000000001 } := by
  refine (h (at0 memT) memT .load 0x4000000000000001 2 2 (by decide)).1 ?_ ?_ <;> decide +kernel
theorem meets_scratchAddress_reserved (h : scratchAddress) :
    answerAt 0x4800000000000000 1 1 = .error { code := 0x04, faddr := 0x4800000000000000 } := by
  refine (h (at0 memT) memT .load 0x4800000000000000 1 1 (by decide)).2.2.2.1 ?_ ?_ ?_ ?_ <;> decide +kernel
theorem meets_scratchAddress_control (h : scratchAddress) :
    answerAt 0x7F00000000000000 8 8 = .error { code := 0x02, faddr := 0x7F00000000000000 } := by
  refine (h (at0 memT) memT .load 0x7F00000000000000 8 8 (by decide)).2.2.2.2.1 ?_ ?_ <;> decide +kernel
theorem meets_scratchAddress_width (h : scratchAddress) :
    resolve (at0 privT0) ((at0 privT0).whoOf privT0) .load 0x7F00000000200000 4 4 = .error { code := 0x04, faddr := 0x7F00000000200000 } :=
  (h (at0 privT0) privT0 .load 0x7F00000000200000 4 4 (by decide)).2.2.2.2.2 (by decide +kernel) (by decide +kernel) (.inl (by decide))

theorem meets_refusedAccessTraps_load (h : refusedAccessTraps) : Goes (.ldd ⟨4, 8, .imm 1, none, 0⟩) (at0 memT) :=
  goes_of (h _ 1 _ (.ldd ⟨4, 8, .imm 1, none, 0⟩) _ (selected memT rfl) ⟨rfl, rfl⟩ (.inl ⟨8, true, _, rfl, rfl, by unfold Common; decide +kernel,
    err_eq { code := 0 } (by decide +kernel)⟩))
theorem meets_refusedAccessTraps_store (h : refusedAccessTraps) : Goes (.std ⟨4, 8, .imm 1, none⟩) (at0 memT) :=
  goes_of (h _ 1 _ (.std ⟨4, 8, .imm 1, none⟩) _ (selected memT rfl) ⟨rfl, rfl⟩ (.inr (.inl ⟨8, _, rfl, by unfold Common; decide +kernel, .inr
      (freed _ _),
    err_eq { code := 0 } (by decide +kernel)⟩)))
theorem meets_refusedAccessTraps_atomic (h : refusedAccessTraps) : Goes (.afadd ⟨4, 9, .reg 9, none, 0⟩) (at0 memT) :=
  goes_of (h _ 1 _ (.afadd ⟨4, 9, .reg 9, none, 0⟩) _ (selected memT rfl) ⟨rfl, rfl⟩ (.inr (.inr ⟨8, _, _, _, _, _, rfl, freed _ _,
    err_eq { code := 0 } (by decide +kernel)⟩)))

/-- A thread with an address of an alias window in g8, or of control space, and its state in the state of the example under R184. -/
def winT (va : Word) : Thread := thrR [(4, 0x3F800000), (8, va)]
def winS (va : Word) : State := { windowed 0 with threads := [(1, winT va)] }

theorem selWin (va : Word) : Selected (winS va) 1 (winT va) := ⟨rfl, rfl, rfl⟩

theorem fits {s : State} {t : Thread} {d : Word} {i : Nat} (h : (windowBytes d i).1 + (windowBytes d i).2 ≤ (s.whoOf t).limit)
    (h' : elemScale d i + 3 ≤ (s.whoOf t).limit) : elemFits s t d i := ⟨h, fun _ => h'⟩

/-- The last element whose byte lies within the limit, and one whose byte does not. -/
theorem meets_windowAccess_load (h : windowAccess) : Goes (.ldw ⟨2, 8, .imm 0, none, 0⟩) (winS 0x4100000000000090) :=
  goes_of (((h _ 1 _ (.ldw ⟨2, 8, .imm 0, none, 0⟩) (selWin 0x4100000000000090) ⟨rfl, rfl⟩).1 ⟨2, 8, .imm 0, none, 0⟩ true rfl rfl rfl
    (by decide +kernel) (by decide +kernel)).2.2 (by decide +kernel) (fits (by decide +kernel) (by decide +kernel)) (by decide +kernel) rfl)
theorem meets_windowAccess_misaligned (h : windowAccess) : Goes (.ldwn ⟨2, 8, .imm 0, none, 0⟩) (winS 0x4100000000000092) :=
  goes_of (((h _ 1 _ (.ldwn ⟨2, 8, .imm 0, none, 0⟩) (selWin 0x4100000000000092) ⟨rfl, rfl⟩).1 ⟨2, 8, .imm 0, none, 0⟩ false rfl rfl rfl
    (by decide +kernel) (by decide +kernel)).1 (by decide +kernel))
theorem meets_windowAccess_beyond (h : windowAccess) : Goes (.ldw ⟨2, 8, .imm 0, none, 0⟩) (winS 0x41FFFFFFFFFFFFFC) :=
  goes_of (((h _ 1 _ (.ldw ⟨2, 8, .imm 0, none, 0⟩) (selWin 0x41FFFFFFFFFFFFFC) ⟨rfl, rfl⟩).1 ⟨2, 8, .imm 0, none, 0⟩ true rfl rfl rfl
    (by decide +kernel) (by decide +kernel)).2.1 (by decide +kernel) (by unfold elemFits; decide +kernel))
theorem meets_windowAccess_store (h : windowAccess) : Goes (.stw ⟨4, 8, .imm 0, none⟩) (winS 0x4100000000000094) :=
  goes_of (((h _ 1 _ (.stw ⟨4, 8, .imm 0, none⟩) (selWin 0x4100000000000094) ⟨rfl, rfl⟩).2.1 ⟨4, 8, .imm 0, none⟩ rfl rfl rfl
    (by decide +kernel) (by decide +kernel)).2.2 (by decide +kernel) (fits (by decide +kernel) (by decide +kernel)) (by decide +kernel))
theorem meets_windowAccess_storeMisaligned (h : windowAccess) : Goes (.stw ⟨4, 8, .imm 1, none⟩) (winS 0x4700000000000000) :=
  goes_of (((h _ 1 _ (.stw ⟨4, 8, .imm 1, none⟩) (selWin 0x4700000000000000) ⟨rfl, rfl⟩).2.1 ⟨4, 8, .imm 1, none⟩ rfl rfl rfl
    (by decide +kernel) (by decide +kernel)).1 (by decide +kernel))
theorem meets_windowAccess_storeBeyond (h : windowAccess) : Goes (.stw ⟨4, 8, .imm 0, none⟩) (winS 0x41FFFFFFFFFFFFFC) :=
  goes_of (((h _ 1 _ (.stw ⟨4, 8, .imm 0, none⟩) (selWin 0x41FFFFFFFFFFFFFC) ⟨rfl, rfl⟩).2.1 ⟨4, 8, .imm 0, none⟩ rfl rfl rfl
    (by decide +kernel) (by decide +kernel)).2.1 (by decide +kernel) (by unfold elemFits; decide +kernel))
theorem meets_windowAccess_size (h : windowAccess) : Goes (.ldd ⟨2, 8, .imm 0, none, 0⟩) (winS 0x4100000000000090) :=
  goes_of (((h _ 1 _ (.ldd ⟨2, 8, .imm 0, none, 0⟩) (selWin 0x4100000000000090) ⟨rfl, rfl⟩).2.2.1 8 0x4100000000000090 (by decide)
    (by decide) (by decide)).1 true ⟨2, 8, .imm 0, none, 0⟩ rfl rfl (by decide +kernel))
theorem meets_windowAccess_storeSize (h : windowAccess) : Goes (.stb ⟨4, 8, .imm 0, none⟩) (winS 0x4700000000000000) :=
  goes_of (((h _ 1 _ (.stb ⟨4, 8, .imm 0, none⟩) (selWin 0x4700000000000000) ⟨rfl, rfl⟩).2.2.1 1 0x4700000000000000 (by decide)
    (by decide) (by decide)).2 ⟨4, 8, .imm 0, none⟩ rfl (by decide +kernel) (.inr (fun e => by rcases e with e | e <;> cases e)))
theorem meets_windowAccess_control (h : windowAccess) : Goes (.ldd ⟨2, 8, .imm 0, none, 0⟩) (at0 (ctlT 0x7F00000000200010)) :=
  goes_of ((h _ 1 _ (.ldd ⟨2, 8, .imm 0, none, 0⟩) (selected (ctlT 0x7F00000000200010) rfl) ⟨rfl, rfl⟩).2.2.2.1 ⟨2, 8, .imm 0, none, 0⟩ .ccbase rfl
      rfl
    rfl (by decide +kernel) (by decide +kernel) (by decide +kernel))
/-- The state of a thread in a package that has booted. -/
def booted (t : Thread) : State := let s := at0 t; s.setPkg 0 { s.pkg 0 with boot := 0xFF }
theorem meets_windowAccess_controlStore (h : windowAccess) : Goes (.std ⟨4, 8, .imm 0, none⟩) (booted (ctlT 0x7F00000000200000)) := by
  have g : Goes (.registerWrite 0 0x200000 5) (booted (ctlT 0x7F00000000200000)) := ⟨_, rfl⟩
  have ⟨s1, e⟩ := g
  exact goes_of ((h _ 1 _ (.std ⟨4, 8, .imm 0, none⟩) (⟨rfl, rfl, rfl⟩ : Selected (booted (ctlT 0x7F00000000200000)) 1 _) ⟨rfl, rfl⟩).2.2.2.2
    ⟨4, 8, .imm 0, none⟩ s1 rfl rfl rfl (by decide +kernel) (by decide +kernel) rfl (by decide +kernel) (by decide +kernel) (by decide +kernel) e)


/-! Full/empty words and fences -/

/-- The state of memT with the scratch word full of 41. -/
def fullS : State := ((at0 memT).store scrLoc.key (leOf 8 41)).setFull scrLoc.key true

/-- memT is selected in a state that differs from its own in memory alone. -/
theorem selFull : Selected fullS 1 memT := ⟨rfl, rfl, rfl⟩

theorem noWaiter (t : Thread) (k : Nat) : NoWaiter (at0 t) k := by intro p hp; cases hp

/-- The word at scratch 0x200 is served by its home. -/
theorem atWord (acc : Acc) (s : State) (h : isOk (resolve s (s.whoOf memT) acc scr 8 8) = true)
    (hl : okOr scrLoc (resolve s (s.whoOf memT) acc scr 8 8) = scrLoc)
    (ha : homeAnswer (scrLoc.settle (s.fillTlb memT.pcell false scrLoc) memT.pcell 8) (s.whoOf memT) scrLoc = none) :
    AtWord s memT acc scr scrLoc (scrLoc.settle (s.fillTlb memT.pcell false scrLoc) memT.pcell 8) :=
  ⟨⟨rfl, rfl⟩, (ok_eq scrLoc h).trans (congrArg _ hl), rfl, ha⟩

theorem meets_fullEmptyResult_ldff (h : fullEmptyResult) : Goes (.ldff ⟨4, 8, .imm 0⟩) fullS :=
  goes_of ((h fullS 1 memT ⟨4, 8, .imm 0⟩ scrLoc _ selFull (by intro p hp; cases hp)).1
    (atWord .feRead fullS (by decide +kernel) (by decide +kernel) (by decide +kernel)) rfl (by decide +kernel) (by decide +kernel))
theorem meets_fullEmptyResult_ldfe (h : fullEmptyResult) : Goes (.ldfe ⟨4, 8, .imm 0⟩) fullS :=
  goes_of ((h fullS 1 memT ⟨4, 8, .imm 0⟩ scrLoc _ selFull (by intro p hp; cases hp)).2.1
    (atWord .feWrite fullS (by decide +kernel) (by decide +kernel) (by decide +kernel)) rfl (by decide +kernel) (by decide +kernel))
theorem meets_fullEmptyResult_stef (h : fullEmptyResult) : Goes (.stef ⟨4, 8, .imm 0⟩) (at0 memT) :=
  goes_of ((h (at0 memT) 1 memT ⟨4, 8, .imm 0⟩ scrLoc _ (selected memT rfl) (noWaiter memT _)).2.2.1
    (atWord .feWrite (at0 memT) (by decide +kernel) (by decide +kernel) (by decide +kernel)) (by decide +kernel) (by decide +kernel))
theorem meets_fullEmptyResult_stff (h : fullEmptyResult) : Goes (.stff ⟨4, 8, .imm 0⟩) fullS :=
  goes_of ((h fullS 1 memT ⟨4, 8, .imm 0⟩ scrLoc _ selFull (by intro p hp; cases hp)).2.2.2.1
    (atWord .feWrite fullS (by decide +kernel) (by decide +kernel) (by decide +kernel)) (by decide +kernel) (by decide +kernel))
theorem meets_fullEmptyResult_feq (h : fullEmptyResult) : Goes (.feq ⟨4, 8, .imm 0⟩) fullS :=
  goes_of ((h fullS 1 memT ⟨4, 8, .imm 0⟩ scrLoc _ selFull (by intro p hp; cases hp)).2.2.2.2.2.1
    (atWord .feRead fullS (by decide +kernel) (by decide +kernel) (by decide +kernel)))
theorem meets_fullEmptyResult_feset (h : fullEmptyResult) : Goes (.feset 8 (.imm 0)) (at0 memT) :=
  goes_of ((h (at0 memT) 1 memT ⟨4, 8, .imm 0⟩ scrLoc _ (selected memT rfl) (noWaiter memT _)).2.2.2.2.2.2.1
    (atWord .feWrite (at0 memT) (by decide +kernel) (by decide +kernel) (by decide +kernel)))
theorem meets_fullEmptyResult_feclr (h : fullEmptyResult) : Goes (.feclr 8 (.imm 0)) fullS :=
  goes_of ((h fullS 1 memT ⟨4, 8, .imm 0⟩ scrLoc _ selFull (by intro p hp; cases hp)).2.2.2.2.2.2.2.1
    (atWord .feWrite fullS (by decide +kernel) (by decide +kernel) (by decide +kernel)))

/-- A thread with g8 in the page of class 0x00 that placeProgram maps. -/
def discT : Thread := thrR [(4, 5), (8, 0x4200)]

/-- Its state with DSC set in the entry of that page (R195, R197). -/
def discS : State := (at0 discT).store (keyOf (.hbm 0 0) (placedTable + 0x20000)) (placedEntry 0 0x2F)

/-- Where its word lies. -/
def discLoc : Loc := okOr scrLoc (resolve discS (discS.whoOf discT) .feRead 0x4200 8 8)

theorem discAt : AtWord discS discT .feRead 0x4200 discLoc (discLoc.settle (discS.fillTlb discT.pcell false discLoc) discT.pcell 8) :=
  ⟨⟨rfl, rfl⟩, ok_eq scrLoc (by decide +kernel), rfl, by decide +kernel⟩

theorem meets_fullEmptyResult_discarded (h : fullEmptyResult) : Goes (.ldff ⟨4, 8, .imm 0⟩) discS :=
  goes_of ((h discS 1 discT ⟨4, 8, .imm 0⟩ discLoc _ ⟨rfl, rfl, rfl⟩ (by intro p hp; cases hp)).2.2.2.2.2.2.2.2 discAt (by decide +kernel))

theorem meets_fullEmptyWaits_ldfe (h : fullEmptyWaits) : Goes (.ldfe ⟨4, 8, .imm 0⟩) (at0 memT) :=
  goes_ex (h (at0 memT) 1 memT (.ldfe ⟨4, 8, .imm 0⟩) ⟨4, 8, .imm 0⟩ scrLoc _ (selected memT rfl) rfl rfl
    (.inr (.inl ⟨rfl, atWord .feWrite (at0 memT) (by decide +kernel) (by decide +kernel) (by decide +kernel), by decide +kernel⟩))
    (by decide +kernel) (by decide +kernel))
theorem meets_fullEmptyWaits_stef (h : fullEmptyWaits) : Goes (.stef ⟨4, 8, .imm 0⟩) fullS :=
  goes_ex (h fullS 1 memT (.stef ⟨4, 8, .imm 0⟩) ⟨4, 8, .imm 0⟩ scrLoc _ selFull rfl rfl
    (.inr (.inr (.inr ⟨rfl, atWord .feWrite fullS (by decide +kernel) (by decide +kernel) (by decide +kernel), by decide +kernel⟩)))
    (by decide +kernel) (by decide +kernel))

theorem meets_fenceResult (h : fenceResult) : Goes (.fenceExt .acq .part) (at0 memT) :=
  goes_ex (h (at0 memT) 1 memT (.fenceExt .acq .part) .acq .part 12 (selected memT rfl) ⟨rfl, rfl⟩ (.inr ⟨rfl, rfl⟩) |>.2 (freed _ _))
theorem meets_fenceResult_plain (h : fenceResult) : Goes .fence (at0 memT) :=
  goes_ex (h (at0 memT) 1 memT .fence .both .sys 4 (selected memT rfl) ⟨rfl, rfl⟩ (.inl ⟨rfl, rfl, rfl, rfl⟩) |>.2 (freed _ _))
theorem meets_fenceResult_held (h : fenceResult) : Goes (.fenceExt .rel .part) (opened memT) :=
  goes_of (h _ 1 (owing memT) (.fenceExt .rel .part) .rel .part 12 ⟨rfl, rfl, rfl⟩ ⟨rfl, rfl⟩ (.inr ⟨rfl, rfl⟩)
    |>.1 (held memT _ rfl (by decide +kernel)))

/-- The state of memT with a tlbi of its thread in its cluster, of every entry at package scope. -/
def tlbiS : State :=
  let s := at0 memT
  s.setCluster (clusterOf placedCell) { s.cluster (clusterOf placedCell) with tlbis := [⟨1, 1, 0, 0, true, 4, placedCell, [⟨0, 0, 0⟩]⟩] }

theorem meets_translationFenceResult (h : translationFenceResult) : Goes (.tfenceExt .pkg) tlbiS :=
  goes_ex (h tlbiS 1 memT (.tfenceExt .pkg) .pkg 12 ⟨rfl, rfl, rfl⟩ ⟨rfl, rfl⟩ (by decide +kernel) (.inr ⟨rfl, rfl⟩))

theorem meets_WindowOpens_load (h : Obligations.WindowOpens) : Goes (.ldd ⟨4, 8, .imm 0, none, 3⟩) (at0 memT) :=
  goes_of (h _ 1 _ (.ldd ⟨4, 8, .imm 0, none, 3⟩) 3 4 (selected memT rfl) (by decide) rfl ⟨rfl, rfl⟩ (.inl ⟨8, true, _, rfl, rfl, rfl⟩))
theorem meets_WindowOpens_atomic (h : Obligations.WindowOpens) : Goes (.afadd ⟨4, 8, .lit 1, none, 15⟩) (at0 memT) :=
  goes_of (h _ 1 _ (.afadd ⟨4, 8, .lit 1, none, 15⟩) 15 12 (selected memT rfl) (by decide) rfl ⟨rfl, rfl⟩
    (.inr (.inl ⟨8, 4, 8, none, _, rfl⟩)))
theorem meets_WindowOpens_axadd (h : Obligations.WindowOpens) : Goes (.axadd ⟨4, 8, .reg 9, none, 1⟩) (at0 memT) :=
  goes_of (h _ 1 _ (.axadd ⟨4, 8, .reg 9, none, 1⟩) 1 4 (selected memT rfl) (by decide) rfl ⟨rfl, rfl⟩
    (.inr (.inr (.inl ⟨_, rfl, rfl, rfl⟩))))
theorem meets_WindowOpens_mul (h : Obligations.WindowOpens) : Goes (.mul ⟨4, 8, .reg 9, 1⟩) (at0 memT) :=
  goes_of (h _ 1 _ (.mul ⟨4, 8, .reg 9, 1⟩) 1 4 (selected memT rfl) (by decide) rfl ⟨rfl, rfl⟩
    (.inr (.inr (.inr ⟨⟨4, 8, .reg 9, 1⟩, rfl, rfl, .inl rfl⟩))))

/-! Queues, tasks, threads, gangs -/

/-- A thread whose queue registers are bound to a port, with completions. -/
def bound (p : Option Port) : Thread :=
  let t := thr fun c => { c with q := Vector.replicate 8 p }
  { t with passdone := [5], cpydone := [0x700000000], decdone := [9], probeout := [3] }

theorem meets_queueBinding (h : queueBinding) : Goes (.qbind 0 .sq1) (at0 (bound (some .sq1))) :=
  goes_of (h _ 1 _ 0 .sq1 (selected (bound (some .sq1)) rfl)).1

/-- A shared queue of the cell of the placed thread with n values. -/
def sharedS (n : Nat) : State :=
  let s := at0 (bound (some .sq2))
  s.setVcell placedLcell { s.vcell placedLcell with sq := (s.vcell placedLcell).sq.set 2 (List.replicate n 7) }

theorem selShared (n : Nat) : Selected (sharedS n) 1 (bound (some .sq2)) := ⟨rfl, rfl, rfl⟩

theorem meets_sharedQueueResult_push (h : sharedQueueResult) : Goes (.qpush 3 5) (sharedS 31) :=
  goes_of ((h _ 1 _ 3 5 2 (selShared 31) rfl).1 (by decide +kernel) (by decide +kernel))
theorem meets_sharedQueueResult_full (h : sharedQueueResult) : Goes (.qpush 3 5) (sharedS 32) :=
  goes_of ((h _ 1 _ 3 5 2 (selShared 32) rfl).2.1 (by decide +kernel) (by decide +kernel))
theorem meets_sharedQueueResult_pop (h : sharedQueueResult) : Goes (.qpop 5 3) (sharedS 2) :=
  goes_of ((h _ 1 _ 3 5 2 (selShared 2) rfl).2.2.1 7 [7] (by decide +kernel) (by decide +kernel))
theorem meets_sharedQueueResult_empty (h : sharedQueueResult) : Goes (.qpop 5 3) (sharedS 0) :=
  goes_of ((h _ 1 _ 3 5 2 (selShared 0) rfl).2.2.2.1 (by decide +kernel) (by decide +kernel))
theorem meets_sharedQueueResult_unbound (h : sharedQueueResult) : Goes (.qpop 5 3) (at0 (bound none)) :=
  goes_of ((h _ 1 _ 3 5 2 (selected (bound none) rfl) rfl).2.2.2.2.1 (by decide +kernel)).2
theorem meets_sharedQueueResult_passpost (h : sharedQueueResult) : Goes (.qpop 5 3) (at0 (bound (some .passpost))) :=
  goes_of ((h _ 1 _ 3 5 2 (selected (bound (some .passpost)) rfl) rfl).2.2.2.2.2 (by decide +kernel))

theorem meets_completionPop_pass (h : completionPop) : Goes (.qpop 5 3) (at0 (bound (some .passdone))) :=
  goes_of ((h _ 1 _ 3 5 5 [] (selected (bound (some .passdone)) rfl)).1 (by decide +kernel) rfl (by decide))
theorem meets_completionPop_copy (h : completionPop) : Goes (.qpop 5 3) (at0 (bound (some .cpydone))) :=
  goes_of ((h _ 1 _ 3 5 0x700000000 [] (selected (bound (some .cpydone)) rfl)).2.1 (by decide +kernel) rfl (by decide))
theorem meets_completionPop_load (h : completionPop) : Goes (.qpop 5 3) (at0 (bound (some .decdone))) :=
  goes_of ((h _ 1 _ 3 5 9 [] (selected (bound (some .decdone)) rfl)).2.2.1 (by decide +kernel) rfl (by decide))
theorem meets_completionPop_probe (h : completionPop) : Goes (.qpop 5 3) (at0 (bound (some .probeout))) :=
  goes_of ((h _ 1 _ 3 5 3 [] (selected (bound (some .probeout)) rfl)).2.2.2.1 (by decide +kernel) rfl)
/-- A copy, a load and a pass that ended with PAGE_PROTECTION, with the record of the command kept or not. -/
def faultedT (p : Port) (kept : Bool) : Thread :=
  { bound (some p) with
    cpydone := [0x703000000], decdone := [0x703000000], passdone := [0x5C000007]
    engFlts := if kept then [⟨{ ticket := 7 }, 0x9000⟩] else [] }
theorem meets_completionPop_fault (h : completionPop) : Goes (.qpop 5 3) (at0 (faultedT .cpydone true)) :=
  goes_of (((h _ 1 _ 3 5 0x703000000 [] (selected (faultedT .cpydone true) rfl)).2.2.2.2.1 (by decide +kernel) rfl (by decide)).1 [] []
    ⟨{ ticket := 7 }, 0x9000⟩ rfl (by decide) (by intro x hx; cases hx))
theorem meets_completionPop_faultEmpty (h : completionPop) : Goes (.qpop 5 3) (at0 (faultedT .cpydone false)) :=
  goes_of (((h _ 1 _ 3 5 0x703000000 [] (selected (faultedT .cpydone false) rfl)).2.2.2.2.1 (by decide +kernel) rfl (by decide)).2 rfl)
theorem meets_completionPop_loadFault (h : completionPop) : Goes (.qpop 5 3) (at0 (faultedT .decdone true)) :=
  goes_of ((h _ 1 _ 3 5 0x703000000 [] (selected (faultedT .decdone true) rfl)).2.2.2.2.2.1 [] [] ⟨{ ticket := 7 }, 0x9000⟩ (by decide +kernel) rfl
    (by decide) rfl (by decide) (by intro x hx; cases hx))
theorem meets_completionPop_passFault (h : completionPop) : Goes (.qpop 5 3) (at0 (faultedT .passdone true)) :=
  goes_of ((h _ 1 _ 3 5 0x5C000007 [] (selected (faultedT .passdone true) rfl)).2.2.2.2.2.2 [] [] ⟨{ ticket := 7 }, 0x9000⟩ (by decide +kernel) rfl
    (by decide) rfl (by decide) (by intro x hx; cases hx))

/-- A thread with a task record's address in g8 and its join word's in g9. -/
def taskT : Thread := thrR [(8, scr), (9, scr + 0x40)]

/-- A task record at scratch 0x200 with a join word at 0x240, or with none. -/
def taskS (join : Nat) : State := (at0 taskT).store scrLoc.key (leOf 8 0x300000100 ++ leOf 8 join ++ leOf 8 1 ++ leOf 8 2)

/-- What readRecord gives there. -/
def taskR (join : Nat) : BitVec 256 × State := okOr (0, State.reset) (readRecord (taskS join) taskT (taskT.ctx.gpr 8))

/-- The seat of the placed thread. -/
def seat0 : Seat := ⟨placedLaunch, placedLcell, ⟨placedCell, 0, 0⟩⟩

/-- The record where the thread owes a generation. -/
def heldTaskS : State := (opened taskT).store scrLoc.key (leOf 8 0x300000100 ++ leOf 8 0 ++ leOf 8 1 ++ leOf 8 2)
def heldTaskR : BitVec 256 × State := okOr (0, State.reset) (readRecord heldTaskS (owing taskT) ((owing taskT).ctx.gpr 8))
def heldSeat : Seat := { seat0 with launch := { placedLaunch with ready := { placedReady with clusters := [0, 0x100] } } }

theorem taskRead : readRecord (taskS 0) taskT (taskT.ctx.gpr 8) = .ok ((taskR 0).1, (taskR 0).2) := by
  unfold taskR; exact ok_pair _ (by decide +kernel)
theorem heldTaskRead : readRecord heldTaskS (owing taskT) ((owing taskT).ctx.gpr 8) = .ok (heldTaskR.1, heldTaskR.2) := by
  unfold heldTaskR; exact ok_pair _ (by decide +kernel)

theorem meets_ForkPushes (h : Obligations.ForkPushes) : Goes (.fork 8) (taskS 0) :=
  goes_of ((h (taskS 0) 1 taskT taskT 8 (taskR 0).1 (taskR 0).2 (taskR 0).2 seat0 ⟨rfl, rfl, rfl⟩ rfl ⟨⟨rfl, rfl⟩, rfl⟩ (by decide +kernel)
    taskRead (by decide +kernel) (by decide +kernel) (.inl ⟨by decide +kernel, rfl, rfl⟩) (by decide +kernel)).1 (by decide +kernel))
theorem meets_ForkPushes_held (h : Obligations.ForkPushes) : Goes (.fork 8) heldTaskS :=
  goes_of ((h heldTaskS 1 (owing taskT) (owing taskT) 8 heldTaskR.1 heldTaskR.2 heldTaskR.2 heldSeat ⟨rfl, rfl, rfl⟩ rfl ⟨⟨rfl, rfl⟩, rfl⟩
    (by decide +kernel) heldTaskRead (by decide +kernel) (by decide +kernel) (.inl ⟨by decide +kernel, rfl, rfl⟩) (by decide +kernel)).2
    (by decide +kernel))

/-- The join word's place. -/
def joinLoc : Loc := { key := scrLoc.key + 0x40 }

/-- What an atomic finds at an address that resolves. -/
def found (s : State) (t : Thread) (loc : Loc) : List Byte × State :=
  okOr ([], State.reset) (readAt (loc.settle (s.fillTlb t.pcell false loc) t.pcell 8) (s.whoOf t) loc 8 false)

theorem atPlace {s : State} {t : Thread} {va : Word} {loc : Loc} (h : (match resolve s (s.whoOf t) .atomic va 8 8 with
      | .ok l => decide (l = loc)
      | .error _ => false) = true)
    (hr : isOk (readAt (loc.settle (s.fillTlb t.pcell false loc) t.pcell 8) (s.whoOf t) loc 8 false) = true) :
    AtPlace s t .atomic va 8 id loc (found s t loc).1 (found s t loc).2 := by
  refine ⟨?_, ok_eq ([], State.reset) hr⟩
  cases e : resolve s (s.whoOf t) .atomic va 8 8 with
  | ok l => rw [e] at h; exact congrArg _ (of_decide_eq_true h)
  | error f => rw [e] at h; cases h

/-- A record in the mapped page of class 0x00, for a join word there (a child outside its parent's cluster cannot reach scratch). -/
def pageT : Thread := thrR [(8, 0x4200), (9, 0x4240)]
def pageS : State := (at0 pageT).store (keyOf (.hbm 0 0) 0x4200) (leOf 8 0x300000100 ++ leOf 8 0x4240 ++ leOf 8 1 ++ leOf 8 2)
def pageR : BitVec 256 × State := okOr (0, State.reset) (readRecord pageS pageT (pageT.ctx.gpr 8))
def pageLoc : Loc := okOr scrLoc (resolve pageR.2 (pageR.2.whoOf pageT) .atomic 0x4240 8 8)

theorem meets_ForkPushes_join (h : Obligations.ForkPushes) : Goes (.fork 8) pageS :=
  goes_of (h pageS 1 pageT _ 8 pageR.1 pageR.2 _ seat0 ⟨rfl, rfl, rfl⟩ rfl ⟨⟨rfl, rfl⟩, rfl⟩ (by decide +kernel)
    (ok_eq (0, State.reset) (by decide +kernel)) (by decide +kernel) (by decide +kernel)
    (.inr ⟨.inl (by decide +kernel), by decide +kernel, pageLoc, (found pageR.2 pageT pageLoc).1, (found pageR.2 pageT pageLoc).2,
      by rw [show pageR.1.extractLsb' 64 64 = (0x4240 : Word) from by decide +kernel]
         exact atPlace (by decide +kernel) (by decide +kernel), rfl, rfl⟩) (by decide +kernel) |>.1 (by decide +kernel))

/-- The join word of taskT holding a number. -/
def joinS (w : Nat) (t : Thread) : State := (at0 t).store joinLoc.key (leOf 8 w)

theorem joinAt (w : Nat) (t : Thread) (h : (match resolve (joinS w t) ((joinS w t).whoOf t) .atomic (scr + 0x40) 8 8 with
      | .ok l => decide (l = joinLoc)
      | .error _ => false) = true)
    (hr : isOk (readAt (joinLoc.settle ((joinS w t).fillTlb t.pcell false joinLoc) t.pcell 8) ((joinS w t).whoOf t) joinLoc 8 false) = true) :
    AtPlace (joinS w t) t .atomic (scr + 0x40) 8 id joinLoc (found (joinS w t) t joinLoc).1 (found (joinS w t) t joinLoc).2 :=
  atPlace h hr

/-- taskT with a wake pending. -/
def wokenT : Thread := thr fun c => { (regs [(9, scr + 0x40)] c) with tstat := 0x2000000 }

theorem meets_JoinResult_none (h : Obligations.JoinResult) : Goes (.join 9) (joinS 0 taskT) :=
  goes_of ((h (joinS 0 taskT) 1 taskT 9 joinLoc _ _ ⟨rfl, rfl, rfl⟩ rfl ⟨⟨rfl, rfl⟩, rfl⟩ (by decide +kernel)
    (joinAt 0 taskT (by decide +kernel) (by decide +kernel))).1 (by decide +kernel))
theorem meets_JoinResult_waits (h : Obligations.JoinResult) : Goes (.join 9) (joinS 1 taskT) :=
  goes_ex ((h (joinS 1 taskT) 1 taskT 9 joinLoc _ _ ⟨rfl, rfl, rfl⟩ rfl ⟨⟨rfl, rfl⟩, rfl⟩ (by decide +kernel)
    (joinAt 1 taskT (by decide +kernel) (by decide +kernel))).2.1 (by decide +kernel) (by decide +kernel))
theorem meets_JoinResult_wake (h : Obligations.JoinResult) : Goes (.join 9) (joinS 0x100000001 wokenT) :=
  goes_ex ((h (joinS 0x100000001 wokenT) 1 wokenT 9 joinLoc _ _ ⟨rfl, rfl, rfl⟩ rfl ⟨⟨rfl, rfl⟩, rfl⟩ (by decide +kernel)
    (joinAt 0x100000001 wokenT (by decide +kernel) (by decide +kernel))).2.1 (by decide +kernel) (by decide +kernel))
theorem meets_JoinResult_other (h : Obligations.JoinResult) : Goes (.join 9) (joinS 0x500000001 taskT) :=
  goes_of ((h (joinS 0x500000001 taskT) 1 taskT 9 joinLoc _ _ ⟨rfl, rfl, rfl⟩ rfl ⟨⟨rfl, rfl⟩, rfl⟩ (by decide +kernel)
    (joinAt 0x500000001 taskT (by decide +kernel) (by decide +kernel))).2.2 (by decide +kernel) (by decide +kernel) (by decide +kernel))

theorem meets_TaskEnds_plain (h : Obligations.TaskEnds) : Goes .tend (at0 taskT) :=
  goes_ex ((h _ 1 _ (selected taskT rfl) rfl ⟨⟨rfl, rfl⟩, rfl⟩).1 (by decide +kernel) rfl)
/-- A child with a join word. -/
def childT : Thread := thr fun c => { c with joinAddr := scr + 0x40 }
def childS : State := joinS 0x300000001 childT
theorem meets_TaskEnds_join (h : Obligations.TaskEnds) : Goes .tend childS :=
  goes_ex ((h childS 1 childT ⟨rfl, rfl, rfl⟩ rfl ⟨⟨rfl, rfl⟩, rfl⟩).2.2.1 joinLoc _ _ (by decide +kernel) (by decide +kernel) (by decide +kernel)
    ⟨(ok_eq scrLoc (by decide +kernel)).trans (congrArg _ (by decide +kernel)), ok_eq ([], State.reset) (by decide +kernel)⟩)
theorem meets_TaskEnds_held (h : Obligations.TaskEnds) : Goes .tend (opened childT) :=
  goes_of ((h (opened childT) 1 (owing childT) ⟨rfl, rfl, rfl⟩ rfl ⟨⟨rfl, rfl⟩, rfl⟩).2.1 (by decide +kernel) (by decide +kernel))
/-- An inline run with the identity of its caller below ls. -/
def inlineT : Thread := thr fun c => { (regs [(14, scr), (15, 0x1234)] c) with tstat := 0x1000000000000 }
theorem meets_TaskEnds_inline (h : Obligations.TaskEnds) : Goes .tend (at0 inlineT) :=
  goes_of ((h _ 1 _ (selected inlineT rfl) rfl ⟨⟨rfl, rfl⟩, rfl⟩).2.2.2.1 _ _ _ _ (by decide +kernel) rfl
    (ok_eq ([], State.reset) (by decide +kernel)) (ok_eq ([], State.reset) (by decide +kernel)))
/-- The same with a join word. -/
def inlineJoinT : Thread := { inlineT with ctx := { inlineT.ctx with joinAddr := scr + 0x40 } }
theorem meets_TaskEnds_inlineJoin (h : Obligations.TaskEnds) : Goes .tend (joinS 0x300000001 inlineJoinT) :=
  goes_of ((h (joinS 0x300000001 inlineJoinT) 1 inlineJoinT ⟨rfl, rfl, rfl⟩ rfl ⟨⟨rfl, rfl⟩, rfl⟩).2.2.2.2 joinLoc _ _ _ _ _ _ (by decide +kernel)
    (by decide +kernel) (by decide +kernel)
    ⟨(ok_eq scrLoc (by decide +kernel)).trans (congrArg _ (by decide +kernel)), ok_eq ([], State.reset) (by decide +kernel)⟩
    (ok_eq ([], State.reset) (by decide +kernel)) (ok_eq ([], State.reset) (by decide +kernel)))

theorem meets_ThreadWaits_yield (h : Obligations.ThreadWaits) : Goes .yield (at0 taskT) :=
  goes_ex2 ((h _ 1 _ 8 (selected taskT rfl) rfl).1 .yield (.inl rfl))
theorem meets_ThreadWaits_sleep0 (h : Obligations.ThreadWaits) : Goes (.sleep 5) (at0 taskT) :=
  goes_ex2 ((h _ 1 _ 5 (selected taskT rfl) rfl).1 (.sleep 5) (.inr ⟨rfl, by decide +kernel⟩))
theorem meets_ThreadWaits_sleep (h : Obligations.ThreadWaits) : Goes (.sleep 8) (at0 taskT) :=
  goes_of ((h _ 1 _ 8 (selected taskT rfl) rfl).2.1 (by decide +kernel))
/-- A thread that sleeps until a count. -/
def asleepT : Thread := { taskT with run := .sleeping 0 }
theorem meets_ThreadWaits_expiry (h : Obligations.ThreadWaits) : Goes (.sleepExpiry 1) (at0 asleepT) :=
  goes_of ((h _ 1 _ 8 (selected asleepT rfl) rfl).2.2.1 0 rfl)
theorem meets_ThreadWaits_wfw (h : Obligations.ThreadWaits) : Goes .wfw (at0 taskT) :=
  goes_of ((h _ 1 _ 8 (selected taskT rfl) rfl).2.2.2.2.1 (by decide +kernel) rfl)
theorem meets_ThreadWaits_woken (h : Obligations.ThreadWaits) : Goes .wfw (at0 wokenT) :=
  goes_of ((h _ 1 _ 8 (selected wokenT rfl) rfl).2.2.2.1 (by decide +kernel))

/-- A state in which all cells of the placed cluster are mapped. -/
def wide (t : Thread) : State :=
  let s := at0 t
  let c := s.cluster ⟨0, 0, 0⟩
  s.setCluster ⟨0, 0, 0⟩ { c with cellMap := Vector.ofFn fun j => BitVec.ofNat 16 (0x8000 + j.val) }

/-- A thread with the number of cell 3 in g8. -/
def flyT : Thread := thrR [(8, 3)]
/-- The seat of that cell. -/
def seat3 : Seat := ⟨placedLaunch, { placedLcell with c := 3 }, ⟨{ placedCell with cell := 3 }, 0, 0⟩⟩

theorem unboundQ (n : Fin 8) : flyT.ctx.q.get n = none := by revert n; decide +kernel

theorem meets_FlyLeaves_away (h : Obligations.FlyLeaves) : Goes (.fly 8) (wide flyT) :=
  goes_of (((h (wide flyT) 1 flyT 8 seat0 seat3 ⟨rfl, rfl, rfl⟩ rfl (by decide +kernel) (by decide +kernel)).1 rfl ⟨⟨rfl, rfl⟩, rfl⟩
    unboundQ).2 placedCell 0 (by decide +kernel) rfl (by decide +kernel) (by decide +kernel) (by decide +kernel))
theorem meets_FlyLeaves_own (h : Obligations.FlyLeaves) : Goes (.fly 9) (wide flyT) :=
  goes_of (((h (wide flyT) 1 flyT 9 seat0 seat0 ⟨rfl, rfl, rfl⟩ rfl (by decide +kernel) (by decide +kernel)).1 rfl ⟨⟨rfl, rfl⟩, rfl⟩
    unboundQ).1 (by decide +kernel))
theorem meets_FlyLeaves_bound (h : Obligations.FlyLeaves) : Goes (.fly 8) (wide (bound (some .sq0))) :=
  goes_of ((h (wide (bound (some .sq0))) 1 (bound (some .sq0)) 8 seat0 seat0 ⟨rfl, rfl, rfl⟩ rfl (by decide +kernel) (by decide +kernel)).2
    (.inr ⟨0, by decide +kernel⟩))

/-- The other member of a gang of two. -/
def seat1 : Seat := ⟨placedLaunch, { placedLcell with c := 1 }, ⟨{ placedCell with cell := 1 }, 0, 0⟩⟩

theorem meets_gangForms (h : gangForms) : Goes (.gang .two) (wide flyT) := by
  refine goes_ex2 (h (wide flyT) 1 flyT .two placedCell 0 seat0 [(1, seat1)] ⟨rfl, rfl, rfl⟩ rfl ⟨⟨rfl, rfl⟩, rfl⟩ rfl ?_ rfl ?_ ?_ ?_ ?_ ?_)
    <;> decide +kernel

/-- A leader of a gang of two, and its follower. -/
def leadT : Thread := { flyT with gang := .leader [5] }
def followT : Thread := { flyT with gang := .follower 1, flat := 1, place := .slot { placedCell with cell := 1 } 0 }
def gangS : State := { wide leadT with threads := [(1, leadT), (5, followT)] }

theorem meets_gangDisbands (h : gangDisbands) : Goes .ungang gangS :=
  goes_ex ((h gangS 1 leadT ⟨rfl, rfl, rfl⟩ ⟨⟨rfl, rfl⟩, rfl⟩).2 [5] rfl (by decide) (by intro p hp; cases hp) (by decide +kernel))
theorem meets_gangDisbands_none (h : gangDisbands) : Goes .ungang (at0 flyT) :=
  goes_of ((h (at0 flyT) 1 flyT (selected flyT rfl) ⟨⟨rfl, rfl⟩, rfl⟩).1 rfl)

/-! Traps, upcalls, returns, contexts, maintenance -/

theorem meets_trapRecordLayout (h : trapRecordLayout) :
    (trapBytes { code := 5 } {} 255 15 15 true 0 taskT (2 ^ 64 - 1)).length = 128 :=
  (h { code := 5 } {} 255 15 15 true 0 taskT (2 ^ 64 - 1) (by decide) (by decide) (by decide)).1

/-- The state of a thread with the supervisor's area in the mapped page. -/
def withArea (s : State) : State := s.setCell placedCell { s.cell placedCell with tvec := 0x6000 }

theorem meets_supervisorEntry (h : supervisorEntry) :
    ∃ t', (takeFault (withArea (at0 taskT)) 1 { code := 0x03 } {}).thread? 1 = some t' ∧ t'.run = .ready :=
  let ⟨t', e, r, _⟩ := (h (withArea (at0 taskT)) 1 taskT { code := 0x03 } {} placedCell 0 _ rfl ⟨⟨rfl, rfl⟩, rfl⟩ rfl rfl rfl (by decide +kernel)
    rfl rfl rfl (by decide) (by decide) (by decide) (by decide) (ok_eq State.reset (by decide +kernel))).2
  ⟨t', e, r⟩

/-- A thread at supervisor privilege with operands of the supervisor instructions. -/
def privT : Thread := thrP [(5, 0x8000), (6, 7), (8, scr), (9, 0x40)]

theorem meets_doubleTrap (h : doubleTrap) : (takeFault (at0 privT) 1 { code := 0x03 } {}).thread? 1 = none :=
  (h (at0 privT) 1 privT { code := 0x03 } {} rfl ⟨⟨rfl, rfl⟩, rfl⟩ rfl rfl rfl (by decide +kernel) rfl).1

/-- A thread with an upcall handler and a record address, and with its first fault context taken. -/
def upT : Thread :=
  let t := thr fun c => { c with uvec := 0x5000, trec := 0x4000000000000400 }
  { t with fctx := t.fctx.set 0 (some { ctx := {}, rep := ⟨9, 0, 0, 0⟩ }) }

theorem meets_upcallEntry (h : upcallEntry) :
    ∃ t', (takeFault (at0 upT) 1 { code := 0x05, faddr := 0x9000 } {}).thread? 1 = some t' ∧ t'.place = upT.place := by
  have ⟨t', e, p, _⟩ := (h (at0 upT) 1 upT { code := 0x05, faddr := 0x9000 } {} 1
    (((at0 upT).releaseSlots 1).writeTrec upT (trapBytes { code := 0x05, faddr := 0x9000 } {} 0x05 0 1 true 0 upT ((at0 upT).cycOf upT)) |>.get
      (by decide +kernel)) rfl ⟨⟨rfl, rfl⟩, rfl⟩ rfl rfl (by decide +kernel) (by decide +kernel) rfl rfl (.inl rfl) (by decide +kernel) (by decide)
    (by decide +kernel) (by decide +kernel) (Option.some_get _).symm).2
  exact ⟨t', e, p⟩

theorem meets_TrapInstruction (h : Obligations.TrapInstruction) : Goes (.trap 15) (at0 taskT) :=
  goes_of ((h _ 1 _ 15 (selected taskT rfl)).1 rfl)
theorem meets_TrapInstruction_gang (h : Obligations.TrapInstruction) : Goes (.trap 15) (at0 leadT) :=
  goes_of ((h _ 1 _ 15 (selected leadT rfl)).2 (by decide +kernel))

theorem meets_PrivilegeChecks (h : Obligations.PrivilegeChecks) : Goes (.scrub 8 9) (at0 taskT) :=
  goes_of ((h _ 1 _ (.scrub 8 9) 8 9 0 0 .sys (selected taskT rfl)).1 (.inr (.inr (.inr (.inr (.inr (.inr (.inl rfl))))))) (by decide +kernel))
theorem meets_PrivilegeChecks_topo (h : Obligations.PrivilegeChecks) : Goes (.topo 4 8) (at0 taskT) :=
  goes_of ((h _ 1 _ (.topo 4 8) 8 9 4 0 .sys (selected taskT rfl)).1 (.inr (.inr (.inr (.inr (.inr (.inr (.inr rfl))))))) (by decide +kernel))
theorem meets_PrivilegeChecks_gang (h : Obligations.PrivilegeChecks) : Goes .halt (at0 { privT with gang := .leader [5] }) :=
  goes_of ((h _ 1 _ .halt 8 9 0 0 .sys (selected { privT with gang := .leader [5] } rfl)).2.1 (.inr (.inl rfl)) (by decide +kernel)
    (by decide +kernel))
theorem meets_PrivilegeChecks_alone (h : Obligations.PrivilegeChecks) : Goes (.bar 8 9) (at0 { taskT with gang := .follower 2 }) :=
  goes_of ((h _ 1 _ (.bar 8 9) 8 9 0 0 .sys (selected { taskT with gang := .follower 2 } rfl)).2.2.1
    (.inr (.inr (.inr (.inr (.inr (.inr (.inr (.inr (.inr (.inr (.inl rfl))))))))))) (by decide +kernel))
theorem meets_PrivilegeChecks_disbands (h : Obligations.PrivilegeChecks) : Goes .pswap gangS :=
  goes_ex ((h gangS 1 leadT .pswap 8 9 0 0 .sys ⟨rfl, rfl, rfl⟩).2.2.2 [5] (.inr (.inr (.inl rfl))) rfl (by decide) (by decide +kernel)
    ⟨⟨rfl, rfl⟩, rfl⟩)

theorem meets_rteResult (h : rteResult) : Goes .rte (withArea (at0 privT)) :=
  goes_ex2 (h (withArea (at0 privT)) 1 privT placedCell 0 _ _ ⟨rfl, rfl, rfl⟩ (by decide +kernel) rfl rfl
    (ok_eq ([], State.reset) (by decide +kernel)))

/-- A fault context. -/
def inner0 : FaultCtx := { ctx := { pc := 0x4100 }, rep := ⟨9, 0, 0, 0⟩ }

/-- A thread in an upcall handler whose TCAUSE names a fault context. -/
def handler (f : Nat) : Thread :=
  let t := thr fun c => { c with tstat := 0x200000, tcause := BitVec.ofNat 64 (256 * f) }
  { t with fctx := t.fctx.set 3 (some inner0) }

theorem meets_urteResult_outside (h : urteResult) : Goes .urte (at0 taskT) :=
  goes_of ((h _ 1 _ (selected taskT rfl) rfl ⟨⟨rfl, rfl⟩, rfl⟩).1 (.inl (by decide +kernel)))
theorem meets_urteResult_low (h : urteResult) : Goes .urte (at0 (handler 4)) :=
  goes_of ((h _ 1 _ (selected (handler 4) rfl) rfl ⟨⟨rfl, rfl⟩, rfl⟩).1 (.inr (by decide +kernel)))
theorem meets_urteResult_high (h : urteResult) : Goes .urte (at0 (handler 14)) :=
  goes_of ((h _ 1 _ (selected (handler 14) rfl) rfl ⟨⟨rfl, rfl⟩, rfl⟩).1 (.inr (by decide +kernel)))
theorem meets_urteResult_none (h : urteResult) : Goes .urte (at0 (handler 15)) :=
  goes_of ((h _ 1 _ (selected (handler 15) rfl) rfl ⟨⟨rfl, rfl⟩, rfl⟩).2.1 (by decide +kernel) (by decide +kernel))
theorem meets_urteResult_empty (h : urteResult) : Goes .urte (at0 (handler 2)) :=
  goes_of ((h _ 1 _ (selected (handler 2) rfl) rfl ⟨⟨rfl, rfl⟩, rfl⟩).2.2.1 2 (by decide +kernel) (by decide +kernel) (by decide +kernel))
theorem meets_urteResult_returns (h : urteResult) : Goes .urte (at0 (handler 3)) :=
  goes_ex2 ((h _ 1 _ (selected (handler 3) rfl) rfl ⟨⟨rfl, rfl⟩, rfl⟩).2.2.2 3 inner0 (by decide +kernel) (by decide +kernel)
    rfl rfl)

theorem meets_haltResult (h : haltResult) : Goes .halt (at0 privT) :=
  goes_ex (h _ 1 _ (selected privT rfl) (by decide +kernel) rfl ⟨rfl, rfl⟩)

/-- A thread in the context cache of the placed cell. -/
def cachedT (f : Thread → Thread) : Thread := f { taskT with ctx := { taskT.ctx with tid := 7 }, place := .cache placedCell true 3 }

/-- privT beside it. -/
def cacheS (f : Thread → Thread) (sel : Word) : State :=
  { at0 privT with threads := [(1, thrP [(5, 0x8000), (6, sel)]), (9, cachedT f)] }

/-- The selector and the image of a thread that saves or loads a context of the placed cell are in order. -/
abbrev ImageOk (s : State) (t : Thread) (acc : Acc) : Prop :=
  let sel := t.ctx.gpr 6
  t.ctx.priv = true ∧ sel &&& 0xFFFA000000000000 = 0 ∧ sel.toNat / 2 ^ 32 % 65536 < 32 ∧ (t.ctx.gpr 5).toNat % 64 = 0 ∧
  rangeFault s t acc (t.ctx.gpr 5) 2048 = none ∧ s.ownLcl t = some (0, 0, 0) ∧
  s.place ⟨0, 0, 0, sel.toNat / 2 ^ 32 % 65536⟩ = some ⟨placedCell, 0, 0⟩

theorem meets_contextSave (h : contextSave) : Goes (.ctxsv 5 6) (cacheS id 7) := by
  have p : ImageOk (cacheS id 7) (thrP [(5, 0x8000), (6, 7)]) .store := by decide +kernel
  exact goes_of (((h (cacheS id 7) 1 (thrP [(5, 0x8000), (6, 7)]) 5 6 0 0 0 ⟨placedCell, 0, 0⟩ ⟨rfl, rfl, rfl⟩ p.1 rfl ⟨rfl, rfl⟩ p.2.1 p.2.2.1
    p.2.2.2.1 p.2.2.2.2.1 p.2.2.2.2.2.1 p.2.2.2.2.2.2).1 9 (cachedT id) _ (by decide +kernel) (by decide +kernel) (by decide +kernel)
    (ok_eq State.reset (by decide +kernel))).1 (by decide +kernel))
theorem meets_contextSave_removed (h : contextSave) : Goes (.ctxsv 5 6) (cacheS id 0x1000000000007) := by
  have p : ImageOk (cacheS id 0x1000000000007) (thrP [(5, 0x8000), (6, 0x1000000000007)]) .store := by decide +kernel
  exact goes_ex (((h (cacheS id 0x1000000000007) 1 (thrP [(5, 0x8000), (6, 0x1000000000007)]) 5 6 0 0 0 ⟨placedCell, 0, 0⟩ ⟨rfl, rfl, rfl⟩ p.1 rfl
    ⟨rfl, rfl⟩ p.2.1 p.2.2.1 p.2.2.2.1 p.2.2.2.2.1 p.2.2.2.2.2.1 p.2.2.2.2.2.2).1 9 (cachedT id) _ (by decide +kernel) (by decide +kernel) (by
      decide +kernel)
    (ok_eq State.reset (by decide +kernel))).2 (by decide +kernel) (by decide) (by intro p hp; cases hp))
/-- A cached thread with a fault context. -/
def faultCtx (t : Thread) : Thread := { t with fctx := t.fctx.set 1 (some inner0) }
theorem meets_contextSave_fault (h : contextSave) : Goes (.ctxsv 5 6) (cacheS faultCtx 7) := by
  have p : ImageOk (cacheS faultCtx 7) (thrP [(5, 0x8000), (6, 7)]) .store := by decide +kernel
  exact goes_of ((h (cacheS faultCtx 7) 1 (thrP [(5, 0x8000), (6, 7)]) 5 6 0 0 0 ⟨placedCell, 0, 0⟩ ⟨rfl, rfl, rfl⟩ p.1 rfl ⟨rfl, rfl⟩ p.2.1 p.2.2.1
    p.2.2.2.1 p.2.2.2.2.1 p.2.2.2.2.2.1 p.2.2.2.2.2.2).2.1 9 (cachedT faultCtx) 1 (by decide +kernel) (by decide +kernel))
theorem meets_contextSave_missing (h : contextSave) : Goes (.ctxsv 5 6) (cacheS id 8) := by
  have p : ImageOk (cacheS id 8) (thrP [(5, 0x8000), (6, 8)]) .store := by decide +kernel
  exact goes_of ((h (cacheS id 8) 1 (thrP [(5, 0x8000), (6, 8)]) 5 6 0 0 0 ⟨placedCell, 0, 0⟩ ⟨rfl, rfl, rfl⟩ p.1 rfl ⟨rfl, rfl⟩ p.2.1 p.2.2.1
    p.2.2.2.1 p.2.2.2.2.1 p.2.2.2.2.2.1 p.2.2.2.2.2.2).2.2.1 (by decide +kernel) (by decide +kernel) (by decide +kernel))
/-- The thread of TID 7 runs in slot 3 of its cell. -/
def slotted (t : Thread) : Thread := { t with place := .slot placedCell 3 }
theorem meets_contextSave_asks (h : contextSave) : Goes (.ctxsv 5 6) (cacheS slotted 0x4000000000007) := by
  have p : ImageOk (cacheS slotted 0x4000000000007) (thrP [(5, 0x8000), (6, 0x4000000000007)]) .store := by decide +kernel
  exact goes_of ((h (cacheS slotted 0x4000000000007) 1 (thrP [(5, 0x8000), (6, 0x4000000000007)]) 5 6 0 0 0 ⟨placedCell, 0, 0⟩ ⟨rfl, rfl, rfl⟩ p.1 rfl
    ⟨rfl, rfl⟩ p.2.1 p.2.2.1 p.2.2.2.1 p.2.2.2.2.1 p.2.2.2.2.2.1 p.2.2.2.2.2.2).2.2.2 9 (cachedT slotted) (by decide +kernel) (by decide +kernel)
    (by decide +kernel) (by decide +kernel))

/-- An image of TID 7 at 0x8000. -/
def imageS : State := (at0 privT).store (keyOf (.hbm 0 0) 0x8010) [7]

/-- What ctxld reads there. -/
def imageR : List Byte × State := okOr ([], State.reset) (cellRead imageS (imageS.whoOf privT) (privT.ctx.gpr 5) 2048)

theorem meets_contextLoad (h : contextLoad) : Goes (.ctxld 5 6) imageS := by
  have r : cellRead imageS (imageS.whoOf privT) (privT.ctx.gpr 5) 2048 = .ok (imageR.1, imageR.2) :=
    ok_eq ([], State.reset) (by decide +kernel)
  have p : ImageOk imageS privT .load := by decide +kernel
  have ⟨s', _, _, e, _⟩ := h imageS 1 privT 5 6 0 0 0 ⟨placedCell, 0, 0⟩ imageR.1 imageR.2 2 placedLaunch 0 ⟨rfl, rfl, rfl⟩ p.1 rfl ⟨rfl, rfl⟩
    (by decide +kernel) p.2.2.1 p.2.2.2.1 p.2.2.2.2.1 p.2.2.2.2.2.1 p.2.2.2.2.2.2 r
    (by decide +kernel) (by decide +kernel) (by decide +kernel) (by decide) (by decide +kernel) (by intro y hy; cases hy) (by decide +kernel)
  exact ⟨s', e⟩

theorem meets_tlbiResult (h : tlbiResult) : Goes (.tlbi 3 4) (at0 (thrP [(4, 0x10801)])) :=
  goes_of ((h _ 1 _ 3 4 (selected (thrP [(4, 0x10801)]) rfl) (by decide +kernel) rfl).1 (by decide +kernel))
theorem meets_tlbiResult_reserved (h : tlbiResult) : Goes (.tlbi 3 4) (at0 (thrP [(4, 0x11001)])) :=
  goes_of ((h _ 1 _ 3 4 (selected (thrP [(4, 0x11001)]) rfl) (by decide +kernel) rfl).2 (by decide +kernel))

/-- A nurse thread, on cell 31 of its cluster. -/
def nurseT (a : Word) : Thread := { thrP [(4, a)] with nurse := true, place := .slot { placedCell with cell := 32 } 0 }

theorem meets_capResult (h : capResult) : Goes (.cap 4) (at0 (nurseT 31)) :=
  goes_ex ((h _ 1 _ 4 (selected (nurseT 31) rfl) (by decide +kernel) rfl).2.1 rfl (by decide +kernel) (by decide +kernel) (by decide +kernel))
/-- The same with the cell capped already. -/
def cappedS : State := let s := at0 (nurseT 31); s.setCell { placedCell with cell := 31 } { capped := true }
theorem meets_capResult_again (h : capResult) : Goes (.cap 4) cappedS :=
  goes_of ((h cappedS 1 (nurseT 31) 4 ⟨rfl, rfl, rfl⟩ (by decide +kernel) rfl).1 rfl (by decide +kernel) (by decide +kernel))
theorem meets_capResult_range (h : capResult) : Goes (.cap 4) (at0 (nurseT 32)) :=
  goes_of ((h _ 1 _ 4 (selected (nurseT 32) rfl) (by decide +kernel) rfl).2.2 (.inr (by decide +kernel)))

theorem meets_scrubResult_none (h : scrubResult) : Goes (.scrub 8 9) (at0 (thrP [(8, scr)])) := by
  refine goes_of ((h _ 1 _ 8 9 false (selected (thrP [(8, scr)]) rfl) ?_ rfl ⟨rfl, rfl⟩ ?_ ?_ rfl ?_ ?_ ?_).1 ?_) <;> decide +kernel
theorem meets_scrubResult_line (h : scrubResult) : Goes (.scrub 8 9) (at0 privT) := by
  refine goes_ex ((h _ 1 _ 8 9 false (selected privT rfl) ?_ rfl ⟨rfl, rfl⟩ ?_ ?_ rfl ?_ ?_ ?_).2 ?_ ?_ ?_ ?_ ?_ ?_) <;> decide +kernel

/-! Control registers -/

theorem meets_ControlRead (h : Obligations.ControlRead) : Goes (.crr 4 .tvec) (at0 privT) :=
  goes_of ((h _ 1 _ 4 .tvec (selected privT rfl)).1 (.inr (by decide +kernel)))
theorem meets_ControlRead_user (h : Obligations.ControlRead) : Goes (.crr 4 .tvec) (at0 taskT) :=
  goes_of ((h _ 1 _ 4 .tvec (selected taskT rfl)).2 rfl (by decide +kernel))

theorem meets_controlWrite (h : controlWrite) : Goes (.crs .wlim 8) (at0 taskT) :=
  goes_of ((h _ 1 _ (.crs .wlim 8) .wlim _ _ (selected taskT rfl) rfl rfl).1 (.inl (by decide)))
theorem meets_controlWrite_seg (h : controlWrite) : Goes (.crw .seg 8) (at0 privT) :=
  goes_of ((h _ 1 _ (.crw .seg 8) .seg _ _ (selected privT rfl) rfl rfl).1 (.inr (by decide +kernel)))
theorem meets_controlWrite_user (h : controlWrite) : Goes (.crc .seg 8) (at0 taskT) :=
  goes_of ((h _ 1 _ (.crc .seg 8) .seg _ _ (selected taskT rfl) rfl rfl).2 rfl (by decide +kernel))

/-- A thread with descriptors in its registers: format 16 with blocks of 32, and a reserved format. -/
def descT (p : Bool) : Thread := let l := [(4, 0x510), (5, 0x11), (6, 18)]; if p then thrP l else thrR l

theorem meets_cellRegisterWrite_wdesc (h : cellRegisterWrite) : Goes (.crw (.wdesc 7) 4) (at0 (descT false)) :=
  goes_of (((h _ 1 _ (.crw (.wdesc 7) 4) 0x510 (selected (descT false) rfl)).1 6 (by decide +kernel)).1 (by unfold WindowOk; decide +kernel))
theorem meets_cellRegisterWrite_refused (h : cellRegisterWrite) : Goes (.crw (.wdesc 1) 5) (at0 (descT false)) :=
  goes_of (((h _ 1 _ (.crw (.wdesc 1) 5) 0x11 (selected (descT false) rfl)).1 0 (by decide +kernel)).2 (by unfold WindowOk; decide +kernel))
theorem meets_cellRegisterWrite_tvec (h : cellRegisterWrite) : Goes (.crw .tvec 4) (at0 (descT true)) :=
  goes_of (((h _ 1 _ (.crw .tvec 4) 0x510 (selected (descT true) rfl)).2.1 (by decide +kernel)).1 (by decide +kernel))
theorem meets_cellRegisterWrite_user (h : cellRegisterWrite) : Goes (.crw .tvec 4) (at0 (descT false)) :=
  goes_of (((h _ 1 _ (.crw .tvec 4) 0x510 (selected (descT false) rfl)).2.1 (by decide +kernel)).2 (by decide +kernel))
theorem meets_cellRegisterWrite_group (h : cellRegisterWrite) : Goes (.crw .group 4) (at0 (descT false)) :=
  goes_ex ((h _ 1 _ (.crw .group 4) 0x510 (selected (descT false) rfl)).2.2 (by decide +kernel))

/-- A thread that asks for n scratch ways. -/
def waysT (n : Word) : Thread := thrR [(4, n)]
/-- The placed cell folded twice. -/
def foldedS (t : Thread) : State :=
  let s := at0 t
  let c := s.cluster ⟨0, 0, 0⟩
  s.setCluster ⟨0, 0, 0⟩ { c with cellMap := c.cellMap.set 0 0xA000 }

theorem meets_waysWrite_folded (h : waysWrite) : Goes (.crw .ways 4) (foldedS (waysT 3)) :=
  goes_of ((h _ 1 (waysT 3) (.crw .ways 4) 3 ⟨rfl, rfl, rfl⟩ (by decide +kernel)).1 (by decide +kernel) (by decide +kernel))
theorem meets_waysWrite_range (h : waysWrite) : Goes (.crw .ways 4) (at0 (waysT 17)) :=
  goes_of ((h _ 1 _ (.crw .ways 4) 17 (selected (waysT 17) rfl) (by decide +kernel)).2.1 (.inl (by decide +kernel)) (by decide))
theorem meets_waysWrite_same (h : waysWrite) : Goes (.crw .ways 4) (at0 (waysT 8)) :=
  goes_of ((h _ 1 _ (.crw .ways 4) 8 (selected (waysT 8) rfl) (by decide +kernel)).2.2.1 (.inl (by decide +kernel)) (by decide +kernel) (by decide)
    rfl)
theorem ways_free (t : Thread) (ht : t.run = .ready) :
    ∀ y ∈ (at0 t).threads, ∀ c' va since, y.2.run ≠ .parked (.held c' va) since := by
  intro y hy
  have : y = (1, t) := by simpa [at0] using hy
  subst this
  intro c' va since
  rw [show (1, t).2.run = .ready from ht]
  exact Run.noConfusion
theorem meets_waysWrite_grow (h : waysWrite) : Goes (.crw .ways 4) (at0 (waysT 16)) :=
  goes_ex ((h _ 1 _ (.crw .ways 4) 16 (selected (waysT 16) rfl) (by decide +kernel)).2.2.2 (.inl (by decide +kernel)) (by decide)
    (by decide +kernel) rfl (by decide +kernel) rfl (ways_free _ rfl) (by decide) (by decide) (by decide) (by decide))
theorem meets_waysWrite_shrink (h : waysWrite) : Goes (.crw .ways 4) (at0 (waysT 0)) :=
  goes_ex ((h _ 1 _ (.crw .ways 4) 0 (selected (waysT 0) rfl) (by decide +kernel)).2.2.2 (.inl (by decide +kernel)) (by decide)
    (by decide +kernel) rfl (by decide +kernel) rfl (ways_free _ rfl) (by decide) (by decide) (by decide) (by decide))

/-! The copy engine -/

/-- A thread with a source in the mapped page, a destination in its scratch and a length. -/
def copyT (n : Word) : Thread := thrR [(6, 0x4200), (7, scr), (8, n)]
def copyI : Copy := ⟨9, 6, 7, 8, none⟩

theorem meets_CopyStarts (h : Obligations.CopyStarts) : Goes (.cpy copyI) (at0 (copyT 64)) :=
  goes_ex ((h _ 1 _ (.cpy copyI) (selected (copyT 64) rfl) ⟨rfl, rfl⟩).1 copyI .plain 0x4200 scr 64 64 _ rfl
    (by decide +kernel) (by decide +kernel) (by decide) (by decide) (awaits0 rfl) (ok_eq State.reset (by decide +kernel)))
/-- A copy with a promise, and the thread when it has been held since dclk 3. -/
def promisedI : Copy := ⟨9, 6, 7, 8, some 100⟩
def heldT : Thread := { copyT 64 with heldSince := some 3 }
theorem meets_CopyStarts_promise (h : Obligations.CopyStarts) : Goes (.cpy promisedI) (at0 heldT) :=
  goes_ex ((h _ 1 _ (.cpy promisedI) (selected heldT rfl) ⟨rfl, rfl⟩).1 promisedI .plain 0x4200 scr 64 64 _ rfl
    (by decide +kernel) (by decide +kernel) (by decide) (by decide) (awaits0 rfl) (ok_eq State.reset (by decide +kernel)))
theorem meets_CopyStarts_empty (h : Obligations.CopyStarts) : Goes (.cpy copyI) (at0 (copyT 0)) :=
  goes_of ((h _ 1 _ (.cpy copyI) (selected (copyT 0) rfl) ⟨rfl, rfl⟩).2.1 copyI .plain 0x4200 scr 0 rfl
    (by decide +kernel) (by decide +kernel) (by decide) (by intro w n e; cases e))
theorem meets_CopyStarts_stale (h : Obligations.CopyStarts) : Goes (.cpyh copyI) (at0 (copyT 64)) :=
  goes_of ((h _ 1 _ (.cpyh copyI) (selected (copyT 64) rfl) ⟨rfl, rfl⟩).2.2 copyI rfl (by decide +kernel)
    (.inl (by decide +kernel)) (by intro w n e; cases e))

/-- A copy in progress for the placed thread. -/
def jobI (src : Word) (len : Nat) (due : Option Nat) : CopyJob :=
  { key := 77, by_ := (at0 (copyT 64)).issuer 1 (copyT 64) (.cpy copyI), kind := .plain, src := src, dst := scr, len := len, due := due }
def jobS (src : Word) (len : Nat) (due : Option Nat) : State :=
  let s := at0 (copyT 64)
  s.setCluster ⟨0, 0, 0⟩ { s.cluster ⟨0, 0, 0⟩ with copies := [jobI src len due] }

theorem meets_copyBlockResult_more (h : copyBlockResult) : Goes (.copyBlock 77) (jobS 0x4200 8192 none) :=
  goes_ex ((h (jobS 0x4200 8192 none) 77 ⟨0, 0, 0⟩ (jobI 0x4200 8192 none) (copyT 64) (by decide +kernel) (by decide +kernel) rfl rfl rfl
    rfl).1 (okOr [] (engRead (jobS 0x4200 8192 none) ((jobS 0x4200 8192 none).whoFor (jobI 0x4200 8192 none).by_) 0x4200 4096)) _
    (ok_eq [] (by decide +kernel)) (ok_eq State.reset (by decide +kernel)))
theorem meets_copyBlockResult_last (h : copyBlockResult) : Goes (.copyBlock 77) (jobS 0x4200 64 none) :=
  goes_ex ((h (jobS 0x4200 64 none) 77 ⟨0, 0, 0⟩ (jobI 0x4200 64 none) (copyT 64) (by decide +kernel) (by decide +kernel) rfl rfl rfl
    rfl).1 (okOr [] (engRead (jobS 0x4200 64 none) ((jobS 0x4200 64 none).whoFor (jobI 0x4200 64 none).by_) 0x4200 64)) _
    (ok_eq [] (by decide +kernel)) (ok_eq State.reset (by decide +kernel)))
/-- An address of class 0x01, which has no table. -/
theorem meets_copyBlockResult_fault (h : copyBlockResult) : Goes (.copyBlock 77) (jobS 0x0100000000000000 64 none) :=
  goes_ex ((h (jobS 0x0100000000000000 64 none) 77 ⟨0, 0, 0⟩ (jobI 0x0100000000000000 64 none) (copyT 64) (by decide +kernel) (by decide +kernel) rfl
    rfl rfl rfl).2 5 0x0100000000000000 (by rfl) (by decide) (by decide))

/-- The copy with a promise, one dclk later. -/
def dueS : State := { jobS 0x4200 64 (some 0) with clock := 1 }
theorem meets_promiseMissed_expiry (h : promiseMissed) : Goes (.promiseExpiry 77) dueS :=
  goes_ex ((h dueS).1 77 0 ⟨0, 0, 0⟩ (jobI 0x4200 64 (some 0)) (copyT 64) (by decide +kernel) (by decide +kernel) rfl rfl
    (by decide +kernel) rfl)
/-- A thread with a missed promise, outside and inside its handler. -/
def missedT (upc : Bool) : Thread :=
  let t := thr fun c => { c with tstat := if upc then 0x200000 else 0 }
  { t with promises := [{ ticket := 3 }] }
theorem meets_promiseMissed_upcall (h : promiseMissed) : Goes (.promiseMissedUpcall 1) (at0 (missedT false)) :=
  goes_of (((h (at0 (missedT false))).2 1 (missedT false) { ticket := 3 } [] rfl rfl rfl rfl).1 (by decide +kernel) (by decide +kernel) rfl)
theorem meets_promiseMissed_waits (h : promiseMissed) : Goes (.promiseMissedUpcall 1) (at0 (missedT true)) :=
  goes_of (((h (at0 (missedT true))).2 1 (missedT true) { ticket := 3 } [] rfl rfl rfl rfl).2 (.inl (by decide +kernel)))

/-! The vector unit -/

/-- A queued command. -/
def vcmd : VCmd := ⟨.vadd { vd := 2, va := 1, vb := 1, ty := .n32 }, 0, 0, false, 0, 0, 0⟩
/-- A thread with n of them. -/
def vecT (n : Nat) : Thread := thr fun c => { c with vq := List.replicate n vcmd }

theorem meets_vectorQueued (h : vectorQueued) : Goes (.vsplat { vd := 2, ty := .f32, a := 1 }) (at0 (vecT 7)) :=
  let ⟨_, _, _, _, _, _, c, _⟩ := h _ 1 _ (.vsplat { vd := 2, ty := .f32, a := 1 }) _ (selected (vecT 7) rfl) rfl
  goes_of (c (by decide +kernel))
theorem meets_vectorQueued_full (h : vectorQueued) : Goes (.vsplat { vd := 2, ty := .f32, a := 1 }) (at0 (vecT 8)) :=
  let ⟨_, _, _, _, _, _, _, c⟩ := h _ 1 _ (.vsplat { vd := 2, ty := .f32, a := 1 }) _ (selected (vecT 8) rfl) rfl
  goes_of (c vcmd (List.replicate 7 vcmd) rfl (by decide +kernel))
theorem meets_vectorLanes (h : vectorLanes) : Goes (.vectorCommandStart 1 false) (at0 (vecT 2)) :=
  goes_ex2 (h (at0 (vecT 2)) 1 (vecT 2) vcmd [vcmd] _ _ rfl rfl rfl)
theorem meets_vectorStart (h : vectorStart) : Goes (.vectorCommandStart 1 true) (at0 (vecT 1)) :=
  goes_ex ((h (at0 (vecT 1)) 1 (vecT 1) vcmd [] rfl rfl).2 (by decide +kernel))
/-- A thread with one queued command. -/
def oneT (i : Instr) : Thread := thr fun c => { c with vq := [⟨i, 0, 0, false, 0, 0, 0⟩] }
def addF : Instr := .vadd { vd := 2, va := 1, vb := 1, mask := some 7, ty := .f32 }
def widen : Instr := .vcvt { vd := 2, va := 1, ty := .e4m3, ty2 := .f32, vimm := 3 }
def fold : Instr := .vred { vd := 2, va := 1, ty := .f32 }
def enc : Instr := .vbfpEnc { vd := 2, va := 4, vb := 5, ty := .f32, ty2 := .eb2, vimm := 3 }
theorem meets_floatLanes (h : floatLanes) : Goes (.vectorCommandStart 1 false) (at0 (oneT addF)) :=
  goes_ex2 (h (at0 (oneT addF)) 1 _ _ [] _ _ _ rfl rfl rfl)
theorem meets_floatLanes_convert (h : floatLanes) : Goes (.vectorCommandStart 1 false) (at0 (oneT widen)) :=
  goes_ex2 (h (at0 (oneT widen)) 1 _ _ [] _ _ _ rfl rfl rfl)
theorem meets_reduction (h : reduction) : Goes (.vectorCommandStart 1 false) (at0 (oneT fold)) :=
  goes_ex2 (h (at0 (oneT fold)) 1 _ _ [] _ rfl rfl rfl)
theorem meets_blockEncoding (h : blockEncoding) : Goes (.vectorCommandStart 1 false) (at0 (oneT enc)) :=
  goes_ex2 (h (at0 (oneT enc)) 1 _ _ [] _ rfl rfl rfl (by decide))

/-- The same with a record in v2. -/
def sumT (i : Instr) (v : VReg) : Thread := thr fun c => { (c.setVr 2 v) with vq := [⟨i, 0, 0, false, 0, 0, 0⟩] }
/-- No record, an empty record of FP32, and the commands. -/
def noRec : VReg := BitVec.ofNat 512 (2 ^ 255)
def emptyRec : VReg := BitVec.ofNat 512 (0xA0000 * 2 ^ 192)
def accI : Instr := .vxaccAdd { vd := 2, va := 1, ty := .f32 }
def combI : Instr := .vxaccCombine { vd := 2, va := 1, vb := 3, ty := .xsum }
def finI : Instr := .vxfin { vd := 2, va := 1, ty := .xsum, ty2 := .f32 }
theorem meets_exactSums_malformed (h : exactSums) : Goes (.vectorCommandStart 1 false) (at0 (sumT accI noRec)) :=
  goes_ex2 ((h (at0 (sumT accI noRec)) 1 _ _ [] _ rfl rfl).1 rfl (by decide +kernel))
theorem meets_exactSums_add (h : exactSums) : Goes (.vectorCommandStart 1 false) (at0 (sumT accI emptyRec)) :=
  goes_ex2 ((h (at0 (sumT accI emptyRec)) 1 _ _ [] _ rfl rfl).2.1 rfl (by decide +kernel))
theorem meets_exactSums_combine (h : exactSums) : Goes (.vectorCommandStart 1 false) (at0 (sumT combI 0)) :=
  goes_ex2 ((h (at0 (sumT combI 0)) 1 _ _ [] _ rfl rfl).2.2.1 rfl)
theorem meets_exactSums_final (h : exactSums) : Goes (.vectorCommandStart 1 false) (at0 (sumT finI 0)) :=
  goes_ex2 ((h (at0 (sumT finI 0)) 1 _ _ [] _ rfl rfl).2.2.2 rfl)
theorem meets_VectorFence (h : Obligations.VectorFence) : Goes .vfence (at0 (vecT 8)) :=
  goes_of ((h _ 1 _ 4 (selected (vecT 8) rfl)).1 (by intro ms e; cases e)).1
/-- A leader with two commands whose follower has three. -/
def vecLeadT : Thread := { vecT 2 with gang := .leader [5] }
def vecGangS : State := { at0 vecLeadT with threads := [(1, vecLeadT), (5, { vecT 3 with gang := .follower 1 })] }
theorem meets_VectorFence_gang (h : Obligations.VectorFence) : Goes (.vstat 4) vecGangS :=
  goes_ex ((h vecGangS 1 vecLeadT 4 ⟨rfl, rfl, rfl⟩).2 [5] rfl (.vstat 4) (.inr rfl))

/-- A thread with an address for vector memory commands. -/
def vmemT (a : Word) : Thread := thrR [(1, a), (3, 8)]

/-- The lanes of a block command of FP32 lanes at g1, and the checks of its accesses. -/
def blockArgs : VArgs := { vd := 2, va := 2, ty := .f32, a := 1 }
def blockLanes (a : Word) : List Lane := lanesAt (vmemT a).ctx blockArgs (vectorAccess.block (vmemT a).ctx blockArgs)
def blockAl (a : Word) (_ : Lane) : Bool := decide (((vmemT a).ctx.gpr 1).toNat % 64 = 0)
def blockChk (acc : Acc) (a : Word) : State × List (Lane × Loc) :=
  okOr (State.reset, []) (checkLanes ((at0 (vmemT a)).whoOf (vmemT a)) acc (blockAl a) (at0 (vmemT a)) (blockLanes a))

theorem meets_VectorMemory_load (h : Obligations.VectorMemory) : Goes (.vld blockArgs) (at0 (vmemT scr)) :=
  goes_of ((h _ 1 _ (.vld blockArgs) blockArgs true (blockAl scr) (blockLanes scr) (selected (vmemT scr) rfl) ⟨⟨rfl, rfl⟩, rfl⟩ rfl
    (fun _ => by unfold Common; decide +kernel)).1 (blockChk .load scr).1 _ (blockChk .load scr).2 _ rfl
    (ok_eq (State.reset, []) (by decide +kernel)) (ok_eq (State.reset, []) (by decide +kernel)))
theorem meets_VectorMemory_store (h : Obligations.VectorMemory) : Goes (.vst blockArgs) (at0 (vmemT scr)) :=
  let ⟨_, _, _, e⟩ := (h _ 1 _ (.vst blockArgs) blockArgs false (blockAl scr) (blockLanes scr) (selected (vmemT scr) rfl) ⟨⟨rfl, rfl⟩, rfl⟩ rfl
    (fun _ => by unfold Common; decide +kernel)).2.1 (blockChk .store scr).1 _ (blockChk .store scr).2 rfl
    (ok_eq (State.reset, []) (by decide +kernel)) (ok_eq State.reset (by decide +kernel))
  goes_of e
/-- A gather from odd addresses. -/
def oddArgs : VArgs := { vd := 2, vb := 3, ty := .f32, a := 1 }
theorem meets_VectorMemory_fault (h : Obligations.VectorMemory) : Goes (.vgath oddArgs) (at0 (vmemT (scr + 1))) :=
  goes_of ((h _ 1 _ (.vgath oddArgs) oddArgs true _ _ (selected (vmemT (scr + 1)) rfl) ⟨⟨rfl, rfl⟩, rfl⟩ rfl
    (fun e => by rcases e with e | e <;> cases e)).2.2 _ _ (err_eq (State.reset, { code := 0 }) (by decide +kernel))).1

/-! The photonic unit -/

/-- A thread with a tile's address in g7, a load descriptor in g8, and n in g9. -/
def omuT (desc n : Word) : Thread := thrR [(7, 0x4000000000001000), (8, desc), (9, n)]

/-- The descriptor and the tile of a load are in order. -/
abbrev TileOk (t : Thread) : Prop :=
  (t.ctx.gpr 7).toNat % 64 = 0 ∧ (t.ctx.gpr 7).toNat / 2 ^ 56 = 0x40 ∧ (t.ctx.gpr 8).toNat / 2 ^ 34 = 0 ∧ (t.ctx.gpr 8).toNat / 2 ^ 32 % 4 ≠ 3

theorem meets_BankLoadStarts_dec (h : Obligations.BankLoadStarts) : Goes (.pdec 9 7 8) (at0 (omuT 0x200000000 0)) := by
  have p : TileOk (omuT 0x200000000 0) := by decide +kernel
  have ⟨s', _, e, _⟩ := (h _ 1 _ (.pdec 9 7 8) 9 7 8 true (selected (omuT 0x200000000 0) rfl) (.inr ⟨rfl, rfl⟩) rfl ⟨rfl, rfl⟩ (awaits0 rfl)
    p.1 p.2.1 p.2.2.1 p.2.2.2).1 0 (by decide) (.inl ⟨rfl, by decide +kernel, rfl⟩) rfl
    (by intro e he; cases he) (by unfold NoLocks; decide +kernel)
  exact ⟨s', e⟩

/-- A handle table at class 0x00 of the physical function, whose entry 3 is an image of 49,152 bytes at 0x10000. -/
def imageHandle (t : Thread) : State :=
  let s := at0 t
  let p := s.pkg 0
  let f0 := { (p.fn 0) with roots := (p.fn 0).roots.set 0 (word (2 ^ 34 + 0x10)) }
  let f1 := { (p.fn 1) with htbase := 0x7000, htsize := 16 }
  let s := s.setPkg 0 { p with fns := putAt 1 f1 (putAt 0 f0 p.fns) }
  let hbm (off : Nat) : Nat := keyOf (.hbm 0 0) off
  let s := s.store (hbm (2 ^ 34)) (leOf 8 (2 ^ 34 + 0x20000 + 2 ^ 6 + 1))
  let s := s.store (hbm (2 ^ 34 + 0x20000)) (leOf 8 (2 ^ 6 + 0x27))
  s.store (hbm 0x7030) (leOf 8 0x10000 ++ leOf 8 (49152 + 5 * 2 ^ 40 + 3 * 2 ^ 48))

theorem meets_BankLoadStarts_image (h : Obligations.BankLoadStarts) : Goes (.pbank 9 7 8) (imageHandle (omuT 0x05000003 0)) := by
  have p : TileOk (omuT 0x05000003 0) := by decide +kernel
  have ⟨s', _, e, _⟩ := (h (imageHandle (omuT 0x05000003 0)) 1 (omuT 0x05000003 0) (.pbank 9 7 8) 9 7 8 false ⟨rfl, rfl, rfl⟩ (.inl ⟨rfl, rfl⟩) rfl
    ⟨rfl, rfl⟩ (awaits0 rfl) p.1 p.2.1 p.2.2.1 p.2.2.2).1 0x10000 (by decide)
    (.inr ⟨by decide +kernel, 49152, by decide +kernel, by decide⟩) rfl (by intro e he; cases he) (by unfold NoLocks; decide +kernel)
  exact ⟨s', e⟩

theorem meets_BankLoadStarts_stale (h : Obligations.BankLoadStarts) : Goes (.pbank 9 7 8) (imageHandle (omuT 0x06000003 0)) := by
  have p : TileOk (omuT 0x06000003 0) := by decide +kernel
  exact goes_of ((h (imageHandle (omuT 0x06000003 0)) 1 (omuT 0x06000003 0) (.pbank 9 7 8) 9 7 8 false ⟨rfl, rfl, rfl⟩ (.inl ⟨rfl, rfl⟩) rfl
    ⟨rfl, rfl⟩ (awaits0 rfl) p.1 p.2.1 p.2.2.1 p.2.2.2).2 (by decide +kernel) (by decide +kernel))

/-- A pass record at scratch 0x200 (the words of the example under R34, with bank 0, BF16 inputs and neither live bitmap nor 2:4). -/
def passBytes : List Byte :=
  leOf 8 (0x00100030_00000005 + 3 * 2 ^ 39) ++ leOf 8 0x4000000000001000 ++ leOf 8 0x6000000000000000 ++ leOf 8 0 ++ leOf 8 0 ++ leOf 8 0 ++
    leOf 8 0x4000000000002000 ++ leOf 8 0x287B0000
def passT : Thread := { thrR [(1, scr)] with ctx := { (thrR [(1, scr)]).ctx with q := Vector.replicate 8 (some .passpost) } }
def passS : State := (at0 passT).store scrLoc.key passBytes
def passLoc : Loc := okOr {key := 0} (resolve (engineOrder passS passT) ((engineOrder passS passT).whoOf passT) .load scr 64 64)
def passRd : List Byte × State :=
  okOr ([], State.reset) (readAt (engineOrder passS passT) ((engineOrder passS passT).whoOf passT) passLoc 64 false)

theorem meets_PassPosts (h : Obligations.PassPosts) : Goes (.pass 7 1) passS ∧ Goes (.qpush 2 1) passS := by
  have c := h passS 1 passT 7 1 2 (BitVec.ofNat 512 (leVal passRd.1)) ⟨rfl, rfl, rfl⟩ rfl ⟨rfl, rfl⟩ (by unfold NoLocks; decide +kernel)
    (by decide +kernel) (by decide +kernel) (awaits0 rfl) (.inr ⟨rfl, by decide +kernel, by decide +kernel, passLoc, passRd.1, passRd.2,
      ok_eq { key := 0 } (by decide +kernel), ok_eq ([], State.reset) (by decide +kernel), rfl⟩)
  exact ⟨goes_ex c.1, goes_ex (c.2 (by decide +kernel))⟩
/-- The same with the record read before a park. -/
def postedT : Thread := { passT with posted := some (BitVec.ofNat 512 (leVal passBytes)) }
theorem meets_PassPosts_again (h : Obligations.PassPosts) : Goes (.pass 7 1) (at0 postedT) :=
  goes_ex (h (at0 postedT) 1 postedT 7 1 2 (BitVec.ofNat 512 (leVal passBytes)) ⟨rfl, rfl, rfl⟩ rfl ⟨rfl, rfl⟩ (by unfold NoLocks; decide +kernel)
    (by decide +kernel) (by decide +kernel) (awaits0 rfl) (.inl rfl)).1

theorem meets_postCommands_swap (h : postCommands) : Goes .pswap (at0 (omuT 0 1)) :=
  goes_of ((h _ 1 _ 7 9 (selected (omuT 0 1) rfl) rfl ⟨rfl, rfl⟩).1 (by decide +kernel))
/-- The placed cluster with the given post queue, for a thread with a ticket in g9. -/
def postS (q : List PostEntry) (n : Word) : State := let s := at0 (omuT 0 n); s.setOmu ⟨0, 0, 0⟩ { s.omu ⟨0, 0, 0⟩ with queue := q }
/-- An issuer by number and ticket. -/
def issuerN (k : Nat) (ticket : BitVec 32) : Issuer :=
  { thread := k, vf := 1, launch := if k = 1 then 2 else 3, flat := 0, cell := placedLcell, nsm := false, bank := false, opr := { ticket := ticket }
    tid := if k = 1 then (omuT 0 0).tid else 0 }
theorem meets_postCommands_full (h : postCommands) : Goes .pswap (postS (List.replicate 32 ⟨1, .swap, issuerN 9 0, []⟩) 0) :=
  goes_ex ((h (postS (List.replicate 32 ⟨1, .swap, issuerN 9 0, []⟩) 0) 1 (omuT 0 0) 7 9 ⟨rfl, rfl, rfl⟩ rfl ⟨rfl, rfl⟩).2.1 (by decide +kernel) rfl)
theorem meets_postCommands_probe (h : postCommands) : Goes (.probe 7 9) (at0 (omuT 0 1)) :=
  goes_ex ((h _ 1 _ 7 9 (selected (omuT 0 1) rfl) rfl ⟨rfl, rfl⟩).2.2 (by decide +kernel) (by decide +kernel) (by unfold NoLocks; decide +kernel)
    (awaits0 rfl) (by decide +kernel))

theorem meets_pabortResult_range (h : pabortResult) : Goes (.pabort 9) (at0 (omuT 0 0x100000000)) :=
  goes_of ((h _ 1 _ 9 (selected (omuT 0 0x100000000) rfl) rfl).1 (by decide +kernel))
/-- A swap marker, another thread's probe, and two probes and a pass of the thread. -/
def abortQ : List PostEntry :=
  [⟨1, .swap, issuerN 1 4, []⟩, ⟨2, .probe false none, issuerN 7 4, []⟩, ⟨3, .probe true none, issuerN 1 4, []⟩, ⟨4, .probe true none, issuerN 1 5,
      []⟩,
    ⟨5, .pass 0, issuerN 1 6, []⟩]
/-- With 0 the pass's entry is in PASSDONE and both probes' are in PROBEOUT. -/
theorem meets_pabortResult_all (h : pabortResult) : ∃ s' t', exec (.pabort 9) (postS abortQ 0) = .next s' ∧ s'.thread? 1 = some t' ∧
    t'.passdone.length = 1 ∧ t'.probeout.length = 2 := by
  have ⟨s', t', e, _, ht, _, _, _, hp, hq, _⟩ := (h (postS abortQ 0) 1 (omuT 0 0) 9 ⟨rfl, rfl, rfl⟩ rfl).2.1 (by decide +kernel) (by decide +kernel)
    (by intro p hp; cases hp)
  exact ⟨s', t', e, ht, by rw [hp (by decide +kernel)]; decide +kernel, by rw [hq (by decide +kernel) (by decide +kernel)]; decide +kernel⟩
/-- The first probe's entry is delivered at once; the second's waits behind the first. -/
theorem meets_pabortResult_first (h : pabortResult) : ∃ s' t', exec (.pabort 9) (postS abortQ 4) = .next s' ∧ s'.thread? 1 = some t' ∧
    t'.probeout.length = 1 := by
  have ⟨s', t', e, _, ht, _, _, _, _, _, hw⟩ := (h (postS abortQ 4) 1 (omuT 0 4) 9 ⟨rfl, rfl, rfl⟩ rfl).2.1 (by decide +kernel) (by decide +kernel)
    (by intro p hp; cases hp)
  have w := (hw (abortQ.take 2) (abortQ.drop 3) ⟨3, .probe true none, issuerN 1 4, []⟩ (BitVec.ofNat 64 0x410000000) (by decide +kernel)
    (by decide +kernel) (by decide +kernel) (by decide +kernel) rfl rfl).1 (by unfold oneThread; decide +kernel)
  exact ⟨s', t', e, ht, by rw [w.1]; decide +kernel⟩
theorem meets_pabortResult_behind (h : pabortResult) : ∃ s' t', exec (.pabort 9) (postS abortQ 5) = .next s' ∧ s'.thread? 1 = some t' ∧
    t'.probeout = [] := by
  have ⟨s', t', e, _, ht, _, _, _, _, _, hw⟩ := (h (postS abortQ 5) 1 (omuT 0 5) 9 ⟨rfl, rfl, rfl⟩ rfl).2.1 (by decide +kernel) (by decide +kernel)
    (by intro p hp; cases hp)
  have w := (hw (abortQ.take 3) (abortQ.drop 4) ⟨4, .probe true none, issuerN 1 5, []⟩ (BitVec.ofNat 64 0x510000000) (by decide +kernel)
    (by decide +kernel) (by decide +kernel) (by decide +kernel) rfl rfl).2 (abortQ.take 2) [] ⟨3, .probe true none, issuerN 1 4, []⟩
      (by decide +kernel) rfl
    (by unfold oneThread; decide +kernel) (by intro y hy; cases hy)
  exact ⟨s', t', e, ht, by rw [w.1]; decide +kernel⟩
/-- A pass of the thread that has been stopped and streams yet. -/
def stoppedP : Pass := { key := 9, record := 0, by_ := (at0 (omuT 0 0)).issuer 1 (omuT 0 0) (.pass 7 1), rsn := 2 }
def stoppedS : State :=
  let s := at0 (omuT 0 0)
  s.setOmu ⟨0, 0, 0⟩ { s.omu ⟨0, 0, 0⟩ with passes := [stoppedP] }
theorem meets_pabortResult_stays (h : pabortResult) : Goes (.pabort 9) stoppedS :=
  goes_ex2 ((h stoppedS 1 (omuT 0 0) 9 ⟨rfl, rfl, rfl⟩ rfl).2.2 (by decide +kernel)
    ⟨stoppedP, .head _, by decide +kernel, rfl, by intro e he; cases he⟩)

theorem meets_omuRegisters_write (h : omuRegisters) : Goes (.pcal 9 8) (at0 (omuT 0x1FFFF 32639)) :=
  goes_ex ((h _ 1 _ 9 8 4 (selected (omuT 0x1FFFF 32639) rfl) rfl).1 (by decide +kernel) (by decide +kernel))
theorem meets_omuRegisters_value (h : omuRegisters) : Goes (.pcal 9 8) (at0 (omuT 0x20000 0)) :=
  goes_of ((h _ 1 _ 9 8 4 (selected (omuT 0x20000 0) rfl) rfl).2.1 (by decide +kernel))
theorem meets_omuRegisters_number (h : omuRegisters) : Goes (.pcal 9 8) (at0 (omuT 0x1FFFF 32640)) :=
  goes_of ((h _ 1 _ 9 8 4 (selected (omuT 0x1FFFF 32640) rfl) rfl).2.2.1 (by decide +kernel) (by decide +kernel))
theorem meets_omuRegisters_stat0 (h : omuRegisters) : Goes (.pstat 4 9) (at0 (omuT 0 0)) :=
  goes_of ((h _ 1 _ 9 8 4 (selected (omuT 0 0) rfl) rfl).2.2.2.1 (by decide +kernel) (by decide +kernel) (by decide +kernel))
theorem meets_omuRegisters_stat1 (h : omuRegisters) : Goes (.pstat 4 9) (at0 (omuT 0 1)) :=
  let ⟨_, e, _⟩ := (h _ 1 _ 9 8 4 (selected (omuT 0 1) rfl) rfl).2.2.2.2.1 (by decide +kernel)
  goes_of e
theorem meets_omuRegisters_stat2 (h : omuRegisters) : Goes (.pstat 4 9) (at0 (omuT 0 2)) :=
  goes_of ((h _ 1 _ 9 8 4 (selected (omuT 0 2) rfl) rfl).2.2.2.2.2.1 (by decide +kernel))
theorem meets_omuRegisters_entry (h : omuRegisters) : Goes (.pstat 4 9) (at0 (omuT 0 0x17F7F)) :=
  goes_of ((h _ 1 _ 9 8 4 (selected (omuT 0 0x17F7F) rfl) rfl).2.2.2.2.2.2.1 32639 (by decide +kernel) (by decide))
theorem meets_omuRegisters_reserved (h : omuRegisters) : Goes (.pstat 4 9) (at0 (omuT 0 3)) :=
  goes_of ((h _ 1 _ 9 8 4 (selected (omuT 0 3) rfl) rfl).2.2.2.2.2.2.2 (by decide +kernel) (by decide +kernel))

/-! Gaussian blocks -/

/-- The block of chainBlock at v8 and again at v12, the identity slot map in g6, GPIV 0 or 8.0. -/
def blockT (piv : Word) : Thread := thr fun c =>
  let b := chainBlock { c with gpiv := piv }
  regs [(6, 0x10)] ((((b.setVr 12 (b.vr 8)).setVr 13 (b.vr 9)).setVr 14 0).setVr 15 0)

/-- The slots of gacc when the map in g6 names two different slots. -/
theorem slots2 {c : Ctx} {gb : Word} (h : gb.toNat < 2 ^ 32 ∧ (∀ j < dimAt c 12, slotAt gb j < dimAt c 8 ∧ vidAt c 12 j = vidAt c 8 (slotAt gb j)))
    (d : dimAt c 12 = 2) (n : slotAt gb 0 ≠ slotAt gb 1) : slotsFit c gb 12 8 :=
  ⟨h.1, h.2, fun i j hij hj => by
    have hi : i = 0 ∧ j = 1 := by omega
    rw [hi.1, hi.2]; exact n⟩

theorem meets_blockSums_gacc (h : blockSums) : Goes (.gacc 8 12 6) (at0 (blockT 0)) :=
  let ⟨_, e, _⟩ := (h _ 1 _ 8 12 6 (selected (blockT 0) rfl)).1 (by decide +kernel) (by decide +kernel)
    (slots2 (by decide +kernel) (by decide +kernel) (by decide +kernel))
  goes_of e
/-- A header with dimension 9. -/
def badT : Thread := thr fun c => c.setVr 0 (pack 32 [0, 0, 0, 0, 0, 0, 0, 0, 9])
theorem meets_blockSums_header (h : blockSums) : Goes (.gacc 0 12 6) (at0 badT) :=
  goes_of ((h _ 1 _ 0 12 6 (selected badT rfl)).2.1 (.inr (.inl (by decide +kernel))))
theorem meets_blockSums_message (h : blockSums) : Goes (.gacc 12 0 6) (at0 badT) :=
  goes_of ((h _ 1 _ 12 0 6 (selected badT rfl)).2.1 (.inl (by decide +kernel)))
/-- Both variables in slot 1. -/
def slotT : Thread := { blockT 0 with ctx := (blockT 0).ctx.setGpr 6 0x11 }
theorem meets_blockSums_slots (h : blockSums) : Goes (.gacc 8 12 6) (at0 slotT) :=
  goes_of ((h _ 1 _ 8 12 6 (selected slotT rfl)).2.1 (.inr (.inr fun f => f.2.2 0 1 (by decide) (by decide +kernel) (by decide +kernel))))
theorem meets_blockSums_gschur (h : blockSums) : Goes (.gschur 8 13) (at0 (blockT 0)) :=
  let ⟨_, e, _⟩ := ((h _ 1 _ 8 12 13 (selected (blockT 0) rfl)).2.2.1 (by decide +kernel) (by decide +kernel) (by decide +kernel)).1 (by
    intro e h1 h2
    have d1 : (drained (blockT 0).ctx).gpr 13 = 1 := by decide +kernel
    have d2 : dimAt (drained (blockT 0).ctx) 8 = 2 := by decide +kernel
    rw [d1] at h1; rw [d2] at h2 ⊢
    have : e = 1 := by have : (1 : Word).toNat % 16 = 1 := by decide
                       omega
    rw [this]; unfold aboveFloor; decide +kernel)
  goes_of e
theorem meets_blockSums_singular (h : blockSums) : Goes (.gschur 8 13) (at0 (blockT 0x41000000)) :=
  goes_of (((h _ 1 _ 8 12 13 (selected (blockT 0x41000000) rfl)).2.2.1 (by decide +kernel) (by decide +kernel) (by decide +kernel)).2 1
    (by decide +kernel) (by decide +kernel) (by unfold aboveFloor; decide +kernel) (by
      intro e h1 h2
      have d2 : dimAt (drained (blockT 0x41000000).ctx) 8 = 2 := by decide +kernel
      rw [d2] at h2; omega))
/-- K is DIM + 1. -/
def deepT : Thread := { blockT 0 with ctx := (blockT 0).ctx.setGpr 13 3 }
theorem meets_blockSums_count (h : blockSums) : Goes (.gschur 8 13) (at0 deepT) :=
  goes_of ((h _ 1 _ 8 12 13 (selected deepT rfl)).2.2.2 (.inr (.inr (by decide +kernel))))

theorem meets_blockMessages_gdamp (h : blockMessages) : Goes (.gdamp 8 12) (at0 (blockT 0)) :=
  let ⟨_, e, _⟩ := ((h _ 1 _ 8 12 (selected (blockT 0) rfl)).1 (by decide +kernel) (by decide +kernel) (by decide +kernel)).2 (by decide +kernel)
  goes_of e
/-- Two empty blocks of dimension 0 with BETA 0. -/
theorem meets_blockMessages_still (h : blockMessages) : Goes (.gdamp 0 4) (at0 (thrR [])) :=
  goes_of (((h _ 1 _ 0 4 (selected (thrR []) rfl)).1 (by decide +kernel) (by decide +kernel) (by decide +kernel)).1 (by decide +kernel))
theorem meets_blockMessages_pair (h : blockMessages) : Goes (.gdamp 8 0) (at0 (blockT 0)) :=
  goes_of ((h _ 1 _ 8 0 (selected (blockT 0) rfl)).2.1 (.inr (.inr (by decide +kernel))))
/-- A block of dimension 1 with Lambda 4.0, and a floor. -/
def margT (piv : Word) : Thread := thr fun c =>
  (({ c with gpiv := piv } : Ctx).setVr 12 (pack 32 [0, 0, 0, 0, 0, 0, 0, 0, 1])).setVr 13 (pack 32 [0x40800000])
theorem margDim (piv : Word) (h : dimAt (drained (margT piv).ctx) 12 = 1) {e : Nat} (he : e < dimAt (drained (margT piv).ctx) 12) : e = 0 := by omega
theorem meets_blockMessages_gmarg (h : blockMessages) : Goes (.gmarg 8 12) (at0 (margT 0)) :=
  let ⟨_, e, _⟩ := ((h _ 1 _ 8 12 (selected (margT 0) rfl)).2.2.1 (by decide +kernel)).1 (by
    intro e he
    rw [margDim 0 (by decide +kernel) he]; unfold aboveFloor; decide +kernel)
  goes_of e
theorem meets_blockMessages_singular (h : blockMessages) : Goes (.gmarg 8 12) (at0 (margT 0x40800000)) :=
  goes_of (((h _ 1 _ 8 12 (selected (margT 0x40800000) rfl)).2.2.1 (by decide +kernel)).2 0 (by decide +kernel) (by unfold aboveFloor; decide +kernel)
    (by intro e h1 h2; rw [margDim 0x40800000 (by decide +kernel) h2] at h1; omega))
theorem meets_blockMessages_header (h : blockMessages) : Goes (.gmarg 8 0) (at0 badT) :=
  goes_of ((h _ 1 _ 8 0 (selected badT rfl)).2.2.2 (by decide +kernel))

/-- A thread with a slot's address in g13, MODE as given, and the block of the example. -/
def mailT (mode : Word) : Thread := thr fun c => regs [(13, scr + mode)] (chainBlock c)
/-- Its slot at scratch 0x200, full with the given MODE. -/
def slotS (mode : Nat) : State :=
  ((at0 (mailT (BitVec.ofNat 64 mode))).store scrLoc.key (leOf 8 (2 * mode))).setFull scrLoc.key true

theorem meets_mailboxResult_post (h : mailboxResult) : Goes (.gpost 13 8) (at0 (mailT 0)) :=
  goes_of (((h (at0 (mailT 0)) 1 (mailT 0) 13 8 scrLoc false (selected (mailT 0) rfl) rfl ⟨⟨rfl, rfl⟩, rfl⟩ (noWaiter _ _)).2 (by rfl) rfl
    (by decide +kernel)).1 rfl (by decide +kernel) (.inr (by decide +kernel)) (awaits0 rfl))
theorem meets_mailboxResult_overwrite (h : mailboxResult) : Goes (.gpost 13 8) (slotS 1) :=
  goes_of (((h (slotS 1) 1 (mailT 1) 13 8 scrLoc false ⟨rfl, rfl, rfl⟩ rfl ⟨⟨rfl, rfl⟩, rfl⟩ (by intro p hp; cases hp)).2 (by rfl) rfl
    (by decide +kernel)).1 rfl (by decide +kernel) (.inl (by decide +kernel)) (awaits0 rfl))
theorem meets_mailboxResult_take (h : mailboxResult) : Goes (.gtake 8 13) (slotS 0) :=
  goes_of (((h (slotS 0) 1 (mailT 0) 13 8 scrLoc true ⟨rfl, rfl, rfl⟩ rfl ⟨⟨rfl, rfl⟩, rfl⟩ (by intro p hp; cases hp)).2 (by rfl) rfl
    (by decide +kernel)).2 rfl (by decide +kernel) (by decide +kernel) (by decide +kernel) (by decide +kernel))
theorem meets_mailboxResult_header (h : mailboxResult) : Goes (.gpost 13 0) (at0 badT) :=
  goes_of ((h (at0 badT) 1 badT 13 0 scrLoc false (selected badT rfl) rfl ⟨⟨rfl, rfl⟩, rfl⟩ (noWaiter _ _)).1 (by decide +kernel))

/-! The fabric -/

/-- A thread with the address of a descriptor in g1, and the state with bytes there. -/
def fabT (p : Bool) : Thread := if p then thrP [(1, scr)] else thrR [(1, scr)]
def fabS (p : Bool) (bs : List Byte) : State := (at0 (fabT p)).store scrLoc.key bs
/-- What is read at an address from a state. -/
def descRd (s : State) (t : Thread) (va : Word) (n al : Nat) : List Byte × State := okOr ([], State.reset) (readDesc s t va n al)

theorem descAt (s : State) (t : Thread) (va : Word) (n al : Nat) (h : isOk (readDesc s t va n al) = true) :
    DescAt s t va n al (descRd s t va n al).1 (descRd s t va n al).2 := ok_eq ([], State.reset) h

/-- 64 bytes of the mapped page, to package 0. -/
def mstS : State := fabS false (leOf 64 (0x4200 + 64 * 2 ^ 128) ++ leOf 64 1)
def mstRd := descRd (engineOrder mstS (fabT false)) (fabT false) scr 128 64
def mstSrcAt : Word := (recordBits 512 (mstRd.1.take 64)).extractLsb' 0 64
def mstBytes : Nat := (recordBits 512 (mstRd.1.take 64)).toNat / 2 ^ 128 % 2 ^ 28
def mstLk : State := okOr State.reset (tryLocks { mstRd.2 with nextKey := mstRd.2.nextKey + 1 } (mstRd.2.whoOf (fabT false)) mstRd.2.nextKey .copy
  [⟨mstSrcAt, mstBytes, false⟩] (fun _ => false))
def mstData : List Byte := okOr [] (engRead mstLk (mstLk.whoFor (mstLk.issuer 1 (fabT false) (.mst 8 1))) mstSrcAt mstBytes)

theorem meets_multicastPosts (h : Obligations.FabricPosts) : Goes (.mst 8 1) mstS := by
  have ⟨s', _, e, _⟩ := h.1 mstS 1 (fabT false) 8 1 mstRd.1 mstData mstRd.2 mstLk ⟨rfl, rfl, rfl⟩ rfl ⟨rfl, rfl⟩ (by decide +kernel) (awaits0 rfl)
    (descAt _ _ _ _ _ (by decide +kernel)) (by decide +kernel) (by decide +kernel) (by decide +kernel) (ok_eq State.reset (by decide +kernel))
    (ok_eq [] (by decide +kernel))
  exact ⟨s', e⟩

/-- A registration of exchange 9 with one block of 256 bytes, held or wanted, and its table. -/
def setS (want : Nat) : State :=
  fabS false (leOf 64 (9 * 2 ^ 16 + 0x4000000000001000 * 2 ^ 64 + 256 * 2 ^ 128 + 0x4000000000000240 * 2 ^ 192) ++ leOf 16 (2 ^ 64 + want * 2 ^ 80))
def setRd (w : Nat) := descRd (engineOrder (setS w) (fabT false)) (fabT false) scr 64 64
def setTb (w : Nat) := descRd (setRd w).2 (fabT false) ((recordBits 512 (setRd w).1).extractLsb' 192 64) (16 * ((recordBits 512 (setRd w).1).toNat /
    2 ^ 24 % 256 + 1)) 16
def setLk (w : Nat) : State :=
  let s := (setTb w).2
  okOr State.reset (tryLocks { s with nextKey := s.nextKey + 1 } (s.whoOf (fabT false)) s.nextKey .registration
    [⟨(recordBits 512 (setRd w).1).extractLsb' 64 64, (recordBits 512 (setRd w).1).toNat / 2 ^ 128 % 2 ^ 64, false⟩] (fun _ => false))

/-- The checks of the registration and of its table. -/
abbrev SetOk (w : Nat) : Prop :=
  let desc := recordBits 512 (setRd w).1
  let s := (setTb w).2
  let len := desc.toNat / 2 ^ 128 % 2 ^ 64
  let table := entriesOf (setTb w).1
  setBad desc = false ∧ tableBad (2 ^ (desc.toNat / 16 % 16 + 8)) len table = false ∧
  sideOk s (s.whoOf (fabT false)) (if table.any entryWant then .store else .load) (desc.extractLsb' 64 64) len = true ∧
  s.reg? (fabT false).pcell.pkg (desc.toNat / 2 ^ 16 % 256) = none ∧ (∀ q ∈ (s.pkg (fabT false).pcell.pkg).regs, q.key < s.nextKey) ∧
  (s.pkg (fabT false).pcell.pkg).regs.length < 16 ∧ s.heldBy (s.whoOf (fabT false)) [⟨desc.extractLsb' 64 64, len, true⟩] = none

theorem setPosts (h : Obligations.ExchangePosts) (w : Nat) (p : SetOk w)
    (l : isOk (tryLocks { (setTb w).2 with nextKey := (setTb w).2.nextKey + 1 } ((setTb w).2.whoOf (fabT false)) (setTb w).2.nextKey .registration
      [⟨(recordBits 512 (setRd w).1).extractLsb' 64 64, (recordBits 512 (setRd w).1).toNat / 2 ^ 128 % 2 ^ 64, false⟩] (fun _ => false)) = true)
    (r : isOk (readDesc (engineOrder (setS w) (fabT false)) (fabT false) scr 64 64) = true)
    (b : isOk (readDesc (setRd w).2 (fabT false) ((recordBits 512 (setRd w).1).extractLsb' 192 64)
      (16 * ((recordBits 512 (setRd w).1).toNat / 2 ^ 24 % 256 + 1)) 16) = true) : Goes (.shufset 8 1) (setS w) :=
  goes_ex (h.1 (setS w) 1 (fabT false) 8 1 (setRd w).1 (setTb w).1 (setRd w).2 (setTb w).2 (setLk w) ⟨rfl, rfl, rfl⟩ rfl ⟨rfl, rfl⟩ (by decide)
      (awaits0 rfl)
    (descAt _ _ _ _ _ r) (descAt _ _ _ _ _ b) p.1 p.2.1 p.2.2.1 p.2.2.2.1 p.2.2.2.2.1 p.2.2.2.2.2.1 p.2.2.2.2.2.2 (ok_eq State.reset l))

theorem meets_registrationMade_held (h : Obligations.ExchangePosts) : Goes (.shufset 8 1) (setS 0) :=
  setPosts h 0 (by decide +kernel) (by decide +kernel) (by decide +kernel) (by decide +kernel)
theorem meets_registrationMade_wanted (h : Obligations.ExchangePosts) : Goes (.shufset 8 1) (setS 1) :=
  setPosts h 1 (by decide +kernel) (by decide +kernel) (by decide +kernel) (by decide +kernel)

/-- A live registration of the thread's own cell, and a plan that sends its block to package 1. -/
def regO : Registration :=
  { key := 1, by_ := (at0 (fabT false)).issuer 1 (fabT false) .fence, xid := 9
    desc := BitVec.ofNat 512 (9 * 2 ^ 16 + 0x4000000000001000 * 2 ^ 64 + 256 * 2 ^ 128), table := [BitVec.ofNat 128 (2 ^ 64)] }
def shufS : State :=
  let s := fabS false (leOf 64 9 ++ leOf 64 2 ++ leOf 64 1)
  s.setPkg 0 { s.pkg 0 with regs := [regO] }
def shufRd := descRd (engineOrder shufS (fabT false)) (fabT false) scr 64 64
def shufPl := descRd shufRd.2 (fabT false) ((fabT false).ctx.gpr 1 + 64) (128 * ((recordBits 512 shufRd.1).toNat / 2 ^ 16 % 2 ^ 12 + 1)) 64

/-- The plan and the registration are in order. -/
theorem shufOk : (recordBits 512 shufRd.1).toNat / 2 ^ 28 = 0 ∧ (recordBits 512 shufRd.1).toNat / 2 ^ 8 % 256 = 0 ∧
    planBad (fabT false).pcell.pkg shufPl.1 = false ∧
    shufPl.2.reg? (fabT false).pcell.pkg ((recordBits 512 shufRd.1).toNat % 256) = some regO ∧ regO.by_.cell = shufPl.2.cellFor (fabT false) ∧
    (∀ x ∈ planOf shufPl.1, (regO.find false x.2).isSome = true) ∧ (∃ x ∈ planOf shufPl.1, x.1 ≠ 0) ∧
    ∀ f ∈ shufPl.2.fops, f.key < shufPl.2.nextKey := by decide +kernel

theorem meets_shufflePosts (h : Obligations.ExchangePosts) : Goes (.shuf 8 1) shufS := by
  have p := shufOk
  have ⟨s', _, e, _⟩ := h.2 shufS 1 (fabT false) 8 1 shufRd.1 shufPl.1 shufRd.2 shufPl.2 regO ⟨rfl, rfl, rfl⟩ rfl ⟨rfl, rfl⟩ (by decide) (awaits0 rfl)
    (descAt _ _ _ _ _ (by decide +kernel)) (descAt _ _ _ _ _ (by decide +kernel)) p.1 p.2.1 p.2.2.1 p.2.2.2.1 p.2.2.2.2.1 p.2.2.2.2.2.1
    p.2.2.2.2.2.2.1 p.2.2.2.2.2.2.2
  exact ⟨s', e⟩

/-- A reduction of the record at scratch 0x220 into the mapped page. -/
def xredS : State := fabS false (leOf 8 0x4000000000000220 ++ leOf 8 0x4400 ++ leOf 16 0 ++ leOf 32 5)
def xredRd := descRd (engineOrder xredS (fabT false)) (fabT false) scr 16 16
def xredRc := descRd xredRd.2 (fabT false) (BitVec.ofNat 64 (leVal (xredRd.1.take 8))) 32 32
def xredTo : Nat × Nat := okOr (0, 0) (xredHome xredRc.2 (fabT false) (BitVec.ofNat 64 (leVal ((xredRd.1.drop 8).take 8))))

theorem meets_reductionPosts (h : Obligations.FabricPosts) : Goes (.xred 8 1) xredS := by
  have ⟨s', _, _, e, _⟩ := h.2.1 xredS 1 (fabT false) 8 1 xredRd.1 xredRc.1 xredRd.2 xredRc.2 xredTo ⟨rfl, rfl, rfl⟩ rfl ⟨rfl, rfl⟩
    (by decide +kernel) (awaits0 rfl) (descAt _ _ _ _ _ (by decide +kernel)) (descAt _ _ _ _ _ (by decide +kernel))
    (by unfold InRecord; decide +kernel) (ok_eq (0, 0) (by decide +kernel))
  exact ⟨s', e⟩
/-- A reduction of a record in an alias window. -/
def xredBadS : State := fabS false (leOf 8 0x4100000000000220 ++ leOf 8 0x4400)
def xredBadRd := descRd (engineOrder xredBadS (fabT false)) (fabT false) scr 16 16
theorem meets_reductionPosts_place (h : Obligations.FabricPosts) : Goes (.xred 8 1) xredBadS :=
  goes_of (h.2.2 xredBadS 1 (fabT false) 8 1 xredBadRd.1 xredBadRd.2 ⟨rfl, rfl, rfl⟩ rfl ⟨rfl, rfl⟩ (by decide +kernel) (awaits0 rfl)
    (descAt _ _ _ _ _ (by decide +kernel)) (by unfold InRecord; decide +kernel))

/-- A thread with the address of a barrier word in g1 and SW and N in g2. -/
def barT (v : Word) : Thread := thrR [(1, scr), (2, v)]

theorem meets_BarrierResult_gang (h : Obligations.BarrierResult) : Goes (.bar 1 2) (at0 { barT 1 with gang := .leader [5] }) :=
  goes_of ((h _ 1 _ 1 2 (.bar 1 2) .sys 4 (selected { barT 1 with gang := .leader [5] } rfl) (.inl ⟨rfl, rfl, rfl⟩)).1 (by decide +kernel))
theorem meets_BarrierResult_illegal (h : Obligations.BarrierResult) : Goes (.bar 1 2) (at0 (barT 0x100000001)) :=
  goes_of ((h _ 1 _ 1 2 (.bar 1 2) .sys 4 (selected (barT 0x100000001) rfl) (.inl ⟨rfl, rfl, rfl⟩)).2.1 (.inr (.inl (by decide +kernel))))
def barRd (v : Word) : List Byte × State := okOr ([], State.reset)
  (readAt (scrLoc.settle (releaseAt ((at0 (barT v)).fillTlb placedCell false scrLoc) placedCell .sys) placedCell 8)
    ((at0 (barT v)).whoOf (barT v)) scrLoc 8 false)
theorem meets_BarrierResult_last (h : Obligations.BarrierResult) : Goes (.bar 1 2) (at0 (barT 0x300000001)) :=
  goes_of (((h _ 1 _ 1 2 (.bar 1 2) .sys 4 (selected (barT 0x300000001) rfl) (.inl ⟨rfl, rfl, rfl⟩)).2.2 scrLoc (barRd 0x300000001).1
    (barRd 0x300000001).2 rfl (by decide +kernel) (by decide +kernel) (by decide +kernel) ⟨rfl, rfl⟩ (awaits0 rfl)
    ⟨resolves _ (by decide +kernel), ok_eq ([], State.reset) (by decide +kernel)⟩ (by decide +kernel)).1 (by decide +kernel) (noWaiter _ _))
theorem meets_BarrierResult_waits (h : Obligations.BarrierResult) : Goes (.bar 1 2) (at0 (barT 2)) := by
  have ⟨s', _, e, _⟩ := ((h _ 1 _ 1 2 (.bar 1 2) .sys 4 (selected (barT 2) rfl) (.inl ⟨rfl, rfl, rfl⟩)).2.2 scrLoc (barRd 2).1 (barRd 2).2
    rfl (by decide +kernel) (by decide +kernel) (by decide +kernel) ⟨rfl, rfl⟩ (awaits0 rfl)
    ⟨resolves _ (by decide +kernel), ok_eq ([], State.reset) (by decide +kernel)⟩ (by decide +kernel)).2 (by decide +kernel) rfl
    (by intro p hp; cases hp) (by decide +kernel)
  exact ⟨s', e⟩

/-- A POWER command with IW 10. -/
def topoS : State := fabS true (leOf 64 0x0A0003)
def topoRd := descRd (engineOrder topoS (fabT true)) (fabT true) scr 64 64
theorem topoImg_eq : topoImage topoRd.2 (fabT true) (recordBits 512 topoRd.1) = .ok ([], topoRd.2) := by
  unfold topoImage
  rw [if_pos (by decide +kernel)]
theorem meets_TopologyPosts (h : Obligations.TopologyPosts) : Goes (.topo 8 1) topoS :=
  goes_ex (h topoS 1 (fabT true) 8 1 topoRd.1 topoRd.2 topoRd.2 [] ⟨rfl, rfl, rfl⟩ (by decide +kernel) rfl ⟨rfl, rfl⟩ (by decide +kernel) (awaits0
      rfl)
    (descAt _ _ _ _ _ (by decide +kernel)) (by decide +kernel) topoImg_eq (by decide +kernel))

/-! Events: host writes and launches -/

/-- The placed state with package 0 changed. -/
def pkgS (t : Thread) (f : Package → Package) : State := let s := at0 t; s.setPkg 0 (f (s.pkg 0))

/-- A package that responds, with queue 5 of function 1. -/
def hostS (x : Queue) : State := pkgS taskT fun p => { p with boot := 0x00FF, queues := [(5, x)] }
def offQ : Queue := { qctl := 0x100000 }
def onQ : Queue := { qctl := 0x80100000 }

theorem meets_HostWrites_launch (h : Obligations.HostWrites) : Goes (.launchWrite 0 1 0 7) (hostS onQ) :=
  goes_of ((h (hostS onQ) 0 1 0 5 rfl (by decide +kernel)).1 7 (by decide +kernel) (by decide +kernel))
theorem meets_HostWrites_refused (h : Obligations.HostWrites) : Goes (.launchWrite 0 1 0 7) (hostS offQ) :=
  goes_of ((h (hostS offQ) 0 1 0 5 rfl (by decide +kernel)).2.1 7 (by decide +kernel))
theorem meets_HostWrites_crhead (h : Obligations.HostWrites) : Goes (.crheadWrite 0 1 0 7) (hostS onQ) :=
  goes_of ((h (hostS onQ) 0 1 0 5 rfl (by decide +kernel)).2.2.2.1 7 (by decide +kernel))
theorem meets_HostWrites_crheadOff (h : Obligations.HostWrites) : Goes (.crheadWrite 0 1 0 7) (hostS offQ) :=
  goes_of ((h (hostS offQ) 0 1 0 5 rfl (by decide +kernel)).2.2.2.2.1 7 (by decide +kernel))
theorem meets_HostWrites_enable (h : Obligations.HostWrites) : Goes (.queueEnable 0 5 0x80100000) (hostS offQ) :=
  goes_ex2 ((h (hostS offQ) 0 1 0 5 rfl (by decide +kernel)).2.2.2.2.2.1 0x80100000 (by decide) (by decide +kernel))
theorem meets_HostWrites_disable (h : Obligations.HostWrites) : Goes (.queueDisable 0 5 0x100000) (hostS onQ) :=
  goes_ex2 ((h (hostS onQ) 0 1 0 5 rfl (by decide +kernel)).2.2.2.2.2.2.1 0x100000 (by decide) (by decide +kernel))
theorem meets_HostWrites_register (h : Obligations.HostWrites) : Goes (.registerWrite 0 0x20218 9) (hostS onQ) :=
  goes_ex ((h (hostS onQ) 0 1 0 5 rfl (by decide +kernel)).2.2.2.2.2.2.2.1 9 16 (by decide)).2.2.2.2
theorem meets_HostWrites_queue (h : Obligations.HostWrites) : Goes (.registerWrite 0 32736 0) (hostS onQ) :=
  let ⟨_, e, _⟩ := ((h (hostS onQ) 0 1 0 5 rfl (by decide +kernel)).2.2.2.2.2.2.2.2.1 0 1023 (by decide)).1 (by decide +kernel)
  goes_ex e
theorem meets_HostWrites_ignored (h : Obligations.HostWrites) : Goes (.registerWrite 0 0x43FFF 9) (hostS onQ) :=
  goes_of ((h (hostS onQ) 0 1 0 5 rfl (by decide +kernel)).2.2.2.2.2.2.2.2.2.2.1 9 0x43FFF (.inr (.inl (by decide))))
theorem meets_HostWrites_portstat (h : Obligations.HostWrites) : Goes (.portstatWrite 0 31 0x10000) (hostS onQ) :=
  goes_ex ((h (hostS onQ) 0 1 0 5 rfl (by decide +kernel)).2.2.2.2.2.2.2.2.2.2.2 0x10000 31 (by decide))

/-- A queue with a captured record, in a package whose tables name one partition of one cluster, a kernel and a frame. -/
def readyS (rec : BitVec 512) : State :=
  let s := imageHandle taskT
  let p := s.pkg 0
  let f1 := { (p.fn 1) with ptbase := 0x8000, ptsize := 1 }
  let s := s.setPkg 0 { p with fns := putAt 1 f1 p.fns, queues := [(5, { onQ with fifo := [rec] })], boot := 0x00FF }
  let hbm (off : Nat) : Nat := keyOf (.hbm 0 0) off
  let c := s.cluster ⟨0, 0, 0⟩
  let s := s.setCluster ⟨0, 0, 0⟩ { c with cellMap := Vector.ofFn fun j => BitVec.ofNat 16 (0x8000 + j.val) }
  let s := s.store (hbm 0x8000) (leOf 32 placedReady.part.toNat)
  let s := s.store (hbm 0x7030) (leOf 8 0x9000 ++ leOf 8 (32 + 5 * 2 ^ 40 + 2 ^ 48))
  let s := s.store (hbm 0x9000) (leOf 32 0xA000)
  let s := s.store (hbm 0xA000) (leOf 64 (0x314D5246 + 2 ^ 32 + 64 * 2 ^ 64 + 4 * 2 ^ 96 + 128 * 2 ^ 128 + 2 ^ 160 + 136 * 2 ^ 192))
  { s with launches := [], threads := [] }

def goodRec : BitVec 512 := 0x0500000300000001
def verdict (r : BitVec 512) : Verdict := (readyS r).validate 0 (((readyS r).pkg 0).queue 5) r

theorem meets_LaunchStarts_ready (h : Obligations.LaunchStarts) : Goes (.ringEntryReservation 0 5) (readyS goodRec) :=
  goes_of (((h (readyS goodRec)).1 0 5 goodRec [] (by decide +kernel) (by decide +kernel) (by decide +kernel)).1 (okOr placedReady (verdict goodRec))
    (ok_eq placedReady (by decide +kernel)))
theorem meets_LaunchStarts_rejected (h : Obligations.LaunchStarts) : Goes (.ringEntryReservation 0 5) (readyS 2) :=
  goes_of (((h (readyS 2)).1 0 5 2 [] (by decide +kernel) (by decide +kernel) (by decide +kernel)).2 (errOr (0, 0, 0) (verdict 2))
    (err_eq (0, 0, 0) (by decide +kernel)))
/-- The same with the head validated. -/
def admitS : State :=
  let s := readyS goodRec
  s.setQueue 0 5 { (s.pkg 0).queue 5 with head := some (0, true, some placedReady) }
theorem meets_LaunchStarts_admitted (h : Obligations.LaunchStarts) : Goes (.launchAdmission 0) admitS := by
  have ⟨s', _, e, _⟩ := (h admitS).2.1 0 0 5 0 true goodRec placedReady (by decide +kernel)
  exact ⟨s', e⟩
/-- A launch whose cell 0 waits for the swarm message. -/
def swarmS : State :=
  let s := at0 taskT
  { s.setLaunch 2 { placedLaunch with toWake := [0] } with threads := [] }
theorem meets_LaunchStarts_swarm (h : Obligations.LaunchStarts) : Goes (.swarmMessage 2 0) swarmS :=
  goes_ex ((h swarmS).2.2 2 0 { placedLaunch with toWake := [0] } { seat0 with launch := { placedLaunch with toWake := [0] } } (by decide +kernel)
    (by decide +kernel) (by decide +kernel) rfl)

/-- The placed launch with its thread ended and its cell closed. -/
def overS : State :=
  let s := at0 taskT
  { s.setVcell placedLcell {} with threads := [] }
theorem meets_LaunchEnds_retires (h : Obligations.LaunchEnds) : Goes (.launchRetirement 2) overS :=
  goes_ex ((h overS).1 2 placedLaunch (by decide +kernel) rfl (by decide +kernel))
def trapOf (code : Nat) (faddr : Word) : Trapped := { code := code, tid := 1, tepc := 0x4040, faddr := faddr, at_ := 5 }
/-- The placed launch with a trap, in a state where its cell 0 was restarted after it. -/
def trappedL (x : Trapped) : Launch := { placedLaunch with trapped := [x] }
def trappedS (x : Trapped) : State :=
  let s := (at0 taskT).setLaunch 2 (trappedL x)
  s.setVcell placedLcell { s.vcell placedLcell with restarted := some 6 }
theorem meets_LaunchEnds_trapped (h : Obligations.LaunchEnds) : Goes (.launchEnd 2) (trappedS (trapOf 1 0)) :=
  goes_ex ((h (trappedS (trapOf 1 0))).2.1 2 (trappedL (trapOf 1 0)) (trapOf 1 0) (by decide +kernel) (by decide +kernel) rfl)
theorem meets_LaunchEnds_covered (h : Obligations.LaunchEnds) : Goes (.launchEnd 2) (trappedS (trapOf 0x10 0x5000000000000000)) :=
  goes_of ((h (trappedS (trapOf 0x10 0x5000000000000000))).2.2.2.1 2 (trappedL (trapOf 0x10 0x5000000000000000)) (by decide +kernel)
      (by decide +kernel))
theorem meets_LaunchEnds_flr (h : Obligations.LaunchEnds) : Goes (.functionLevelReset 0 1) (at0 taskT) :=
  goes_ex ((h (at0 taskT)).2.2.2.2.1 0 1)
def flrS : State := { at0 taskT with flrs := [⟨0, 1⟩] }
theorem meets_LaunchEnds_drained (h : Obligations.LaunchEnds) : Goes (.flrDrainComplete 0 1) flrS :=
  goes_ex ((h flrS).2.2.2.2.2 0 1 (by decide) (by decide +kernel))

/-! Events: tasks and threads -/

/-- A task record at code offset 0x100, of the domain of the whole package and of cell 0. -/
def taskRec : BitVec 256 := 0x300000100

/-- The placed cell with a record in its deque and no thread. -/
def dequeS : State :=
  let s := at0 taskT
  { s.setVcell placedLcell { s.vcell placedLcell with deque := [taskRec] } with threads := [] }
theorem meets_taskPlacement_start (h : Obligations.ThreadEvents) : Goes (.taskStart placedLcell 0) dequeS :=
  goes_ex2 ((h.1 dequeS).1 placedLcell 0 2 0 seat0 [] taskRec (by decide +kernel) rfl (by decide +kernel) (by decide +kernel))
/-- A thread alone in the placed cell's context cache, saved by force or at a safe point. -/
def waitS (forced : Bool) : State := { at0 taskT with threads := [(9, { cachedT id with forced := forced, masks := 0xFF })] }
theorem meets_taskPlacement_resume (h : Obligations.ThreadEvents) : Goes (.contextResume placedCell 0) (waitS false) :=
  let ⟨_, e, _⟩ := (h.1 (waitS false)).2.1 placedCell 0 9 { cachedT id with forced := false, masks := 0xFF } (by decide +kernel) (by decide +kernel)
    (by decide +kernel) rfl (by decide +kernel) rfl
  goes_of e
theorem meets_taskPlacement_forced (h : Obligations.ThreadEvents) : Goes (.contextResume placedCell 0) (waitS true) :=
  let ⟨_, e, _⟩ := (h.1 (waitS true)).2.1 placedCell 0 9 { cachedT id with forced := true, masks := 0xFF } (by decide +kernel) (by decide +kernel)
    (by decide +kernel) rfl (by decide +kernel) rfl
  goes_of e
/-- The placed cell with no thread, and a cell beside it with a record that it may take. -/
def stealS : State :=
  let s := wide taskT
  let s := s.setVcell { placedLcell with c := 12 } { isOpen := true, launch := 2, deque := [taskRec] }
  { s with threads := [] }
theorem meets_taskPlacement_attempt (h : Obligations.ThreadEvents) : Goes (.stealAttempt placedLcell) stealS :=
  goes_ex ((h.1 stealS).2.2.1 placedLcell 2 0 seat0 (by decide +kernel) (by decide +kernel) ((placedReady.victim 0 0).get (by decide +kernel))
    (Option.some_get _).symm)

/-- A request to that cell, and its answers. -/
def askS : State := { stealS with steals := [⟨50, 2, 0, 12, none⟩] }
def seat12 : Seat := ⟨placedLaunch, { placedLcell with c := 12 }, ⟨{ placedCell with cell := 12 }, 0, 0⟩⟩
theorem meets_taskPlacement_request (h : Obligations.ThreadEvents) : Goes (.stealRequest 50) askS := by
  refine goes_ex ((h.1 askS).2.2.2.1 50 0 ⟨50, 2, 0, 12, none⟩ seat12 ?_ ?_ ?_ ?_ ?_) <;> decide +kernel
def answerS (x : Option (BitVec 256)) : State := { stealS with steals := [⟨50, 2, 0, 12, some x⟩] }
theorem meets_taskPlacement_none (h : Obligations.ThreadEvents) : Goes (.stealAnswer 50) (answerS none) :=
  goes_of (((h.1 (answerS none)).2.2.2.2.1 50 ⟨50, 2, 0, 12, some none⟩ seat0 (by decide +kernel) (by decide +kernel)).1 rfl)
theorem meets_taskPlacement_answer (h : Obligations.ThreadEvents) : Goes (.stealAnswer 50) (answerS (some taskRec)) :=
  goes_ex2 (((h.1 (answerS (some taskRec))).2.2.2.2.1 50 ⟨50, 2, 0, 12, some (some taskRec)⟩ seat0 (by decide +kernel) (by decide +kernel)).2.1
    taskRec 0 rfl (by decide +kernel))
/-- The same with the one slot of the cell taken, and n records in its deque. -/
def crowdS (n : Nat) : State :=
  let s := answerS (some taskRec)
  let s := { s with threads := [(1, taskT)] }
  s.setVcell placedLcell { s.vcell placedLcell with deque := List.replicate n 0 }
theorem meets_taskPlacement_pushed (h : Obligations.ThreadEvents) : Goes (.stealAnswer 50) (crowdS 63) :=
  goes_ex (((h.1 (crowdS 63)).2.2.2.2.1 50 ⟨50, 2, 0, 12, some (some taskRec)⟩ seat0 (by decide +kernel) (by decide +kernel)).2.2
    taskRec rfl (by decide +kernel) |>.1 (by decide +kernel))
theorem meets_taskPlacement_held (h : Obligations.ThreadEvents) : Goes (.stealAnswer 50) (crowdS 64) :=
  goes_of (((h.1 (crowdS 64)).2.2.2.2.1 50 ⟨50, 2, 0, 12, some (some taskRec)⟩ seat0 (by decide +kernel) (by decide +kernel)).2.2
    taskRec rfl (by decide +kernel) |>.2 (by decide +kernel) rfl)
/-- A thread in the one slot of its launch, 65,536 dclk after it came there, and a context that waits. -/
def sliceS : State := { waitS true with threads := [(1, taskT), (9, cachedT id)], clock := 65536 }
theorem meets_taskPlacement_slice (h : Obligations.ThreadEvents) : Goes (.timesliceExpiry 1) sliceS :=
  goes_of ((h.1 sliceS).2.2.2.2.2.1 1 taskT rfl (by decide +kernel))
/-- A leader that waits for the slot of cell 1. -/
def gangWait : Thread := { flyT with run := .parked .gang 0, waitOpr := recordOf (.gang .two) flyT.ctx 0 }
theorem meets_taskPlacement_reserve (h : Obligations.ThreadEvents) : Goes (.gangSlotReservation { placedLcell with c := 1 } 0) (wide gangWait) :=
  goes_of ((h.1 (wide gangWait)).2.2.2.2.2.2 { placedLcell with c := 1 } 0 1 1 gangWait seat1 rfl (by decide +kernel) (by decide +kernel) rfl
    (by decide +kernel) (by decide +kernel) (by decide +kernel))

/-- A thread on its way to cell 3. -/
def flying : Thread := { flyT with place := .flying placedCell 0 { placedLcell with c := 3 } 3, run := .parked .fly 0 }
theorem meets_threadMessages_arrival (h : Obligations.ThreadEvents) : Goes (.flyArrival 1) (wide flying) :=
  goes_ex2 ((h.2 (wide flying)).1 1 0 0 3 placedCell { placedLcell with c := 3 } flying seat3 rfl rfl (by decide +kernel) (by decide +kernel)
    (by decide +kernel))
/-- A wake for the placed thread. -/
def wakeS (t : Thread) : State := { at0 t with wakes := [⟨50, 2, 1⟩] }
def wfwT : Thread := { taskT with run := .parked .wfw 0 }
def suspT : Thread := { taskT with run := .suspended, place := .cache placedCell false 3 }
theorem meets_threadMessages_wfw (h : Obligations.ThreadEvents) : Goes (.wakeDelivery 50) (wakeS wfwT) :=
  goes_ex ((h.2 (wakeS wfwT)).2.1 50 1 ⟨50, 2, 1⟩ wfwT (by decide +kernel) rfl (by decide +kernel))
theorem meets_threadMessages_suspended (h : Obligations.ThreadEvents) : Goes (.wakeDelivery 50) (wakeS suspT) :=
  goes_ex ((h.2 (wakeS suspT)).2.1 50 1 ⟨50, 2, 1⟩ suspT (by decide +kernel) rfl (by decide +kernel))
theorem meets_threadMessages_running (h : Obligations.ThreadEvents) : Goes (.wakeDelivery 50) (wakeS taskT) :=
  goes_ex ((h.2 (wakeS taskT)).2.1 50 1 ⟨50, 2, 1⟩ taskT (by decide +kernel) rfl (by decide +kernel))
def asleep : Thread := { taskT with run := .sleeping 0 }
theorem meets_threadMessages_sleep (h : Obligations.ThreadEvents) : Goes (.sleepExpiry 1) (at0 asleep) :=
  goes_of ((h.2 (at0 asleep)).2.2 1 0 asleep rfl rfl (by decide +kernel))

/-! Events between instructions -/

/-- A thread asked for its pre-emption, at a safe point of a frame whose one entry says code offset 0 and live mask 0x1F. -/
def safeT : Thread := { taskT with preempt := some 0 }
def safeS (clock : Nat) : State :=
  let s := at0 safeT
  let r := { placedReady with frame := BitVec.ofNat 512 (4 * 2 ^ 96 + 64 * 2 ^ 64 + 128 * 2 ^ 128 + 2 ^ 160 + 136 * 2 ^ 192) }
  let s := s.setLaunch 2 { placedLaunch with ready := r }
  let s := s.store (keyOf (.hbm 0 0) 0x4088) (leOf 8 0x1F)
  { s with clock := clock }
theorem meets_Interruptions_preempted (h : Obligations.Interruptions) : Goes (.preemption 1) (safeS 5) :=
  goes_ex2 ((h (safeS 5) 1 safeT rfl).1 0x1F (by decide +kernel) (by decide +kernel) (by decide +kernel) rfl ⟨⟨rfl, rfl⟩, rfl⟩ rfl)
/-- The same where the vector unit has found an error. -/
def errS (clock : Nat) : State := { safeS clock with threads := [(1, { safeT with vErr := some {} })] }
theorem meets_Interruptions_error (h : Obligations.Interruptions) : Goes (.preemption 1) (errS 5) :=
  goes_of ((h (errS 5) 1 { safeT with vErr := some {} } rfl).2.1 0x1F {} (by decide +kernel) (by decide +kernel) (by decide +kernel) rfl rfl)
theorem meets_Interruptions_forcedError (h : Obligations.Interruptions) : Goes (.forcedSave 1) (errS (2 ^ 20)) :=
  goes_of ((h (errS (2 ^ 20)) 1 { safeT with vErr := some {} } rfl).2.2.1 {} (by decide +kernel) rfl rfl)
theorem meets_Interruptions_forced (h : Obligations.Interruptions) : Goes (.forcedSave 1) (safeS (2 ^ 20)) :=
  goes_ex2 ((h (safeS (2 ^ 20)) 1 safeT rfl).2.2.2.1 (by decide +kernel) rfl ⟨⟨rfl, rfl⟩, rfl⟩ rfl)
theorem meets_Interruptions_retry (h : Obligations.Interruptions) : Goes (.checkerRetry 1 false) (at0 taskT) :=
  goes_of ((h (at0 taskT) 1 taskT rfl).2.2.2.2.1 0 false (by decide +kernel) rfl)
/-- The placed state with an addi at its pc, and its thread at the second execution of an instruction that the checker discards again. -/
def fetchS (t : Thread) : State := (at0 t).store (keyOf (.hbm 0 0) 0x4040) (leOf 4 0x00013308)
def retryT : Thread := { taskT with retry := some true }
theorem meets_Interruptions_mismatch (h : Obligations.Interruptions) : ∃ s', stepThread (fetchS retryT) 1 retryT = .next s' :=
  have ⟨(i, s1), e⟩ := exists_ok (e := fetchInstr ((fetchS retryT).setThread 1 { retryT with retry := none }) { retryT with retry := none })
    (by decide +kernel)
  ⟨_, (h (fetchS retryT) 1 retryT rfl).2.2.2.2.2.1 i s1 rfl rfl rfl (by decide +kernel) rfl rfl e⟩
/-- A thread whose head is a load of the scratch word, or of a misaligned address. -/
def headT (a : Word) : Thread := thr fun c =>
  { (regs [(8, a)] c) with head := some ⟨recordOf (.ldd ⟨4, 8, .imm 0, none, 3⟩) (regs [(8, a)] c) 1, 3, true, none⟩ }
def headOf (a : Word) : Head := ⟨recordOf (.ldd ⟨4, 8, .imm 0, none, 3⟩) (regs [(8, a)] (thr id).ctx) 1, 3, true, none⟩
theorem meets_Interruptions_answer (h : Obligations.Interruptions) : Goes (.accessCompletion 1) (at0 (headT scr)) :=
  have ⟨s1, e⟩ := exists_ok (e := performHead (at0 (headT scr)) 1 (headT scr) (headOf scr)) (by decide +kernel)
  goes_of (((h (at0 (headT scr)) 1 (headT scr) rfl).2.2.2.2.2.2.1 (headOf scr) rfl).1 s1 e)
theorem meets_Interruptions_failed (h : Obligations.Interruptions) : Goes (.accessCompletion 1) (at0 (headT (scr + 1))) :=
  have ⟨(s1, f), e⟩ := exists_err (e := performHead (at0 (headT (scr + 1))) 1 (headT (scr + 1)) (headOf (scr + 1))) (by decide +kernel)
  goes_of (((h (at0 (headT (scr + 1))) 1 (headT (scr + 1)) rfl).2.2.2.2.2.2.1 (headOf (scr + 1)) rfl).2 s1 f e)
theorem meets_Interruptions_ack (h : Obligations.Interruptions) : Goes (.relaxedStoreAck 1 0) (at0 fullT) :=
  have ⟨s1, e⟩ := exists_ok (e := writeAt (at0 fullT) { (at0 fullT).whoOf fullT with bank := false } { key := scrLoc.key } [1, 2] false)
    (by decide +kernel)
  goes_ex ((h (at0 fullT) 1 fullT rfl).2.2.2.2.2.2.2.1 pendingRx (List.replicate 7 pendingRx) rfl |>.1 s1 rfl e)
/-- A relaxed store to an element of window 1. -/
def elemRx : RxStore := { pendingRx with bytes := [], kind := .elem 0x510 3 7 false }
def elemT : Thread := { memT with rx := [elemRx] }
theorem meets_Interruptions_elem (h : Obligations.Interruptions) : Goes (.relaxedStoreAck 1 0) (at0 elemT) :=
  goes_ex ((h (at0 elemT) 1 elemT rfl).2.2.2.2.2.2.2.1 elemRx [] rfl |>.2 0x510 3 7 false rfl)
/-- The placed thread has waited for 4,096 dclk. -/
def lateS (t : Thread) : State := { at0 t with clock := 4096 }
theorem meets_Interruptions_wfw (h : Obligations.Interruptions) : Goes (.waitLimitExpiry 1) (lateS wfwT) :=
  goes_of ((h (lateS wfwT) 1 wfwT rfl).2.2.2.2.2.2.2.2.1 0 (by decide +kernel) rfl rfl placedCell 0 rfl rfl)
def feWait : Thread := { taskT with run := .parked .fullEmpty 0 }
theorem meets_Interruptions_withdraw (h : Obligations.Interruptions) : Goes (.waitLimitExpiry 1) (lateS feWait) :=
  goes_of ((h (lateS feWait) 1 feWait rfl).2.2.2.2.2.2.2.2.2.1 0 (by decide +kernel) (.inl rfl))
/-- A walk for the placed function. -/
def walker : Who := { pkgWho 0 1 with cluster := ⟨0, 0, 0⟩, cell := placedCell }
theorem walk_eq : ∃ e, translate (at0 taskT) walker false 0x4200 = .ok (e, false) := by
  have ⟨(e, b), h⟩ := exists_ok (e := translate (at0 taskT) walker false 0x4200) (by decide +kernel)
  have hb : (okOr ((⟨0, 0, 0, 0, 0⟩ : TlbEntry), true) (translate (at0 taskT) walker false 0x4200)).2 = false := by decide +kernel
  rw [h] at hb
  exact ⟨e, by rw [h, show b = false from hb]⟩
theorem meets_Interruptions_walk (h : Obligations.Interruptions) : Goes (.pageWalk placedCell 1 0x4200 .load) (at0 taskT) :=
  have ⟨e, he⟩ := walk_eq
  goes_of (((h (at0 taskT) 1 taskT rfl).2.2.2.2.2.2.2.2.2.2 placedCell 1 0x4200 .load e).1 he)
theorem meets_Interruptions_walkFault (h : Obligations.Interruptions) : Goes (.pageWalk placedCell 1 0x0100000000000000 .load) (at0 taskT) :=
  have ⟨f, he⟩ := exists_err (e := translate (at0 taskT) walker false 0x0100000000000000) (by decide +kernel)
  goes_of (((h (at0 taskT) 1 taskT rfl).2.2.2.2.2.2.2.2.2.2 placedCell 1 0x0100000000000000 .load ⟨0, 0, 0, 0, 0⟩).2 f he)

/-! Maps -/

/-- A cluster with no thread and its partner, to which it is moved. -/
def quietS : State := { overS with launches := [] }
/-- A map with cell 0 on physical cell 5. -/
def newMap : List (BitVec 16) := 0x8005 :: List.replicate 31 0
theorem meets_mapsChange_quiesce (h : Obligations.ErrorHandling) : Goes (.clusterQuiesce 0 0 0 1 newMap) quietS := by
  refine goes_ex (((h.2 quietS).1 0 0 0 1 newMap ⟨0, 0, 0⟩ ?_ ?_ ?_ ?_ ?_).1 ?_) <;> decide +kernel
theorem meets_mapsChange_pending (h : Obligations.ErrorHandling) : Goes (.clusterQuiesce 0 0 0 1 newMap) (at0 taskT) := by
  refine goes_of (((h.2 (at0 taskT)).1 0 0 0 1 newMap ⟨0, 0, 0⟩ ?_ ?_ ?_ ?_ ?_).2 ?_) <;> decide +kernel
/-- The same with cell 0 capped and cell 20 a spare. -/
def spareS : State :=
  let s := quietS.setPkg 0 { quietS.pkg 0 with spares := [{ placedCell with cell := 20 }] }
  s.setCell placedCell { s.cell placedCell with capped := true }
theorem meets_mapsChange_restart (h : Obligations.ErrorHandling) : Goes (.cellRestart placedCell) spareS :=
  goes_ex ((h.2 spareS).2 placedCell ⟨0, 0, 0⟩
    ((spareS.retarget ⟨0, 0, 0⟩ ⟨0, 0, 0⟩ (spareS.cluster ⟨0, 0, 0⟩).cellMap.toList 0).get (by decide +kernel)) (by decide +kernel)
      (by decide +kernel)
    (by decide +kernel) (by decide +kernel) (Option.some_get _).symm)

/-- A tile of zeros has none of the values that R287 refuses. -/
theorem zero_row (i : Nat) : tileRow 2 false (List.replicate 16384 0) i = List.replicate 128 (decodeElem .e4m3 false 0) := by
  have hb (n k : Nat) : (List.replicate n (0 : Byte)).getD k 0 = 0 := by
    rw [List.getD_eq_getElem?_getD, List.getElem?_replicate]; split <;> rfl
  have h : (fun j : Nat => decodeElem .e4m3 false (((((List.replicate 16384 (0 : Byte)).drop (128 * i)).take 128).getD j 0).toNat)) =
      fun _ => decodeElem .e4m3 false 0 := by
    funext j; rw [List.drop_replicate, List.take_replicate, hb]; rfl
  show (List.range 128).map (fun j : Nat =>
    decodeElem .e4m3 false (((((List.replicate 16384 (0 : Byte)).drop (128 * i)).take 128).getD j 0).toNat)) = _
  rw [h, List.map_const', List.length_range]
theorem zero_tile : tileBad 2 false (List.replicate 16384 0) = false := by
  have h : tileRows 2 false (List.replicate 16384 0) = List.replicate 128 (List.replicate 128 (decodeElem .e4m3 false 0)) := by
    unfold tileRows; rw [funext zero_row, List.map_const', List.length_range]
  unfold tileBad; rw [h]; decide +kernel

/-- The issuer of the placed thread, whose engine commands read the discarded page as zeros. -/
def issuerB : Issuer := (at0 taskT).issuer 1 taskT .fence
def loadL (ph : Nat) : BankLoad :=
  { key := 70, by_ := issuerB, decomp := true, tile := 0x4000, wfmt := 2, handle := 0, base := 0x8000, bank := true, phase := ph }
def loadS (l : BankLoad) : State := discS.setOmu ⟨0, 0, 0⟩ { load := some l }

/-- The bytes of an answer, and whether it has any. -/
theorem read_eq {e : Except EngErr (List Byte)} {bs : List Byte} (h : (match e with
    | .ok x => x == bs
    | .error _ => false) = true) : e = .ok bs := by
  cases e with
  | ok x => exact congrArg _ (eq_of_beq h)
  | error y => cases h
/-- Whether every part of a range reads as zeros. -/
def zeroParts (s : State) (w : Who) (ps : List (Word × Nat)) : Bool := ps.all fun p => match engPart s w p.1 p.2 with
  | .ok x => x == List.replicate p.2 0
  | .error _ => false

theorem zero_fold (s : State) (w : Who) : ∀ (ps : List (Word × Nat)) (acc : List Byte), zeroParts s w ps = true →
    ps.foldlM (fun acc p => (engPart s w p.1 p.2).map fun bs => acc ++ bs) acc = .ok (acc ++ List.replicate (ps.map Prod.snd).sum 0)
  | [], acc, _ => by simp; rfl
  | p :: ps, acc, h => by
    simp only [zeroParts, List.all_cons, Bool.and_eq_true] at h
    have e := read_eq h.1
    rw [List.foldlM_cons, e]
    show List.foldlM _ (acc ++ List.replicate p.2 0) ps = _
    rw [zero_fold s w ps _ h.2, List.append_assoc, List.replicate_append_replicate, List.map_cons, List.sum_cons]

theorem zero_read {s : State} {w : Who} {va : Word} {n : Nat} (h : zeroParts s w (parts va n) = true)
    (hn : ((parts va n).map Prod.snd).sum = n) : engRead s w va n = .ok (List.replicate n 0) := by
  unfold engRead
  rw [zero_fold s w _ [] h, hn]
  rfl

theorem meets_LoadSteps_capture (h : Obligations.LoadSteps) : Goes (.tileCaptureEnd ⟨0, 0, 0⟩) (loadS (loadL 0)) :=
  goes_ex ((h (loadS (loadL 0)) ⟨0, 0, 0⟩ (loadL 0) (by decide +kernel)).1 (List.replicate 16384 0) rfl
    (zero_read (by decide +kernel) (by decide +kernel)) zero_tile)

/-- A load of a stored image from the discarded page, with the given bytes read so far. -/
def imageL (bs : List Byte) (cap : List Byte) : BankLoad := { loadL 1 with decomp := false, image := bs, captured := cap }
theorem meets_LoadSteps_block (h : Obligations.LoadSteps) : Goes (.imageBlockRead ⟨0, 0, 0⟩) (loadS (imageL [] [])) :=
  goes_ex (((h (loadS (imageL [] [])) ⟨0, 0, 0⟩ (imageL [] []) (by decide +kernel)).2.1 (List.replicate 4096 0) rfl (.inl rfl)
    (zero_read (va := 0x8000) (by decide +kernel) (by decide +kernel))).1 (by rw [List.length_replicate]; decide))
/-- The header of an image of an empty tile, and zeros up to the last block. -/
def hdr : List Byte := imageHeader [] 2 false 0
theorem hdr_length : hdr.length = 128 := by decide +kernel
theorem hdr_bytes (m off n : Nat) (h : off + n ≤ 128) : bytesAt (hdr ++ List.replicate m 0) off n = bytesAt hdr off n := by
  unfold bytesAt
  rw [List.drop_append_of_le_length (by rw [hdr_length]; omega),
    List.take_append_of_le_length (by rw [List.length_drop, hdr_length]; omega)]
theorem tail_bytes (m i : Nat) (h : 64 ≤ i) : bytesAt (hdr ++ List.replicate m 0) (2 * i) 2 = 0 := by
  unfold bytesAt
  rw [List.drop_append, List.drop_eq_nil_of_le (by rw [hdr_length]; omega), List.nil_append, List.drop_replicate, List.take_replicate]
  generalize m - (2 * i - hdr.length) = k
  have : min 2 k = 0 ∨ min 2 k = 1 ∨ min 2 k = 2 := by omega
  rcases this with e | e | e <;> rw [e] <;> decide
theorem image_ok (m : Nat) : imageOk (hdr ++ List.replicate m 0) [] 2 false = true := by
  unfold imageOk
  simp only [Bool.and_eq_true, beq_iff_eq, List.all_eq_true, bne_iff_ne]
  refine ⟨⟨⟨⟨⟨⟨?_, ?_⟩, ?_⟩, ?_⟩, ?_⟩, ?_⟩, ?_⟩
  · rw [hdr_bytes _ _ _ (by decide)]; decide +kernel
  · rw [hdr_bytes _ _ _ (by decide)]; decide +kernel
  · rw [hdr_bytes _ _ _ (by decide)]; decide +kernel
  · rw [hdr_bytes _ _ _ (by decide)]; decide +kernel
  · rw [List.drop_append_of_le_length (by rw [hdr_length]; decide), List.take_append_of_le_length (by rw [List.length_drop, hdr_length]; decide)]
    decide +kernel
  · rw [hdr_bytes _ _ _ (by decide)]; decide +kernel
  · intro i _
    rw [show 48896 + 2 * i = 2 * (24448 + i) from by omega, tail_bytes _ _ (by omega)]
    decide

/-- The same load by a handle, with the function's page discarded. -/
def storedL : BankLoad := { imageL (hdr ++ List.replicate 44928 0) [] with handle := 0x05000003 }
def storedS : State :=
  ((imageHandle taskT).store (keyOf (.hbm 0 0) (placedTable + 0x20000)) (placedEntry 0 0x2F)).setOmu ⟨0, 0, 0⟩ { load := some storedL }
theorem stored_image : storedL.image = hdr ++ List.replicate 44928 0 := rfl
theorem stored_length : storedL.image.length = 45056 := by rw [stored_image, List.length_append, hdr_length, List.length_replicate]
theorem stored_read : engRead storedS (storedS.whoFor storedL.by_) (storedL.base + BitVec.ofNat 64 storedL.image.length) 4096 =
    .ok (List.replicate 4096 0) := by
  rw [stored_length]
  exact zero_read (by decide +kernel) (by decide +kernel)
theorem meets_LoadSteps_image (h : Obligations.LoadSteps) : Goes (.imageBlockRead ⟨0, 0, 0⟩) storedS := by
  have ⟨s', _, e, _⟩ := ((h storedS ⟨0, 0, 0⟩ storedL rfl).2.1 (List.replicate 4096 0) rfl (.inr (by decide +kernel)) stored_read).2
    (by rw [List.length_replicate, stored_length]; decide)
    (by rw [stored_image, List.append_assoc, List.replicate_append_replicate]; exact image_ok _)
  exact ⟨s', e⟩
theorem meets_LoadSteps_decomposed (h : Obligations.LoadSteps) : Goes (.decompositionComplete ⟨0, 0, 0⟩) (loadS (loadL 2)) := by
  have ⟨s', _, e, _⟩ := (h (loadS (loadL 2)) ⟨0, 0, 0⟩ (loadL 2) (by decide +kernel)).2.2.1 rfl rfl
  exact ⟨s', e⟩
theorem meets_LoadSteps_completed (h : Obligations.LoadSteps) : Goes (.loadCompletion ⟨0, 0, 0⟩) (loadS (loadL 3)) :=
  goes_ex ((h (loadS (loadL 3)) ⟨0, 0, 0⟩ (loadL 3) (by decide +kernel)).2.2.2 discT rfl rfl rfl)

/-! Requests at homes, register writes -/

/-- A request of an instruction for the scratch word, and a thread with it. -/
def reqOf (i : Instr) (vals : List VReg) : HomeReq :=
  { instr := i, opr := recordOf i memT.ctx 0, va := scr, key := scrLoc.key, home := .cell placedCell, vals := vals, target := 0 }
def reqT (i : Instr) (vals : List VReg) (r : Run) : Thread := { memT with req := some (reqOf i vals), run := r }
def ldfeI : Instr := .ldfe ⟨4, 8, .imm 0⟩

theorem meets_HomeEvents_parks (h : Obligations.HomeEvents) : Goes (.fullEmptyRequest 1) (at0 (reqT ldfeI [] (.resent 0))) :=
  goes_ex2 ((h (at0 (reqT ldfeI [] (.resent 0))) 1 (reqT ldfeI [] (.resent 0)) (reqOf ldfeI []) (.fullEmptyRequest 1) rfl rfl (.inl rfl)).1 0 rfl
    (by decide +kernel) (by decide +kernel) (by decide +kernel))
/-- The word's way is scratch no more when its request is sent again. -/
def shrunkS (t : Thread) : State := let s := at0 t; s.setCell placedCell { s.cell placedCell with nscr := 0 }
theorem meets_HomeEvents_refused (h : Obligations.HomeEvents) : Goes (.fullEmptyRequest 1) (shrunkS (reqT ldfeI [] (.resent 0))) :=
  goes_of ((h (shrunkS (reqT ldfeI [] (.resent 0))) 1 (reqT ldfeI [] (.resent 0)) (reqOf ldfeI []) (.fullEmptyRequest 1) rfl rfl (.inl rfl)).2.1 0
    (((reqOf ldfeI []).answer (shrunkS (reqT ldfeI [] (.resent 0))) (reqT ldfeI [] (.resent 0))).get (by decide +kernel)) rfl
    (Option.some_get _).symm)
/-- A parked request whose word has become full or empty. -/
def parkS (t : Thread) (r : HomeReq) (full : Bool) : State := { (at0 t).setFull scrLoc.key full with parked := [⟨1, r⟩] }
theorem meets_HomeEvents_ldfe (h : Obligations.HomeEvents) :
    Goes (.fullEmptyRequest 1) (parkS (reqT ldfeI [] (.parked .fullEmpty 0)) (reqOf ldfeI []) true) :=
  goes_ex2 (((h (parkS (reqT ldfeI [] (.parked .fullEmpty 0)) (reqOf ldfeI []) true) 1 (reqT ldfeI [] (.parked .fullEmpty 0)) (reqOf ldfeI [])
    (.fullEmptyRequest 1) rfl rfl (.inl rfl)).2.2.1 0 rfl rfl rfl (by decide +kernel)).1 ⟨4, 8, .imm 0⟩ rfl (by decide +kernel))
def gpostI : Instr := .gpost 8 4
theorem meets_HomeEvents_gpost (h : Obligations.HomeEvents) :
    Goes (.mailboxRequest 1) (parkS (reqT gpostI [1, 2, 3, 4] (.parked .fullEmpty 0)) (reqOf gpostI [1, 2, 3, 4]) false) :=
  goes_ex2 (((h (parkS (reqT gpostI [1, 2, 3, 4] (.parked .fullEmpty 0)) (reqOf gpostI [1, 2, 3, 4]) false) 1
    (reqT gpostI [1, 2, 3, 4] (.parked .fullEmpty 0)) (reqOf gpostI [1, 2, 3, 4]) (.mailboxRequest 1) rfl rfl (.inr (.inl rfl))).2.2.1 0 rfl rfl rfl
    (by decide +kernel)).2 8 4 rfl rfl)
theorem meets_HomeEvents_bar (h : Obligations.HomeEvents) :
    Goes (.barrierArrival 1) (parkS (reqT (.bar 8 9) [] (.parked .bar 0)) (reqOf (.bar 8 9) []) false) :=
  goes_ex2 ((h (parkS (reqT (.bar 8 9) [] (.parked .bar 0)) (reqOf (.bar 8 9) []) false) 1 (reqT (.bar 8 9) [] (.parked .bar 0))
    (reqOf (.bar 8 9) []) (.barrierArrival 1) rfl rfl (.inr (.inr rfl))).2.2.2.1 0 8 9 rfl rfl rfl (by decide +kernel) rfl rfl)
/-- A thread whose request its home has ended with an error. -/
def endedT : Thread := { reqT ldfeI [] .ready with homeErr := some 0x10 }
theorem meets_HomeEvents_ended (h : Obligations.HomeEvents) : ∃ s', stepThread (at0 endedT) 1 endedT = .next s' :=
  ⟨_, (h (at0 endedT) 1 endedT (reqOf ldfeI []) (.fullEmptyRequest 1) rfl rfl (.inl rfl)).2.2.2.2.1 0x10 rfl (by decide +kernel) rfl⟩
def lateReq : State := { at0 (reqT ldfeI [] (.refused 0 0)) with clock := 64 }
theorem meets_HomeEvents_resent (h : Obligations.HomeEvents) : Goes (.parkTableResend 1) lateReq :=
  goes_of ((h lateReq 1 (reqT ldfeI [] (.refused 0 0)) (reqOf ldfeI []) (.fullEmptyRequest 1) rfl rfl (.inl rfl)).2.2.2.2.2.1 0 0 rfl
      (by decide +kernel))
theorem meets_HomeEvents_withdrawn (h : Obligations.HomeEvents) : Goes (.withdrawal 1) (at0 (reqT ldfeI [] .withdrawing)) :=
  goes_of ((h (at0 (reqT ldfeI [] .withdrawing)) 1 (reqT ldfeI [] .withdrawing) (reqOf ldfeI []) (.fullEmptyRequest 1) rfl rfl
    (.inl rfl)).2.2.2.2.2.2.1 rfl rfl)
def answered : Thread := { reqT ldfeI [] .withdrawing with answer := some false }
theorem meets_HomeEvents_limit (h : Obligations.HomeEvents) : Goes (.withdrawalAnswer 1) (at0 answered) :=
  goes_of ((h (at0 answered) 1 answered (reqOf ldfeI []) (.fullEmptyRequest 1) rfl rfl (.inl rfl)).2.2.2.2.2.2.2 ⟨4, 8, .imm 0⟩ rfl rfl rfl rfl)

theorem meets_RegisterWriteEvents_tcause (h : Obligations.RegisterWriteEvents) : Goes (.tcauseWrite 1 5) (at0 taskT) :=
  goes_of ((h (at0 taskT) 1 taskT 5 rfl).2.2.1 rfl)
theorem meets_RegisterWriteEvents_wdesc (h : Obligations.RegisterWriteEvents) : Goes (.wdescWrite 1 7 0x510) (at0 taskT) :=
  goes_of ((h (at0 taskT) 1 taskT 0x510 rfl).2.2.2.1 7 (by decide) (by decide))
theorem meets_RegisterWriteEvents_refused (h : Obligations.RegisterWriteEvents) : Goes (.wdescWrite 1 7 0x11) (at0 taskT) :=
  goes_of ((h (at0 taskT) 1 taskT 0x11 rfl).2.2.2.2.1 7 (by decide) (by decide))
theorem meets_RegisterWriteEvents_ways17 (h : Obligations.RegisterWriteEvents) : Goes (.waysWrite 1 17) (at0 taskT) :=
  goes_of ((h (at0 taskT) 1 taskT 17 rfl).2.2.2.2.2.2.1 (.inl (by decide +kernel)) (by decide))
theorem meets_RegisterWriteEvents_ways8 (h : Obligations.RegisterWriteEvents) : Goes (.waysWrite 1 8) (at0 taskT) :=
  goes_of ((h (at0 taskT) 1 taskT 8 rfl).2.2.2.2.2.2.2.1 (.inl (by decide +kernel)) (by decide +kernel) (by decide) rfl)
/-- A thread that waits for a change to nine ways. -/
def waysWait : Thread := { taskT with run := .parked .ways 0, waitOpr := recordOf (.crw .ways 4) taskT.ctx 0 }
def waysS : State := let s := at0 waysWait; s.setCell placedCell { s.cell placedCell with waysPending := some (1, 9) }
theorem meets_RegisterWriteEvents_change (h : Obligations.RegisterWriteEvents) : Goes (.waysChange placedCell) waysS :=
  goes_ex ((h waysS 1 waysWait 0 rfl).2.2.2.2.2.2.2.2 placedCell 9 0 (.crw .ways 4) (by decide +kernel) rfl
    (by decide +kernel) (by decide +kernel) rfl (by
    intro y hy c' va since
    have : y = (1, waysWait) := List.mem_singleton.mp (show y ∈ [(1, waysWait)] from hy)
    subst this
    intro e
    cases e))

/-! The stream of an OMU -/

/-- A pass of one vector in rows of BF16 for bank 0, and its entry. -/
def passR : BitVec 512 := BitVec.ofNat 512
  (0x0001003000000005 + 3 * 2 ^ 39 + 0x4000000000001000 * 2 ^ 64 + 0x6000000000000000 * 2 ^ 128 + 0x4000000000002000 * 2 ^ 384 + 0x017B0000 * 2 ^ 448)
def entryP : PostEntry := ⟨60, .pass passR, issuerB, []⟩
def bankB : Bank := { binding := some ⟨placedLcell, 0x4000000000001000, 0, false⟩ }
def omuS (o : Omu) : State := (at0 taskT).setOmu ⟨0, 0, 0⟩ o

theorem meets_StreamSteps_swap (h : Obligations.StreamSteps) : Goes (.bankSwap ⟨0, 0, 0⟩) (omuS { queue := [⟨60, .swap, issuerB, []⟩], state := 0 })
    :=
  goes_of ((h (omuS { queue := [⟨60, .swap, issuerB, []⟩], state := 0 }) ⟨0, 0, 0⟩).1 ⟨60, .swap, issuerB, []⟩ [] (by decide +kernel) rfl
      (by decide +kernel)
    (by decide +kernel) (by decide +kernel) (by decide +kernel))
theorem meets_StreamSteps_refused (h : Obligations.StreamSteps) : Goes (.passStart ⟨0, 0, 0⟩) (omuS { queue := [entryP], state := 2, b0 := bankB }) :=
  goes_ex (((h (omuS { queue := [entryP], state := 2, b0 := bankB }) ⟨0, 0, 0⟩).2.1 entryP [] passR (by decide +kernel) rfl (by decide +kernel)
    (by decide +kernel) (by decide +kernel)).1 taskT 3 0 0 0 (by decide +kernel) rfl rfl (by intro p hp; cases hp))
/-- The same behind a pass of the thread that awaits its scout. -/
def behindO : Omu := { queue := [entryP], state := 2, b0 := bankB, stream := [.scout 61 true], passes := [entryP.ended passR 0 0 0 0] }
theorem meets_StreamSteps_behind (h : Obligations.StreamSteps) : Goes (.passStart ⟨0, 0, 0⟩) (omuS behindO) :=
  goes_ex (((h (omuS behindO) ⟨0, 0, 0⟩).2.1 entryP [] passR (by decide +kernel) rfl (by decide +kernel)
    (by decide +kernel) (by decide +kernel)).2.1 3 0 0 0 61 true [] (by decide +kernel)
    ⟨_, .head _, rfl⟩ (by decide +kernel))
/-- A probe of the next scout. -/
def entryQ : PostEntry := ⟨60, .probe true none, issuerB, [(issuerB, false)]⟩
theorem meets_StreamSteps_probe (h : Obligations.StreamSteps) :
    Goes (.probeStart ⟨0, 0, 0⟩ 70000) (omuS { queue := [entryQ], state := 0, b0 := bankB }) :=
  goes_ex ((h (omuS { queue := [entryQ], state := 0, b0 := bankB }) ⟨0, 0, 0⟩).2.2.1 entryQ [] true 70000 taskT (by decide +kernel) rfl
    (by decide +kernel) (by decide +kernel) (by decide +kernel) (by decide +kernel) rfl (by decide +kernel))
/-- A scout with nothing live before it. -/
def scoutO : Omu := { state := 1, b0 := bankB, stream := [.scout 60 true], passes := [entryP.ended passR 0 0 0 0] }
theorem meets_StreamSteps_verdict (h : Obligations.StreamSteps) : ∃ s', exec (.scoutVerdict ⟨0, 0, 0⟩ 0xFFFFFFFF) (omuS scoutO) = .next s' ∧
    (s'.omu ⟨0, 0, 0⟩).state = 2 := by
  have ⟨s', e, _, _, _, _, w⟩ := (h (omuS scoutO) ⟨0, 0, 0⟩).2.2.2.1 0xFFFFFFFF [] [] (60, true) (entryP.ended passR 0 0 0 0) (by decide +kernel)
    (by decide +kernel)
  exact ⟨s', e, (w (by decide +kernel)).2.2.1⟩
theorem meets_StreamSteps_audit (h : Obligations.StreamSteps) : Goes (.resolverAudit ⟨0, 0, 0⟩ true) (omuS scoutO) :=
  goes_ex ((h (omuS scoutO) ⟨0, 0, 0⟩).2.2.2.2.1 (by decide +kernel))
theorem meets_StreamSteps_stop (h : Obligations.StreamSteps) :
    Goes (.passStop ⟨0, 0, 0⟩) (omuS { scoutO with stream := [.stop 60 2 5 0x4000] }) :=
  goes_ex ((h (omuS { scoutO with stream := [.stop 60 2 5 0x4000] }) ⟨0, 0, 0⟩).2.2.2.2.2.2 60 2 5 0x4000 [] (by decide +kernel))
/-- The same pass with its output in a class that nothing maps: its stream is a scout and its end. -/
def passX : BitVec 512 := passR + BitVec.ofNat 512 ((0x0100000000000000 + 2 ^ 64 - 0x4000000000002000) * 2 ^ 384) - BitVec.ofNat 512 (2 ^ 448)
def entryX : PostEntry := { entryP with post := .pass passX }
def passO : Omu := { queue := [entryX], state := 0, b0 := bankB, cb := 7 }
def itemsX : List StreamItem :=
  passItems ((omuS passO).setOmu ⟨0, 0, 0⟩ { passO with queue := [] }) ((omuS passO).whoFor issuerB) bankB issuerB.nsm 60 passX
/-- The items that follow a scout. -/
def afterScout : List StreamItem → Option ((Nat × Bool) × List StreamItem)
  | .scout q b :: l => some ((q, b), l)
  | _ => none
theorem afterScout_eq {q : Nat} {b : Bool} : ∀ {l : List StreamItem}, (afterScout l).map Prod.fst = some (q, b) → ∃ m, l = .scout q b :: m
  | .scout _ _ :: l, h => by cases h; exact ⟨l, rfl⟩
  | [], h | .vec _ _ _ _ _ :: _, h | .stop _ _ _ _ :: _, h | .done _ :: _, h => by cases h
theorem meets_StreamSteps_start (h : Obligations.StreamSteps) : Goes (.passStart ⟨0, 0, 0⟩) (omuS passO) :=
  have ⟨l, e⟩ := afterScout_eq (q := 60) (b := false) (l := itemsX) (by decide +kernel)
  goes_ex ((((h (omuS passO) ⟨0, 0, 0⟩).2.1 entryX [] passX (by decide +kernel) rfl (by decide +kernel) (by decide +kernel)
    (by decide +kernel)).2.2.1 60 false l
    (by decide +kernel) (by decide +kernel)) e)
/-- A pass of one row of zeros, and its output in scratch. -/
def rowO : Omu := { queue := [entryP], state := 0, b0 := bankB, cb := 7 }
def zeroRow : List Byte := List.replicate 256 0
theorem meets_StreamSteps_row (h : Obligations.StreamSteps) : Goes (.passStart ⟨0, 0, 0⟩) (omuS rowO) := by
  refine Exists.elim (((h (omuS rowO) ⟨0, 0, 0⟩).2.1 entryP [] passR ?_ rfl ?_ ?_ ?_).2.2.2 zeroRow ?_ rfl ?_ ?_ ?_ ?_ ?_ ?_ (read_eq ?_) ?_ ?_ ?_)
    fun s' ⟨_, e, _⟩ => ⟨s', e⟩ <;> decide +kernel
/-- One vector before the closing scout of its pass. -/
def lastP : Pass := { (entryP.ended passR 0 0 0 0) with written := 0 }
def outO : Omu := { state := 1, b0 := bankB, stream := [.vec 60 0 true 127 [], .scout 60 true], passes := [lastP] }
def outM : List Host.Cell := okOr [] ((engWrite (omuS outO) ((omuS outO).whoFor issuerB) 0x4000000000002000 []).map State.mem)
theorem out_eq (o : Omu) : (engWrite ((omuS outO).setOmu ⟨0, 0, 0⟩ o) ((omuS outO).whoFor issuerB) 0x4000000000002000 []).map State.mem = .ok outM
    := rfl
theorem meets_StreamSteps_output (h : Obligations.StreamSteps) : ∃ s', exec (.scoutVerdict ⟨0, 0, 0⟩ 0) (omuS outO) = .next s' ∧ s'.mem = outM := by
  have ⟨s', e, _, _, _, w, _⟩ := (h (omuS outO) ⟨0, 0, 0⟩).2.2.2.1 0 [.vec 60 0 true 127 []] [] (60, true) lastP (by decide +kernel)
      (by decide +kernel)
  exact ⟨s', e, (w 0 127 true [] taskT outM (by decide +kernel) (by decide +kernel) rfl rfl rfl rfl (fun o => (congrArg (fun a => (engWrite ((omuS
      outO).setOmu ⟨0, 0, 0⟩ o) _ a []).map State.mem)
    (by decide +kernel : Rec.outAddr passR + BitVec.ofNat 64 (320 * 0) = 0x4000000000002000)).trans (out_eq o))).1⟩

/-! The comb -/

/-- A package with line 3 spare and cartridge 0 present, and an OMU without its carrier. -/
def combS : State :=
  let s := pkgS taskT fun p => { p with lines := [(3, .spare)], carts := p.carts.set 0 true }
  s.setOmu ⟨0, 0, 0⟩ { carrLost := true }
theorem meets_CombEvents_spare (h : Obligations.CombEvents) : Goes (.spareLineAssignment ⟨0, 0, 0⟩) combS :=
  goes_ex ((h combS ⟨0, 0, 0⟩).2.2.1 3 .spare (by decide +kernel) (by decide +kernel))
theorem meets_CombEvents_calibrated (h : Obligations.CombEvents) : Goes (.omuRecalibration ⟨0, 0, 0⟩ ⟨13, [], [], true, false⟩) (omuS {}) :=
  goes_ex ((h (omuS {}) ⟨0, 0, 0⟩).2.2.2.1 ⟨13, [], [], true, false⟩ (by decide +kernel) (by decide +kernel))
theorem meets_CombEvents_lost (h : Obligations.CombEvents) : Goes (.pumpCartridgeLost 0 0) combS :=
  goes_ex ((h combS ⟨0, 0, 0⟩).2.2.2.2.1 0 0 (by decide) (by decide +kernel)).1
theorem meets_CombEvents_released (h : Obligations.CombEvents) : Goes (.cartridgeRelease 0 0) combS :=
  goes_ex (((h combS ⟨0, 0, 0⟩).2.2.2.2.1 0 0 (by decide) (by decide +kernel)).2 (by decide +kernel))
theorem meets_CombEvents_inserted (h : Obligations.CombEvents) : Goes (.cartridgeInsertion 0 3) combS :=
  goes_ex ((h combS ⟨0, 0, 0⟩).2.2.2.2.2 0 3 (by decide) (by decide +kernel))

/-! Packets -/

/-- A state with one packet, package 0 having port 5 open to package 1, whose port 7 is open to package 0, and routes to it. -/
def packS (p : Packet) : State :=
  let s := pkgS taskT fun x => { x with routes0 := [(1, 0x0505)], ports := [(5, { state := 6, peer := 1, mate := some 7 })] }
  let s := s.setPkg 1 { s.pkg 1 with ports := [(7, { state := 6, peer := 0, mate := some 5 })] }
  { s with packets := [p] }
def ackP : Packet := { id := 40, at_ := 0, kind := .ack, src := 0, dst := 0, op := 30 }
theorem meets_PacketEvents_here (h : Obligations.PacketEvents) : Goes (.routerPacket 40) (packS ackP) :=
  goes_of (((h (packS ackP) 40 ackP (by decide +kernel)).1 rfl rfl rfl).1 rfl (by decide +kernel))
def awayP : Packet := { ackP with dst := 1 }
theorem meets_PacketEvents_port (h : Obligations.PacketEvents) : Goes (.routerPacket 40) (packS awayP) :=
  goes_ex (((h (packS awayP) 40 awayP (by decide +kernel)).1 rfl rfl rfl).2.1 5 (by decide +kernel) (by decide +kernel))
def lostP : Packet := { ackP with dst := 2 }
theorem meets_PacketEvents_gone (h : Obligations.PacketEvents) : Goes (.routerPacket 40) (packS lostP) :=
  goes_of (((h (packS lostP) 40 lostP (by decide +kernel)).1 rfl rfl rfl).2.2 (by decide +kernel))

/-- An operation of the placed thread, with one answer to come. -/
def fop : Fop := { key := 30, kind := .mst, by_ := issuerB, desc := BitVec.ofNat 512 (0x4200 + 64 * 2 ^ 128), count := 1, waiting := [(0, 0)] }
def fopS (f : Fop) (p : Packet) : State := { packS p with fops := [f] }
def doneP : Packet := { ackP with delivered := true }
theorem meets_PacketEvents_last (h : Obligations.PacketEvents) : Goes (.acknowledgement 40) (fopS fop doneP) :=
  goes_ex ((h (fopS fop doneP) 40 doneP (by decide +kernel)).2.2.2.2.2.2.2 fop taskT rfl rfl rfl (by decide +kernel) rfl rfl rfl rfl (by decide) rfl
      rfl
    rfl rfl (by decide +kernel) rfl)
def castP : Packet := { ackP with kind := .multicast, delivered := true, payload := [1, 2] }
theorem meets_PacketEvents_cast (h : Obligations.PacketEvents) : Goes (.multicastData 40) (fopS fop castP) := by
  have ⟨k, e⟩ := exists_ok (e := (fopS fop castP).mstPlace fop 0 0 2) (by decide +kernel)
  have ⟨s', _, e', _⟩ := (h (fopS fop castP) 40 castP (by decide +kernel)).2.1 fop k rfl rfl (by decide +kernel) e (by decide +kernel)
  exact ⟨s', e'⟩
def blockP : Packet :=
  { ackP with kind := .block, delivered := true, payload := List.replicate 256 1, xid := 9, vf := 1, cons := [⟨1, 1, 30, 0, 1, 0⟩] }
theorem meets_PacketEvents_held (h : Obligations.PacketEvents) : Goes (.shuffleBlock 40) (fopS fop blockP) := by
  have ⟨s', _, e, _⟩ := ((h (fopS fop blockP) 40 blockP (by decide +kernel)).2.2.1 rfl rfl rfl).1 (by decide +kernel) (by decide +kernel)
  exact ⟨s', e⟩
/-- The same with a registration that wants the block. -/
def wantR : Registration :=
  { key := 20, by_ := issuerB, xid := 9, desc := BitVec.ofNat 512 (9 * 2 ^ 16 + 0x4000000000001000 * 2 ^ 64 + 256 * 2 ^ 128)
    table := [BitVec.ofNat 128 (2 ^ 64 + 2 ^ 80)] }
def heldR : Registration := { wantR with table := [BitVec.ofNat 128 (2 ^ 64)] }
def regS (r : Registration) (p : Packet) : State := (fopS fop p).setPkg 0 { (fopS fop p).pkg 0 with regs := [r] }
theorem meets_PacketEvents_wanted (h : Obligations.PacketEvents) : Goes (.shuffleBlock 40) (regS wantR blockP) :=
  have ⟨s1, e⟩ := exists_ok (e := engWrite ((regS wantR blockP).dropPacket 40) { ((regS wantR blockP).dropPacket 40).whoFor wantR.by_ with vf := 1 }
    (wantR.side + BitVec.ofNat 64 (entryOfs (BitVec.ofNat 128 (2 ^ 64 + 2 ^ 80)))) blockP.payload) (by decide +kernel)
  goes_ex (((h (regS wantR blockP) 40 blockP (by decide +kernel)).2.2.1 rfl rfl rfl).2 wantR (BitVec.ofNat 128 (2 ^ 64 + 2 ^ 80)) s1
    (by decide +kernel) (by decide +kernel) (by decide +kernel) rfl (by decide +kernel) (by decide +kernel) e)
def lateP : Packet := { blockP with refused := some 0 }
def lateBlk : State := { packS lateP with clock := 1024 }
theorem meets_PacketEvents_resend (h : Obligations.PacketEvents) : Goes (.shuffleResend 40) lateBlk :=
  goes_ex ((h lateBlk 40 lateP (by decide +kernel)).2.2.2.1 0 rfl (by decide))
/-- A coded packet of blocks 1 and 2 at a package that holds neither. -/
def codedP : Packet := { blockP with kind := .coded, cons := [⟨1, 1, 30, 0, 1, 0⟩, ⟨2, 2, 30, 0, 1, 1⟩] }
theorem meets_PacketEvents_miss (h : Obligations.PacketEvents) : Goes (.codedShuffle 40) (regS wantR codedP) := by
  have ⟨s', _, e, _⟩ := (h (regS wantR codedP) 40 codedP (by decide +kernel)).2.2.2.2.1 wantR ⟨1, 1, 30, 0, 1, 0⟩ rfl rfl (by decide +kernel)
    (by decide +kernel) (by decide +kernel) (by decide +kernel) (by decide +kernel) (by decide +kernel)
  exact ⟨s', e⟩
def askP : Packet := { blockP with kind := .fallback }
theorem meets_PacketEvents_fallback (h : Obligations.PacketEvents) : Goes (.fallbackRequest 40) (regS heldR askP) := by
  have ⟨bs, e⟩ := exists_ok (e := (regS heldR askP).readHeld heldR askP.con.bid) (by decide +kernel)
  have ⟨s', _, e, _⟩ := (h (regS heldR askP) 40 askP (by decide +kernel)).2.2.2.2.2.1 heldR bs rfl rfl (by decide +kernel) e
  exact ⟨s', e⟩
def sumP : Packet := { ackP with kind := .reduction, delivered := true, addr := scrLoc.key, payload := List.replicate 32 0 }
/-- An empty XSUM record of FP32 at the scratch word. -/
def sumS : State := { (packS sumP).store scrLoc.key (leOf 32 (0xA0000 * 2 ^ 192)) with packets := [sumP] }
theorem meets_PacketEvents_sum (h : Obligations.PacketEvents) : Goes (.xsumReduction 40) sumS :=
  goes_ex ((h sumS 40 sumP (by decide +kernel)).2.2.2.2.2.2.1 rfl rfl (by decide +kernel) (by decide +kernel))


/-! Ports -/

/-- Package 0 with port 5 in a given state. -/
def portS (r : PortRegs) : State := pkgS taskT fun p => { p with ports := [(5, r)] }
/-- The same at a clock where every wait has passed. -/
def portL (r : PortRegs) : State := { portS r with clock := 2 ^ 25 }
/-- The same with a topology command of port 5 in the queue, or under way. -/
def topoC (cmd : Nat) : Topo := ⟨50, issuerB, BitVec.ofNat 512 (cmd + 16 * 2 ^ 16 + 2 ^ (96 + 5)), []⟩
def queueS (r : PortRegs) (cmd : Nat) : State := pkgS taskT fun p => { p with ports := [(5, r)], topoQ := [topoC cmd] }
def underS (r : PortRegs) : State := pkgS taskT fun p => { p with ports := [(5, r)], topo := some (topoC 0) }

theorem goes_port {s : State} {i : Instr} {k q : Nat} {f : PortRegs} (h : portAfter s i k q f) : Goes i s := goes_ex h

/-- Port 5 of package 0 and port 7 of package 1, each the other's mate. -/
def mateR : PortRegs := { state := 6, peer := 1, mate := some 7, lanes := 0xF }
def linkS (r o : PortRegs) : State :=
  let s := portS r
  s.setPkg 1 { s.pkg 1 with ports := [(7, { o with state := 6, peer := 0, mate := some 5 })] }
def linkL (r o : PortRegs) : State := { linkS r o with clock := 2 ^ 25 }

theorem meets_LinkEvents_badCrc (h : Obligations.LinkEvents) : Goes (.flitReceive 0 5 0 false false) (portS { state := 6 }) :=
  goes_port ((h (portS { state := 6 }) 0 5).1 0 false false (by decide +kernel) (by decide +kernel) (.inl rfl))
theorem meets_LinkEvents_reserved (h : Obligations.LinkEvents) : Goes (.flitReceive 0 5 1 true true) (portS { state := 6 }) :=
  goes_port ((h (portS { state := 6 }) 0 5).1 1 true true (by decide +kernel) (by decide +kernel) (.inr (by decide +kernel)))
theorem meets_LinkEvents_tag (h : Obligations.LinkEvents) : Goes (.flitReceive 0 5 0 true false) (portS { state := 6, tagFails := 14 }) :=
  goes_port ((h (portS { state := 6, tagFails := 14 }) 0 5).2.1 0 (by decide +kernel) (by decide +kernel) (by decide +kernel))
theorem meets_LinkEvents_tags (h : Obligations.LinkEvents) : Goes (.flitReceive 0 5 0 true false) (portS { state := 6, tagFails := 15 }) :=
  goes_ex2 ((h (portS { state := 6, tagFails := 15 }) 0 5).2.2.1 0 (by decide +kernel) (by decide +kernel) (by decide +kernel))
/-- The flit that is expected next is the last one of a packet in the other end's replay buffer. -/
def flitS : State := linkS mateR { unacked := [(0, .last ackP)] }
theorem meets_LinkEvents_packet (h : Obligations.LinkEvents) :
    ∃ s', exec (.flitReceive 0 5 0 true true) flitS = .next s' ∧ s'.packets.length = 1 := by
  have ⟨s', _, e, _, _, _, _, _, _, _, _, w⟩ := (h flitS 0 5).2.2.2.1 0 0 (by decide +kernel) (by decide +kernel)
    (by unfold ExpectsTxc; decide +kernel)
  exact ⟨s', e, by rw [((w 1 7 (by decide +kernel) (by decide +kernel) (by decide)).1 ackP (by decide +kernel)).2]; decide +kernel⟩
theorem meets_LinkEvents_part (h : Obligations.LinkEvents) : Goes (.flitReceive 0 5 0 true true) (linkS mateR { unacked := [(0, .part)] }) := by
  have ⟨s', _, e, _, _, _, _, _, _, _, _, w⟩ := (h (linkS mateR { unacked := [(0, .part)] }) 0 5).2.2.2.1 0 0 (by decide +kernel) (by decide +kernel)
    (by unfold ExpectsTxc; decide +kernel)
  have _ := (w 1 7 (by decide +kernel) (by decide +kernel) (by decide)).2.1 (by decide +kernel)
  exact ⟨s', e⟩
theorem meets_LinkEvents_replay (h : Obligations.LinkEvents) : Goes (.replayTimeout 0 5) (linkL { mateR with unacked := [(0, .part)] } {}) :=
  goes_ex ((h (linkL { mateR with unacked := [(0, .part)] } {}) 0 5).2.2.2.2.1 (by decide +kernel) (by decide +kernel) (by decide +kernel))
theorem meets_LinkEvents_code (h : Obligations.LinkEvents) : ∃ s', exec (.codeRequest 0 5 true) (linkS mateR {}) = .next s' ∧ s'.agenda.length = 1
    := by
  have ⟨s', y, e, _, _, _, _, c⟩ := (h (linkS mateR {}) 0 5).2.2.2.2.2.1 true (by decide +kernel) (by decide +kernel)
  exact ⟨s', e, by rw [(c.2.2.2 1 7 (by decide +kernel) (by decide +kernel) (by decide +kernel)).1]; decide +kernel⟩
theorem meets_LinkEvents_codeAck (h : Obligations.LinkEvents) : Goes (.codeAcknowledgement 0 5) (portS { state := 6, code := some true }) :=
  goes_port ((h (portS { state := 6, code := some true }) 0 5).2.2.2.2.2.2.1 true (by decide +kernel) (by decide +kernel))
theorem meets_LinkEvents_codeRetry (h : Obligations.LinkEvents) : Goes (.codeRequestRetry 0 5) (portL { state := 6, code := some true }) :=
  goes_ex2 ((h (portL { state := 6, code := some true }) 0 5).2.2.2.2.2.2.2.1 true (by decide +kernel) (by decide +kernel))
theorem meets_LinkEvents_key (h : Obligations.LinkEvents) : Goes (.keyUpdate 0 5) (linkS mateR {}) :=
  goes_port ((h (linkS mateR {}) 0 5).2.2.2.2.2.2.2.2.1 (by decide +kernel) (by decide +kernel) (by decide +kernel)).1
theorem meets_LinkEvents_lane (h : Obligations.LinkEvents) : Goes (.laneLoss 0 5 1) (portS { state := 6, lanes := 0x1F }) :=
  goes_port ((h (portS { state := 6, lanes := 0x1F }) 0 5).2.2.2.2.2.2.2.2.2.1 1 (by decide +kernel) (by decide +kernel) (by decide +kernel))
theorem meets_LinkEvents_down (h : Obligations.LinkEvents) : Goes (.laneLoss 0 5 1) (portS { state := 6, lanes := 0xF }) :=
  goes_ex2 ((h (portS { state := 6, lanes := 0xF }) 0 5).2.2.2.2.2.2.2.2.2.2.1 1 (by decide +kernel) (by decide +kernel) (by decide +kernel))
def waveS : State := pkgS taskT fun p => { p with ports := [(5, { state := 6, lanes := 0xF })], lines := [(9, .wave 4)] }
theorem meets_LinkEvents_rejoin (h : Obligations.LinkEvents) : Goes (.spareLineRejoin 0 5 0x10) waveS :=
  goes_port ((h waveS 0 5).2.2.2.2.2.2.2.2.2.2.2.1 0x10 (by decide +kernel) (by decide +kernel))
theorem meets_LinkEvents_idle (h : Obligations.LinkEvents) : Goes (.powerDown 0 5) (portL { state := 6 }) :=
  goes_port ((h (portL { state := 6 }) 0 5).2.2.2.2.2.2.2.2.2.2.2.2.1 rfl (by decide +kernel) rfl (by decide +kernel))
theorem meets_LinkEvents_wake (h : Obligations.LinkEvents) : Goes (.portWake 0 5) (portS { state := 7 }) :=
  goes_ex2 ((h (portS { state := 7 }) 0 5).2.2.2.2.2.2.2.2.2.2.2.2.2.1 (by decide +kernel))

def drainR : PortRegs := { state := 1, move := some .retrain }
theorem meets_PortSequence_train (h : Obligations.PortSequence) : Goes (.portDrainComplete 0 5) (portS drainR) := by
  refine goes_port (((h (portS drainR) 0 5).1 ?_ ?_ ?_ ?_ ?_).1 ?_) <;> decide +kernel
/-- The next generation but one still counts packets (R416). -/
def oldS : State := pkgS taskT fun p => { p with ports := [(5, drainR)], outstanding := [(p.gen + 1 + 0x8000, 1)] }
theorem meets_PortSequence_closed (h : Obligations.PortSequence) : Goes (.portDrainComplete 0 5) oldS := by
  refine goes_port (((h oldS 0 5).1 ?_ ?_ ?_ ?_ ?_).2 ?_) <;> decide +kernel
theorem meets_PortSequence_switched (h : Obligations.PortSequence) : Goes (.portSwitchComplete 0 5) (underS { state := 3 }) :=
  goes_port ((h (underS { state := 3 }) 0 5).2.1 (topoC 0) (by decide +kernel) (by decide +kernel) (by decide +kernel))
theorem meets_PortSequence_trained (h : Obligations.PortSequence) : Goes (.portTrainComplete 0 5 0xF) (portS { state := 4 }) :=
  goes_port ((h (portS { state := 4 }) 0 5).2.2.1 0xF (by decide +kernel) (by decide))
theorem meets_PortSequence_fewLanes (h : Obligations.PortSequence) : Goes (.portTrainComplete 0 5 7) (portS { state := 4 }) :=
  goes_ex ((h (portS { state := 4 }) 0 5).2.2.2.1 7 (by decide +kernel) (by decide))
theorem meets_PortSequence_timeout (h : Obligations.PortSequence) : Goes (.trainTimeout 0 5) (portL { state := 4 }) :=
  goes_ex ((h (portL { state := 4 }) 0 5).2.2.2.2.1 (by decide +kernel) (by decide +kernel))
theorem meets_PortSequence_auth (h : Obligations.PortSequence) : Goes (.portAuth 0 5 true 511 []) (portS { state := 5 }) :=
  goes_ex2 ((h (portS { state := 5 }) 0 5).2.2.2.2.2.1 511 [] (by decide +kernel) (by decide))
theorem meets_PortSequence_noAuth (h : Obligations.PortSequence) : Goes (.portAuth 0 5 false 511 []) (portS { state := 5 }) :=
  goes_port ((h (portS { state := 5 }) 0 5).2.2.2.2.2.2.1 511 [] (by decide +kernel))
theorem meets_PortSequence_reconf (h : Obligations.PortSequence) : Goes (.reconf 0) (queueS {} 0) :=
  goes_ex (((h (queueS {} 0) 0 5).2.2.2.2.2.2.2 (topoC 0) [] (by decide +kernel) (by decide +kernel)).1 (by decide +kernel))
theorem meets_PortSequence_close (h : Obligations.PortSequence) : Goes (.close 0) (queueS {} 4) :=
  goes_ex (((h (queueS {} 4) 0 5).2.2.2.2.2.2.2 (topoC 4) [] (by decide +kernel) (by decide +kernel)).2.1 (by decide +kernel))
theorem meets_PortSequence_loadrt (h : Obligations.PortSequence) : Goes (.loadrt 0) (queueS {} 1) :=
  goes_ex (((h (queueS {} 1) 0 5).2.2.2.2.2.2.2 (topoC 1) [] (by decide +kernel) (by decide +kernel)).2.2.1 (by decide +kernel))
theorem meets_PortSequence_code (h : Obligations.PortSequence) : Goes (.code 0) (queueS { state := 6 } 2) :=
  goes_ex (((h (queueS { state := 6 } 2) 0 5).2.2.2.2.2.2.2 (topoC 2) [] (by decide +kernel) (by decide +kernel)).2.2.2.1 (by decide +kernel))
theorem meets_PortSequence_power (h : Obligations.PortSequence) : Goes (.power 0) (queueS {} 3) :=
  goes_ex (((h (queueS {} 3) 0 5).2.2.2.2.2.2.2 (topoC 3) [] (by decide +kernel) (by decide +kernel)).2.2.2.2 (by decide +kernel))

/-! Packages -/

def image : ConfigImage := ⟨true, 1, [], [], [], [], [], [], [], [], []⟩
def world : BootWorld := ⟨[true, true, true, true], [true, true, true, true], [], true, [], [], [], [], true⟩
/-- A powered package with an image in slot A, and the place where its start-up ends. The verification of signatures is opaque (log 14). -/
def flashS : State := pkgS taskT fun p => { p with flash := { slotA := some image } }
theorem meets_PackageEvents_bootEmpty (h : Obligations.PackageEvents) : Goes (.powerOnBoot 0 world) (at0 taskT) :=
  goes_ex ((h (at0 taskT) 0).2.1 world 1 (by decide +kernel) rfl)
theorem meets_PackageEvents_boot (h : Obligations.PackageEvents) (v : Config.xmssValid [] [] = true) : Goes (.powerOnBoot 0 world) flashS := by
  have sel : (flashS.pkg 0).flash.select = .ok (false, image) := by
    show (match [(false, image)].find? fun x => (flashS.pkg 0).flash.accepts x.2 with
      | some x => Except.ok x
      | none => .error 2) = _
    rw [List.find?_cons_of_pos (by show (Config.xmssValid [] [] && _) = true; rw [v]; rfl)]
  have go : ∃ s1, flashS.stages 0 (false, image) world = .ok s1 := by
    unfold State.stages State.startFirmware
    rw [show Config.xmssValid world.firmware world.firmwareSig = true from v]
    exact ⟨_, rfl⟩
  have ⟨s1, e⟩ := go
  exact goes_of ((h flashS 0).1 world (false, image) s1 (by decide +kernel) sel e).1
def upS : State := pkgS taskT fun p => { p with boot := 0x00FF, flash := { slotA := some image } }
theorem meets_PackageEvents_svn (h : Obligations.PackageEvents) : Goes (.antiRollbackAdvance 0) upS :=
  goes_of ((h upS 0).2.2.1 image (by decide +kernel) (by decide +kernel))
theorem meets_PackageEvents_extend (h : Obligations.PackageEvents) : Goes (.measurementExtend 0 3 []) upS :=
  goes_ex ((h upS 0).2.2.2.1 3 [] (by decide +kernel) (by decide))
theorem meets_PackageEvents_noExtend (h : Obligations.PackageEvents) : Goes (.measurementExtend 0 2 []) upS :=
  goes_of ((h upS 0).2.2.2.2.1 2 [] (by decide))
theorem meets_PackageEvents_cap (h : Obligations.PackageEvents) : Goes (.powerCapSet 0 800) upS :=
  goes_of ((h upS 0).2.2.2.2.2.2.2.2.1 800 (by decide) (by decide))
theorem meets_PackageEvents_noCap (h : Obligations.PackageEvents) : Goes (.powerCapSet 0 2001) upS :=
  goes_of ((h upS 0).2.2.2.2.2.2.2.2.2.1 2001 (by decide))

/-- A state after many dclk. -/
def windowS : State := { at0 taskT with clock := 2 ^ 32 }
theorem meets_errorEvents_window (h : Obligations.ErrorHandling) : Goes (.faultWindowBoundary 0 0) windowS :=
  goes_ex ((h.1 windowS 0).1 0 (by decide +kernel))
theorem meets_errorEvents_same (h : Obligations.ErrorHandling) : Goes (.faultWindowBoundary 0 0) (at0 taskT) :=
  goes_of ((h.1 (at0 taskT) 0).2.1 0 (by decide +kernel))
theorem meets_errorEvents_first (h : Obligations.ErrorHandling) : Goes (.correctedError 0 2 7) (at0 taskT) :=
  goes_ex ((h.1 (at0 taskT) 0).2.2.2.1 2 7 (rowHash 7 0x9E3779B1) (by decide +kernel) (by decide +kernel) (by decide +kernel))
/-- The first error of a new window meets an empty filter. -/
theorem meets_errorEvents_newWindow (h : Obligations.ErrorHandling) : Goes (.correctedError 0 2 7) windowS :=
  goes_ex ((h.1 windowS 0).2.2.1 2 7 (by decide +kernel))
def filterS : State := pkgS taskT fun p => { p with hbms := [(2, { filter := rowHashes 7 })] }
theorem meets_errorEvents_again (h : Obligations.ErrorHandling) : Goes (.correctedError 0 2 7) filterS :=
  goes_ex ((h.1 filterS 0).2.2.2.2.1 2 7 (by decide +kernel) (by decide +kernel))
theorem meets_errorEvents_channel (h : Obligations.ErrorHandling) : Goes (.pseudoChannelRetirement 0 2 191) quietS :=
  goes_ex ((h.1 quietS 0).2.2.2.2.2.1 2 191 (by decide) (by decide +kernel))
theorem meets_errorEvents_busy (h : Obligations.ErrorHandling) : Goes (.pseudoChannelRetirement 0 2 191) (at0 taskT) :=
  goes_of ((h.1 (at0 taskT) 0).2.2.2.2.2.2 2 191 (by decide +kernel))

/-! Encoding and steps -/

theorem meets_DecodeEncode (h : Obligations.DecodeEncode) :
    decode (encode (.acas ⟨15, 15, .reg 15, 15, ⟨false, .rel, .cl⟩, 0⟩)) = .ok (.acas ⟨15, 15, .reg 15, 15, ⟨false, .rel, .cl⟩, 0⟩) :=
  h _ (by decide) (by decide)

/-- A state in which thread 1 issues next, and the word where it fetches. -/
def issueS (s : State) (w : Nat) : State := { s with mem := (State.reset.withFetchWord 32 w).mem, pick := some 1, cur := none }
theorem instr_eq {e : Except DecodeError Instr} {i : Instr} (h : (match e with
    | .ok j => decide (j = i)
    | .error _ => false) = true) : e = .ok i := by
  cases e with
  | ok j => exact congrArg _ (of_decide_eq_true h)
  | error x => cases h
/-- The bytes of a word where a thread fetches, and the state after. -/
def wordAt (s : State) (t : Thread) : List Byte × State :=
  okOr ([], s) (fetchBytes s.passTime.choose.2 t t.ctx.pc 4)
/-- The same for the bytes after it: none. -/
def noneAt (s : State) (t : Thread) : List Byte × State :=
  okOr ([], s) (fetchBytes (wordAt s t).2 t (t.ctx.pc + 4) 0)

theorem word_ok {s : State} {t : Thread} (h : isOk (fetchBytes s.passTime.choose.2 t t.ctx.pc 4) = true) :
    fetchBytes s.passTime.choose.2 t t.ctx.pc 4 = .ok ((wordAt s t).1, (wordAt s t).2) := ok_eq ([], s) h
theorem none_ok {s : State} {t : Thread} (h : isOk (fetchBytes (wordAt s t).2 t (t.ctx.pc + 4) 0) = true) :
    fetchBytes (wordAt s t).2 t (t.ctx.pc + 4) 0 = .ok ((noneAt s t).1, (noneAt s t).2) := ok_eq ([], s) h

/-- A thread alone runs the fence where its pc points. -/
def aloneS : State := issueS (at0 taskT) 0x80
theorem meets_StepRunsDecoded_alone (h : Obligations.StepRunsDecoded) :
    step aloneS = exec .fence { (noneAt aloneS taskT).2 with cur := some 1 } :=
  (((h aloneS aloneS.passTime.choose.2).1 1 taskT rfl rfl (by decide +kernel) rfl rfl (by decide)).2 (wordAt aloneS taskT).1 (noneAt aloneS taskT).1
    (wordAt aloneS taskT).2 (noneAt aloneS taskT).2 .fence rfl (word_ok (by decide +kernel)) (none_ok (by decide +kernel))
    (instr_eq (by decide +kernel))).1 (by intro ms e; cases e)
/-- A leader hands the fence to its follower, and executes it. -/
def fenceS : State := issueS gangS 0x80
theorem meets_StepRunsDecoded_gang (h : Obligations.StepRunsDecoded) : ∃ s4, step fenceS = exec .fence s4 :=
  let ⟨_, e, _⟩ := (((h fenceS fenceS.passTime.choose.2).1 1 leadT rfl rfl (by decide +kernel) rfl rfl (by decide)).2 (wordAt fenceS leadT).1
    (noneAt fenceS leadT).1 (wordAt fenceS leadT).2 (noneAt fenceS leadT).2 .fence rfl (word_ok (by decide +kernel)) (none_ok (by decide +kernel))
    (instr_eq (by decide +kernel))).2 [5] rfl
  ⟨_, e⟩
/-- A follower that has been handed it. -/
def handedT : Thread := { followerT with todo := some .fence }
def handedS : State := { at0 handedT with pick := some 1, cur := none }
theorem meets_StepRunsDecoded_handed (h : Obligations.StepRunsDecoded) :
    step handedS = exec .fence { handedS.passTime.choose.2 with cur := some 1 } :=
  ((h handedS handedS.passTime.choose.2).1 1 handedT rfl rfl (by decide +kernel) rfl rfl (by decide)).1 .fence rfl
def eventT : State := { at0 taskT with cur := none, pick := none, agenda := [.bankSwap ⟨0, 0, 0⟩] }
theorem meets_StepRunsDecoded_event (h : Obligations.StepRunsDecoded) :
    step eventT = exec (.bankSwap ⟨0, 0, 0⟩) { eventT.passTime.choose.2 with cur := none } :=
  (h eventT eventT.passTime.choose.2).2 _ rfl
theorem meets_StepKeepsMemory (h : Obligations.StepKeepsMemory) : ∃ s', step (State.reset.withFetchWord 32 0x80) = .next s' ∧ Memory.wf s'.mem =
    true := by
  have g : ∃ s', step (State.reset.withFetchWord 32 0x80) = .next s' := ⟨_, rfl⟩
  have ⟨s', e⟩ := g
  exact ⟨s', e, h _ _ (by decide +kernel) e⟩

end Sys2Proof.Tests
end

section
/-! SUPPORT. Memory stays in canonical form: every operation of the machine, and so every step, keeps the keys of the memory strictly rising
and lists no zero byte. A lemma `State.Canon.f` speaks of the state that `State.f` gives, `State.Canon.of_f` of one that `f` gives, and
`Yields.of_f` of an answer that may be an error. -/
namespace Sys2Proof.Machine
open Sys2Proof

-- A long chain of small lemmas: elaborated one after the other, it needs no thread for each lemma that waits for an earlier one.
set_option Elab.async false

variable {s : State}

/-! ### What an answer carries -/

/-- A state whose memory is in canonical form. -/
def State.Canon (s : State) : Prop := Memory.wf s.mem = true

/-- The error of an answer meets `p`, its value meets `q`. -/
def Yields {ε α : Type} (p : ε → Prop) (q : α → Prop) : Except ε α → Prop
  | .error e => p e
  | .ok a => q a

namespace Yields
variable {ε α β : Type} {p : ε → Prop} {q : α → Prop} {q' : β → Prop} {r : Except ε α}

theorem ok {a : α} (h : q a) : Yields p q (.ok a) := h

theorem error {e : ε} (h : p e) : Yields p q (.error e) := h

theorem of_ok {a : α} (h : Yields p q r) (e : r = .ok a) : q a := by
  subst e; exact h

theorem of_error {a : ε} (h : Yields p q r) (e : r = .error a) : p a := by
  subst e; exact h

theorem trivial : Yields (fun _ => True) (fun _ => True) r := by
  cases r <;> exact True.intro

theorem bind {f : α → Except ε β} (h : Yields p q r) (hf : ∀ a, q a → Yields p q' (f a)) : Yields p q' (r.bind f) := by
  cases r with
  | error e => exact h
  | ok a => exact hf a h

theorem map {f : α → β} (h : Yields p q r) (hf : ∀ a, q a → q' (f a)) : Yields p q' (r.map f) := by
  cases r with
  | error e => exact h
  | ok a => exact hf a h

/-- A fold whose every step keeps what it has built. -/
theorem foldlM {f : β → α → Except ε β} (hf : ∀ b x, q' b → Yields p q' (f b x)) :
    ∀ (l : List α) {b : β}, q' b → Yields p q' (l.foldlM f b)
  | [], _, h => h
  | x :: l, _, h => bind (hf _ x h) fun _ h => foldlM hf l h

end Yields

/-- A state with the same memory. -/
theorem State.Canon.of_mem {t : State} (h : s.Canon) (e : t.mem = s.mem := by rfl) : t.Canon := by
  rw [State.Canon, e]; exact h

/-- A fold of an operation that keeps the form. -/
theorem State.Canon.foldl {α : Type} {f : State → α → State} (hf : ∀ {s x}, s.Canon → (f s x).Canon) :
    ∀ (l : List α) {s : State}, s.Canon → (l.foldl f s).Canon
  | [], _, h => h
  | _ :: l, _, h => foldl hf l (hf h)

theorem State.Canon.ite {c : Prop} [Decidable c] {t : State} (h : s.Canon) (h' : t.Canon) : (if c then s else t).Canon := by
  split
  · exact h
  · exact h'

/-! ### Memory, translation and cache ways -/

theorem State.Canon.unyield {k} (h : s.Canon) : (s.unyield k).Canon := .of_mem h

theorem State.Canon.setThread {k t} (h : s.Canon) : (s.setThread k t).Canon := .of_mem h

theorem State.Canon.setCell {c x} (h : s.Canon) : (s.setCell c x).Canon := .of_mem h

theorem State.Canon.setLaunch {k l} (h : s.Canon) : (s.setLaunch k l).Canon := .of_mem h

theorem State.Canon.fresh (h : s.Canon) : s.fresh.2.Canon := .of_mem h

theorem State.Canon.setVcell {c x} (h : s.Canon) : (s.setVcell c x).Canon := .of_mem h

theorem State.Canon.store {k bs} (h : s.Canon) : (s.store k bs).Canon := State.store_wf h k bs

theorem State.Canon.clearRange {k n} (h : s.Canon) : (s.clearRange k n).Canon := State.clearRange_wf h k n

theorem State.Canon.writeBack {l} (h : s.Canon) : (s.writeBack l).Canon := State.writeBack_wf h l

theorem State.Canon.modThread {k f} (h : s.Canon) : (s.modThread k f).Canon := by
  unfold State.modThread
  split
  · exact .of_mem h
  · exact h

theorem State.Canon.fillTlb {c f l} (h : s.Canon) : (s.fillTlb c f l).Canon := .of_mem h (State.fillTlb_mem s c f l)

theorem State.Canon.cleanWhere {p} (h : s.Canon) : (s.cleanWhere p).Canon := .of_mem (.foldl .writeBack _ h)

theorem State.Canon.flushWhere {p} (h : s.Canon) : (s.flushWhere p).Canon := .of_mem (.foldl .writeBack _ h)

theorem State.Canon.flushAll {c} (h : s.Canon) : (s.flushAll c).Canon := .flushWhere h

theorem State.Canon.cleanAll {c} (h : s.Canon) : (s.cleanAll c).Canon := .cleanWhere h

theorem State.Canon.flushRange {c key n drop} (h : s.Canon) : (s.flushRange c key n drop).Canon := by
  unfold State.flushRange
  dsimp only
  split
  · exact .flushWhere h
  · exact .cleanWhere h

theorem State.Canon.placeLine {pin : Nat} : ∀ (n : Nat) {s : State} {c l}, s.Canon → (s.placeLine pin n c l).Canon
  | 0, _, _, _, h => .writeBack h
  | n + 1, s, c, l, h => by
    rw [State.placeLine]
    dsimp only
    split
    · exact .of_mem h
    · split
      · exact .writeBack h
      · split
        · exact placeLine n (.flushWhere (.of_mem h))
        · exact .writeBack h

theorem State.Canon.fetchLine {c key} (h : s.Canon) : (s.fetchLine c key).2.Canon := by
  unfold State.fetchLine
  dsimp only
  split
  · exact h
  · split
    · exact .placeLine _ h
    · split
      · exact .placeLine _ h
      · exact .placeLine _ h

theorem State.Canon.readCached {c key n} (h : s.Canon) : (s.readCached c key n).2.Canon := .fetchLine h

theorem State.Canon.writeCached {c key bs} (h : s.Canon) : (s.writeCached c key bs).Canon := .of_mem (.fetchLine h)

theorem State.Canon.storeFrom {c key bs} (h : s.Canon) : (s.storeFrom c key bs).Canon := .of_mem (.store (.cleanWhere h))

theorem Yields.of_readAt {w loc n b} (h : s.Canon) : Yields (fun _ => True) (fun r => r.2.Canon) (readAt s w loc n b) := by
  unfold Machine.readAt
  split
  · exact .ok h
  · split
    · exact True.intro
    · split
      · exact True.intro
      · split
        · exact .ok (.readCached h)
        · exact .ok h

theorem Yields.of_readOwn {w loc n b} (h : s.Canon) : Yields (fun _ => True) (fun r => r.2.Canon) (readOwn s w loc n b) := by
  unfold Machine.readOwn
  split
  · exact .of_readAt (.flushRange h)
  · exact .of_readAt h

theorem Yields.of_writeHome {w loc bs} (h : s.Canon) : Yields (fun _ => True) State.Canon (writeHome s w loc bs) := by
  unfold writeHome
  split
  · exact True.intro
  · exact .ok (.store h)

theorem Yields.of_writeAt {w loc bs b} (h : s.Canon) : Yields (fun _ => True) State.Canon (writeAt s w loc bs b) := by
  unfold writeAt
  split
  · exact True.intro
  · split
    · exact .ok (.writeCached h)
    · exact .ok (.storeFrom h)

theorem State.Canon.of_releaseAt {c sc} (h : s.Canon) : (releaseAt s c sc).Canon := by
  unfold releaseAt
  split
  · exact .cleanAll h
  · exact h

theorem State.Canon.of_acquireAt {c sc} (h : s.Canon) : (acquireAt s c sc).Canon := by
  unfold acquireAt
  split
  · exact .flushAll h
  · exact h

/-! ### Accesses of engines, the event log, completion records -/

theorem Yields.of_cellRead {w va n} (h : s.Canon) : Yields (fun _ => True) (fun r => r.2.Canon) (cellRead s w va n) := by
  unfold Machine.cellRead
  refine .foldlM (q' := fun r : List Byte × State => r.2.Canon) (fun b x h => ?_) _ h
  refine .bind (q := fun _ => True) .trivial fun loc _ => ?_
  exact .bind (q := fun r : List Byte × State => r.2.Canon) (.of_readOwn h) fun r h => .ok h

theorem Yields.of_storeParts {put : State → Loc → List Byte → Except Nat State} {w : Who}
    (hp : ∀ {s loc bs}, s.Canon → Yields (fun _ => True) State.Canon (put s loc bs)) (ps : List (Word × Nat)) {va bs} (h : s.Canon) :
    Yields (fun e => e.2.Canon) State.Canon (storeParts put w s va bs ps) := by
  induction ps generalizing s va bs with
  | nil => exact .ok h
  | cons p ps ih =>
    rw [storeParts]
    split
    · exact .error h
    · split
      · exact .error h
      · exact ih ((hp h).of_ok ‹_›)

theorem Yields.of_engineStore {w va bs} (h : s.Canon) : Yields (fun e => e.2.Canon) State.Canon (engineStore s w va bs) :=
  .of_storeParts .of_writeHome _ h

theorem Yields.of_cellStore {w va bs} (h : s.Canon) : Yields (fun e => e.2.Canon) State.Canon (cellStore s w va bs) :=
  .of_storeParts .of_writeAt _ h

theorem State.Canon.logEvent {p d kind detail loc n} (h : s.Canon) : (s.logEvent p d kind detail loc n).Canon := by
  unfold State.logEvent
  dsimp only
  split
  · exact h
  · split
    · exact .of_mem h
    · split
      · exact .of_mem ((Yields.of_engineStore h).of_ok ‹_›)
      · exact .of_mem ((Yields.of_engineStore h).of_error ‹_›)

theorem State.Canon.spillOver {c} (h : s.Canon) : (s.spillOver c).Canon := by
  unfold State.spillOver
  dsimp only
  split
  · exact h
  · exact .of_mem h

theorem State.Canon.spillAll {c} (h : s.Canon) : (s.spillAll c).Canon := .foldl .spillOver _ h

theorem State.Canon.modRecord {k f} (h : s.Canon) : (s.modRecord k f).Canon := .of_mem (.modThread h)

theorem State.Canon.unpark {p} (h : s.Canon) : (s.unpark p).Canon := .foldl .modRecord _ (.of_mem h)

theorem State.Canon.answerParked {p code} (h : s.Canon) : (s.answerParked p code).Canon := .foldl .modRecord _ (.of_mem h)

theorem State.Canon.capCell {c cause} (h : s.Canon) : (s.capCell c cause).Canon := by
  unfold State.capCell
  split
  · exact h
  · exact .logEvent (.answerParked (.foldl .spillOver _ (.of_mem h)))

theorem State.Canon.inWindow {p d} (h : s.Canon) : (s.inWindow p d).Canon := by
  unfold State.inWindow
  dsimp only
  split
  · exact h
  · exact .of_mem h

theorem State.Canon.countEvent {u detail} (h : s.Canon) : (s.countEvent u detail).Canon := by
  have hlog {n x loc k kind p d} : (State.logEvent { s.inWindow p d with counts := putAt k n (s.inWindow p d).counts } p d kind detail loc x).Canon :=
    .logEvent (.of_mem (.inWindow h))
  unfold State.countEvent
  dsimp only
  split
  · split
    · exact .capCell hlog
    · exact hlog
  · split
    · exact .capCell hlog
    · exact hlog
  · exact hlog

theorem State.Canon.sramError {c pc} (h : s.Canon) : (s.sramError c pc).Canon := .capCell (.countEvent h)

theorem State.Canon.storedFar {key n pc} (h : s.Canon) : (s.storedFar key n pc).Canon := by
  unfold State.storedFar
  split
  · exact h
  · split
    · exact .countEvent h
    · exact .countEvent h
    · exact h

theorem State.Canon.storedError {c key n pc} (h : s.Canon) : (s.storedError c key n pc).Canon := by
  unfold State.storedError
  split
  · split
    · exact .sramError h
    · exact h
  · exact .storedFar h

theorem State.Canon.writeRecord {p q i ph r st rs d n} (h : s.Canon) : (s.writeRecord p q i ph r st rs d n).Canon := by
  unfold State.writeRecord
  dsimp only
  split
  · have hok := (Yields.of_engineStore h).of_ok ‹_›
    split
    · exact .of_mem hok
    · exact hok
  · exact .logEvent (.of_mem ((Yields.of_engineStore h).of_error ‹_›))

theorem State.Canon.recordNow {p q r st} (h : s.Canon) : (s.recordNow p q r st).Canon := by
  unfold State.recordNow
  dsimp only
  split
  · exact h
  · exact .writeRecord (.of_mem h)

/-! ### Control space -/

theorem State.Canon.flushQueue {p q} (h : s.Canon) : (s.flushQueue p q).Canon := by
  unfold State.flushQueue
  refine .foldl .recordNow _ ?_
  split
  · exact .writeRecord (.of_mem h)
  · exact .of_mem h

theorem State.Canon.writeQctl {p q v} (h : s.Canon) : (s.writeQctl p q v).Canon := by
  unfold State.writeQctl
  dsimp only
  split
  · exact .of_mem h
  · split
    · exact .of_mem (.flushQueue h)
    · exact .of_mem h

theorem State.Canon.writeClusterMap {c d v} (h : s.Canon) : (s.writeClusterMap c d v).Canon := by
  unfold State.writeClusterMap
  dsimp only
  split
  · exact h
  · exact .of_mem h

theorem State.Canon.ctlWrite {p nurse v} (h : s.Canon) (r : CtlReg) : (s.ctlWrite p nurse v r).Canon := by
  cases r with
  | qctl q => exact .writeQctl h
  | clusterMap d =>
    cases nurse with
    | none => exact h
    | some c => exact .writeClusterMap h
  | cellMap d c j =>
    simp only [State.ctlWrite]
    split
    · exact .of_mem h
    · exact h
  | ccbase =>
    simp only [State.ctlWrite]
    split
    · exact .of_mem h
    · exact h
  | qstat | routeBank => exact h
  | crbase | crctl | root | htbase | htsize | ptbase | ptsize | portstat | elbase | elctl => exact .of_mem h

/-! ### Generations and partitions -/

theorem State.Canon.owe {b f} (h : s.Canon) : (s.owe b f).Canon := by
  unfold State.owe
  split
  · exact .modThread h
  · exact .of_mem h

theorem State.Canon.deliverEntry {q b e c va} (h : s.Canon) : (s.deliverEntry q b e c va).Canon := .owe h

theorem State.Canon.endTopo {k c n} (h : s.Canon) : (s.endTopo k c n).Canon := .deliverEntry (.of_mem h)

theorem State.Canon.settleTopo {k} (h : s.Canon) : (s.settleTopo k).Canon := by
  unfold State.settleTopo
  split
  · exact h
  · dsimp only
    split
    · split
      · exact .endTopo h
      · exact h
    · split
      · exact .endTopo h
      · exact h

theorem State.Canon.leaveClosed {k} (h : s.Canon) : (s.leaveClosed k).Canon := .settleTopo (.of_mem h)

theorem State.Canon.advance {k : Nat} : ∀ (n : Nat) {s : State}, s.Canon → (s.advance k n).Canon
  | 0, _, h => h
  | n + 1, s, h => by
    rw [State.advance]
    split
    · exact .leaveClosed h
    · split
      · exact advance n (.of_mem h)
      · exact h

theorem State.Canon.tryAdvance {k} (h : s.Canon) : (s.tryAdvance k).Canon := .advance _ h

theorem State.Canon.dueAdvance {k} (h : s.Canon) : (s.dueAdvance k).Canon := .tryAdvance (.of_mem h)

theorem State.Canon.ackGen {k g} (h : s.Canon) : (s.ackGen k g).Canon := .tryAdvance (.of_mem h)

theorem State.Canon.noteGen {k g} (h : s.Canon) : (s.noteGen k g).Canon := by
  unfold State.noteGen
  split
  · exact h
  · exact .modThread h

theorem State.Canon.holdGen {g} (h : s.Canon) : (s.holdGen g).Canon := by
  unfold State.holdGen
  split
  · exact h
  · exact .of_mem h

/-! ### Stops, and what an instruction's own part answers -/

/-- A part that may stop with a fault: the state it stops in is in form, its value meets `q`. -/
abbrev Stops {α : Type} (q : α → Prop) (r : Except (State × Flt) α) : Prop := Yields (fun e => e.1.Canon) q r

/-- The state that an optional answer holds is in form. -/
def Option.Canon (o : Option State) : Prop := ∀ s ∈ o, s.Canon

theorem Option.Canon.none : Option.Canon none := nofun

theorem Option.Canon.some (h : s.Canon) : Option.Canon (some s) := by
  rintro _ ⟨⟩; exact h

theorem State.Canon.getD {o : Option State} (h : s.Canon) (ho : Option.Canon o) : (o.getD s).Canon := by
  cases o with
  | none => exact h
  | some t => exact ho t rfl

/-- Every state that an answer of an instruction's own part holds is in form. -/
def Res.Canon : Res → Prop
  | .next s => s.Canon
  | .jump s _ => s.Canon
  | .stay s => s.Canon
  | .trap s _ => s.Canon
  | .park s _ => s.Canon

namespace Res.Canon
variable {r : Res}

theorem next (h : s.Canon) : (Res.next s).Canon := h
theorem jump {pc} (h : s.Canon) : (Res.jump s pc).Canon := h
theorem stay (h : s.Canon) : (Res.stay s).Canon := h
theorem trap {f} (h : s.Canon) : (Res.trap s f).Canon := h
theorem park {w} (h : s.Canon) : (Res.park s w).Canon := h

theorem of_next (h : r.Canon) (e : r = .next s) : s.Canon := by subst e; exact h
theorem of_jump {pc} (h : r.Canon) (e : r = .jump s pc) : s.Canon := by subst e; exact h
theorem of_stay (h : r.Canon) (e : r = .stay s) : s.Canon := by subst e; exact h
theorem of_trap {f} (h : r.Canon) (e : r = .trap s f) : s.Canon := by subst e; exact h
theorem of_park {w} (h : r.Canon) (e : r = .park s w) : s.Canon := by subst e; exact h

theorem ite {c : Prop} [Decidable c] {r' : Res} (h : r.Canon) (h' : r'.Canon) : (if c then r else r').Canon := by
  split
  · exact h
  · exact h'

theorem orTrap {α : Type} {q : α → Prop} {x : Except (State × Flt) α} {f : α → Res} (hx : Stops q x)
    (hf : ∀ a, q a → (f a).Canon) : (orTrap x f).Canon := by
  cases x with
  | error e => exact hx
  | ok a => exact hf a hx

theorem orStay {b : Bool} (h : s.Canon) (hr : r.Canon) : (orStay b s r).Canon := by
  unfold Machine.orStay
  split
  · exact h
  · exact hr

end Res.Canon

/-- A part of an instruction that keeps the form. -/
structure Body.Canon (b : Body) : Prop where
  keeps : ∀ {s k t}, s.Canon → (b s k t).Canon

/-! ### Relaxed stores, loads and stores of a thread -/

theorem State.Canon.setReg {k d v} (h : s.Canon) : (s.setReg k d v).Canon := .modThread h

theorem State.Canon.of_elemStore {b d i x} (h : s.Canon) : (elemStore s b d i x).Canon := by
  unfold elemStore
  dsimp only
  split
  · exact .store h
  · exact .store h

theorem Yields.of_perform {x : RxStore} {t} (h : s.Canon) : Yields (fun _ => True) State.Canon (x.perform s t) := by
  unfold RxStore.perform
  split
  · exact .of_writeAt h
  · exact .ok (.of_elemStore h)
  · split
    · exact .ok (.ctlWrite h _)
    · exact .ok h

theorem State.Canon.ackStore {k x} (h : s.Canon) : (s.ackStore k x).Canon := by
  unfold State.ackStore
  split
  · exact h
  · dsimp only
    split
    · split
      · exact (Yields.of_perform h).of_ok ‹_›
      · exact .of_mem h
    · refine .ackGen ?_
      split
      · exact (Yields.of_perform h).of_ok ‹_›
      · exact .of_mem h

theorem State.Canon.drainRx {k} (h : s.Canon) : (s.drainRx k).Canon := by
  unfold State.drainRx
  split
  · exact h
  · exact .modThread (.foldl .ackStore _ h)

theorem Yields.of_waitRx {k} (h : s.Canon) : Stops State.Canon (s.waitRx k) := by
  unfold State.waitRx
  dsimp only
  split
  · exact .error (.modThread (.drainRx h))
  · exact .ok (.drainRx h)

theorem State.Canon.postRx {k t x} (h : s.Canon) : (s.postRx k t x).Canon := by
  unfold State.postRx
  refine .modThread (.noteGen (.holdGen ?_))
  split
  · split
    · exact h
    · exact .modThread (.ackStore h)
  · exact h

theorem Yields.of_readData {t va n b} (h : s.Canon) : Stops (fun r => r.2.Canon) (readData s t va n b) := by
  unfold readData
  dsimp only
  split
  · exact .error h
  · split
    · exact .error (.storedError (.fillTlb h))
    · next e =>
      have hs := (Yields.of_readOwn (.fillTlb h)).of_ok e
      exact .ok hs

theorem Yields.of_writeData {k t va bs b} {pre : State → State} (hp : ∀ {s}, s.Canon → (pre s).Canon) (h : s.Canon) :
    Stops State.Canon (writeData s k t va bs b pre) := by
  unfold writeData
  dsimp only
  split
  · exact .error h
  · split
    · exact .error (hp (.fillTlb h))
    · exact .ok (.noteGen ((Yields.of_writeAt (hp (.fillTlb h))).of_ok ‹_›))

theorem Yields.of_aliasLoad {t va} (h : s.Canon) : Stops (fun _ => True) (aliasLoad s t va) := by
  unfold aliasLoad
  dsimp only
  split
  · exact .error h
  · split
    · exact .error (.sramError h)
    · exact .ok True.intro

theorem Yields.of_aliasStore {t va v} {pre : State → State} (hp : ∀ {s}, s.Canon → (pre s).Canon) (h : s.Canon) :
    Stops State.Canon (aliasStore s t va v pre) := by
  unfold aliasStore
  dsimp only
  split
  · exact .error h
  · exact .ok (.of_elemStore (hp h))

theorem Yields.of_loadValue {t va n w b} (h : s.Canon) : Stops (fun r => r.2.Canon) (loadValue s t va n w b) := by
  unfold loadValue
  split
  · split
    · exact .error h
    · exact .ok h
  · split
    · split
      · exact .map (.of_aliasLoad h) fun _ _ => h
      · exact .error h
    · exact .map (.of_readData h) fun _ h => h

theorem Yields.of_storeValue {k t va n v b} {pre : State → State} (hp : ∀ {s}, s.Canon → (pre s).Canon) (h : s.Canon) :
    Stops State.Canon (storeValue s k t va n v b pre) := by
  unfold storeValue
  split
  · split
    · exact .error h
    · exact .ok (.ctlWrite (hp h) _)
  · split
    · split
      · exact .of_aliasStore hp h
      · exact .error h
    · exact .of_writeData hp h

theorem State.Canon.release {t : Thread} {sc} (h : s.Canon) : (t.release sc s).Canon := .of_releaseAt h

theorem State.Canon.acquire {t : Thread} {sc} (h : s.Canon) : (t.acquire sc s).Canon := .of_acquireAt h

theorem Yields.of_rxStoreOf {t i va n v} (h : s.Canon) : Yields (fun _ => True) (fun r => r.2.Canon) (rxStoreOf s t i va n v) := by
  unfold rxStoreOf
  dsimp only
  split
  · exact .map .trivial fun _ _ => h
  · split
    · split
      · exact True.intro
      · exact .map .trivial fun _ _ => h
    · exact .map .trivial fun _ _ => .fillTlb h

theorem State.Canon.settleAt {loc : Loc} {c n} (h : s.Canon) : (loc.settle s c n).Canon := by
  unfold Loc.settle
  split
  · exact .flushRange h
  · exact h

theorem Yields.of_rmw {k t acc va n f} {pre : State → State} (hp : ∀ {s}, s.Canon → (pre s).Canon) (h : s.Canon) :
    Stops (fun r => r.2.Canon) (rmw s k t acc va n f pre) := by
  unfold rmw
  dsimp only
  split
  · exact .error h
  · have hs {loc : Loc} {c e n} : (loc.settle (pre (s.fillTlb c e loc)) c n).Canon := .settleAt (hp (.fillTlb h))
    split
    · exact .error (.storedError hs)
    · exact .ok (.noteGen (.store ((Yields.of_readAt hs).of_ok ‹_›)))

theorem Body.Canon.of_loadBody {n b o} : Body.Canon (loadBody n b o) := ⟨fun h => by
  refine .orTrap (q := State.Canon) ?_ fun s h => .orTrap (.of_loadValue h) fun r h => .next (.ite (.acquire (.setReg h)) (.setReg h))
  split
  · exact .ok h
  · exact .of_waitRx h⟩

theorem Body.Canon.of_storeBody {i n o} : Body.Canon (storeBody i n o) := ⟨fun h => by
  unfold storeBody
  dsimp only
  split
  · split
    · exact .trap h
    · exact .next (.postRx ((Yields.of_rxStoreOf h).of_ok ‹_›))
  · exact .orTrap (.of_waitRx h) fun s h => .orStay h (.orTrap (.of_storeValue (fun h => .ite (.release h) h) h) fun s h => .next h)⟩

theorem Body.Canon.of_atomicBody {acc n d a e f g} : Body.Canon (atomicBody acc n d a e f g) := ⟨fun h =>
  .orTrap (.of_waitRx h) fun _ h => .orStay h (.orTrap (.of_rmw (fun h => .ite (.release h) h) h) fun _ h =>
    .next (.ite (.acquire (.setReg h)) (.setReg h)))⟩

theorem Body.Canon.of_atomic1 {w o f} : Body.Canon (atomic1 w o f) := by
  constructor
  unfold atomic1
  exact Body.Canon.of_atomicBody.keeps

theorem Body.Canon.of_casBody {w o} : Body.Canon (casBody w o) := by
  constructor
  unfold casBody
  exact Body.Canon.of_atomicBody.keeps

theorem Body.Canon.of_axaddBody {o} : Body.Canon (axaddBody o) := by
  constructor
  unfold axaddBody
  exact Body.Canon.of_atomicBody.keeps

theorem Body.Canon.of_regBody {d a b f} : Body.Canon (regBody d a b f) := ⟨fun h => .next (.setReg h)⟩

/-! ### Committing, waiting, the end of a thread -/

theorem State.Canon.commit {k pc} (h : s.Canon) : (s.commit k pc).Canon := .of_mem (.modThread h)

theorem State.Canon.parkOn {k w o} (h : s.Canon) : (s.parkOn k w o).Canon := by
  unfold State.parkOn
  split
  · exact h
  · split
    · exact .of_mem h
    · exact .of_mem h

theorem State.Canon.closeIfEmpty {l f} (h : s.Canon) : (s.closeIfEmpty l f).Canon := by
  unfold State.closeIfEmpty
  split
  · exact h
  · dsimp only
    split
    · split
      · exact .of_mem h
      · exact .answerParked (.of_mem h)
    · exact h

theorem State.Canon.dropAway {t} (h : s.Canon) : (s.dropAway t).Canon := by
  unfold State.dropAway
  split
  · exact h
  · exact .of_mem h

theorem State.Canon.dropWriter {k c} (h : s.Canon) : (s.dropWriter k c).Canon := by
  unfold State.dropWriter
  dsimp only
  split
  · exact .of_mem h
  · exact h

theorem State.Canon.endThread {k} (h : s.Canon) : (s.endThread k).Canon := by
  unfold State.endThread
  split
  · exact h
  · have hs {c p} : ((((s.dropThread k).unyield k).unpark p).dropWriter k c).Canon := .dropWriter (.unpark (.of_mem h))
    dsimp only
    split
    · exact hs
    · exact .closeIfEmpty (.dropAway hs)

theorem State.Canon.keepHeld {k} (h : s.Canon) : (s.keepHeld k).Canon := by
  unfold State.keepHeld
  split
  · exact h
  · split
    · exact h
    · exact .of_mem h

theorem State.Canon.disband {k} (h : s.Canon) : (s.disband k).Canon := by
  unfold State.disband
  split
  · split
    · exact .modThread (.foldl (fun h => .endThread (.drainRx h)) _ h)
    · exact h
  · exact h

/-! ### Taking a fault -/

theorem Option.Canon.writeArea {t bs} (h : s.Canon) : Option.Canon (s.writeArea t bs) := by
  unfold State.writeArea
  split
  · exact .none
  · split
    · exact .some ((Yields.of_cellStore h).of_ok ‹_›)
    · exact .none

theorem Option.Canon.toOption {ε : Type} {p : ε → Prop} {r : Except ε State} (h : Yields p State.Canon r) :
    Option.Canon r.toOption := by
  cases r with
  | error e => exact .none
  | ok s => exact .some h

theorem Option.Canon.writeTrec {t bs} (h : s.Canon) : Option.Canon (s.writeTrec t bs) := by
  unfold State.writeTrec
  dsimp only
  split
  · exact .none
  · split
    · split
      · exact .none
      · exact .toOption (.of_writeAt ((Yields.of_writeAt h).of_ok ‹_›))
    · exact .none

theorem State.Canon.noteTrap {t c f} (h : s.Canon) : (s.noteTrap t c f).Canon := by
  unfold State.noteTrap
  split
  · split
    · exact h
    · exact .of_mem h
  · exact h

theorem State.Canon.doubleTrap {k t f r rep} (h : s.Canon) : (s.doubleTrap k t f r rep).Canon :=
  .logEvent (.of_mem (.endThread (.noteTrap (.getD h (.writeArea h)))))

theorem State.Canon.superEntry {k t f r c d rp} (h : s.Canon) : (s.superEntry k t f r c d rp).Canon := by
  unfold State.superEntry
  dsimp only
  split
  · exact .doubleTrap h
  · exact .noteTrap (.of_mem (Option.Canon.writeArea h _ ‹_›))

theorem Option.Canon.upcall {k t f r i rp} (h : s.Canon) : Option.Canon (s.upcall k t f r i rp) := by
  unfold State.upcall
  split
  · exact .none
  · exact .some (.spillOver (.of_mem (Option.Canon.writeTrec h _ ‹_›)))

theorem State.Canon.deliver {k t f own} (h : s.Canon) : (s.deliver k t f own).Canon := by
  unfold State.deliver
  dsimp only
  split
  · exact .doubleTrap h
  · split
    · exact .superEntry (.logEvent (.of_mem h))
    · split
      · split
        · exact .superEntry h
        · split
          · exact .superEntry h
          · exact .getD (.superEntry h) (.upcall h)
        · exact .superEntry h
      · exact .superEntry h

theorem State.Canon.drainV {k} (h : s.Canon) : (s.drainV k).Canon := .modThread h

theorem State.Canon.drainCrew {k t} (h : s.Canon) : (s.drainCrew k t).Canon := .foldl .drainV _ h

theorem State.Canon.stopThread {k} (h : s.Canon) : (s.stopThread k).Canon := .drainV (.of_mem (.drainRx h))

theorem State.Canon.of_takeFault {k f own} (h : s.Canon) : (takeFault s k f own).Canon := by
  have hs : (s.stopThread k).Canon := .stopThread h
  unfold Machine.takeFault
  dsimp only
  split
  · exact hs
  · split
    · exact .of_mem hs
    · split
      · exact .deliver (.of_mem hs)
      · split
        · exact .deliver (.disband (.of_mem hs))
        · exact .disband (.of_mem hs)
      · split
        · exact .deliver (.unpark (.disband (.stopThread (.of_mem hs))))
        · exact .unpark (.disband (.stopThread (.of_mem hs)))

/-! ### Heads and issue -/

theorem Body.Canon.of_headBody {i : Instr} {b : Body} (e : headBody i = some b) : b.Canon := by
  cases i with
  | mul | mulh | mulhn | div | divn | rem | remn =>
    obtain rfl := Option.some.inj e
    exact .of_regBody
  | ldb | ldh | ldw | ldd | ldbn | ldhn | ldwn =>
    obtain rfl := Option.some.inj e
    exact .of_loadBody
  | afadd | afand | afor | afxor | afmin | afmax | afminn | afmaxn | aswap
  | afaddW | afandW | aforW | afxorW | afminW | afmaxW | afminnW | afmaxnW | aswapW =>
    obtain rfl := Option.some.inj e
    exact .of_atomic1
  | acas | acasW =>
    obtain rfl := Option.some.inj e
    exact .of_casBody
  | axadd =>
    obtain rfl := Option.some.inj e
    exact .of_axaddBody
  | _ => cases e

theorem Yields.of_performHead {k t hd} (h : s.Canon) : Stops State.Canon (performHead s k t hd) := by
  unfold performHead
  split
  · exact .ok (.modThread h)
  · next b hb =>
    obtain ⟨i, -, hi⟩ := Option.bind_eq_some_iff.mp hb
    have hr {t' : Thread} : (b (s.setThread k t') k t').Canon := (Body.Canon.of_headBody hi).keeps (.of_mem h)
    dsimp only
    split
    · exact .ok (.modThread (hr.of_next ‹_›))
    · exact .error (.modThread (hr.of_trap ‹_›))
    · exact .ok h

theorem Body.Canon.withLook {i la w b} (hb : Body.Canon b) : Body.Canon (withLook i la w b) := ⟨fun {s k t} h => by
  unfold Machine.withLook
  split
  · exact hb.keeps h
  · refine .orTrap (q := State.Canon) ?_ fun s h => .next (.modThread h)
    split
    · exact .of_waitRx h
    · exact .ok h⟩

theorem State.Canon.of_settle {i k t} {r : Res} (h : r.Canon) : (settle i k t r).Canon := by
  cases r with
  | next s => exact .commit h
  | jump s pc => exact .commit h
  | stay s => exact .of_mem h
  | trap s f => exact .unyield (.of_takeFault h)
  | park s w => exact .parkOn h

theorem State.Canon.of_closeHead {i k t hd b} (hb : Body.Canon b) (h : s.Canon) : (closeHead i s k t hd b).Canon := by
  unfold closeHead
  split
  · exact .unyield (.of_takeFault ((Yields.of_performHead h).of_error ‹_›))
  · have hs := (Yields.of_performHead h).of_ok ‹_›
    split
    · split
      · exact .of_mem hs
      · exact .of_settle (hb.keeps hs)
    · exact hs

theorem State.Canon.of_issueUnder {i k t b} (hb : Body.Canon b) (h : s.Canon) : (issueUnder i s k t b).Canon := by
  unfold issueUnder
  split
  · exact .of_settle (hb.keeps h)
  · split
    · dsimp only
      split
      · exact .of_closeHead hb h
      · exact .of_settle (hb.keeps (.of_mem h))
    · exact .of_closeHead hb h

theorem Body.Canon.aloneBody {b} (hb : Body.Canon b) : Body.Canon (aloneBody b) := ⟨fun {s k t} h => by
  unfold Machine.aloneBody
  split
  · exact .trap h
  · exact hb.keeps h⟩

theorem State.Canon.of_raiseAt {k t f own} (h : s.Canon) : (raiseAt s k t f own).Canon := by
  unfold raiseAt
  split
  · exact .unyield (.of_takeFault h)
  · split
    · exact .unyield (.of_takeFault ((Yields.of_performHead h).of_error ‹_›))
    · have hs := (Yields.of_performHead h).of_ok ‹_›
      split
      · exact .of_mem hs
      · exact .unyield (.of_takeFault hs)

/-- The next state of an outcome, where there is one, is in form. -/
def NextCanon (o : Host.Outcome State Fault Refusal) : Prop := ∀ s, o = .next s → s.Canon

theorem NextCanon.next (h : s.Canon) : NextCanon (.next s) := by
  rintro _ ⟨⟩; exact h

/-- An instruction whose own part keeps the form keeps it. -/
theorem NextCanon.issue {i b} (hb : Body.Canon b) (h : s.Canon) : NextCanon (issue i s b) := by
  unfold Machine.issue
  split
  · nofun
  · split
    · nofun
    · split
      · exact .next (.of_settle (hb.keeps h))
      · exact .next (.of_issueUnder hb h)

/-! ### Engines and copies -/

theorem State.Canon.of_engineOrder {t} (h : s.Canon) : (engineOrder s t).Canon := .release h

theorem State.Canon.of_flushVirtual {t va n} (h : s.Canon) : (flushVirtual s t va n).Canon := by
  unfold flushVirtual
  dsimp only
  split
  · exact h
  · refine .foldl (fun h => ?_) _ h
    split
    · exact .flushRange h
    · exact h

theorem Yields.of_tryLocks {w o kind xs skip} (h : s.Canon) : Yields (fun _ => True) State.Canon (tryLocks s w o kind xs skip) := by
  unfold tryLocks
  split
  · exact True.intro
  · dsimp only
    split
    · exact .ok (.of_mem h)
    · exact True.intro

theorem State.Canon.engNote {w va n pc} (h : s.Canon) : (s.engNote w va n pc).Canon := by
  unfold State.engNote
  split
  · exact h
  · split
    · exact h
    · split
      · exact h
      · exact .storedFar h

theorem Yields.of_engWrite {w va bs} (h : s.Canon) : Yields (fun _ => True) State.Canon (engWrite s w va bs) := by
  unfold engWrite
  split
  · exact True.intro
  · split
    · exact .ok ((Yields.of_engineStore h).of_ok ‹_›)
    · exact True.intro

theorem State.Canon.beginOp {k d q} (h : s.Canon) : (s.beginOp k d q).Canon := by
  unfold State.beginOp
  split
  · exact h
  · dsimp only
    split
    · exact .setReg (.of_mem h)
    · exact .of_mem h

theorem Body.Canon.of_engineBody {b} (hb : Body.Canon b) : Body.Canon (engineBody b) :=
  ⟨fun h => .orTrap (.of_waitRx h) fun _ h => .orStay h (hb.keeps (.of_engineOrder h))⟩

theorem State.Canon.missPromise {b} (h : s.Canon) : (s.missPromise b).Canon := .owe h

theorem Res.Canon.of_copyAtOnce {k t d b st pr} (h : s.Canon) : (copyAtOnce s k t d b st pr).Canon := by
  unfold copyAtOnce
  exact .next (.deliverEntry (.ite (.missPromise (.beginOp h)) (.beginOp h)))

theorem Res.Canon.of_startCopy {k t d b kind src dst sn dn pr} (h : s.Canon) :
    (startCopy s k t d b kind src dst sn dn pr).Canon := by
  unfold startCopy
  dsimp only
  split
  · exact .park h
  · split
    · exact .of_copyAtOnce h
    · refine .orStay (.modThread h) ?_
      split
      · exact .park h
      · next e =>
        have hl := (Yields.of_tryLocks (.of_mem h)).of_ok e
        exact .next (.beginOp (.of_mem (.of_flushVirtual (.of_engineOrder hl))))

theorem Res.Canon.of_copyRanges {k t d b kind src dst sn dn pr} (h : s.Canon) :
    (copyRanges s k t d b kind src dst sn dn pr).Canon := by
  unfold copyRanges
  dsimp only
  split
  · exact .trap h
  · split
    · exact .trap h
    · exact .of_startCopy h

theorem NextCanon.of_execCpy {o} (h : s.Canon) : NextCanon (execCpy o s) :=
  .issue ⟨fun h => .orTrap (.of_waitRx h) fun s h => by
    dsimp only
    split
    · exact .trap h
    · exact .of_copyRanges h⟩ h

theorem NextCanon.of_execCpyw {o} (h : s.Canon) : NextCanon (execCpyw o s) :=
  .issue ⟨fun h => .orTrap (.of_waitRx h) fun s h => by
    dsimp only
    split
    · exact .trap h
    · exact .of_copyRanges h⟩ h

theorem NextCanon.of_execCpyh {o} (h : s.Canon) : NextCanon (execCpyh o s) :=
  .issue ⟨fun h => .orTrap (.of_waitRx h) fun s h => by
    dsimp only
    split
    · exact .trap h
    · split
      · split
        · exact .trap h
        · split
          · exact .trap h
          · exact .of_copyRanges h
      · exact .of_copyAtOnce h⟩ h

theorem Yields.of_engWrite2 {w va vb a b} (h : s.Canon) : Yields (fun _ => True) State.Canon (engWrite2 s w va vb a b) := by
  unfold engWrite2
  split
  · exact True.intro
  · exact .bind (.of_engWrite h) fun _ h => .of_engWrite h

theorem Yields.of_convertBlock {w j x k} (h : s.Canon) : Yields (fun _ => True) State.Canon (convertBlock s w j x k) := by
  unfold convertBlock
  refine .bind (q := fun _ => True) .trivial fun _ _ => ?_
  dsimp only
  split
  · exact .bind (q := fun _ => True) .trivial fun _ _ => .of_engWrite2 h
  · exact .of_engWrite2 h

theorem Yields.of_copyBlockAt {w j k} (h : s.Canon) : Yields (fun _ => True) State.Canon (copyBlockAt s w j k) := by
  unfold copyBlockAt
  split
  · exact .of_convertBlock h
  · exact .bind (q := fun _ => True) .trivial fun _ _ => .of_engWrite h

theorem State.Canon.noteCopy {w j k} (h : s.Canon) : (s.noteCopy w j k).Canon := by
  unfold State.noteCopy
  split
  · exact .engNote h
  · exact h

theorem State.Canon.endCopy {c j st f va} (h : s.Canon) : (s.endCopy c j st f va).Canon := by
  unfold State.endCopy
  dsimp only
  split
  · exact .deliverEntry (.of_mem (.missPromise h))
  · exact .deliverEntry (.of_mem h)

theorem NextCanon.of_execCopyBlock {c} (h : s.Canon) : NextCanon (execCopyBlock c s) := by
  refine .next ?_
  split
  · exact h
  · split
    · exact .endCopy h
    · split
      · exact .endCopy (.noteCopy h)
      · have hs := (Yields.of_copyBlockAt h).of_ok ‹_›
        dsimp only
        split
        · exact .endCopy hs
        · exact .of_mem hs

theorem NextCanon.of_execPromiseExpiry {c} (h : s.Canon) : NextCanon (execPromiseExpiry c s) := by
  refine .next ?_
  split
  · exact h
  · split
    · split
      · exact h
      · exact .missPromise (.of_mem h)
    · exact h

theorem NextCanon.of_execPromiseMissedUpcall {k} (h : s.Canon) : NextCanon (execPromiseMissedUpcall k s) := by
  refine .next ?_
  split
  · exact h
  · split
    · exact h
    · split
      · exact h
      · exact .of_takeFault (.of_mem h)

/-! ### Fetching -/

theorem Yields.of_fetchPart {t va n} (h : s.Canon) : Stops (fun r => r.2.Canon) (fetchPart s t va n) := by
  unfold fetchPart
  dsimp only
  split
  · exact .error h
  · split
    · exact .error h
    · split
      · exact .error (.storedError (.fillTlb h))
      · next e => exact .ok ((Yields.of_readAt (.fillTlb h)).of_ok e)

theorem Yields.of_fetchParts {t : Thread} (ps : List (Word × Nat)) (h : s.Canon) :
    Stops (fun r => r.2.Canon) (fetchParts t s ps) := by
  induction ps generalizing s with
  | nil => exact .ok h
  | cons p ps ih =>
    rw [fetchParts]
    refine .bind (q := fun r : List Byte × State => r.2.Canon) (.of_fetchPart h) fun r h => ?_
    exact .bind (q := fun r : List Byte × State => r.2.Canon) (ih h) fun r h => .ok h

theorem Yields.of_fetchBytes {t va n} (h : s.Canon) : Stops (fun r => r.2.Canon) (fetchBytes s t va n) := .of_fetchParts _ h

theorem Yields.of_fetchInstr {t} (h : s.Canon) : Yields (fun e => e.state.Canon) (fun r => r.2.Canon) (fetchInstr s t) := by
  unfold Machine.fetchInstr
  dsimp only
  split
  · exact .error ((Yields.of_fetchBytes h).of_error ‹_›)
  · next e =>
    have hs := (Yields.of_fetchBytes h).of_ok e
    split
    · exact .error ((Yields.of_fetchBytes hs).of_error ‹_›)
    · next e' =>
      have hs' := (Yields.of_fetchBytes hs).of_ok e'
      split
      · exact .ok hs'
      · exact .error hs'

/-! ### Requests at homes -/

theorem State.Canon.markAmb {k m} (h : s.Canon) : (s.markAmb k m).Canon := by
  unfold State.markAmb
  split
  · exact .modThread h
  · exact h

theorem Res.Canon.of_barDone {k t r} (h : s.Canon) : (barDone s k t r).Canon := by
  have hs : State.Canon (let s := t.acquire (barScope r.instr) s
      let x := s.cell t.pcell
      if 2 ≤ fld r.opr.vb 32 2 then s.setCell t.pcell { x with bank := fld r.opr.vb 32 2 == 3 } else s) := by
    dsimp only
    split
    · exact .of_mem (.acquire h)
    · exact .acquire h
  unfold barDone
  dsimp only
  split
  · exact .stay (.modThread hs)
  · exact .next hs

theorem Res.Canon.of_applyReq {k t r} (h : s.Canon) : (applyReq s k t r).Canon := by
  unfold applyReq
  dsimp only
  split
  · split
    · exact .trap (.storedError h)
    · exact .next (.acquire (.setReg (.of_mem h)))
  · split
    · exact .trap (.storedError h)
    · exact .next (.acquire (.setReg (.of_mem h)))
  · exact .next (.noteGen (.of_mem (.storeFrom h)))
  · exact .next (.noteGen (.of_mem (.storeFrom h)))
  · exact .next (.noteGen (.markAmb (.of_mem (.storeFrom (.storeFrom h)))))
  · split
    · exact .trap (.storedError h)
    · split
      · exact .trap h
      · split
        · exact .trap h
        · refine .next (.acquire (.markAmb (.modThread ?_)))
          split
          · exact h
          · exact .of_mem h
  · exact .of_barDone h
  · exact .of_barDone h
  · exact .next h

theorem State.Canon.withSaved {k} {f : State → State} (hf : ∀ {s}, s.Canon → (f s).Canon) (h : s.Canon) : (s.withSaved k f).Canon := by
  unfold State.withSaved
  split
  · exact hf h
  · have hs {t l : List (Nat × Thread)} : (f { s with threads := t, saved := l }).Canon := hf (.of_mem h)
    dsimp only
    split
    · exact hs
    · exact .of_mem hs

theorem State.Canon.serve {p} (h : s.Canon) : (s.serve p).Canon := by
  refine .withSaved (fun h => ?_) (.of_mem h)
  split
  · exact h
  · exact .of_settle (.of_applyReq h)

theorem State.Canon.serveWord {key : Nat} : ∀ (n : Nat) {s : State}, s.Canon → (s.serveWord key n).Canon
  | 0, _, h => h
  | n + 1, s, h => by
    rw [State.serveWord]
    split
    · exact h
    · exact serveWord n (.serve h)

theorem State.Canon.wordChanged {key} (h : s.Canon) : (s.wordChanged key).Canon := .serveWord _ h

theorem Res.Canon.of_withService {key} {r : Res} (h : r.Canon) : (withService key r).Canon := by
  cases r with
  | next s => exact .next (.wordChanged h)
  | jump s pc => exact .jump (.wordChanged h)
  | stay s => exact .stay (.wordChanged h)
  | trap s f => exact h
  | park s w => exact h

theorem Res.Canon.of_arrive {k t r} (h : s.Canon) : (arrive s k t r).Canon := by
  unfold arrive
  split
  · exact .of_withService (.of_applyReq h)
  · dsimp only
    split
    · exact .stay (.modThread h)
    · exact .stay (.modThread (.of_mem h))

theorem Res.Canon.of_feAccess {k t i acc a d} {f : State → Loc → HomeReq → Res} (hf : ∀ {s l r}, s.Canon → (f s l r).Canon)
    (h : s.Canon) : (feAccess s k t i acc a d f).Canon := by
  refine .orTrap (.of_waitRx h) fun s h => ?_
  dsimp only
  split
  · exact .trap h
  · have hs {loc : Loc} {c n} : (loc.settle (s.fillTlb c false loc) c n).Canon := .settleAt (.fillTlb h)
    split
    · exact .trap hs
    · exact hf hs

theorem Body.Canon.of_feLoad {i acc o} : Body.Canon (feLoad i acc o) :=
  ⟨fun h => .of_feAccess (fun h => by
    dsimp only
    split
    · exact .next (.acquire (.setReg h))
    · exact .of_arrive h) h⟩

theorem Body.Canon.of_feStore {i o} : Body.Canon (feStore i o) :=
  ⟨fun h => .of_feAccess (fun h => .orStay h (.of_arrive (.release h))) h⟩

theorem Body.Canon.of_feSet {i a d b} : Body.Canon (feSet i a d b) :=
  ⟨fun h => .of_feAccess (fun h => .next (.wordChanged (.of_mem h))) h⟩

theorem NextCanon.of_execFeq {o} (h : s.Canon) : NextCanon (execFeq o s) :=
  .issue ⟨fun h => .of_feAccess (fun h => .next (.setReg h)) h⟩ h

theorem State.Canon.of_rearrive {k} (h : s.Canon) : (rearrive s k).Canon := by
  unfold rearrive
  split
  · split
    · exact .of_settle (.trap h)
    · exact .of_settle (.of_arrive h)
  · split
    · exact .wordChanged (.serve h)
    · exact h

theorem NextCanon.of_execWithdrawal {k} (h : s.Canon) : NextCanon (execWithdrawal k s) := by
  refine .next ?_
  split
  · split
    · exact .of_mem h
    · exact h
  · exact h

theorem State.Canon.waitLimit {k t w} (h : s.Canon) : (s.waitLimit k t w).Canon := by
  unfold State.waitLimit
  split
  · split
    · exact .of_takeFault (.of_mem h)
    · exact .of_takeFault (.of_mem h)
    · exact .of_takeFault (.of_mem h)
  · exact .of_takeFault (.of_mem h)

theorem Option.Canon.homeFault {k t} (h : s.Canon) : Option.Canon (s.homeFault k t) := by
  unfold State.homeFault
  split
  · exact .some (.unyield (.of_takeFault (.of_mem h)))
  · exact .none

theorem NextCanon.of_execWithdrawalAnswer {k} (h : s.Canon) : NextCanon (execWithdrawalAnswer k s) := by
  refine .next ?_
  split
  · split
    · split
      · exact h
      · exact .waitLimit h
    · exact h
  · exact h

/-! ### Tasks and threads -/

theorem Yields.of_readRecord {t va} (h : s.Canon) : Stops (fun r => r.2.Canon) (readRecord s t va) := by
  have hr {s t va} (h : s.Canon) : Stops (fun r : List Byte × State => r.2.Canon) (readData s t va 8 true) := .of_readData h
  exact .bind (hr h) fun a ha => .bind (hr ha) fun b hb => .bind (hr hb) fun c hc => .bind (hr hc) fun d hd => .ok hd

theorem State.Canon.spill {f x k} (h : s.Canon) : (s.spill f x k).Canon := by
  refine .of_mem (.foldl (fun h => ?_) _ h)
  split
  · exact (Yields.of_cellStore h).of_ok ‹_›
  · exact (Yields.of_cellStore h).of_error ‹_›

theorem Res.Canon.of_inlineRun {k t x r ret} (h : s.Canon) : (inlineRun s k t x r ret).Canon :=
  .orTrap (.of_writeData id h) fun _ h => .orTrap (.of_writeData id h) fun _ h => .jump (.acquire (.modThread h))

theorem Res.Canon.of_forkRecord {i k t x r} (h : s.Canon) : (forkRecord i s k t x r).Canon := by
  unfold forkRecord
  refine .orStay h ?_
  split
  · exact .park h
  · exact .trap h
  · refine .orTrap (q := State.Canon) ?_ fun s h => ?_
    · split
      · exact .ok h
      · exact .map (.of_rmw id h) fun _ h => h
    · dsimp only
      split
      · exact .next (.of_mem (.release h))
      · exact .next (.of_mem (.spill (.release h)))
      · exact .of_inlineRun (.release h)

theorem NextCanon.of_execFork {a} (h : s.Canon) : NextCanon (execFork a s) :=
  .issue ⟨fun h => by
    dsimp only
    split
    · exact .trap h
    · split
      · exact .trap h
      · refine .orTrap (.of_waitRx (.drainV h)) fun s h => .orTrap (.of_readRecord h) fun r h => ?_
        split
        · exact .trap h
        · exact .trap h
        · split
          · exact .trap h
          · exact .of_forkRecord h⟩ h

theorem State.Canon.toCache {k b r} (h : s.Canon) : (s.toCache k b r).Canon := by
  unfold State.toCache
  dsimp only
  split
  · exact .of_mem h
  · exact .spillOver (.of_mem h)

theorem NextCanon.of_execJoin {a} (h : s.Canon) : NextCanon (execJoin a s) :=
  .issue ⟨fun h => by
    dsimp only
    split
    · exact .trap h
    · split
      · exact .trap h
      · refine .orTrap (.of_waitRx (.drainV h)) fun s h => .orTrap (.of_rmw id h) fun r h => ?_
        split
        · exact .trap h
        · exact .next (.acquire h)
        · split
          · exact .stay (.modThread h)
          · exact .stay (.modThread (.toCache h))⟩ h

theorem Yields.of_readIdentity {t} (h : s.Canon) : Stops (fun r => r.2.Canon) (readIdentity s t) := by
  have hr {s t va} (h : s.Canon) : Stops (fun r : List Byte × State => r.2.Canon) (readData s t va 8 true) := .of_readData h
  unfold readIdentity
  split
  · exact .ok h
  · exact .bind (hr h) fun a ha => .bind (hr ha) fun b hb => .ok hb

theorem NextCanon.of_execTend (h : s.Canon) : NextCanon (execTend s) :=
  .issue ⟨fun h => by
    dsimp only
    split
    · exact .trap h
    · refine .orTrap (.of_waitRx (.drainV h)) fun s h => .orStay h ?_
      refine .orTrap (q := fun r : Nat × State => r.2.Canon) ?_ fun r h => ?_
      · split
        · exact .ok (.modThread h)
        · exact .of_rmw .release (.modThread h)
      · have hw {l t c} [Decidable c] : State.Canon (if c then r.2.sendWake l t else r.2) := .ite (.of_mem h) h
        split
        · exact .stay (.endThread (.keepHeld hw))
        · exact .orTrap (.of_readIdentity hw) fun _ h => .jump (.modThread h)⟩ h

theorem Body.Canon.of_yieldBody {i} : Body.Canon (yieldBody i) :=
  ⟨fun h => by
    unfold yieldBody
    split
    · exact .trap h
    · dsimp only
      split
      · exact .stay (.commit h)
      · exact .stay (.of_mem (.commit h))⟩

theorem NextCanon.of_execSleep {a} (h : s.Canon) : NextCanon (execSleep a s) :=
  .issue ⟨fun h => by
    dsimp only
    split
    · exact .trap h
    · split
      · exact Body.Canon.of_yieldBody.keeps h
      · exact .stay (.modThread h)⟩ h

theorem NextCanon.of_execWfw (h : s.Canon) : NextCanon (execWfw s) :=
  .issue ⟨fun h => by
    split
    · exact .trap h
    · split
      · exact .next (.modThread h)
      · exact .park h⟩ h

theorem NextCanon.of_execWakeDelivery {m} (h : s.Canon) : NextCanon (execWakeDelivery m s) := by
  refine .next ?_
  split
  · exact h
  · dsimp only
    split
    · exact .of_mem h
    · split
      · exact .commit (.of_mem h)
      · exact .of_mem h
      · split
        · exact .of_mem h
        · exact .of_mem h
      · exact .of_mem h

theorem NextCanon.of_execSleepExpiry {k} (h : s.Canon) : NextCanon (execSleepExpiry k s) := by
  refine .next ?_
  split
  · split
    · split
      · exact .commit h
      · exact h
    · exact h
  · exact h

theorem State.Canon.noteAway {t f} (h : s.Canon) : (s.noteAway t f).Canon := by
  unfold State.noteAway
  split
  · exact h
  · exact .of_mem h

theorem NextCanon.of_execFly {a} (h : s.Canon) : NextCanon (execFly a s) :=
  .issue ⟨fun h => by
    dsimp only
    split
    · split
      · exact .trap h
      · refine .orTrap (.of_waitRx (.drainV h)) fun s h => ?_
        split
        · exact .next h
        · split
          · exact .park h
          · split
            · exact .trap h
            · refine .orStay h ?_
              split
              · refine .park (.modThread ?_)
                split
                · exact .release h
                · exact .noteAway (.release h)
              · exact .park h
    · exact .trap h⟩ h

theorem NextCanon.of_execFlyArrival {k} (h : s.Canon) : NextCanon (execFlyArrival k s) := by
  refine .next ?_
  split
  · exact h
  · split
    · split
      · exact h
      · dsimp only
        split
        · exact h
        · split
          · exact .closeIfEmpty (.of_acquireAt (.setVcell (.noteAway (.of_mem h))))
          · split
            · exact .closeIfEmpty (.of_acquireAt (.setVcell (.noteAway (.of_mem h))))
            · exact h
    · exact h

/-! ### Gangs -/

theorem State.Canon.reserveSlot {k n x} (h : s.Canon) : (s.reserveSlot k n x).Canon := by
  unfold State.reserveSlot
  dsimp only
  split
  · exact h
  · exact .of_mem h

theorem State.Canon.addFollowers {lead t slot f0 pc} (ms : List (Nat × Seat)) (h : s.Canon) :
    (s.addFollowers lead t slot f0 pc ms).2.Canon := by
  induction ms generalizing s with
  | nil => exact h
  | cons m ms ih => exact ih (.of_mem h)

theorem NextCanon.of_execGang {w} (h : s.Canon) : NextCanon (execGang w s) :=
  .issue ⟨fun {s k t} h => by
    have hs {n} {ms : List (Nat × Seat)} : (ms.foldl (fun s m => s.reserveSlot k n m.2) (s.drainV k)).Canon :=
      .foldl .reserveSlot _ (.drainV h)
    dsimp only
    split
    · split
      · exact .trap h
      · split
        · exact .next (.modThread (.addFollowers _ (.of_mem hs)))
        · exact .park hs
    · exact .trap h⟩ h

theorem NextCanon.of_execGangSlotReservation {c n} (h : s.Canon) : NextCanon (execGangSlotReservation c n s) := by
  refine .next ?_
  split
  · exact .reserveSlot h
  · exact h

theorem NextCanon.of_execUngang (h : s.Canon) : NextCanon (execUngang s) :=
  .issue ⟨fun h => .next (.disband (.drainV h))⟩ h

/-! ### Control registers -/

theorem State.Canon.cutCaptures {k n} (h : s.Canon) : (s.cutCaptures k n).Canon := .foldl .of_mem _ (.of_mem h)

theorem State.Canon.evictHeld {c} (h : s.Canon) : (s.evictHeld c).Canon := .foldl .of_takeFault _ h

theorem State.Canon.setWays {c m} (h : s.Canon) : (s.setWays c m).Canon := by
  unfold State.setWays
  dsimp only
  split
  · exact .evictHeld (.answerParked (.cutCaptures (.of_mem (.clearRange (.ite (.flushWhere h) h)))))
  · exact .of_mem (.clearRange (.ite (.flushWhere h) h))

theorem State.Canon.writeGroup {c v} (h : s.Canon) : (s.writeGroup c v).Canon := .of_mem (.flushWhere h)

theorem Res.Canon.of_writeWays {k t v} (h : s.Canon) : (writeWays s k t v).Canon := by
  unfold writeWays
  dsimp only
  split
  · exact .trap h
  · split
    · exact .trap h
    · split
      · split
        · split
          · exact .park h
          · exact .next (.setWays h)
        · exact .stay h
      · split
        · exact .next h
        · split
          · exact .park (.of_mem h)
          · exact .next (.setWays h)

theorem Res.Canon.of_writeCreg {k t v} (r : CReg) (h : s.Canon) : (writeCreg s k t r v).Canon := by
  cases r with
  | ways => exact .of_writeWays h
  | group => exact .next (.writeGroup h)
  | tid | cyc | rtsel => exact .next h
  | tstat | wlim | gpiv | uvec | tcause | tepc | trec => exact .next (.modThread h)
  | seg =>
    simp only [writeCreg]
    split
    · exact .next (.modThread h)
    · exact .trap h
  | wdesc n =>
    simp only [writeCreg]
    split
    · exact .next (.of_mem h)
    · exact .trap h
  | tvec =>
    simp only [writeCreg]
    split
    · exact .next (.of_mem h)
    · exact .trap h

theorem NextCanon.of_execCrr {d r} (h : s.Canon) : NextCanon (execCrr d r s) :=
  .issue ⟨fun h => by
    split
    · exact .trap h
    · exact .next (.setReg h)⟩ h

theorem State.Canon.of_writeEvent {k r v} (h : s.Canon) : (writeEvent k r v s).Canon := by
  unfold writeEvent
  split
  · exact h
  · have hr {t v} : (writeCreg s k t r v).Canon := .of_writeCreg r h
    split
    · exact hr.of_next ‹_›
    · exact hr.of_jump ‹_›
    · exact hr.of_stay ‹_›
    · exact .of_takeFault (hr.of_trap ‹_›)
    · split
      · exact .parkOn (hr.of_park ‹_›)
      · exact h

theorem NextCanon.of_execWdescWrite {k n v} (h : s.Canon) : NextCanon (execWdescWrite k n v s) := by
  refine .next ?_
  split
  · exact h
  · exact .of_writeEvent h

theorem NextCanon.of_execWaysChange {c} (h : s.Canon) : NextCanon (execWaysChange c s) := by
  refine .next ?_
  dsimp only
  split
  · split
    · exact h
    · split
      · split
        · exact .commit (.setWays h)
        · exact .of_mem (.setWays h)
        · exact .setWays h
      · exact .setWays h
  · exact h

/-! ### Routers -/

theorem State.Canon.addPacket {p} (h : s.Canon) : (s.addPacket p).Canon := .of_mem h

theorem State.Canon.regen {k x} (h : s.Canon) : (s.regen k x).Canon := by
  unfold State.regen
  split
  · exact h
  · split
    · exact h
    · exact .of_mem (.ackGen h)

theorem State.Canon.sendAgain {p} (h : s.Canon) : (s.sendAgain p).Canon := .addPacket (.foldl (fun h => .foldl .regen _ h) _ h)

theorem State.Canon.answerAll {p d f} (h : s.Canon) : (s.answerAll p d f).Canon := by
  refine .foldl (fun h => ?_) _ h
  split
  · exact h
  · exact .addPacket h

theorem State.Canon.errorReply {p d} (h : s.Canon) : (s.errorReply p d).Canon := by
  unfold State.errorReply
  split
  · exact .addPacket h
  · exact .addPacket h
  · exact .addPacket h
  · exact .answerAll h

theorem State.Canon.combine {p} (h : s.Canon) : (s.combine p).2.Canon := by
  unfold State.combine
  dsimp only
  split
  · exact h
  · exact .of_mem h

theorem State.Canon.updateKey {a q} (h : s.Canon) : (s.updateKey a q).Canon := by
  unfold State.updateKey
  dsimp only
  split
  · exact .of_mem h
  · exact .of_mem h

theorem State.Canon.carries {a q} (h : s.Canon) : (s.carries a q).Canon := by
  unfold State.carries
  dsimp only
  split
  · exact .of_mem h
  · exact .of_mem h

theorem State.Canon.sendFlits {a q l} (h : s.Canon) : (s.sendFlits a q l).Canon := .carries (.of_mem h)

theorem State.Canon.sendOn {a q p} (h : s.Canon) : (s.sendOn a q p).Canon := .sendFlits (.ite (.updateKey h) h)

theorem State.Canon.forward {p q} (h : s.Canon) : (s.forward p q).Canon := by
  unfold State.forward
  dsimp only
  split
  · exact .sendOn (.of_mem h)
  · exact .sendOn (.foldl .of_mem _ (.of_mem h))

theorem State.Canon.routePacket {p} (h : s.Canon) : (s.routePacket p).Canon := by
  have hd : ((s.combine p).2.dropPacket (s.combine p).1.id).Canon := .of_mem (.combine h)
  exact .foldl .forward _ (.foldl .errorReply _ (.ite (.addPacket (.ite hd (.of_mem hd))) (.ite hd (.of_mem hd))))

theorem NextCanon.of_execRouterPacket {p} (h : s.Canon) : NextCanon (execRouterPacket p s) := by
  refine .next ?_
  split
  · exact .ite (.routePacket h) h
  · exact h

/-! ### Launching -/

theorem State.Canon.window {p vf q} {f : Nat → State} (hf : ∀ {q}, (f q).Canon) (h : s.Canon) : (s.window p vf q f).Canon := by
  unfold State.window
  split
  · exact .ite hf h
  · exact h

theorem State.Canon.capture {p q r} (h : s.Canon) : (s.capture p q r).Canon := by
  unfold State.capture
  exact .ite (.of_mem h) (.ite (.of_mem h) (.recordNow (.of_mem h)))

theorem NextCanon.of_execLaunchWrite {p vf q r} (h : s.Canon) : NextCanon (execLaunchWrite p vf q r s) :=
  .next (.window (.capture h) h)

theorem NextCanon.of_execMalformedWrite {p vf q} (h : s.Canon) : NextCanon (execMalformedWrite p vf q s) :=
  .next (.window (.of_mem h) h)

theorem NextCanon.of_execCrheadWrite {p vf q v} (h : s.Canon) : NextCanon (execCrheadWrite p vf q v s) :=
  .next (.window (.ite (.of_mem h) (.of_mem h)) h)

theorem State.Canon.hostWrite {p r v} (h : s.Canon) : (s.hostWrite p r v).Canon := .ite (.ctlWrite h r) h

theorem NextCanon.of_execQueueEnable {p q v} (h : s.Canon) : NextCanon (execQueueEnable p q v s) := .next (.ite (.hostWrite h) h)

theorem NextCanon.of_execQueueDisable {p q v} (h : s.Canon) : NextCanon (execQueueDisable p q v s) := .next (.ite (.hostWrite h) h)

theorem NextCanon.of_execPortstatWrite {p q v} (h : s.Canon) : NextCanon (execPortstatWrite p q v s) := .next (.ite (.hostWrite h) h)

theorem NextCanon.of_execRegisterWrite {p off v} (h : s.Canon) : NextCanon (execRegisterWrite p off v s) := by
  refine .next ?_
  split
  · exact .hostWrite h
  · exact h

theorem NextCanon.of_execRingEntryReservation {p q} (h : s.Canon) : NextCanon (execRingEntryReservation p q s) := by
  refine .next ?_
  dsimp only
  split
  · split
    · exact h
    · split
      · exact .of_mem h
      · exact .writeRecord (.of_mem h)
  · exact h

theorem State.Canon.claimCells {k r} (h : s.Canon) : (s.claimCells k r).Canon := by
  refine .foldl (fun h => ?_) _ h
  split
  · exact .setVcell h
  · exact h

theorem NextCanon.of_execLaunchAdmission {p} (h : s.Canon) : NextCanon (execLaunchAdmission p s) := by
  refine .next ?_
  split
  · exact h
  · exact .setLaunch (.claimCells (.of_mem h))

theorem State.Canon.startPlace {x n} (h : s.Canon) : (s.startPlace x n).2.Canon := by
  unfold State.startPlace
  dsimp only
  split
  · exact h
  · exact .of_mem h

theorem State.Canon.startThread {k l x f n} (h : s.Canon) : (s.startThread k l x f n).Canon := .setThread (.startPlace (.of_mem h))

theorem State.Canon.wakeCell {k l x f} (h : s.Canon) : (s.wakeCell k l x f).Canon :=
  .foldl .startThread _ (.setVcell (.setCell (.ite (.setCell (.flushAll h)) (.setWays (.flushAll h)))))

theorem NextCanon.of_execSwarmMessage {l f} (h : s.Canon) : NextCanon (execSwarmMessage l f s) := by
  refine .next ?_
  split
  · exact .ite (.wakeCell (.of_mem h)) h
  · exact h

/-! ### Barriers, fences -/

theorem Body.Canon.of_barBody {i a b} : Body.Canon (barBody i a b) :=
  .aloneBody ⟨fun h => by
    dsimp only
    split
    · exact .trap h
    · refine .orTrap (.of_waitRx h) fun s h => .orStay h (.orTrap (.of_rmw .release h) fun r hr => ?_)
      split
      · exact .trap h
      · exact .of_arrive (.wordChanged hr)⟩

theorem Res.Canon.of_rewait {k t i hd n} (h : s.Canon) : (rewait s k t i hd n).Canon := by
  unfold rewait
  dsimp only
  split
  · exact .trap h
  · split
    · exact .trap h
    · exact .of_arrive h

theorem State.Canon.of_resumeHead {k} (h : s.Canon) : (resumeHead s k).Canon := by
  unfold resumeHead
  split
  · exact h
  · split
    · exact h
    · split
      · exact .of_settle (.of_rewait h)
      · exact h
      · split
        · exact .of_takeFault ((Yields.of_performHead h).of_error ‹_›)
        · exact .modThread ((Yields.of_performHead h).of_ok ‹_›)

theorem Body.Canon.of_fenceBody {o sc} : Body.Canon (fenceBody o sc) :=
  ⟨fun h => .orTrap (.of_waitRx h) fun _ h => .orStay h
    (.next (.ite (.acquire (.ite (.release h) h)) (.ite (.release h) h)))⟩

theorem State.Canon.applyTlbis {p} (h : s.Canon) : (s.applyTlbis p).Canon := by
  have hs : ((s.tlbisOf p).foldl State.applyTlbi s).Canon := .foldl .of_mem _ h
  exact .of_mem hs

theorem Body.Canon.of_tfenceBody {sc} : Body.Canon (tfenceBody sc) :=
  ⟨fun h => .orTrap (.of_waitRx h) fun _ h => .orStay h (.next (.applyTlbis (.release h)))⟩

/-! ### System instructions -/

theorem Body.Canon.superBody {b} (hb : Body.Canon b) : Body.Canon (superBody b) :=
  ⟨fun h => by
    unfold Machine.superBody
    split
    · exact .trap h
    · split
      · exact .trap h
      · exact hb.keeps h⟩

theorem NextCanon.of_execTrap {n} (h : s.Canon) : NextCanon (execTrap n s) :=
  .issue (.aloneBody ⟨fun h => .stay (.of_takeFault (.commit h))⟩) h

theorem State.Canon.clearTrap {t} (h : s.Canon) : (s.clearTrap t).Canon := by
  unfold State.clearTrap
  split
  · exact .ite h (.of_mem h)
  · exact h

theorem NextCanon.of_execRte (h : s.Canon) : NextCanon (execRte s) :=
  .issue (.superBody ⟨fun h => by
    dsimp only
    split
    · exact .stay h
    · split
      · exact .trap h
      · next e =>
        have hs := (Yields.of_cellRead h).of_ok e
        exact .stay (.of_resumeHead (.modThread (.clearTrap hs)))⟩) h

theorem NextCanon.of_execUrte (h : s.Canon) : NextCanon (execUrte s) :=
  .issue (.aloneBody ⟨fun h => by
    dsimp only
    split
    · exact .trap h
    · split
      · exact .jump (.modThread h)
      · split
        · exact .trap h
        · exact .stay (.of_resumeHead (.unyield (.modThread (.drainV h))))⟩) h

theorem NextCanon.of_execHalt (h : s.Canon) : NextCanon (execHalt s) :=
  .issue (.superBody ⟨fun h => .stay (.endThread (.drainRx h))⟩) h

theorem Res.Canon.of_ctxChecks {t acc va sel un} {f : LCell → VPlace → Res} (hf : ∀ {c p}, (f c p).Canon) (h : s.Canon) :
    (ctxChecks s t acc va sel un f).Canon := by
  unfold ctxChecks
  split
  · exact .trap h
  · split
    · exact .trap h
    · split
      · exact .trap h
      · split
        · exact .trap h
        · split
          · exact .trap h
          · exact hf

theorem State.Canon.removeEntry {k t} (h : s.Canon) : (s.removeEntry k t).Canon := .closeIfEmpty (.of_mem h)

theorem NextCanon.of_execCtxsv {a b} (h : s.Canon) : NextCanon (execCtxsv a b s) :=
  .issue (.superBody ⟨fun h => by
    refine .of_ctxChecks (fun {c p} => ?_) h
    split
    · split
      · exact .trap h
      · refine .orTrap (.of_waitRx h) fun s h => .orStay h ?_
        split
        · exact .trap ((Yields.of_cellStore (.release h)).of_error ‹_›)
        · have hs := (Yields.of_cellStore (.release h)).of_ok ‹_›
          exact .next (.ite (.removeEntry hs) hs)
    · split
      · exact .trap h
      · split
        · exact .trap h
        · split
          · exact .stay (.of_mem h)
          · exact .stay h⟩) h

theorem NextCanon.of_execCtxld {a b} (h : s.Canon) : NextCanon (execCtxld a b s) :=
  .issue (.superBody ⟨fun h => by
    refine .of_ctxChecks (fun {c p} => ?_) h
    refine .orTrap (.of_waitRx h) fun s h => ?_
    split
    · exact .trap h
    · next e =>
      have hs := (Yields.of_cellRead h).of_ok e
      dsimp only
      split
      · exact .trap hs
      · split
        · exact .trap hs
        · split
          · exact .trap hs
          · split
            · exact .trap hs
            · refine .orStay hs (.next (.drainRx (.spillOver (.noteAway (.setVcell (.setThread ?_))))))
              split
              · exact .of_mem hs
              · exact .of_mem hs⟩) h

theorem NextCanon.of_execTlbi {a b} (h : s.Canon) : NextCanon (execTlbi a b s) :=
  .issue (.superBody ⟨fun h => by
    dsimp only
    split
    · exact .trap h
    · exact .next (.of_mem h)⟩) h

theorem NextCanon.of_execCap {a} (h : s.Canon) : NextCanon (execCap a s) :=
  .issue (.superBody ⟨fun h => by
    dsimp only
    split
    · exact .trap h
    · exact .next (.capCell h)⟩) h

theorem Yields.of_scrubLine {w loc full} (h : s.Canon) : Yields (fun _ => True) State.Canon (scrubLine s w loc full) :=
  .map (.of_writeAt h) fun _ h => .foldl .wordChanged _ (.ite (.foldl .of_mem _ (.of_mem h)) (.of_mem h))

theorem Yields.of_scrubLines {w full} (l : List Word) (h : s.Canon) : Stops State.Canon (scrubLines w full s l) := by
  induction l generalizing s with
  | nil => exact .ok h
  | cons va l ih =>
    rw [scrubLines]
    split
    · exact .error h
    · split
      · exact .error h
      · exact ih ((Yields.of_scrubLine (.settleAt h)).of_ok ‹_›)

theorem NextCanon.of_execScrub {a b} (h : s.Canon) : NextCanon (execScrub a b s) :=
  .issue (.superBody ⟨fun h => by
    dsimp only
    split
    · exact .trap h
    · split
      · exact .trap h
      · split
        · exact .trap h
        · refine .orTrap (.of_waitRx h) fun s h => ?_
          split
          · exact .trap h
          · exact .orTrap (.of_scrubLines _ h) fun _ h => .next h⟩) h

/-! ### Tasks and where they run -/

theorem State.Canon.broodFault {k c va} (h : s.Canon) : (s.broodFault k c va).Canon := by
  unfold State.broodFault
  split
  · exact .of_mem h
  · exact h

theorem State.Canon.refill {k f x} (h : s.Canon) : (s.refill k f x).Canon := by
  unfold State.refill
  dsimp only
  split
  · exact h
  · split
    · exact .broodFault h
    · exact .setVcell h

theorem State.Canon.startTask {k f n x r} (h : s.Canon) : (s.startTask k f n x r).Canon :=
  .setThread (.startPlace (.of_mem (.of_acquireAt h)))

theorem NextCanon.of_execTaskStart {c n} (h : s.Canon) : NextCanon (execTaskStart c n s) := by
  refine .next ?_
  split
  · exact h
  · dsimp only
    split
    · exact h
    · split
      · exact .refill h
      · exact .startTask (.setVcell (.refill h))

theorem State.Canon.resumeAll {crew n} (h : s.Canon) : (s.resumeAll crew n).Canon := by
  refine .foldl (fun h => ?_) _ h
  split
  · exact .ite (.of_resumeHead (.of_mem h)) (.of_mem h)
  · exact h

theorem NextCanon.of_execContextResume {c n} (h : s.Canon) : NextCanon (execContextResume c n s) := by
  refine .next ?_
  split
  · exact h
  · exact .resumeAll h

theorem NextCanon.of_execStealAttempt {c} (h : s.Canon) : NextCanon (execStealAttempt c s) := by
  refine .next ?_
  split
  · exact h
  · dsimp only
    split
    · exact h
    · split
      · exact .of_mem h
      · exact .of_mem h

theorem State.Canon.stealFrom {k thief victim x} (h : s.Canon) : (s.stealFrom k thief victim x).2.Canon := by
  unfold State.stealFrom
  dsimp only
  split
  · exact h
  · split
    · split
      · exact .closeIfEmpty (.of_mem h)
      · exact h
    · split
      · exact .broodFault h
      · split
        · exact .closeIfEmpty (.of_mem h)
        · split
          · exact .closeIfEmpty (.of_mem h)
          · exact h

theorem NextCanon.of_execStealRequest {m} (h : s.Canon) : NextCanon (execStealRequest m s) := by
  refine .next ?_
  split
  · exact h
  · dsimp only
    split
    · exact .of_mem h
    · exact .of_mem (.stealFrom h)

theorem NextCanon.of_execStealAnswer {m} (h : s.Canon) : NextCanon (execStealAnswer m s) := by
  refine .next ?_
  split
  · exact h
  · dsimp only
    split
    · exact .of_mem h
    · split
      · split
        · exact .startTask (.of_mem h)
        · exact .of_mem h
      · exact .of_mem h

/-! ### The schedule, contexts -/

theorem State.Canon.lateTlbis (h : s.Canon) : s.lateTlbis.Canon := by
  unfold State.lateTlbis
  exact .ite h (.ite (.of_mem h) (.applyTlbis (.of_mem h)))

theorem State.Canon.passTime (h : s.Canon) : s.passTime.Canon := .lateTlbis (.of_mem h)

theorem State.Canon.shelve {b m f k} (h : s.Canon) : (s.shelve b m f k).Canon := by
  have hs : (s.stopThread k).Canon := .stopThread h
  unfold State.shelve
  dsimp only
  split
  · exact .of_mem hs
  · exact .unyield (.spillOver (.of_mem hs))

theorem State.Canon.shelveCrew {k t m f} (h : s.Canon) : (s.shelveCrew k t m f).Canon := by
  unfold State.shelveCrew
  split
  · exact .foldl (fun h => .shelve (.modThread h)) _ (.shelve h)
  · exact .shelve h

theorem State.Canon.saveCrew {k t m f} (h : s.Canon) : (s.saveCrew k t m f).Canon := by
  unfold State.saveCrew
  split
  · exact .unyield (.of_takeFault (.unpark h))
  · exact .shelveCrew h

theorem NextCanon.of_execPreemption {k} (h : s.Canon) : NextCanon (execPreemption k s) := by
  refine .next ?_
  split
  · exact h
  · split
    · exact h
    · exact .ite (.saveCrew h) h

theorem NextCanon.of_execForcedSave {k} (h : s.Canon) : NextCanon (execForcedSave k s) := by
  refine .next ?_
  split
  · exact h
  · exact .ite (.saveCrew h) h

theorem State.Canon.mismatch {k t} (h : s.Canon) : (s.mismatch k t).Canon := by
  have hgot : Yields (fun e => e.state.Canon) (fun r => r.2.Canon)
      (match t.todo with
        | some i => .ok (i, s)
        | none => fetchInstr s t : Except FetchFlt (Instr × State)) := by
    split
    · exact .ok h
    · exact .of_fetchInstr h
  unfold State.mismatch
  dsimp only
  split
  · exact .of_raiseAt (hgot.of_error ‹_›)
  · next e =>
    have hs := hgot.of_ok e
    exact .countEvent (.of_raiseAt hs)

theorem NextCanon.of_execCheckerRetry {k m} (h : s.Canon) : NextCanon (execCheckerRetry k m s) := by
  refine .next ?_
  split
  · exact h
  · split
    · exact .ite (.of_mem h) h
    · exact h

theorem NextCanon.of_execAccessCompletion {k} (h : s.Canon) : NextCanon (execAccessCompletion k s) := by
  refine .next ?_
  split
  · exact h
  · split
    · exact h
    · split
      · exact .unyield (.of_takeFault ((Yields.of_performHead h).of_error ‹_›))
      · exact (Yields.of_performHead h).of_ok ‹_›

theorem NextCanon.of_execRelaxedStoreAck {k n} (h : s.Canon) : NextCanon (execRelaxedStoreAck k n s) := by
  refine .next ?_
  split
  · exact h
  · exact .ite h (.modThread (.ackStore h))

theorem NextCanon.of_execPageWalk {c vf va k} (h : s.Canon) : NextCanon (execPageWalk c vf va k s) := by
  refine .next ?_
  dsimp only
  split
  · exact h
  · exact h
  · exact .fillTlb h

theorem State.Canon.waysBusy {k t} (h : s.Canon) : (s.waysBusy k t).Canon := .of_takeFault (.ite (.of_mem h) h)

theorem NextCanon.of_execWaitLimitExpiry {k} (h : s.Canon) : NextCanon (execWaitLimitExpiry k s) := by
  refine .next ?_
  split
  · exact h
  · split
    · split
      · exact h
      · split
        · exact .of_mem h
        · exact .of_mem h
        · exact .ite h (.waysBusy h)
        · exact .ite h (.waitLimit (.noteAway h))
        · exact .ite h (.waitLimit h)
    · exact .ite (.waitLimit h) h
    · exact .ite (.waitLimit h) h
    · exact h

/-! ### Ports and topology commands -/

theorem State.Canon.modPort {k q f} (h : s.Canon) : (s.modPort k q f).Canon := .of_mem h

theorem State.Canon.startMove {k qs m} (h : s.Canon) : (s.startMove k qs m).Canon := .foldl .modPort _ h

theorem NextCanon.of_execPortDrainComplete {k q} (h : s.Canon) : NextCanon (execPortDrainComplete k q s) := by
  refine .next ?_
  exact .ite h (.ite (.dueAdvance (.modPort h)) (.modPort h))

theorem NextCanon.of_execPortSwitchComplete {k q} (h : s.Canon) : NextCanon (execPortSwitchComplete k q s) := by
  refine .next ?_
  split
  · exact .ite (.modPort h) h
  · exact h

theorem State.Canon.logDown {k q n} (h : s.Canon) : (s.logDown k q n).Canon := .logEvent (.countEvent h)

theorem State.Canon.trainDown {k q n} (h : s.Canon) : (s.trainDown k q n).Canon := .settleTopo (.logDown (.modPort h))

theorem NextCanon.of_execPortTrainComplete {k q l} (h : s.Canon) : NextCanon (execPortTrainComplete k q l s) :=
  .next (.ite h (.ite (.trainDown (.modPort h)) (.modPort (.modPort h))))

theorem NextCanon.of_execTrainTimeout {k q} (h : s.Canon) : NextCanon (execTrainTimeout k q s) :=
  .next (.ite (.trainDown (.modPort h)) h)

theorem State.Canon.exchangeKeys {k l} (h : s.Canon) : (s.exchangeKeys k l).2.Canon := by
  unfold State.exchangeKeys
  dsimp only
  split
  · exact .of_mem h
  · exact .of_mem h

theorem State.Canon.joinPorts {a q b} (h : s.Canon) : (s.joinPorts a q b).Canon := by
  unfold State.joinPorts
  split
  · exact h
  · exact .of_mem h

theorem NextCanon.of_execPortAuth {k q ok peer leaf} (h : s.Canon) : NextCanon (execPortAuth k q ok peer leaf s) :=
  .next (.ite h (.ite (.settleTopo (.modPort (.ite h (.of_mem h)))) (.settleTopo (.joinPorts (.modPort (.exchangeKeys h))))))

theorem State.Canon.replay {k q} (h : s.Canon) : (s.replay k q).Canon := by
  unfold State.replay
  split
  · exact .modPort h
  · exact h

theorem State.Canon.inSequence {k q n} (h : s.Canon) : (s.inSequence k q n).Canon := by
  unfold State.inSequence
  dsimp only
  split
  · exact h
  · split
    · exact .modPort h
    · split
      · exact .addPacket (.carries (.modPort h))
      · exact .carries (.modPort h)
      · exact .ite (.modPort (.modPort h)) h

theorem State.Canon.keyDue {a q} (h : s.Canon) : (s.keyDue a q).Canon := .ite (.updateKey h) h

theorem State.Canon.keysDue {a q} (h : s.Canon) : (s.keysDue a q).Canon := by
  unfold State.keysDue
  split
  · exact .keyDue (.keyDue h)
  · exact .keyDue h

theorem State.Canon.discardFlit {k q b} (h : s.Canon) : (s.discardFlit k q b).Canon :=
  .ite (.startMove (.modPort (.modPort h))) (.modPort h)

theorem NextCanon.of_execFlitReceive {k q f d b} (h : s.Canon) : NextCanon (execFlitReceive k q f d b s) := by
  refine .next ?_
  dsimp only
  split
  · exact h
  · split
    · exact .discardFlit h
    · split
      · have hr {c : Prop} [Decidable c] {g} : State.Canon (if c then (s.modPort k q g).replay k q else s.modPort k q g) :=
          .ite (.replay (.modPort h)) (.modPort h)
        exact .keysDue (.inSequence (.ite (.carries hr) hr))
      · exact .discardFlit h

theorem NextCanon.of_execReplayTimeout {k q} (h : s.Canon) : NextCanon (execReplayTimeout k q s) :=
  .next (.ite (.replay (.modPort h)) h)

theorem State.Canon.sendControl {k q f} (h : s.Canon) : (s.sendControl k q f).Canon := by
  unfold State.sendControl
  split
  · exact .ite h (.sendFlits (.of_mem h))
  · exact h

theorem NextCanon.of_execCodeRequest {k q m} (h : s.Canon) : NextCanon (execCodeRequest k q m s) :=
  .next (.ite h (.sendControl (.modPort h)))

theorem NextCanon.of_execCodeAcknowledgement {k q} (h : s.Canon) : NextCanon (execCodeAcknowledgement k q s) := by
  refine .next ?_
  split
  · exact .settleTopo (.modPort h)
  · exact h

theorem State.Canon.sendCode {k q m} (h : s.Canon) : (s.sendCode k q m).Canon := .sendControl h

theorem NextCanon.of_execCodeRequestRetry {k q} (h : s.Canon) : NextCanon (execCodeRequestRetry k q s) := by
  refine .next ?_
  dsimp only
  split
  · exact .ite (.sendCode (.modPort h)) h
  · exact h

theorem NextCanon.of_execKeyUpdate {k q} (h : s.Canon) : NextCanon (execKeyUpdate k q s) := .next (.ite h (.updateKey h))

theorem State.Canon.resolvePacket {p} (h : s.Canon) : (s.resolvePacket p).Canon := by
  unfold State.resolvePacket
  split
  · exact .foldl .errorReply _ h
  · exact .foldl .errorReply _ h
  · exact .addPacket h
  · exact .addPacket h
  · exact .sendAgain h

theorem State.Canon.losePort {k q} (h : s.Canon) : (s.losePort k q).Canon :=
  .settleTopo (.dueAdvance (.logDown (.foldl .resolvePacket _ (.modPort h))))

theorem State.Canon.dropLanes {k q l} (h : s.Canon) : (s.dropLanes k q l).Canon :=
  .ite h (.ite (.modPort h) (.ite (.losePort (.modPort h)) (.ite (.modPort h) (.replay (.modPort (.modPort h))))))

theorem NextCanon.of_execSpareLineRejoin {k q l} (h : s.Canon) : NextCanon (execSpareLineRejoin k q l s) :=
  .next (.ite (.modPort (.of_mem h)) h)

theorem NextCanon.of_execPowerDown {k q} (h : s.Canon) : NextCanon (execPowerDown k q s) := .next (.ite (.modPort h) h)

theorem NextCanon.of_execPortWake {k q} (h : s.Canon) : NextCanon (execPortWake k q s) := by
  refine .next ?_
  dsimp only
  split
  · exact .ite (.sendFlits (.modPort (.modPort h))) (.modPort (.modPort h))
  · exact .modPort h

theorem Yields.of_readDesc {t va n a} (h : s.Canon) : Stops (fun r => r.2.Canon) (readDesc s t va n a) := by
  unfold readDesc
  refine .foldlM (q' := fun r : List Byte × State => r.2.Canon) (fun b x h => ?_) _ h
  dsimp only
  split
  · exact .error h
  · split
    · exact .error (.storedError (.fillTlb h))
    · next e =>
      have hs := (Yields.of_readAt (.fillTlb h)).of_ok e
      exact .ok hs

theorem Yields.of_topoImage {t d} (h : s.Canon) : Stops (fun r => r.2.Canon) (topoImage s t d) := by
  unfold topoImage
  split
  · exact .ok h
  · refine .bind (q := fun r : List Byte × State => r.2.Canon) (.of_readDesc h) fun r h => ?_
    dsimp only
    split
    · exact .error h
    · exact .ok h

theorem NextCanon.of_execTopo {d a} (h : s.Canon) : NextCanon (execTopo d a s) :=
  .issue (.superBody (.of_engineBody ⟨fun h => .orTrap (.of_readDesc h) fun r h => by
    dsimp only
    split
    · exact .trap h
    · refine .orTrap (.of_topoImage h) fun x h => ?_
      split
      · exact .park h
      · exact .next (.beginOp (.of_mem h))⟩)) h

theorem State.Canon.takeTopo {k c} {f : State → Topo → State} (hf : ∀ {s c}, s.Canon → (f s c).Canon) (h : s.Canon) :
    (s.takeTopo k c f).Canon := by
  unfold State.takeTopo
  split
  · exact .ite (hf (.of_mem h)) h
  · exact h

theorem NextCanon.of_execLoadrt {k} (h : s.Canon) : NextCanon (execLoadrt k s) :=
  .next (.takeTopo (fun h => .endTopo (.of_mem h)) h)

theorem NextCanon.of_execCode {k} (h : s.Canon) : NextCanon (execCode k s) :=
  .next (.takeTopo (fun h => .settleTopo (.foldl (fun h => .sendCode (.modPort h)) _ h)) h)

theorem NextCanon.of_execPower {k} (h : s.Canon) : NextCanon (execPower k s) :=
  .next (.takeTopo (fun h => .endTopo (.foldl .modPort _ h)) h)

theorem NextCanon.of_execReconf {k} (h : s.Canon) : NextCanon (execReconf k s) :=
  .next (.takeTopo (fun h => .settleTopo (.startMove h)) h)

theorem NextCanon.of_execClose {k} (h : s.Canon) : NextCanon (execClose k s) :=
  .next (.takeTopo (fun h => .settleTopo (.startMove h)) h)

/-! ### Multicasts, shuffles, reductions -/

theorem State.Canon.dropLocks {o} (h : s.Canon) : (s.dropLocks o).Canon := .of_mem h

theorem State.Canon.inject {n p} (h : s.Canon) : (s.inject n p).Canon := .of_mem h

theorem State.Canon.dropPacket {i} (h : s.Canon) : (s.dropPacket i).Canon := .of_mem h

theorem State.Canon.endReg {k r} (h : s.Canon) : (s.endReg k r).Canon := .foldl .ackGen _ (.of_mem h)

theorem State.Canon.endRegs {k} (h : s.Canon) : (s.endRegs k).Canon := .foldl .endReg _ h

theorem State.Canon.noteShuf {f} (h : s.Canon) : (s.noteShuf f).Canon := .ite h (.of_mem h)

theorem State.Canon.endFop {f} (h : s.Canon) : (s.endFop f).Canon := .endRegs (.deliverEntry (.of_mem (.noteShuf h)))

theorem State.Canon.putFop {f} (h : s.Canon) : (s.putFop f).Canon := .ite (.endFop h) (.of_mem h)

theorem State.Canon.modReg {k x f} (h : s.Canon) : (s.modReg k x f).Canon := .of_mem h

theorem State.Canon.resolveAsk {k x b} (h : s.Canon) : (s.resolveAsk k x b).Canon := by
  unfold State.resolveAsk
  split
  · exact h
  · split
    · exact .ackGen (.modReg h)
    · exact h

theorem State.Canon.noteHeld {r b pc} (h : s.Canon) : (s.noteHeld r b pc).Canon := by
  unfold State.noteHeld
  split
  · exact h
  · exact .engNote h

theorem State.Canon.settleReg {k x} (h : s.Canon) : (s.settleReg k x).Canon := by
  unfold State.settleReg
  split
  · exact h
  · exact .ite h (.endRegs (.deliverEntry (.modReg h)))

theorem State.Canon.of_mstSend {k d f b} (h : s.Canon) : (mstSend s k d f b).Canon := by
  have hs {q : DoneQ} : (s.beginOp k (some d) q).Canon := .beginOp h
  unfold mstSend
  dsimp only
  split
  · exact .deliverEntry (.engNote (.dropLocks hs))
  · exact .foldl .inject _ (.of_mem hs)

theorem NextCanon.of_execMst {d a} (h : s.Canon) : NextCanon (execMst d a s) :=
  .issue (.aloneBody (.of_engineBody ⟨fun h => .orTrap (.of_readDesc h) fun r h => by
    dsimp only
    split
    · exact .trap h
    · split
      · exact .trap h
      · split
        · exact .trap h
        · split
          · exact .park h
          · split
            · exact .park h
            · next e =>
              have hs := (Yields.of_tryLocks (.of_mem h)).of_ok e
              exact .next (.of_mstSend hs)⟩)) h

theorem NextCanon.of_execMulticastData {p} (h : s.Canon) : NextCanon (execMulticastData p s) := by
  refine .next ?_
  split
  · exact h
  · split
    · dsimp only
      split
      · exact .answerAll (.dropPacket h)
      · exact .ite (.answerAll (.dropPacket h)) (.answerAll (.store (.dropPacket h)))
    · exact .dropPacket h
    · exact h

theorem Body.Canon.of_setRegister {i d desc table va} : Body.Canon (setRegister i d desc table va) :=
  ⟨fun h => by
    refine .ite (.trap h) (.ite (.trap h) (.ite (.trap h) (.ite (.park h) ?_)))
    split
    · exact .park h
    · split
      · exact .park h
      · next e =>
        have hs := (Yields.of_tryLocks (.of_mem h)).of_ok e
        exact .next (.settleReg (.beginOp (.of_mem hs)))⟩

theorem NextCanon.of_execShufset {d a} (h : s.Canon) : NextCanon (execShufset d a s) :=
  .issue (.aloneBody (.of_engineBody ⟨fun h => .orTrap (.of_readDesc h) fun r h => by
    dsimp only
    split
    · exact .trap h
    · exact .orTrap (.of_readDesc h) fun _ h => Body.Canon.of_setRegister.keeps h⟩)) h

theorem State.Canon.of_planSend {f r p} (h : s.Canon) : (planSend s f r p).Canon := .foldl (fun h => .inject (.noteHeld h)) _ h

theorem Body.Canon.of_planPost {i d x p va} : Body.Canon (planPost i d x p va) :=
  ⟨fun h => by
    unfold planPost
    dsimp only
    split
    · exact .trap h
    · split
      · exact .trap h
      · split
        · exact .park h
        · exact .next (.putFop (.of_planSend (.of_mem (.beginOp (.fresh h)))))⟩

theorem NextCanon.of_execShuf {d a} (h : s.Canon) : NextCanon (execShuf d a s) :=
  .issue (.aloneBody (.of_engineBody ⟨fun h => .orTrap (.of_readDesc h) fun r h => by
    dsimp only
    split
    · exact .trap h
    · refine .orTrap (.of_readDesc h) fun _ h => ?_
      split
      · exact .trap h
      · exact Body.Canon.of_planPost.keeps h⟩)) h

theorem State.Canon.takeBlock {k r p b bs} (h : s.Canon) : (s.takeBlock k r p b bs).Canon := by
  have hend {s : State} {x f} (h : s.Canon) : ((s.modReg k x f).settleReg k x).Canon := .settleReg (.modReg h)
  unfold State.takeBlock
  split
  · exact h
  · split
    · exact h
    · dsimp only
      split
      · exact hend h
      · split
        · exact hend h
        · split
          · exact hend h
          · split
            · exact hend h
            · exact hend ((Yields.of_engWrite h).of_ok ‹_›)

theorem State.Canon.refuseBlock {p c bs} (h : s.Canon) : (s.refuseBlock p c bs).Canon := .ite (.answerAll h) (.addPacket h)

theorem NextCanon.of_execShuffleBlock {p} (h : s.Canon) : NextCanon (execShuffleBlock p s) := by
  refine .next ?_
  split
  · exact h
  · split
    · exact h
    · dsimp only
      split
      · exact .refuseBlock (.dropPacket h)
      · exact .answerAll (.takeBlock (.dropPacket h))

theorem NextCanon.of_execShuffleResend {p} (h : s.Canon) : NextCanon (execShuffleResend p s) := by
  refine .next ?_
  split
  · exact h
  · split
    · exact .ite (.sendAgain (.dropPacket h)) h
    · exact h

theorem NextCanon.of_execCodedShuffle {p} (h : s.Canon) : NextCanon (execCodedShuffle p s) := by
  have hd : (s.dropPacket p).Canon := .dropPacket h
  refine .next ?_
  split
  · exact h
  · split
    · exact h
    · dsimp only
      split
      · refine .foldl (fun h => ?_) _ hd
        split
        · split
          · exact .refuseBlock h
          · exact .refuseBlock (.noteHeld h)
        · exact .answerAll h
      · split
        · exact .answerAll hd
        · split
          · exact .answerAll hd
          · split
            · exact .answerAll (.takeBlock hd)
            · refine .ite ?_ (.inject (.modReg ?_))
              · split
                · exact .noteHeld hd
                · exact hd
              · split
                · exact .noteHeld hd
                · exact hd

theorem NextCanon.of_execFallbackRequest {p} (h : s.Canon) : NextCanon (execFallbackRequest p s) := by
  have hd : (s.dropPacket p).Canon := .dropPacket h
  refine .next ?_
  split
  · exact h
  · split
    · exact h
    · refine .sendAgain (.resolveAsk ?_)
      split
      · exact .noteHeld hd
      · exact hd

theorem NextCanon.of_execXred {d a} (h : s.Canon) : NextCanon (execXred d a s) :=
  .issue (.aloneBody (.of_engineBody ⟨fun h => .orTrap (.of_readDesc h) fun r h => by
    dsimp only
    split
    · exact .trap h
    · refine .orTrap (.of_readDesc h) fun _ h => ?_
      split
      · exact .trap h
      · split
        · exact .park h
        · exact .next (.inject (.of_mem (.beginOp (.fresh h))))⟩)) h

theorem NextCanon.of_execXsumReduction {p} (h : s.Canon) : NextCanon (execXsumReduction p s) := by
  have hd : (s.dropPacket p).Canon := .dropPacket h
  refine .next ?_
  split
  · exact h
  · exact .ite h (.ite (.answerAll (.storedFar hd)) (.ite (.answerAll hd) (.answerAll (.store hd))))

theorem NextCanon.of_execAcknowledgement {p} (h : s.Canon) : NextCanon (execAcknowledgement p s) := by
  have hd : (s.dropPacket p).Canon := .dropPacket h
  refine .next ?_
  split
  · exact h
  · split
    · exact h
    · dsimp only
      split
      · split
        · exact .answerAll (.takeBlock (.resolveAsk hd))
        · exact hd
      · split
        · exact hd
        · exact .ite (.ackGen (.putFop hd)) hd

/-! ### The optical matrix unit -/

theorem State.Canon.modOmu {c f} (h : s.Canon) : (s.modOmu c f).Canon := .of_mem h

theorem State.Canon.setOmu {c x} (h : s.Canon) : (s.setOmu c x).Canon := .of_mem h

theorem Res.Canon.of_startLoad {k t d b dec tile w hd base} (h : s.Canon) : (startLoad s k t d b dec tile w hd base).Canon := by
  unfold startLoad
  dsimp only
  split
  · exact .park h
  · split
    · exact .park h
    · next e =>
      have h1 := (Yields.of_tryLocks (.of_mem h)).of_ok e
      split
      · exact .park h
      · have h2 := (Yields.of_tryLocks h1).of_ok ‹_›
        exact .next (.beginOp (.modOmu (.ite (.of_flushVirtual h2) h2)))

theorem Body.Canon.of_loadCmd {i dec d a b} : Body.Canon (loadCmd i dec d a b) :=
  ⟨fun h => by
    unfold loadCmd
    split
    · exact .trap h
    · refine (Body.Canon.of_engineBody ⟨fun h => ?_⟩).keeps h
      dsimp only
      split
      · exact .trap h
      · split
        · exact .trap h
        · split
          · exact .trap h
          · split
            · exact .of_startLoad h
            · split
              · exact .next (.deliverEntry (.beginOp h))
              · split
                · exact .trap h
                · exact .of_startLoad h⟩

theorem State.Canon.setLoad {c l} (h : s.Canon) : (s.setLoad c l).Canon := .of_mem h

theorem State.Canon.bindBank {c l i} (h : s.Canon) : (s.bindBank c l i).Canon := .of_mem h

theorem NextCanon.of_execTileCaptureEnd {c} (h : s.Canon) : NextCanon (execTileCaptureEnd c s) := by
  refine .next ?_
  split
  · exact h
  · split
    · exact h
    · dsimp only
      split
      · exact .setLoad (.engNote (.dropLocks h))
      · exact .ite (.setLoad (.modOmu (.dropLocks h))) (.setLoad (.modOmu (.dropLocks h)))

theorem NextCanon.of_execImageBlockRead {c} (h : s.Canon) : NextCanon (execImageBlockRead c s) := by
  refine .next ?_
  split
  · exact h
  · split
    · exact h
    · split
      · exact .setLoad h
      · split
        · exact .setLoad (.engNote h)
        · exact .ite (.setLoad h) (.ite (.setLoad (.bindBank h)) (.setLoad h))

theorem NextCanon.of_execDecompositionComplete {c} (h : s.Canon) : NextCanon (execDecompositionComplete c s) := by
  refine .next ?_
  split
  · exact h
  · split
    · exact h
    · dsimp only
      split
      · exact .setLoad (.bindBank h)
      · split
        · exact .setLoad (.bindBank h)
        · split
          · exact .setLoad (.bindBank h)
          · exact .setLoad ((Yields.of_engWrite (.bindBank h)).of_ok ‹_›)

theorem NextCanon.of_execLoadCompletion {c} (h : s.Canon) : NextCanon (execLoadCompletion c s) := by
  refine .next ?_
  split
  · exact h
  · exact .ite h (.deliverEntry (.modOmu (.dropLocks (.dropLocks h))))

theorem NextCanon.of_execPcal {a b} (h : s.Canon) : NextCanon (execPcal a b s) :=
  .issue ⟨fun h => by
    dsimp only
    split
    · exact .trap h
    · split
      · exact .trap h
      · split
        · exact .trap h
        · exact .next (.modOmu h)⟩ h

theorem NextCanon.of_execPstat {d a} (h : s.Canon) : NextCanon (execPstat d a s) :=
  .issue ⟨fun {s k t} h => by
    have hr {d v} : (Res.next (s.setReg k d v)).Canon := .next (.setReg h)
    refine .ite hr (.ite hr (.ite hr ?_))
    split
    · exact .trap h
    · generalize (t.ctx.gpr a).toNat - 0x10000 = m
      exact .ite (.trap h) hr⟩ h

/-! ### Passes -/

theorem State.Canon.pushPost {c e} (h : s.Canon) : (s.pushPost c e).Canon := .of_mem h

theorem Body.Canon.of_postRecord {i d r} : Body.Canon (postRecord i d r) :=
  ⟨fun h => by
    unfold postRecord
    dsimp only
    split
    · exact .park (.modThread h)
    · split
      · exact .park (.modThread h)
      · next e =>
        have hs := (Yields.of_tryLocks (.of_mem h)).of_ok e
        exact .next (.beginOp (.pushPost (.of_flushVirtual hs)))⟩

theorem Body.Canon.of_postPass {i d va} : Body.Canon (postPass i d va) :=
  .of_engineBody ⟨fun h => by
    dsimp only
    split
    · exact Body.Canon.of_postRecord.keeps h
    · split
      · exact .trap h
      · split
        · exact .trap (.storedError h)
        · next e =>
          have hs := (Yields.of_readAt h).of_ok e
          split
          · exact .trap hs
          · split
            · exact .trap hs
            · exact Body.Canon.of_postRecord.keeps hs⟩

theorem NextCanon.of_execPass {d a} (h : s.Canon) : NextCanon (execPass d a s) :=
  .issue ⟨fun h => by
    split
    · exact .trap h
    · exact Body.Canon.of_postPass.keeps h⟩ h

theorem NextCanon.of_execPswap (h : s.Canon) : NextCanon (execPswap s) :=
  .issue ⟨fun h => by
    split
    · exact .trap h
    · refine .orTrap (.of_waitRx h) fun s h => ?_
      dsimp only
      split
      · exact .park h
      · exact .next (.pushPost (.of_mem h))⟩ h

theorem NextCanon.of_execProbe {d a} (h : s.Canon) : NextCanon (execProbe d a s) :=
  .issue ⟨fun h => by
    split
    · exact .trap h
    · refine (Body.Canon.of_engineBody ⟨fun h => ?_⟩).keeps h
      refine .ite (.trap h) (.ite (.trap h) (.ite (.park h) (.ite (.park h) ?_)))
      split
      · exact .trap h
      · exact .next (.beginOp (.pushPost (.fresh h)))⟩ h

theorem State.Canon.endPass {c p} (h : s.Canon) : (s.endPass c p).Canon := .deliverEntry (.of_mem h)

theorem State.Canon.endProbe {b st dir e} (h : s.Canon) : (s.endProbe b st dir e).Canon := .deliverEntry h

theorem State.Canon.endProbes {e st dir n} (h : s.Canon) : (s.endProbes e st dir n).Canon := .foldl .endProbe _ (.endProbe h)

theorem State.Canon.settleOmu {c} (h : s.Canon) : (s.settleOmu c).Canon := .of_mem h

theorem State.Canon.abortQueued {c e} (h : s.Canon) : (s.abortQueued c e).Canon := by
  refine .settleOmu ?_
  split
  · exact .endPass (.modOmu h)
  · split
    · exact .endProbes (.modOmu h)
    · exact .modOmu (.modOmu h)
  · exact .modOmu h

theorem State.Canon.abortStream {c p} (h : s.Canon) : (s.abortStream c p).Canon := .ite h (.of_mem h)

theorem NextCanon.of_execPabort {a} (h : s.Canon) : NextCanon (execPabort a s) :=
  .issue ⟨fun h => by
    dsimp only
    split
    · exact .trap h
    · split
      · exact .trap h
      · have hs {c} {es : List PostEntry} {ps : List Pass} :
            (ps.foldl (fun (s : State) p => s.abortStream c p) (es.foldl (fun (s : State) e => s.abortQueued c e) _)).Canon :=
          .foldl .abortStream _ (.foldl .abortQueued _ h)
        exact .orStay hs (.next hs)⟩ h

/-! ### The stream of passes -/

theorem State.Canon.noteVec {w r v pc} (h : s.Canon) : (s.noteVec w r v pc).Canon := by
  unfold State.noteVec
  split
  · exact .engNote h
  · exact h

theorem State.Canon.strayFlags {c l} (h : s.Canon) : (s.strayFlags c l).Canon := .of_mem h

theorem State.Canon.of_commitVec {c x} (h : s.Canon) : (commitVec c s x).Canon := by
  unfold commitVec
  split
  · split
    · exact h
    · split
      · exact h
      · split
        · exact .modOmu h
        · exact .of_mem ((Yields.of_engWrite h).of_ok ‹_›)
  · exact h

theorem State.Canon.of_drainStream {c : ClusterId} : ∀ (n : Nat) {s : State}, s.Canon → (drainStream c n s).Canon
  | 0, _, h => h
  | n + 1, s, h => by
    rw [drainStream]
    dsimp only
    split
    · have hs {l : List StreamItem} {f} : ((l.foldl (commitVec c) s).modOmu c f).Canon := .modOmu (.foldl .of_commitVec _ h)
      split
      · exact of_drainStream n (.endPass hs)
      · exact hs
    · exact h

theorem State.Canon.of_settleStream {c} (h : s.Canon) : (settleStream c s).Canon := .settleOmu (.of_drainStream _ h)

theorem State.Canon.of_failStream {c st b n} (h : s.Canon) : (failStream s c st b n).Canon := by
  have hs {l : List Pass} {f : Pass → Pass} {i g} : (l.foldl (fun (s : State) p => s.endPass c (f p)) ((s.strayFlags c i).modOmu c g)).Canon :=
    .foldl .endPass _ (.modOmu (.strayFlags h))
  unfold failStream
  refine .ite hs (.foldl (fun h => ?_) _ hs)
  split
  · exact .endPass (.modOmu h)
  · exact h

theorem State.Canon.countDrift {c} (h : s.Canon) : (s.countDrift c).Canon := .modOmu h

theorem NextCanon.of_execPassStart {c} (h : s.Canon) : NextCanon (execPassStart c s) := by
  refine .next ?_
  dsimp only
  split
  · split
    · refine .ite h ?_
      split
      · exact .ite (.of_settleStream (.modOmu (.modOmu h))) (.settleOmu (.endPass (.modOmu h)))
      · exact .of_settleStream (.modOmu (.ite (.noteVec (.modOmu h)) (.modOmu h)))
    · exact h
  · exact h

theorem State.Canon.of_commitScout {c b x r} (h : s.Canon) : (commitScout s c b x r).Canon := by
  refine .of_settleStream ?_
  have hs {f l} : (((b.foldl (commitVec c) s).strayFlags c l).modOmu c f).Canon :=
    .modOmu (.strayFlags (.foldl .of_commitVec _ h))
  split
  · exact .ite (.endPass hs) hs
  · exact hs

theorem NextCanon.of_execScoutVerdict {c e} (h : s.Canon) : NextCanon (execScoutVerdict c e s) := by
  refine .next ?_
  dsimp only
  split
  · exact h
  · split
    · exact h
    · exact .ite (.modOmu (.of_commitScout (.modOmu h))) (.of_failStream (.countDrift (.modOmu h)))

theorem NextCanon.of_execResolverAudit {c m} (h : s.Canon) : NextCanon (execResolverAudit c m s) :=
  .next (.ite (.of_failStream (.countEvent (.countDrift (.of_mem h)))) h)

theorem NextCanon.of_execPassStop {c} (h : s.Canon) : NextCanon (execPassStop c s) := by
  refine .next ?_
  split
  · exact h
  · exact .modOmu h

theorem NextCanon.of_execBankSwap {c} (h : s.Canon) : NextCanon (execBankSwap c s) := by
  refine .next ?_
  dsimp only
  split
  · exact .ite (.setOmu h) h
  · exact h

theorem NextCanon.of_execProbeStart {c e} (h : s.Canon) : NextCanon (execProbeStart c e s) := by
  refine .next ?_
  dsimp only
  split
  · split
    · exact .ite h (.ite (.endProbes (.setOmu h)) (.ite (.endProbes (.setOmu h)) (.endProbes (.modOmu (.setOmu h)))))
    · exact h
  · exact h

theorem State.Canon.loseOmu {c n} (h : s.Canon) : (s.loseOmu c n).Canon := .ite h (.logEvent (.of_failStream h))

theorem State.Canon.dropCarrier {c} (h : s.Canon) : (s.dropCarrier c).Canon := .loseOmu (.of_mem h)

theorem NextCanon.of_execThermalLoss {c} (h : s.Canon) : NextCanon (execThermalLoss c s) := .next (.loseOmu (.modOmu h))

theorem State.Canon.spareCarrier {c} (h : s.Canon) : (s.spareCarrier c).Canon := by
  unfold State.spareCarrier
  dsimp only
  split
  · exact .ite (.of_mem h) h
  · exact h

theorem NextCanon.of_execOmuRecalibration {c x} (h : s.Canon) : NextCanon (execOmuRecalibration c x s) :=
  .next (.ite (.logEvent (.setOmu h)) h)

/-! ### Retirement, function-level reset -/

theorem State.Canon.stopCopies {p} (h : s.Canon) : (s.stopCopies p).Canon := .foldl (fun h => .foldl .of_mem _ h) _ h

theorem State.Canon.stopPasses {p} (h : s.Canon) : (s.stopPasses p).Canon :=
  .foldl (fun h => .foldl .abortStream _ (.foldl .abortQueued _ h)) _ h

theorem State.Canon.stopRegs {p} (h : s.Canon) : (s.stopRegs p).Canon := .foldl (fun h => .foldl .endReg _ h) _ h

theorem State.Canon.stopEngines {p} (h : s.Canon) : (s.stopEngines p).Canon := .stopRegs (.stopPasses (.stopCopies h))

theorem State.Canon.settleLaunch {l} (h : s.Canon) : (s.settleLaunch l).Canon := by
  refine .foldl (fun h => ?_) _ h
  split
  · exact .cleanAll h
  · exact h

theorem State.Canon.dropLaunch {k} (h : s.Canon) : (s.dropLaunch k).Canon := .of_mem h

theorem State.Canon.emptyCells {k} (h : s.Canon) : (s.emptyCells k).Canon := .of_mem h

theorem NextCanon.of_execLaunchRetirement {k} (h : s.Canon) : NextCanon (execLaunchRetirement k s) := by
  refine .next ?_
  split
  · exact h
  · exact .ite h (.ite h (.dropLaunch (.stopRegs (.writeRecord (.settleLaunch h)))))

/-- The threads of a launch ended, each with its relaxed stores performed. -/
theorem State.Canon.endThreads {ks : List Nat} (h : s.Canon) : (ks.foldl (fun (s : State) k => (s.drainRx k).endThread k) s).Canon :=
  .foldl (fun h => .endThread (.drainRx h)) _ h

theorem State.Canon.endLaunch {k l st r d} (h : s.Canon) : (s.endLaunch k l st r d).Canon :=
  .stopEngines (.emptyCells (.endThreads (.setLaunch h)))

theorem NextCanon.of_execLaunchEnd {k} (h : s.Canon) : NextCanon (execLaunchEnd k s) := by
  refine .next ?_
  split
  · exact h
  · split
    · exact .endLaunch h
    · exact h

theorem State.Canon.flrQueue {p q} (h : s.Canon) : (s.flrQueue p q).Canon := .of_mem (.flushQueue h)

theorem State.Canon.flrLaunch {x} (h : s.Canon) : (s.flrLaunch x).Canon :=
  .stopEngines (.emptyCells (.endThreads (.setLaunch (.writeRecord h))))

theorem NextCanon.of_execFunctionLevelReset {p v} (h : s.Canon) : NextCanon (execFunctionLevelReset p v s) := by
  have hs {qs : List Nat} {l : List (Nat × Launch)} : (l.foldl State.flrLaunch (qs.foldl (fun (s : State) q => s.flrQueue p q) s)).Canon :=
    .foldl .flrLaunch _ (.foldl .flrQueue _ h)
  exact .next (.ite hs (.of_mem hs))

theorem State.Canon.scrubCell {c} (h : s.Canon) : (s.scrubCell c).Canon := .setCell (.clearRange h)

theorem State.Canon.scrubCluster {v x} (h : s.Canon) : (s.scrubCluster v x).Canon := by
  unfold State.scrubCluster
  split
  · exact h
  · exact .modOmu (.clearRange (.of_mem (.foldl .setCell _ (.foldl .scrubCell _ h))))

theorem NextCanon.of_execFlrDrainComplete {p v} (h : s.Canon) : NextCanon (execFlrDrainComplete p v s) :=
  .next (.ite h (.logEvent (.of_mem (.foldl .scrubCluster _ (.foldl .dropLaunch _ h)))))

/-! ### Remapping a cluster -/

theorem State.Canon.moveMem {cs ms} (h : s.Canon) : (s.moveMem cs ms).Canon := State.moveMem_wf h cs ms

theorem State.Canon.moveRegs {s0 x ps l} (h : s.Canon) : (s.moveRegs s0 x ps l).Canon := .foldl .setCell _ (.foldl .setCell _ h)

theorem State.Canon.moveThreads {x ps} (h : s.Canon) : (s.moveThreads x ps).Canon := by
  refine .foldl (fun h => ?_) _ h
  split
  · split
    · exact .modThread h
    · exact h
  · exact h

theorem State.Canon.moveUnits {a b} (h : s.Canon) : (s.moveUnits a b).Canon := .ite h (.of_mem h)

theorem State.Canon.fitDeque {x j} (h : s.Canon) : (s.fitDeque x j).Canon := by
  unfold State.fitDeque
  split
  · exact h
  · exact .ite h (.spill h)

theorem State.Canon.readvertise {x} (h : s.Canon) : (s.readvertise x).Canon := .foldl .of_mem _ h

theorem State.Canon.remap {x a b m} (h : s.Canon) : (s.remap x a b m).Canon := by
  have hf {cs : List PCell} : (cs.foldl State.flushAll s).Canon := .foldl .flushAll _ h
  refine .foldl .spillAll _ (.readvertise (.foldl .fitDeque _ (.of_mem (.moveUnits (.moveThreads (.moveRegs ?_))))))
  exact .of_mem (.moveMem hf)

theorem State.Canon.unseal {x js} (h : s.Canon) : (s.unseal x js).Canon :=
  .foldl (fun h => .ite (.modThread (.drainV h)) h) _ h

theorem State.Canon.endHomeless {x js} (h : s.Canon) : (s.endHomeless x js).Canon := by
  unfold State.endHomeless
  split
  · exact .ite h (.endLaunch h)
  · exact h

theorem State.Canon.restarted {x k n js m} (h : s.Canon) : (s.restarted x k n js m).Canon :=
  .unseal (.foldl (fun h => .setVcell (.logEvent h)) _ h)

theorem State.Canon.restartCell {x k n} (h : s.Canon) : (s.restartCell x k n).Canon := by
  unfold State.restartCell
  dsimp only
  split
  · exact .endHomeless h
  · exact .restarted (.remap h)

theorem State.Canon.restartAll {x k} (h : s.Canon) : (s.restartAll x k).Canon := .of_mem (.foldl .restartCell _ h)

theorem State.Canon.remapAll {x k b m} (h : s.Canon) : (s.remapAll x k b m).Canon := .foldl .restarted _ (.remap h)

theorem State.Canon.reach {x k} (g : QuiesceGoal) (h : s.Canon) : (s.reach x k g).Canon := by
  cases g with
  | maps t m => exact .remapAll h
  | restart => exact .restartAll h

theorem State.Canon.carryOn {x g} (h : s.Canon) : (s.carryOn x g).Canon := by
  unfold State.carryOn
  split
  · exact .of_mem h
  · exact .ite (.of_mem h) (.ite (.ite h (.of_mem h)) (.reach _ h))

theorem NextCanon.of_execCellRestart {c} (h : s.Canon) : NextCanon (execCellRestart c s) := by
  refine .next ?_
  dsimp only
  split
  · exact h
  · exact .ite (.carryOn h) h

/-! ### Start-up, reset and loss of power -/

theorem State.Canon.modPkg {k f} (h : s.Canon) : (s.modPkg k f).Canon := .of_mem h

theorem State.Canon.setDie {k d x} (h : s.Canon) : (s.setDie k d x).Canon := .of_mem h

theorem State.Canon.setCluster {c x} (h : s.Canon) : (s.setCluster c x).Canon := .of_mem h

theorem State.Canon.applyImage {k x} (h : s.Canon) : (s.applyImage k x).Canon :=
  .foldl .modOmu _ (.foldl .setCluster _ (.foldl .setDie _ (.modPkg h)))

theorem Yields.of_startComb {k i w} (h : s.Canon) : Yields (fun e => e.2.Canon) State.Canon (s.startComb k i w) := by
  unfold State.startComb
  dsimp only
  split
  · exact .error h
  · exact .ok (.foldl .modOmu _ (.modPkg h))

theorem State.Canon.startScrub {k} (h : s.Canon) : (s.startScrub k).Canon := Memory.wf_filter h _

theorem State.Canon.trainHbm {k i w} (h : s.Canon) : (s.trainHbm k i w).Canon := .modPkg (.startScrub h)

theorem Yields.of_startFirmware {k w} (h : s.Canon) : Yields (fun e => e.2.Canon) State.Canon (s.startFirmware k w) := by
  unfold State.startFirmware
  split
  · exact .error h
  · exact .ok (.foldl .of_mem _ (.modPkg h))

theorem State.Canon.calibrateAll {k w} (h : s.Canon) : (s.calibrateAll k w).Canon := by
  refine .foldl (fun h => ?_) _ h
  split
  · exact .ite h (.modOmu h)
  · exact h

theorem Yields.of_trainLink {k w} (h : s.Canon) : Yields (fun e => e.2.Canon) State.Canon (s.trainLink k w) := by
  unfold State.trainLink
  split
  · exact .error h
  · exact .ok (.modPkg h)

theorem Yields.of_stages {k x w} (h : s.Canon) : Yields (fun e => e.2.Canon) State.Canon (s.stages k x w) := by
  unfold State.stages
  dsimp only
  split
  · exact .error (.applyImage h)
  · refine .bind (q := State.Canon) (.of_startComb (.applyImage h)) fun s h => ?_
    exact .bind (q := State.Canon) (.of_startFirmware (.trainHbm h)) fun s h => .of_trainLink (.calibrateAll h)

theorem State.Canon.recover {k n} (h : s.Canon) : (s.recover k n).Canon := .of_mem h

theorem NextCanon.of_execPowerOnBoot {k w} (h : s.Canon) : NextCanon (execPowerOnBoot k w s) := by
  refine .next (.ite h ?_)
  split
  · exact .recover h
  · split
    · exact .recover ((Yields.of_stages h).of_error ‹_›)
    · exact (Yields.of_stages h).of_ok ‹_›

theorem State.Canon.poisonReg {k r} (h : s.Canon) : (s.poisonReg k r).Canon := .endReg (.ite h (.deliverEntry h))

theorem State.Canon.poisonEngines {p d} (h : s.Canon) : (s.poisonEngines p d).Canon := by
  refine .foldl .poisonReg _ (.foldl .endFop _ (.foldl (fun {s x} h => ?_) _ (.foldl (fun h => .foldl .endCopy _ h) _ h)))
  have hq {g : Pass → Pass} {l : List PostEntry} {f : State → PostEntry → State} (hf : ∀ {s e}, s.Canon → (f s e).Canon) :
      (l.foldl f (x.2.passes.foldl (fun (s : State) p => s.endPass x.1 (g p)) s)).Canon := .foldl hf _ (.foldl .endPass _ h)
  have hp {s : State} {e : PostEntry} (h : s.Canon) : State.Canon (match e.post with
      | .pass r => s.endPass x.1 (e.ended r 7 0 0 0)
      | .probe dir _ => s.endProbes e 7 dir 0
      | .swap => s) := by
    split
    · exact .endPass h
    · exact .endProbes h
    · exact h
  dsimp only
  split
  · exact .deliverEntry (.modOmu (.dropLocks (.dropLocks (.modOmu (hq hp)))))
  · exact .modOmu (hq hp)

theorem NextCanon.of_execThermalShutdown {p d} (h : s.Canon) : NextCanon (execThermalShutdown p d s) :=
  .next (.modPkg (.poisonEngines (.setDie h)))

theorem State.Canon.dropLaunches {k} (h : s.Canon) : (s.dropLaunches k).Canon := .foldl (fun h => .dropLaunch (.endLaunch h)) _ h

theorem State.Canon.wipe {k} (h : s.Canon) : (s.wipe k).Canon := .of_mem (.unpark (.dropLaunches h))

theorem NextCanon.of_execPowerLoss {k} (h : s.Canon) : NextCanon (execPowerLoss k s) :=
  .next (Memory.wf_filter (State.Canon.wipe h) _)

/-! ### Repair -/

theorem NextCanon.of_execCorrectedError {k n ra} (h : s.Canon) : NextCanon (execCorrectedError k n ra s) := by
  refine .next ?_
  dsimp only
  split
  · exact .ite (.logEvent (.modPkg (.inWindow h))) (.modPkg (.inWindow h))
  · exact .logEvent (.modPkg (.inWindow h))

theorem NextCanon.of_execPseudoChannelRetirement {k n c} (h : s.Canon) : NextCanon (execPseudoChannelRetirement k n c s) :=
  .next (.ite h (.logEvent (.modPkg (.inWindow h))))

theorem State.Canon.loseLine {k n} (h : s.Canon) : (s.loseLine k n).Canon := by
  unfold State.loseLine
  dsimp only
  split
  · exact .dropCarrier (.modPkg h)
  · exact .foldl .dropLanes _ (.modPkg h)
  · exact .modPkg h

theorem State.Canon.loseCartridge {k c} (h : s.Canon) : (s.loseCartridge k c).Canon := .foldl .loseLine _ h

theorem State.Canon.setCart {k c b} (h : s.Canon) : (s.setCart k c b).Canon := .modPkg h

theorem NextCanon.of_execPumpCartridgeLost {k c} (h : s.Canon) : NextCanon (execPumpCartridgeLost k c s) :=
  .next (.ite h (.logEvent (.loseCartridge (.setCart h))))

theorem NextCanon.of_execCartridgeRelease {k c} (h : s.Canon) : NextCanon (execCartridgeRelease k c s) := by
  refine .next (.ite h (.setCart (.foldl (fun h => ?_) _ (.loseCartridge h))))
  split
  · exact .spareCarrier h
  · exact .modPkg h
  · exact h

theorem NextCanon.of_execCartridgeInsertion {k c} (h : s.Canon) : NextCanon (execCartridgeInsertion k c s) :=
  .next (.ite h (.logEvent (.modPkg (.setCart h))))

/-! ### What steps next -/

theorem State.Canon.takeTurn {c x} (h : s.Canon) : (s.takeTurn c x).2.Canon := .setCell (.ite (.of_mem h) h)

/-- What an optional choice leaves of the state is in form. -/
def Choice.Canon (o : Option (Choice × State)) : Prop := ∀ r ∈ o, r.2.Canon

theorem Choice.Canon.ite {c : Prop} [Decidable c] {o o' : Option (Choice × State)} (h : Choice.Canon o) (h' : Choice.Canon o') :
    Choice.Canon (if c then o else o') := by
  split
  · exact h
  · exact h'

theorem Choice.Canon.nextThread (h : s.Canon) : Choice.Canon s.nextThread := by
  have hs : State.Canon { s with nextCell := s.nextCell + 1 } := .of_mem h
  unfold State.nextThread
  dsimp only
  split
  · exact fun r hr => absurd hr (Option.not_mem_none r)
  · intro r hr
    obtain ⟨x, -, rfl⟩ := Option.map_eq_some_iff.mp hr
    exact hs.takeTurn

theorem Choice.Canon.nextDue (h : s.Canon) : Choice.Canon s.nextDue := by
  intro r hr
  obtain ⟨i, -, rfl⟩ := Option.map_eq_some_iff.mp hr
  exact .of_mem h

theorem Choice.Canon.getD {o : Option (Choice × State)} {c} (h : Choice.Canon o) (hs : s.Canon) : (o.getD (c, s)).2.Canon := by
  cases o with
  | none => exact hs
  | some r => exact h r rfl

theorem State.Canon.alternate (h : s.Canon) : s.alternate.2.Canon := by
  have hs : State.Canon { s with turn := !s.turn } := .of_mem h
  have hd := Choice.Canon.nextDue hs
  have ht := Choice.Canon.nextThread hs
  unfold State.alternate
  dsimp only
  split
  · next r e => exact Choice.Canon.ite hd ht r e
  · exact (Choice.Canon.ite ht hd).getD hs

theorem State.Canon.choose (h : s.Canon) : s.choose.2.Canon := by
  unfold State.choose
  split
  · unfold State.pickTurn
    split
    · exact .takeTurn (.of_mem h)
    · exact .of_mem h
  · split
    · exact .of_mem h
    · exact .alternate h

/-! ### Blocks and mailboxes -/

theorem Body.Canon.of_gaussBody {f} : Body.Canon (gaussBody f) :=
  ⟨fun h => by
    unfold gaussBody
    dsimp only
    split
    · exact .trap (.drainV h)
    · exact .next (.modThread (.drainV h))⟩

theorem Body.Canon.of_mailBody {i a take vals} {f : State → Thread → Loc → HomeReq → Res}
    (hf : ∀ {s t l r}, s.Canon → (f s t l r).Canon) : Body.Canon (mailBody i a take vals f) :=
  ⟨fun h => .orTrap (.of_waitRx h) fun s h => by
    dsimp only
    split
    · exact .trap h
    · next loc _ =>
      have hs {c n} : State.Canon (if loc.isGlobal = true then (s.fillTlb c false loc).flushRange c loc.key n true else s.fillTlb c false loc) :=
        .ite (.flushRange (.fillTlb h)) (.fillTlb h)
      split
      · exact .trap hs
      · exact hf hs⟩

theorem NextCanon.of_execGpost {a vd} (h : s.Canon) : NextCanon (execGpost a vd s) :=
  .issue ⟨fun h => by
    split
    · exact .trap h
    · dsimp only
      split
      · exact .trap (.drainV h)
      · exact (Body.Canon.of_mailBody fun h => .orStay h (.of_arrive (.release h))).keeps (.drainV h)⟩ h

theorem NextCanon.of_execGtake {vd a} (h : s.Canon) : NextCanon (execGtake vd a s) :=
  .issue ⟨fun {s k t} h => by
    have hb {vals : List VReg} : Body.Canon (mailBody (.gtake vd a) a true vals fun s t loc r =>
        if !loc.disc then arrive s k t r
        else if r.mode then .trap s { code := fIllegal }
        else if t.ctx.nsm then .trap s { code := fNsm }
        else .next (t.acquire (s.reqScope t r)
          (s.modThread k fun t => t.modCtx fun c => setBlock c vd [0, 0, 0, 0]))) :=
      .of_mailBody fun h => .ite (.of_arrive h) (.ite (.trap h) (.ite (.trap h) (.next (.acquire (.modThread h)))))
    split
    · exact .trap h
    · exact hb.keeps (.drainV h)⟩ h

/-! ### Queue registers -/

theorem Res.Canon.of_popped {k t d q e} (h : s.Canon) : (popped s k t d q e).Canon := by
  refine .ite (.trap (.modThread h)) (.next ?_)
  split
  · exact .setReg h
  · exact .acquire (.setReg h)

theorem NextCanon.of_execQpush {q a} (h : s.Canon) : NextCanon (execQpush q a s) :=
  .issue ⟨fun h => by
    dsimp only
    split
    · exact .trap h
    · exact .ite (.trap h) (Body.Canon.of_postPass.keeps h)
    · split
      · exact .trap h
      · exact .ite (.park h) (.next (.setVcell h))⟩ h

/-- A pop of a completion queue of the thread. -/
theorem Res.Canon.of_popDone {k t d q} {f : List Word → Thread → Thread} (l : List Word) (h : s.Canon) : Res.Canon (match l with
    | [] => .park s .queue
    | e :: es => popped (s.modThread k (f es)) k t d q e) := by
  cases l with
  | nil => exact .park h
  | cons e es => exact .of_popped (.modThread h)

theorem NextCanon.of_execQpop {d q} (h : s.Canon) : NextCanon (execQpop d q s) :=
  .issue ⟨fun h => by
    dsimp only
    split
    · exact .trap h
    · exact .trap h
    · exact .of_popDone _ h
    · exact .of_popDone _ h
    · exact .of_popDone _ h
    · exact .of_popDone _ h
    · split
      · exact .trap h
      · split
        · exact .park h
        · exact .next (.setReg (.setVcell h))⟩ h

/-! ### Scalar instructions -/

theorem Body.Canon.of_unary {d a f} : Body.Canon (unary d a f) := ⟨fun h => .next (.setReg h)⟩

theorem Body.Canon.of_branchBody {off f} : Body.Canon (branchBody off f) := ⟨fun h => .ite (.jump h) (.next h)⟩

theorem Body.Canon.of_jumpReg {a} {f : State → State} (hf : ∀ {s}, s.Canon → (f s).Canon) : Body.Canon (jumpReg a f) :=
  ⟨fun h => .ite (.trap h) (.jump (hf h))⟩

/-! ### The vector unit -/

theorem Body.Canon.of_vecBody {i o} : Body.Canon (vecBody i o) := ⟨fun h => .next (.modThread h)⟩

theorem NextCanon.of_execVectorCommandStart {k m} (h : s.Canon) : NextCanon (execVectorCommandStart k m s) := by
  refine .next ?_
  split
  · exact h
  · split
    · exact h
    · exact .ite (.countEvent (.setThread (.setCell h))) (.setThread (.setCell h))

theorem Yields.of_checkLanes {w acc al} (ls : List Lane) (h : s.Canon) : Stops (fun r => r.1.Canon) (checkLanes w acc al s ls) := by
  induction ls generalizing s with
  | nil => exact .ok h
  | cons l ls ih =>
    rw [checkLanes]
    split
    · exact .error h
    · split
      · exact .error ((ih (.fillTlb h)).of_error ‹_›)
      · next e =>
        have hr := (ih (.fillTlb h)).of_ok e
        exact .ok hr

theorem Yields.of_readLanes {w half pc} (ls : List (Lane × Loc)) (h : s.Canon) : Stops (fun r => r.1.Canon) (readLanes w half pc s ls) := by
  induction ls generalizing s with
  | nil => exact .ok h
  | cons l ls ih =>
    rw [readLanes]
    split
    · exact .error (.storedError h)
    · next e =>
      have hs := (Yields.of_readOwn h).of_ok e
      split
      · exact .error ((ih hs).of_error ‹_›)
      · next e =>
        have hr := (ih hs).of_ok e
        exact .ok hr

theorem Yields.of_writeLanesMem {w half xs k} (ls : List (Lane × Loc)) (h : s.Canon) : Stops State.Canon (writeLanesMem w half xs k s ls) := by
  induction ls generalizing s with
  | nil => exact .ok h
  | cons l ls ih =>
    rw [writeLanesMem]
    split
    · exact .error h
    · exact ih (.noteGen ((Yields.of_writeAt h).of_ok ‹_›))

theorem Body.Canon.of_vecLoad {o al ls} : Body.Canon (vecLoad o al ls) :=
  ⟨fun h => .orTrap (.of_waitRx (.drainV h)) fun s h => by
    split
    · exact .stay h
    · exact .orTrap (.of_checkLanes _ h) fun r h => .orTrap (.of_readLanes _ h) fun q h => .next (.modThread h)⟩

theorem Body.Canon.of_vecStore {o al ls} : Body.Canon (vecStore o al ls) :=
  ⟨fun h => .orTrap (.of_waitRx (.drainV h)) fun s h => by
    split
    · exact .stay h
    · exact .orTrap (.of_checkLanes _ h) fun r h => .orTrap (.of_writeLanesMem _ h) fun s h => .next h⟩

theorem Yields.of_aliasLanes {t o acc} (ls : List Lane) (h : s.Canon) : Stops (fun _ => True) (aliasLanes s t o acc ls) := by
  induction ls with
  | nil => exact .ok True.intro
  | cons l ls ih =>
    rw [aliasLanes]
    split
    · exact .error h
    · split
      · exact .error h
      · split
        · exact .error h
        · exact ih

theorem Res.Canon.of_aliasVld {k t o} (h : s.Canon) : (aliasVld s k t o).Canon := by
  refine .orTrap (.of_aliasLanes _ h) fun _ _ => ?_
  have hr {ls : List Lane} {a : List (Nat × Nat)} : Stops (fun _ => True)
      (ls.foldlM (fun (acc : List (Nat × Nat)) l => (aliasLoad s t l.va).map fun v => acc ++ [(l.i, v.toNat)]) a) :=
    .foldlM (fun _ _ _ => .map (.of_aliasLoad h) fun _ _ => True.intro) _ True.intro
  split
  · exact .trap (hr.of_error ‹_›)
  · exact .next (.modThread h)

theorem Res.Canon.of_aliasVst {t o} (h : s.Canon) : (aliasVst s t o).Canon := by
  refine .orTrap (.of_aliasLanes _ h) fun _ _ => ?_
  have hr {ls : List Lane} {v : Lane → BitVec 32} : Stops State.Canon (ls.foldlM (fun s l => aliasStore s t l.va (v l) id) s) :=
    .foldlM (fun _ _ h => .of_aliasStore id h) _ h
  split
  · exact .trap (hr.of_error ‹_›)
  · exact .next (hr.of_ok ‹_›)

theorem NextCanon.of_execVld {o} (h : s.Canon) : NextCanon (execVld o s) :=
  .issue ⟨fun h => by
    split
    · refine .orTrap (.of_waitRx (.drainV h)) fun s h => ?_
      split
      · exact .of_aliasVld h
      · exact .stay h
    · exact Body.Canon.of_vecLoad.keeps h⟩ h

theorem NextCanon.of_execVst {o} (h : s.Canon) : NextCanon (execVst o s) :=
  .issue ⟨fun h => by
    split
    · refine .orTrap (.of_waitRx (.drainV h)) fun s h => ?_
      split
      · exact .of_aliasVst h
      · exact .stay h
    · exact Body.Canon.of_vecStore.keeps h⟩ h

/-! ### Short instructions -/

theorem Body.Canon.of_setReg {d} {f : State → Nat → Thread → Word} : Body.Canon fun s k t => .next (s.setReg k d (f s k t)) :=
  ⟨fun h => .next (.setReg h)⟩

theorem Body.Canon.of_modThread {f : Thread → Thread} : Body.Canon fun s k _ => .next (s.modThread k f) := ⟨fun h => .next (.modThread h)⟩

theorem Body.Canon.of_writeCreg {r} {v : State → Thread → Word} : Body.Canon fun s k t => writeCreg s k t r (v s t) :=
  ⟨fun h => .of_writeCreg r h⟩

theorem NextCanon.of_execLoop {a off} (h : s.Canon) : NextCanon (execLoop a off s) :=
  .issue ⟨fun h => .ite (.jump (.setReg h)) (.next (.setReg h))⟩ h

theorem NextCanon.of_execJ {off} (h : s.Canon) : NextCanon (execJ off s) := .issue ⟨fun h => .jump h⟩ h

theorem NextCanon.of_execJr {a} (h : s.Canon) : NextCanon (execJr a s) := .issue (.of_jumpReg id) h

theorem NextCanon.of_execJalr {a} (h : s.Canon) : NextCanon (execJalr a s) :=
  .issue ⟨fun h => (Body.Canon.of_jumpReg .setReg).keeps h⟩ h

theorem NextCanon.of_execJal {d off} (h : s.Canon) : NextCanon (execJal d off s) := .issue ⟨fun h => .jump (.setReg h)⟩ h

theorem NextCanon.of_execVfence (h : s.Canon) : NextCanon (execVfence s) := .issue ⟨fun h => .next (.drainCrew h)⟩ h

theorem NextCanon.of_execVstat {d} (h : s.Canon) : NextCanon (execVstat d s) := .issue ⟨fun h => .next (.modThread (.drainCrew h))⟩ h

theorem NextCanon.of_execWake {a} (h : s.Canon) : NextCanon (execWake a s) := .issue ⟨fun h => .next (.of_mem h)⟩ h

theorem NextCanon.of_execSel {d a b c} (h : s.Canon) : NextCanon (execSel d a b c s) := .issue .of_setReg h

theorem NextCanon.of_execBins {o} (h : s.Canon) : NextCanon (execBins o s) := .issue .of_setReg h

theorem NextCanon.of_execLi {d n} (h : s.Canon) : NextCanon (execLi d n s) := .issue .of_setReg h

theorem NextCanon.of_execLiImm64 {d w} (h : s.Canon) : NextCanon (execLiImm64 d w s) := .issue .of_setReg h

theorem NextCanon.of_execLil {d n} (h : s.Canon) : NextCanon (execLil d n s) := .issue .of_setReg h

theorem NextCanon.of_execLhi {d n} (h : s.Canon) : NextCanon (execLhi d n s) := .issue .of_setReg h

theorem NextCanon.of_execQbind {q p} (h : s.Canon) : NextCanon (execQbind q p s) := .issue .of_modThread h

theorem NextCanon.of_execQrel {q} (h : s.Canon) : NextCanon (execQrel q s) := .issue .of_modThread h

theorem NextCanon.of_execCrw {r a} (h : s.Canon) : NextCanon (execCrw r a s) := .issue .of_writeCreg h

theorem NextCanon.of_execCrs {r a} (h : s.Canon) : NextCanon (execCrs r a s) := .issue .of_writeCreg h

theorem NextCanon.of_execCrc {r a} (h : s.Canon) : NextCanon (execCrc r a s) := .issue .of_writeCreg h

/-! ### Every instruction and event -/

/-- Every arm of the dispatch keeps memory in form. -/
theorem NextCanon.of_exec (i : Instr) (h : s.Canon) : NextCanon (exec i s) := by
  cases i with
  | add | sub | and | or | xor | andn | shl | shr | sar | rol | min | max | minn | maxn | slt | sltn | seq | bext => exact .issue .of_regBody h
  | mul | mulh | mulhn | div | divn | rem | remn => exact .issue (.withLook .of_regBody) h
  | clz | ctz | popc | sext | zext | bswap | addi | andi | ori | xori | shli | shri | sari | slti | sltni | lea => exact .issue .of_unary h
  | beq | bne | blt | bge | bltn | bgen | beqi | bnei => exact .issue .of_branchBody h
  | ldb | ldh | ldw | ldd | ldbn | ldhn | ldwn => exact .issue (.withLook .of_loadBody) h
  | stb | sth | stw | std => exact .issue .of_storeBody h
  | ldff | ldfe => exact .issue .of_feLoad h
  | stef | stff => exact .issue .of_feStore h
  | feset | feclr => exact .issue .of_feSet h
  | afadd | afand | afor | afxor | afmin | afmax | afminn | afmaxn | aswap | afaddW | afandW | aforW | afxorW | afminW | afmaxW | afminnW
  | afmaxnW | aswapW => exact .issue (.withLook .of_atomic1) h
  | acas | acasW => exact .issue (.withLook .of_casBody) h
  | axadd => exact .issue (.withLook .of_axaddBody) h
  | fence | fenceExt => exact .issue .of_fenceBody h
  | tfence | tfenceExt => exact .issue .of_tfenceBody h
  | vlds | vgath => exact .issue .of_vecLoad h
  | vsts | vscat => exact .issue .of_vecStore h
  | vadd | vsub | vmul | vfma | vfms | vmin | vmax | vabs | vneg | vand | vor | vxor | vshl | vshr | vsar | vcmp | vsel | vred | vcvt
  | vbfpEnc | vbfpDec | vxaccAdd | vxaccCombine | vxfin | vsplat | vperm | vmov | vext | vins | vrngDraw | vrngAdv => exact .issue .of_vecBody h
  | pbank | pdec => exact .issue .of_loadCmd h
  | gacc | gschur | gdamp | gmarg => exact .issue .of_gaussBody h
  | yield => exact .issue .of_yieldBody h
  | bar | barScoped => exact .issue .of_barBody h
  | antiRollbackAdvance | measurementExtend | powerCapSet => exact .next (.ite (.modPkg h) h)
  | getMeasurements | pldmMonitoring | pldmFirmwareUpdate | keyCacheExpiry => exact .next (.modPkg h)
  | thermalThrottle => exact .next (.setDie h)
  | packageReset => exact .next (.wipe h)
  | timesliceExpiry | parkTableResend => exact .next (.modThread h)
  | clusterQuiesce => exact .next (.carryOn h)
  | fullEmptyRequest | mailboxRequest | barrierArrival => exact .next (.of_rearrive h)
  | waysWrite | wlimWrite | gpivWrite | tcauseWrite => exact .next (.of_writeEvent h)
  | groupWrite => exact .next (.writeGroup h)
  | carrierLoss => exact .next (.dropCarrier h)
  | spareLineAssignment => exact .next (.spareCarrier h)
  | laneLoss => exact .next (.dropLanes h)
  | faultWindowBoundary => exact .next (.inWindow h)
  | sel => exact .of_execSel h
  | bins => exact .of_execBins h
  | li => exact .of_execLi h
  | liImm64 => exact .of_execLiImm64 h
  | lil => exact .of_execLil h
  | lhi => exact .of_execLhi h
  | loop => exact .of_execLoop h
  | j => exact .of_execJ h
  | jr => exact .of_execJr h
  | jalr => exact .of_execJalr h
  | jal => exact .of_execJal h
  | feq => exact .of_execFeq h
  | cpy => exact .of_execCpy h
  | cpyh => exact .of_execCpyh h
  | cpyw => exact .of_execCpyw h
  | vfence => exact .of_execVfence h
  | vstat => exact .of_execVstat h
  | gang => exact .of_execGang h
  | ungang => exact .of_execUngang h
  | vld => exact .of_execVld h
  | vst => exact .of_execVst h
  | pswap => exact .of_execPswap h
  | pass => exact .of_execPass h
  | probe => exact .of_execProbe h
  | pcal => exact .of_execPcal h
  | pstat => exact .of_execPstat h
  | pabort => exact .of_execPabort h
  | gpost => exact .of_execGpost h
  | gtake => exact .of_execGtake h
  | fork => exact .of_execFork h
  | join => exact .of_execJoin h
  | tend => exact .of_execTend h
  | fly => exact .of_execFly h
  | sleep => exact .of_execSleep h
  | wfw => exact .of_execWfw h
  | wake => exact .of_execWake h
  | qbind => exact .of_execQbind h
  | qrel => exact .of_execQrel h
  | qpush => exact .of_execQpush h
  | qpop => exact .of_execQpop h
  | mst => exact .of_execMst h
  | shufset => exact .of_execShufset h
  | shuf => exact .of_execShuf h
  | xred => exact .of_execXred h
  | topo => exact .of_execTopo h
  | trap => exact .of_execTrap h
  | rte => exact .of_execRte h
  | urte => exact .of_execUrte h
  | ctxsv => exact .of_execCtxsv h
  | ctxld => exact .of_execCtxld h
  | halt => exact .of_execHalt h
  | tlbi => exact .of_execTlbi h
  | cap => exact .of_execCap h
  | scrub => exact .of_execScrub h
  | crr => exact .of_execCrr h
  | crw => exact .of_execCrw h
  | crs => exact .of_execCrs h
  | crc => exact .of_execCrc h
  | powerOnBoot => exact .of_execPowerOnBoot h
  | thermalShutdown => exact .of_execThermalShutdown h
  | launchWrite => exact .of_execLaunchWrite h
  | malformedWrite => exact .of_execMalformedWrite h
  | crheadWrite => exact .of_execCrheadWrite h
  | queueEnable => exact .of_execQueueEnable h
  | queueDisable => exact .of_execQueueDisable h
  | registerWrite => exact .of_execRegisterWrite h
  | portstatWrite => exact .of_execPortstatWrite h
  | ringEntryReservation => exact .of_execRingEntryReservation h
  | launchAdmission => exact .of_execLaunchAdmission h
  | swarmMessage => exact .of_execSwarmMessage h
  | launchRetirement => exact .of_execLaunchRetirement h
  | taskStart => exact .of_execTaskStart h
  | contextResume => exact .of_execContextResume h
  | stealAttempt => exact .of_execStealAttempt h
  | stealRequest => exact .of_execStealRequest h
  | stealAnswer => exact .of_execStealAnswer h
  | gangSlotReservation => exact .of_execGangSlotReservation h
  | flyArrival => exact .of_execFlyArrival h
  | wakeDelivery => exact .of_execWakeDelivery h
  | preemption => exact .of_execPreemption h
  | forcedSave => exact .of_execForcedSave h
  | checkerRetry => exact .of_execCheckerRetry h
  | accessCompletion => exact .of_execAccessCompletion h
  | pageWalk => exact .of_execPageWalk h
  | relaxedStoreAck => exact .of_execRelaxedStoreAck h
  | waitLimitExpiry => exact .of_execWaitLimitExpiry h
  | withdrawal => exact .of_execWithdrawal h
  | withdrawalAnswer => exact .of_execWithdrawalAnswer h
  | sleepExpiry => exact .of_execSleepExpiry h
  | promiseExpiry => exact .of_execPromiseExpiry h
  | promiseMissedUpcall => exact .of_execPromiseMissedUpcall h
  | waysChange => exact .of_execWaysChange h
  | wdescWrite => exact .of_execWdescWrite h
  | copyBlock => exact .of_execCopyBlock h
  | vectorCommandStart => exact .of_execVectorCommandStart h
  | tileCaptureEnd => exact .of_execTileCaptureEnd h
  | imageBlockRead => exact .of_execImageBlockRead h
  | decompositionComplete => exact .of_execDecompositionComplete h
  | loadCompletion => exact .of_execLoadCompletion h
  | bankSwap => exact .of_execBankSwap h
  | passStart => exact .of_execPassStart h
  | probeStart => exact .of_execProbeStart h
  | scoutVerdict => exact .of_execScoutVerdict h
  | resolverAudit => exact .of_execResolverAudit h
  | passStop => exact .of_execPassStop h
  | thermalLoss => exact .of_execThermalLoss h
  | omuRecalibration => exact .of_execOmuRecalibration h
  | routerPacket => exact .of_execRouterPacket h
  | multicastData => exact .of_execMulticastData h
  | shuffleBlock => exact .of_execShuffleBlock h
  | shuffleResend => exact .of_execShuffleResend h
  | codedShuffle => exact .of_execCodedShuffle h
  | fallbackRequest => exact .of_execFallbackRequest h
  | xsumReduction => exact .of_execXsumReduction h
  | acknowledgement => exact .of_execAcknowledgement h
  | flitReceive => exact .of_execFlitReceive h
  | replayTimeout => exact .of_execReplayTimeout h
  | codeRequest => exact .of_execCodeRequest h
  | codeAcknowledgement => exact .of_execCodeAcknowledgement h
  | codeRequestRetry => exact .of_execCodeRequestRetry h
  | keyUpdate => exact .of_execKeyUpdate h
  | powerDown => exact .of_execPowerDown h
  | portWake => exact .of_execPortWake h
  | loadrt => exact .of_execLoadrt h
  | code => exact .of_execCode h
  | power => exact .of_execPower h
  | reconf => exact .of_execReconf h
  | close => exact .of_execClose h
  | portDrainComplete => exact .of_execPortDrainComplete h
  | portSwitchComplete => exact .of_execPortSwitchComplete h
  | portTrainComplete => exact .of_execPortTrainComplete h
  | trainTimeout => exact .of_execTrainTimeout h
  | portAuth => exact .of_execPortAuth h
  | launchEnd => exact .of_execLaunchEnd h
  | cellRestart => exact .of_execCellRestart h
  | correctedError => exact .of_execCorrectedError h
  | pseudoChannelRetirement => exact .of_execPseudoChannelRetirement h
  | cartridgeRelease => exact .of_execCartridgeRelease h
  | cartridgeInsertion => exact .of_execCartridgeInsertion h
  | functionLevelReset => exact .of_execFunctionLevelReset h
  | flrDrainComplete => exact .of_execFlrDrainComplete h
  | pumpCartridgeLost => exact .of_execPumpCartridgeLost h
  | spareLineRejoin => exact .of_execSpareLineRejoin h
  | powerLoss => exact .of_execPowerLoss h

/-! ### A step -/

theorem State.Canon.noting {i} (h : s.Canon) : (s.noting i).Canon := .ite (.of_mem h) h

theorem State.Canon.handOut {k t i} (h : s.Canon) : (s.handOut k t i).Canon := by
  unfold State.handOut
  split
  · exact .foldl .modThread _ (.modThread h)
  · exact h

theorem Option.Canon.lateFault {k t} (h : s.Canon) : Option.Canon (s.lateFault k t) := by
  unfold State.lateFault
  split
  · intro r hr
    obtain ⟨x, -, rfl⟩ := Option.map_eq_some_iff.mp hr
    exact .of_raiseAt h
  · exact .none

/-- An instruction that the selected thread executes. -/
theorem NextCanon.of_execNoting {i c} (h : s.Canon) : NextCanon (exec i { s.noting i with cur := c }) := .of_exec i (.of_mem (.noting h))

theorem NextCanon.of_runThread {k t} (h : s.Canon) : NextCanon (runThread s k t) := by
  unfold runThread
  split
  · exact .of_execNoting h
  · split
    · exact .next (.of_raiseAt ((Yields.of_fetchInstr h).of_error ‹_›))
    · next e =>
      have hs := (Yields.of_fetchInstr h).of_ok e
      exact .of_execNoting (.handOut hs)

theorem NextCanon.run {k} (p : Prior) (h : s.Canon) : NextCanon (p.run k s) := by
  cases p with
  | forcedSave => exact .of_execForcedSave h
  | preemption => exact .of_execPreemption h
  | accessCompletion => exact .of_execAccessCompletion h
  | promiseMissedUpcall => exact .of_execPromiseMissedUpcall h

theorem NextCanon.of_stepThread {k t} (h : s.Canon) : NextCanon (stepThread s k t) := by
  unfold stepThread
  split
  · exact .next (Option.Canon.lateFault h _ ‹_›)
  · split
    · exact .next (Option.Canon.homeFault h _ ‹_›)
    · split
      · exact .run _ (.of_mem h)
      · split
        · exact .of_runThread h
        · split
          · exact .next (.mismatch (.setThread h))
          · exact .of_runThread (.setThread h)

theorem NextCanon.of_step (h : s.Canon) : NextCanon (step s) := by
  have hs : s.passTime.choose.2.Canon := .choose (.passTime h)
  unfold step
  dsimp only
  split
  · exact .of_execNoting hs
  · split
    · exact .of_stepThread hs
    · exact .next hs
  · exact .next hs

/-- Settles O54: what reset leaves in memory is in canonical form. -/
theorem resetMemory : Obligations.ResetMemory := State.reset_wf

/-- Settles O55, by the operations of the machine one by one: each that writes memory writes it in canonical form, and every instruction and
event is made of them. -/
theorem stepKeepsMemory : Obligations.StepKeepsMemory := fun _ s' h e => NextCanon.of_step h s' e
end Sys2Proof.Machine
end

section
/-! SUPPORT. A step is the instruction that its turn gives: what the schedule's choice, a thread with nothing to take before its instruction,
the fetch, and the delivery of a gang's leader each come to. -/
namespace Sys2Proof.Machine
open Sys2Proof

variable {s : State}

/-! ### Threads' records changed one by one -/

theorem State.thread?_modThread_same {k : Nat} {t : Thread} (h : s.thread? k = some t) (f : Thread → Thread) :
    (s.modThread k f).thread? k = some (f t) := by
  rw [State.modThread_some h, State.thread?_setThread]

theorem State.thread?_modThread_other {k j : Nat} (h : j ≠ k) (f : Thread → Thread) :
    (s.modThread k f).thread? j = s.thread? j := by
  cases e : s.thread? k with
  | none => rw [State.modThread_none e]
  | some t => rw [State.modThread_some e, State.thread?_setThread_other _ h]

@[simp] theorem State.modThread_mem (s : State) (k : Nat) (f : Thread → Thread) : (s.modThread k f).mem = s.mem := by
  unfold State.modThread
  split
  · rfl
  · rfl

theorem State.foldl_modThread_mem (f : Thread → Thread) (ms : List Nat) (s : State) :
    (ms.foldl (fun s m => s.modThread m f) s).mem = s.mem := by
  induction ms generalizing s with
  | nil => rfl
  | cons m ms ih => rw [List.foldl_cons, ih, State.modThread_mem]

/-- Threads changed one after the other by a change that brings a property about: each of them then has it, and one that had it keeps it. -/
theorem State.thread?_foldl_modThread {f : Thread → Thread} {p : Thread → Prop} (hf : ∀ u, p (f u)) {m : Nat} (ms : List Nat) {s : State}
    {v : Thread} (hv : s.thread? m = some v) (h : m ∈ ms ∨ p v) :
    ∃ v', (ms.foldl (fun s m => s.modThread m f) s).thread? m = some v' ∧ p v' := by
  induction ms generalizing s v with
  | nil =>
    have hp : p v := h.resolve_left List.not_mem_nil
    exact ⟨v, hv, hp⟩
  | cons n ms ih =>
    by_cases e : m = n
    · subst e
      exact ih (State.thread?_modThread_same hv f) (.inr (hf v))
    · have hm : m ∈ ms ∨ p v := h.imp_left fun h => (List.mem_cons.mp h).resolve_left e
      exact ih ((State.thread?_modThread_other e f).trans hv) hm

/-! ### The delivery of a leader -/

theorem State.handOut_alone {k : Nat} {t : Thread} {i : Instr} (h : ∀ ms, t.gang ≠ .leader ms) : s.handOut k t i = s := by
  unfold State.handOut
  split
  · exact absurd ‹_› (h _)
  · rfl

/-- What each member of a gang is given (R169). -/
def Thread.given (t : Thread) (i : Instr) (u : Thread) : Thread := { u.modCtx (·.setPc t.ctx.pc) with todo := some i }

theorem State.handOut_leader {k : Nat} {t : Thread} {i : Instr} {ms : List Nat} (h : t.gang = .leader ms) :
    s.handOut k t i = ms.foldl (fun s m => s.modThread m (t.given i)) (s.modThread k fun u => { u with todo := some i }) := by
  unfold State.handOut
  rw [h]
  rfl

theorem State.handOut_mem {k : Nat} {t : Thread} {i : Instr} {ms : List Nat} (h : t.gang = .leader ms) :
    (s.handOut k t i).mem = s.mem := by
  rw [State.handOut_leader h, State.foldl_modThread_mem, State.modThread_mem]

/-- Every member that lives holds the instruction, and the leader's pc. -/
theorem State.handOut_member {k m : Nat} {t v : Thread} {i : Instr} {ms : List Nat} (h : t.gang = .leader ms) (hm : m ∈ ms)
    (hv : s.thread? m = some v) : ∃ v', (s.handOut k t i).thread? m = some v' ∧ v'.todo = some i ∧ v'.ctx.pc = t.ctx.pc := by
  have given (u : Thread) : (t.given i u).todo = some i ∧ (t.given i u).ctx.pc = t.ctx.pc := ⟨rfl, rfl⟩
  rw [State.handOut_leader h]
  by_cases e : m = k
  · subst e
    exact State.thread?_foldl_modThread given ms (State.thread?_modThread_same hv _) (.inl hm)
  · exact State.thread?_foldl_modThread given ms ((State.thread?_modThread_other e _).trans hv) (.inl hm)

/-! ### The fetch, and the turn of a thread -/

theorem fetchInstr_ok {t : Thread} {b4 rest : List Byte} {s2 s3 : State} {i : Instr} (h4 : fetchBytes s t t.ctx.pc 4 = .ok (b4, s2))
    (hr : fetchBytes s2 t (t.ctx.pc + 4) (lengthOf (BitVec.ofNat 32 (leNat b4)) - 4) = .ok (rest, s3))
    (hd : decode (Words.ofBits (BitVec.ofNat 32 (leNat b4)) (BitVec.ofNat 64 (leNat (rest.take 8)))
      (BitVec.ofNat 64 (leNat ((rest.drop 8).take 8)))) = .ok i) : fetchInstr s t = .ok (i, s3) := by
  simp only [fetchInstr, h4, hr, word, hd]

theorem runThread_delivered {k : Nat} {t : Thread} {i : Instr} (h : t.todo = some i) :
    runThread s k t = exec i { s.noting i with cur := some k } := by
  simp only [runThread, h]

theorem runThread_fetched {k : Nat} {t : Thread} {i : Instr} {s' : State} (h : t.todo = none) (hf : fetchInstr s t = .ok (i, s')) :
    runThread s k t = exec i { (s'.handOut k t i).noting i with cur := some k } := by
  simp only [runThread, h, hf]

theorem runThread_alone {k : Nat} {t : Thread} {i : Instr} {s' : State} (h : t.todo = none) (hf : fetchInstr s t = .ok (i, s'))
    (hg : ∀ ms, t.gang ≠ .leader ms) : runThread s k t = exec i { s'.noting i with cur := some k } := by
  rw [runThread_fetched h hf, State.handOut_alone hg]

theorem State.lateFault_none {k : Nat} {t : Thread} (h : t.vErr = none) : s.lateFault k t = none := by
  simp only [State.lateFault, h, Option.map_none, ite_self]

theorem State.homeFault_none {k : Nat} {t : Thread} (h : t.homeErr = none) : s.homeFault k t = none := by
  simp only [State.homeFault, h]

/-- A thread with nothing to take before its instruction runs it, with the mark of a retry that has passed gone. -/
theorem stepThread_runs {k : Nat} {t : Thread} (hv : t.vErr = none) (hh : t.homeErr = none) (hb : s.before t = none)
    (hr : t.retry ≠ some true) :
    stepThread s k t =
      runThread (if t.retry = none then s else s.setThread k { t with retry := none }) k { t with retry := none } := by
  simp only [stepThread, State.lateFault_none hv, State.homeFault_none hh, hb]
  cases e : t.retry with
  | none =>
    have hu : ({ t with retry := none } : Thread) = t := by rw [← e]
    simp only [hu, ↓reduceIte]
  | some again =>
    cases again with
    | false => rfl
    | true => exact absurd e hr

theorem step_thread {s0 : State} {k : Nat} {t : Thread} (h : s.passTime.choose = (.thread k, s0)) (ht : s0.thread? k = some t) :
    step s = stepThread s0 k t := by
  simp only [step, h, ht]

theorem step_event {s0 : State} {i : Instr} (h : s.passTime.choose = (.event i, s0)) :
    step s = exec i { s0.noting i with cur := none } := by
  simp only [step, h]

/-- Settles O57: a step is the turn of the thread or the event that is chosen, and the thread's turn is the instruction that was delivered to
it, or the one that it fetches and, as a leader, delivers. -/
theorem stepRunsDecoded : Obligations.StepRunsDecoded := by
  unfold Obligations.StepRunsDecoded
  intro s s0
  refine ⟨fun k t hc ht hb hv hh hr => ?_, fun i hc => step_event hc⟩
  have hs := (step_thread hc ht).trans (stepThread_runs hv hh hb hr)
  refine ⟨fun i hi => hs.trans (runThread_delivered hi), fun b4 rest s2 s3 i hi h4 hrest hd => ?_⟩
  have hf := fetchInstr_ok h4 hrest hd
  refine ⟨fun hg => hs.trans (runThread_alone hi hf hg), fun ms hg => ⟨_, hs.trans (runThread_fetched hi hf), ?_, fun m hm v hmv => ?_⟩⟩
  · exact State.handOut_mem hg
  · exact State.handOut_member hg hm hmv

end Sys2Proof.Machine
end

section
/-! SUPPORT. Posts of passes: what the order of R319 and the flush of a destination leave alone, range locks where none is held, and the place
of a record in the post queue (R292, R293, R326). -/
namespace Sys2Proof.Machine
open Sys2Proof Sys2Proof.Claims

variable {s s' : State}

/-! ### Cache lines written back and invalidated -/

/-- s' is s but for its memory and the lines in its cells' ways. -/
def State.Rewayed (s s' : State) : Prop := ∃ (m : List Host.Cell) (f : PCell → List Line → List Line), s' = { s with mem := m }.mapLines f

theorem State.Rewayed.refl (s : State) : s.Rewayed s := by
  refine ⟨s.mem, fun _ ls => ls, ?_⟩
  show s = { s with cells := s.cells.map id }
  rw [List.map_id]

theorem State.Rewayed.trans {s'' : State} (h : s.Rewayed s') (g : s'.Rewayed s'') : s.Rewayed s'' := by
  obtain ⟨m, f, rfl⟩ := h
  obtain ⟨n, e, rfl⟩ := g
  refine ⟨n, fun c ls => e c (f c ls), ?_⟩
  simp only [State.mapLines, List.map_map]
  rfl

theorem State.writeBacks_eq (ls : List Line) (s : State) : ∃ m, ls.foldl State.writeBack s = { s with mem := m } := by
  induction ls generalizing s with
  | nil => exact ⟨s.mem, rfl⟩
  | cons l ls ih =>
    obtain ⟨m, e⟩ := ih (s.writeBack l)
    exact ⟨m, e⟩

theorem State.Rewayed.cleanWhere (s : State) (p : PCell → Line → Bool) : s.Rewayed (s.cleanWhere p) := by
  obtain ⟨m, e⟩ := State.writeBacks_eq (s.linesWhere p) s
  rw [State.cleanWhere, e]
  exact ⟨m, _, rfl⟩

theorem State.Rewayed.flushWhere (s : State) (p : PCell → Line → Bool) : s.Rewayed (s.flushWhere p) := by
  obtain ⟨m, e⟩ := State.writeBacks_eq (s.linesWhere p) s
  rw [State.flushWhere, e]
  exact ⟨m, _, rfl⟩

theorem State.Rewayed.flushRange (s : State) (c : PCell) (key n : Nat) (drop : Bool) : s.Rewayed (s.flushRange c key n drop) := by
  unfold State.flushRange
  dsimp only
  split
  · exact .flushWhere ..
  · exact .cleanWhere ..

theorem State.Rewayed.foldl {α : Type} {f : State → α → State} (hf : ∀ s x, State.Rewayed s (f s x)) (l : List α) (s : State) :
    s.Rewayed (l.foldl f s) := by
  induction l generalizing s with
  | nil => exact .refl s
  | cons x l ih => exact (hf s x).trans (ih _)

theorem State.Rewayed.engineOrder (s : State) (t : Thread) : s.Rewayed (engineOrder s t) := .cleanWhere ..

theorem State.Rewayed.flushVirtual (s : State) (t : Thread) (va : Word) (n : Nat) : s.Rewayed (flushVirtual s t va n) := by
  unfold Machine.flushVirtual
  dsimp only
  split
  · exact .refl s
  · refine .foldl (fun s p => ?_) _ s
    split
    · exact .flushRange ..
    · exact .refl s

/-! ### What that leaves alone -/

theorem lookD_map_keyed {α β γ : Type} [DecidableEq α] {f : α → β → β} {p : β → γ} (hp : ∀ a b, p (f a b) = p b) (d : β) (k : α)
    (l : List (α × β)) : p (lookD d k (l.map fun x => (x.1, f x.1 x.2))) = p (lookD d k l) := by
  induction l with
  | nil => rfl
  | cons x l ih =>
    by_cases h : x.1 = k
    · simp only [List.map_cons, lookD, h, ↓reduceIte, hp]
    · simp only [List.map_cons, lookD, h, ↓reduceIte, ih]

theorem State.Rewayed.thread? (h : s.Rewayed s') (k : Nat) : s'.thread? k = s.thread? k := by
  obtain ⟨m, f, rfl⟩ := h
  rfl

theorem State.Rewayed.omu (h : s.Rewayed s') (c : ClusterId) : s'.omu c = s.omu c := by
  obtain ⟨m, f, rfl⟩ := h
  rfl

theorem State.Rewayed.nextKey (h : s.Rewayed s') : s'.nextKey = s.nextKey := by
  obtain ⟨m, f, rfl⟩ := h
  rfl

theorem State.Rewayed.cellBank (h : s.Rewayed s') (c : PCell) : (s'.cell c).bank = (s.cell c).bank := by
  obtain ⟨m, f, rfl⟩ := h
  exact lookD_map_keyed (f := fun (a : PCell) (x : Cell) => { x with lines := f a x.lines }) (p := Cell.bank) (fun _ _ => rfl) {} c s.cells

theorem State.Rewayed.issuer (h : s.Rewayed s') (k : Nat) (t : Thread) (i : Instr) : s'.issuer k t i = s.issuer k t i := by
  have hb := h.cellBank t.pcell
  obtain ⟨m, f, rfl⟩ := h
  unfold State.issuer
  rw [hb]
  rfl

theorem State.Rewayed.noLocks (h : s.Rewayed s') (hn : NoLocks s) : NoLocks s' := by
  obtain ⟨m, f, rfl⟩ := h
  refine ⟨hn.1, fun c hc => ?_⟩
  obtain ⟨x, hx, rfl⟩ := List.mem_map.mp hc
  exact hn.2 x hx

/-! ### Range locks where none is held -/

theorem lookD_mem_or {α β : Type} [DecidableEq α] (d : β) (k : α) (l : List (α × β)) : lookD d k l = d ∨ (k, lookD d k l) ∈ l := by
  induction l with
  | nil => exact .inl rfl
  | cons x l ih =>
    by_cases h : x.1 = k
    · simp [lookD, ← h]
    · simp only [lookD, h, ↓reduceIte]
      exact ih.imp_right (List.mem_cons_of_mem x)

theorem State.locks_nil (h : NoLocks s) (c : ClusterId) : (s.cluster c).locks = [] :=
  (lookD_mem_or {} c s.clusters).elim (congrArg Cluster.locks) (h.1 _)

theorem State.waysPending_none (h : NoLocks s) (c : PCell) : (s.cell c).waysPending = none :=
  (lookD_mem_or {} c s.cells).elim (congrArg Cell.waysPending) (h.2 _)

theorem State.otherLocks_nil (h : NoLocks s) (c : ClusterId) : s.otherLocks c = [] := by
  refine List.flatMap_eq_nil_iff.mpr fun x hx => ?_
  simp only [h.1 x hx, List.filter_nil, ite_self]

theorem State.heldBy_none (h : NoLocks s) (w : Who) (xs : List Want) : s.heldBy w xs = none := by
  refine List.findSome?_eq_none_iff.mpr fun x _ => ?_
  split
  · rfl
  · split
    · rfl
    · split
      · simp only [State.waysPending_none h]
      · rfl

theorem tryLocks_free (h : NoLocks s) (w : Who) (owner : Nat) (kind : LockKind) {xs : List Want} (hx : xs.length ≤ 64)
    (skip : Lock → Bool) : tryLocks s w owner kind xs skip = .ok (s.takeLocks w.cluster (xs.filterMap (lockOf s w owner kind))) := by
  have hl := (List.length_filterMap_le (lockOf s w owner kind) xs).trans hx
  have hf : s.locksFree w.cluster (xs.filterMap (lockOf s w owner kind)) skip = true := by
    simp only [State.locksFree, State.locks_nil h, State.otherLocks_nil h, List.length_nil, Nat.zero_add, List.all_nil,
      decide_eq_true hl, Bool.true_and, List.all_eq_true, implies_true]
  simp only [tryLocks, State.heldBy_none h, hf, ↓reduceIte]

/-! ### A post -/

theorem engineBody_runs {b : Body} {k : Nat} {t : Thread} (ht : s.thread? k = some t) (hq : Quiet t) (hg : s.awaitsGen t .part = false) :
    engineBody b s k t = b (engineOrder s t) k t := by
  simp only [engineBody, State.waitRx_quiet ht hq.1 hq.2, orTrap, ht, Option.getD_some, hg, orStay, Bool.false_eq_true, ↓reduceIte]

/-- A thread with a ticket for a pass, in gd where there is one. -/
def Thread.posting (t : Thread) : Option Reg → Thread
  | some d => passTicketed t d
  | none => { t.takeTicket with outPass := t.outPass + 1 }

theorem State.beginOp_pass {k : Nat} {t : Thread} (ht : s.thread? k = some t) (d : Option Reg) :
    s.beginOp k d .pass = s.setThread k (t.posting d) := by
  cases d with
  | none => simp only [State.beginOp, ht]; rfl
  | some d =>
    simp only [State.beginOp, ht, State.setReg_eq (State.thread?_setThread ..), State.setThread_setThread]
    congr 3
    exact (BitVec.ofNat_toNat ..).symm

/-- The record that a post works with: the one that it had read when it parked, or one at its address that passes the checks of R33. -/
def PostReads (s : State) (t : Thread) (va : Word) (r : Rec) : Prop :=
  t.posted = some r ∨ t.posted = none ∧ r.illFormed = false ∧ r.badAddr = none ∧ ∃ loc bs s1,
    resolve (engineOrder s t) ((engineOrder s t).whoOf t) .load va 64 64 = .ok loc ∧
    readAt (engineOrder s t) ((engineOrder s t).whoOf t) loc 64 false = .ok (bs, s1) ∧ r = BitVec.ofNat 512 (leVal bs)

/-- A read past the ways changes nothing. -/
theorem readAt_home {w : Who} {loc : Loc} {n : Nat} {bs : List Byte} (h : readAt s w loc n false = .ok (bs, s')) : s' = s := by
  unfold readAt at h
  split at h
  · cases h
    rfl
  · split at h
    · cases h
    · split at h
      · cases h
      · cases h
        rfl

theorem postPass_record {i : Instr} {d : Option Reg} {va : Word} {k : Nat} {t : Thread} {r : Rec} (ht : s.thread? k = some t) (hq : Quiet t)
    (hg : s.awaitsGen t .part = false) (hr : PostReads s t va r) :
    postPass i d va s k t = postRecord i d r (engineOrder s t) k t := by
  rw [postPass, engineBody_runs ht hq hg]
  obtain hp | ⟨hp, hw, ha, loc, bs, s1, hl, hb, rfl⟩ := hr
  · simp only [hp]
  · obtain rfl := readAt_home hb
    simp only [hp, hl, hb, hw, ha, Bool.false_eq_true, ↓reduceIte]

theorem postFull_false {t : Thread} {c : ClusterId} (hl : (s.omu c).queue.length < 32) (ho : t.outPass + t.passdone.length < 16) :
    postFull s t c = false := by
  have hl' : ¬ postDepth ≤ (s.omu c).queue.length := Nat.not_le.mpr hl
  have ho' : ¬ 16 ≤ t.load_ .pass := Nat.not_le.mpr ho
  simp only [postFull, hl', ho', decide_false, Bool.or_self]

/-- A record that neither parks goes to the end of the queue under the next name, and its thread has one more pass outstanding. -/
theorem postRecord_next {i : Instr} {d : Option Reg} {r : Rec} {k : Nat} {t : Thread} (ht : s.thread? k = some t) (hn : NoLocks s)
    (hl : (s.omu (clusterOf t.pcell)).queue.length < 32) (ho : t.outPass + t.passdone.length < 16) :
    ∃ s4 : State, postRecord i d r s k t = .next (s4.setThread k (t.posting d)) ∧ (s4.omu (clusterOf t.pcell)).queue =
      (s.omu (clusterOf t.pcell)).queue ++ [⟨s.nextKey, .pass r, s.issuer k t i, []⟩] := by
  let s2 := s.fresh.2
  let s3 := s2.takeLocks (s.whoOf t).cluster (r.wants.filterMap (lockOf s2 (s.whoOf t) s.nextKey .pass))
  have h4 : s3.Rewayed (flushVirtual s3 t r.outAddr (320 * r.vcount)) := .flushVirtual ..
  have hlocks := tryLocks_free (s := s2) hn (s.whoOf t) s.nextKey .pass (xs := r.wants) (by simp [Rec.wants])
  have hpost : postRecord i d r s k t = .next (((flushVirtual s3 t r.outAddr (320 * r.vcount)).pushPost (clusterOf t.pcell)
      ⟨s.nextKey, .pass r, (flushVirtual s3 t r.outAddr (320 * r.vcount)).issuer k t i, []⟩).beginOp k d .pass) := by
    simp only [postRecord, postFull_false hl ho, Bool.false_eq_true, ↓reduceIte]
    rw [show s.fresh = (s.nextKey, s2) from rfl]
    simp only [hlocks]
    rfl
  generalize flushVirtual s3 t r.outAddr (320 * r.vcount) = s4 at h4 hpost
  refine ⟨s4.pushPost (clusterOf t.pcell) ⟨s.nextKey, .pass r, s4.issuer k t i, []⟩, hpost.trans ?_, ?_⟩
  · have ht4 : s4.thread? k = some t := (h4.thread? k).trans ht
    exact congrArg Res.next (State.beginOp_pass (s := s4.pushPost _ _) ht4 d)
  · rw [h4.issuer, State.pushPost, State.modOmu, State.omu_setOmu, h4.omu]
    rfl

/-- A thread that can post without a wait: nothing keeps the order of R319, no lock is held, and R292 parks it for neither reason. -/
structure PostReady (s : State) (k : Nat) (t : Thread) : Prop where
  selected : Selected s k t
  quiet : Quiet t
  noLocks : NoLocks s
  room : (s.omu (clusterOf t.pcell)).queue.length < 32
  load : t.outPass + t.passdone.length < 16
  gens : s.awaitsGen t .part = false

/-- An instruction of four bytes that is a post (R326): its record is in the queue, and it has committed. -/
theorem exec_postPass {i : Instr} {d : Option Reg} {va : Word} {k : Nat} {t : Thread} {r : Rec} {b : Body} (hp : PostReady s k t)
    (hr : PostReads s t va r) (hx : exec i s = issue i s b) (hb : b s k t = postPass i d va s k t) (hi : instrLen i = 4) :
    ∃ s' : State, exec i s = .next s' ∧ s'.thread? k = some ((t.posting d).commitAt (t.ctx.pc + 4)) ∧
      (s'.omu (clusterOf t.pcell)).queue =
        (s.omu (clusterOf t.pcell)).queue ++ [⟨s.nextKey, .pass r, s.issuer k t i, []⟩] := by
  obtain ⟨hk, ht, hh⟩ := hp.selected
  have h1 : s.Rewayed (engineOrder s t) := .engineOrder ..
  have hroom : ((engineOrder s t).omu (clusterOf t.pcell)).queue.length < 32 := by
    rw [h1.omu]
    exact hp.room
  have hpc : nextPc i t.ctx = t.ctx.pc + 4 := by
    rw [nextPc, hi]
    rfl
  obtain ⟨s4, hpost, hqueue⟩ :=
    postRecord_next (i := i) (d := d) (r := r) ((h1.thread? k).trans ht) (h1.noLocks hp.noLocks) hroom hp.load
  refine ⟨(s4.setThread k ((t.posting d).commitAt (t.ctx.pc + 4))).unyield k, ?_, State.thread?_committed .., ?_⟩
  · rw [hx, issue_plain hk ht hh, hb, postPass_record ht hp.quiet hp.gens hr, hpost, settle, hpc, State.commit_setThread]
  · rw [h1.omu, h1.nextKey, h1.issuer] at hqueue
    exact hqueue

/-- Settles O22: pass, and qpush to PASSPOST, are the same post, with gd and without. -/
theorem passPosts : Obligations.PassPosts := by
  unfold Obligations.PassPosts
  intro s k t d a q r hs hgang hq hn hl ho hg hr
  have hin : t.inGang = false := by
    rw [Thread.inGang, hgang]
    rfl
  have hp : PostReady s k t := ⟨hs, hq, hn, hl, ho, hg⟩
  constructor
  · refine exec_postPass (d := some d) hp hr (exec_pass s d a) ?_ rfl
    simp only [hin, Bool.false_eq_true, ↓reduceIte]
  · intro hport
    have hport : t.ctx.qr q = some .passpost := hport
    refine exec_postPass (d := none) hp hr (exec_qpush s q a) ?_ rfl
    simp only [hport, hin, Bool.false_eq_true, ↓reduceIte]

end Sys2Proof.Machine
end

section
/-! SUPPORT. Host writes: queue windows (R46 to R48), the flush of a queue that is disabled (R51), the register at each offset of control space
(R50), and the writable bits of each (R49, R195, R421, R466). -/
namespace Sys2Proof.Machine
open Sys2Proof Sys2Proof.Claims

variable {s : State} {pkg q : Nat}

/-! ### Queues of a package -/

@[simp] theorem State.queue_setQueue (s : State) (pkg q : Nat) (x : Queue) : ((s.setQueue pkg q x).pkg pkg).queue q = x := by
  simp only [State.setQueue, State.pkg_setPkg, Package.queue, lookD_putAt_same]

theorem Package.queueOf_lt {p : Package} {vf i : Nat} (h : p.queueOf vf i = some q) : q < 1024 := by
  unfold Package.queueOf at h
  have hm := List.mem_of_getElem? h
  rw [List.mem_filter, List.mem_range] at hm
  exact hm.1

theorem State.window_responds {vf i : Nat} (hb : (s.pkg pkg).boot = 0x00FF) (hq : (s.pkg pkg).queueOf vf i = some q) (f : Nat → State) :
    s.window pkg vf i f = f q := by
  unfold State.window
  rw [hq]
  exact if_pos hb

theorem State.hostWrite_responds (hb : (s.pkg pkg).boot = 0x00FF) (r : CtlReg) (v : Word) :
    s.hostWrite pkg r v = s.ctlWrite pkg none v r := by
  simp only [State.hostWrite, hb, ↓reduceIte]

theorem State.capture_disabled (h : ((s.pkg pkg).queue q).en = false) (r : BitVec 512) : s.capture pkg q r = s.malformed pkg q := by
  simp only [State.capture, h, Bool.not_false, ↓reduceIte]

theorem State.capture_room (h : ((s.pkg pkg).queue q).en = true) (hl : ((s.pkg pkg).queue q).fifo.length < 16) (r : BitVec 512) :
    s.capture pkg q r = s.setQueue pkg q { (s.pkg pkg).queue q with fifo := ((s.pkg pkg).queue q).fifo ++ [r] } := by
  simp only [State.capture, h, hl, Bool.not_true, Bool.false_eq_true, ↓reduceIte]

/-! ### QCTL -/

theorem fld_eq {n : Nat} (w : BitVec n) (lo len : Nat) : fld w lo len = w.toNat / 2 ^ lo % 2 ^ len := by
  rw [fld, BitVec.extractLsb'_toNat, Nat.shiftRight_eq_div_pow]

theorem fld_lt {n : Nat} (w : BitVec n) (lo len : Nat) : fld w lo len < 2 ^ len := (w.extractLsb' lo len).isLt

theorem bit_lt (b : Bool) : bit b < 2 := by
  cases b <;> decide

/-- The function that a write of QCTL leaves a queue with: a VF of 17 to 31 leaves the field (R49). -/
def Queue.vfAfter (x : Queue) (v : Word) : Nat := if fld v 20 5 ≤ 16 then fld v 20 5 else x.vf

/-- QCTL after a write of it by the host of a package that has booted (R49). -/
def Queue.qctlAfter (x : Queue) (v : Word) : Word :=
  word (fld v 32 10 * 2 ^ 32 + bit (v.getLsbD 31) * 2 ^ 31 + x.vfAfter v * 2 ^ 20 + fld v 16 3 * 2 ^ 16)

theorem Queue.vfAfter_lt (x : Queue) (v : Word) : x.vfAfter v < 32 := by
  unfold Queue.vfAfter
  split
  · exact fld_lt v 20 5
  · exact fld_lt x.qctl 20 5

theorem Queue.qctlAfter_toNat (x : Queue) (v : Word) : (x.qctlAfter v).toNat =
    fld v 32 10 * 2 ^ 32 + bit (v.getLsbD 31) * 2 ^ 31 + x.vfAfter v * 2 ^ 20 + fld v 16 3 * 2 ^ 16 := by
  have h1 := fld_lt v 32 10
  have h2 := bit_lt (v.getLsbD 31)
  have h3 := x.vfAfter_lt v
  have h4 := fld_lt v 16 3
  rw [Queue.qctlAfter, word, BitVec.toNat_ofNat]
  exact Nat.mod_eq_of_lt (by omega)

theorem Queue.qctlAfter_en (x : Queue) (v : Word) : (x.qctlAfter v).getLsbD 31 = v.getLsbD 31 := by
  have h2 := bit_lt (v.getLsbD 31)
  have h3 := x.vfAfter_lt v
  have h4 := fld_lt v 16 3
  have h : (x.qctlAfter v).toNat / 2 ^ 31 % 2 = bit (v.getLsbD 31) := by
    rw [x.qctlAfter_toNat v]
    omega
  rw [BitVec.getLsbD, Nat.testBit_eq_decide_div_mod_eq, h]
  cases v.getLsbD 31 with
  | false => rfl
  | true => rfl

/-- IVEC, VF and PMAX of a QCTL that has been written, with the reserved bits 0. -/
theorem Queue.qctlAfter_fields (x : Queue) (v : Word) :
    (x.qctlAfter v).toNat / 2 ^ 32 = v.toNat / 2 ^ 32 % 2 ^ 10 ∧
    fld (x.qctlAfter v) 20 5 = (if v.toNat / 2 ^ 20 % 32 ≤ 16 then v.toNat / 2 ^ 20 % 32 else x.vf) ∧
    (x.qctlAfter v).toNat / 2 ^ 16 % 16 = v.toNat / 2 ^ 16 % 8 ∧ (x.qctlAfter v).toNat % 2 ^ 16 = 0 := by
  have h2 := bit_lt (v.getLsbD 31)
  have h3 := x.vfAfter_lt v
  have hvf : (if v.toNat / 2 ^ 20 % 32 ≤ 16 then v.toNat / 2 ^ 20 % 32 else x.vf) = x.vfAfter v := by
    simp only [Queue.vfAfter, fld_eq, Nat.reducePow]
  rw [fld_eq, hvf, x.qctlAfter_toNat v, fld_eq v, fld_eq v]
  omega

/-- EN set (R51): the ring starts empty with its counts and CRF at 0, and the FIFO stays. -/
theorem State.writeQctl_enable {v : Word} (hb : (s.pkg pkg).boot = 0x00FF) (hv : v.getLsbD 31 = true)
    (hx : ((s.pkg pkg).queue q).en = false) : s.writeQctl pkg q v = s.setQueue pkg q { (s.pkg pkg).queue q with
      qctl := ((s.pkg pkg).queue q).qctlAfter v, crhead := 0, crtail := 0, malf := 0, ovr := 0, crf := false, phase := true } := by
  have hboot : ((s.pkg pkg).boot == 0x00FF#16) = true := beq_iff_eq.mpr hb
  simp only [State.writeQctl, hboot, hv, hx, Bool.and_true, Bool.not_false, ↓reduceIte, Queue.qctlAfter, Queue.vfAfter]

theorem State.writeQctl_disable {v : Word} (hv : v.getLsbD 31 = false) (hx : ((s.pkg pkg).queue q).en = true) :
    s.writeQctl pkg q v = (s.flushQueue pkg q).setQueue pkg q { ((s.flushQueue pkg q).pkg pkg).queue q with
      qctl := ((s.pkg pkg).queue q).qctlAfter v } := by
  simp only [State.writeQctl, hv, hx, Bool.false_and, Bool.not_false, Bool.and_true, Bool.false_eq_true, ↓reduceIte, Queue.qctlAfter,
    Queue.vfAfter]

theorem State.writeQctl_same {v : Word} (hb : (s.pkg pkg).boot = 0x00FF) (hv : v.getLsbD 31 = ((s.pkg pkg).queue q).en) :
    s.writeQctl pkg q v = s.setQueue pkg q { (s.pkg pkg).queue q with qctl := ((s.pkg pkg).queue q).qctlAfter v } := by
  have hboot : ((s.pkg pkg).boot == 0x00FF#16) = true := beq_iff_eq.mpr hb
  simp only [State.writeQctl, hboot, hv, Bool.and_true, Bool.and_not_self, Bool.false_eq_true, ↓reduceIte, Queue.qctlAfter,
    Queue.vfAfter]

/-! ### The flush of a queue -/

/-- A queue with nothing captured and no head. -/
def State.Emptied (s : State) (pkg q : Nat) : Prop := ((s.pkg pkg).queue q).fifo = [] ∧ ((s.pkg pkg).queue q).head = none

theorem State.Emptied.of_queues {s' : State} (h : s.Emptied pkg q) (e : (s'.pkg pkg).queues = (s.pkg pkg).queues) : s'.Emptied pkg q := by
  unfold State.Emptied Package.queue
  rw [e]
  exact h

theorem State.Emptied.setQueue {x : Queue} (hf : x.fifo = []) (hh : x.head = none) : (s.setQueue pkg q x).Emptied pkg q := by
  unfold State.Emptied
  rw [State.queue_setQueue]
  exact ⟨hf, hh⟩

/-- The log of a package leaves its queues. -/
theorem State.logEvent_queues (s : State) (pkg die kind : Nat) (detail : Word) (loc count : Nat) :
    ((s.logEvent pkg die kind detail loc count).pkg pkg).queues = (s.pkg pkg).queues := by
  unfold State.logEvent
  dsimp only
  split
  · rfl
  · split
    · rw [State.pkg_setPkg]
    · split
      · rw [State.pkg_setPkg]
      · rw [State.pkg_setPkg]

theorem writeHome_pkgs {s' : State} {w : Who} {loc : Loc} {bs : List Byte} (h : writeHome s w loc bs = .ok s') : s'.pkgs = s.pkgs := by
  unfold writeHome at h
  split at h
  · cases h
  · cases h
    rfl

/-- An engine's store leaves every package's registers, also one that fails on its way. -/
theorem engineStore_pkgs (s : State) (w : Who) (va : Word) (bs : List Byte) :
    Yields (fun e => e.2.pkgs = s.pkgs) (fun s' => s'.pkgs = s.pkgs) (engineStore s w va bs) := by
  unfold engineStore
  generalize parts va bs.length = ps
  induction ps generalizing s va bs with
  | nil => exact .ok rfl
  | cons p ps ih =>
    rw [storeParts]
    split
    · exact .error rfl
    · split
      · exact .error rfl
      · next s' e => exact writeHome_pkgs e ▸ ih s' _ _

theorem State.Emptied.writeRecord (h : s.Emptied pkg q) (i : Nat) (phase : Bool) (record : BitVec 512) (status reason : Nat) (detail : Word)
    (cycles : Nat) : (s.writeRecord pkg q i phase record status reason detail cycles).Emptied pkg q := by
  have stored {s' : State} (e : s'.pkgs = s.pkgs) : s'.Emptied pkg q := h.of_queues (by unfold State.pkg; rw [e])
  unfold State.writeRecord
  dsimp only
  split
  · next s' e =>
    have hs := stored ((engineStore_pkgs ..).of_ok e)
    split
    · exact hs.of_queues (by rw [State.pkg_setPkg])
    · exact hs
  · next s' e =>
    have hs := stored ((engineStore_pkgs ..).of_error e)
    refine State.Emptied.of_queues ?_ (State.logEvent_queues ..)
    exact .setQueue hs.1 hs.2

theorem State.Emptied.recordNow (h : s.Emptied pkg q) (record : BitVec 512) (status : Nat) :
    (s.recordNow pkg q record status).Emptied pkg q := by
  unfold State.recordNow
  dsimp only
  split
  · exact h
  · refine State.Emptied.writeRecord ?_ ..
    exact .setQueue h.1 h.2

theorem State.Emptied.recordsNow (status : Nat) (rs : List (BitVec 512)) (h : s.Emptied pkg q) :
    (rs.foldl (fun s r => s.recordNow pkg q r status) s).Emptied pkg q := by
  induction rs generalizing s with
  | nil => exact h
  | cons r rs ih => exact ih (h.recordNow r status)

theorem State.flushQueue_emptied (s : State) (pkg q : Nat) : (s.flushQueue pkg q).Emptied pkg q := by
  have h1 : (s.setQueue pkg q { (s.pkg pkg).queue q with fifo := [], head := none }).Emptied pkg q := .setQueue rfl rfl
  unfold State.flushQueue
  dsimp only
  refine .recordsNow _ _ ?_
  split
  · exact h1.writeRecord ..
  · exact h1

/-! ### The register at an offset (R50) -/

theorem ctlReg_unaligned {off : Nat} (h : off % 8 ≠ 0) : ctlReg off = none := by
  rw [ctlReg, if_pos h]

theorem ctlReg_qctl {n : Nat} (h : n < 1024) : ctlReg (32 * n) = some (.qctl n) := by
  rw [ctlReg, if_neg (by omega), if_pos (by omega), show 32 * n % 32 / 8 = 0 by omega, show 32 * n / 32 = n by omega]
  rfl

theorem ctlReg_crbase {n : Nat} (h : n < 1024) : ctlReg (32 * n + 8) = some (.crbase n) := by
  rw [ctlReg, if_neg (by omega), if_pos (by omega), show (32 * n + 8) % 32 / 8 = 1 by omega, show (32 * n + 8) / 32 = n by omega]
  rfl

theorem ctlReg_crctl {n : Nat} (h : n < 1024) : ctlReg (32 * n + 16) = some (.crctl n) := by
  rw [ctlReg, if_neg (by omega), if_pos (by omega), show (32 * n + 16) % 32 / 8 = 2 by omega, show (32 * n + 16) / 32 = n by omega]
  rfl

theorem ctlReg_fnReg {f r : Nat} (hf : f < 17) (hr : r < 0x1000) (h8 : r % 8 = 0) : ctlReg (0x10000 + 0x1000 * f + r) = fnReg f r := by
  rw [ctlReg, if_neg (by omega), if_neg (by omega), if_pos (by omega), show (0x10000 + 0x1000 * f + r - 0x10000) / 0x1000 = f by omega,
    show (0x10000 + 0x1000 * f + r) % 0x1000 = r by omega]

theorem fnReg_root (f : Nat) {r : Nat} (h : r < 64) : fnReg f (8 * r) = some (.root f r) := by
  rw [fnReg, if_pos (by omega), show 8 * r / 8 = r by omega]

/-- A register whose rule names a writer other than the host, or none. -/
def CtlReg.notHosts : CtlReg → Bool
  | .qstat _ | .clusterMap _ | .cellMap _ _ _ | .routeBank _ _ | .ccbase => true
  | _ => false

theorem State.ctlWrite_notHosts {r : CtlReg} (h : r.notHosts = true) (v : Word) : s.ctlWrite pkg none v r = s := by
  cases r with
  | qstat | clusterMap | cellMap | routeBank | ccbase => rfl
  | _ => cases h

theorem dieReg_notHosts {d n : Nat} {r : CtlReg} (h : dieReg d n = some r) : r.notHosts = true := by
  unfold dieReg at h
  split at h
  · cases h
    rfl
  · split at h
    · cases h
      rfl
    · cases h

/-- The offsets at which a write of the host has no effect. -/
theorem ctlReg_notHosts {off : Nat} {r : CtlReg} (ho : (off < 0x8000 ∧ off % 32 = 24) ∨ (0x40000 ≤ off ∧ off < 0x44000) ∨
    (0x110000 ≤ off ∧ off < 0x110800) ∨ off = 0x200010 ∨ off % 8 ≠ 0) (h : ctlReg off = some r) : r.notHosts = true := by
  by_cases h8 : off % 8 ≠ 0
  · rw [ctlReg_unaligned h8] at h
    cases h
  rw [ctlReg, if_neg h8] at h
  obtain ⟨hlt, hr⟩ | ⟨hlo, hhi⟩ | ⟨hlo, hhi⟩ | rfl | h8' := ho
  · rw [if_pos hlt, show off % 32 / 8 = 3 by omega] at h
    cases h
    rfl
  · rw [if_neg (by omega), if_neg (by omega), if_pos ⟨hlo, hhi⟩] at h
    exact dieReg_notHosts h
  · rw [if_neg (by omega), if_neg (by omega), if_neg (by omega), if_neg (by omega), if_pos ⟨hlo, hhi⟩] at h
    cases h
    rfl
  · cases h
    rfl
  · exact absurd h8' h8

/-! ### Register writes -/

theorem alignDown_eq (v : Word) {n m : Nat} (h : 2 ^ n = m) : alignDown v n = BitVec.ofNat 64 (v.toNat / m * m) := by
  refine BitVec.eq_of_toNat_eq ?_
  rw [alignDown, BitVec.toNat_shiftLeft, BitVec.toNat_ushiftRight, Nat.shiftRight_eq_div_pow, Nat.shiftLeft_eq, BitVec.toNat_ofNat, h]

theorem fld_zero (v : Word) {n m : Nat} (h : 2 ^ n = m) : fld v 0 n = v.toNat % m := by
  rw [fld_eq, Nat.pow_zero, Nat.div_one, h]

/-- CRHEAD and HEAD in a word written (R49, R466). -/
theorem extract_head (v : Word) : v.extractLsb' 32 16 = BitVec.ofNat 16 (v.toNat / 2 ^ 32) := by
  rw [BitVec.extractLsb', Nat.shiftRight_eq_div_pow]

theorem exec_registerWrite_reg (hb : (s.pkg pkg).boot = 0x00FF) {off : Nat} {r : CtlReg} (hr : ctlReg off = some r) (v : Word) :
    exec (.registerWrite pkg off v) s = .next (s.ctlWrite pkg none v r) := by
  simp only [exec_registerWrite, execRegisterWrite, hr, State.hostWrite_responds hb]

theorem exec_registerWrite_none {off : Nat} (hr : ctlReg off = none) (v : Word) : exec (.registerWrite pkg off v) s = .next s := by
  simp only [exec_registerWrite, execRegisterWrite, hr]

/-- A register write that leaves function f with the given registers, and memory as it is. -/
def LeavesFn (s : State) (pkg f off : Nat) (v : Word) (new : FnRegs) : Prop :=
  ∃ s' : State, exec (.registerWrite pkg off v) s = .next s' ∧ (s'.pkg pkg).fn f = new ∧ s'.mem = s.mem

/-- A register write that leaves queue n as given, and memory as it is. -/
def LeavesQueue (s : State) (pkg n off : Nat) (v : Word) (new : Queue) : Prop :=
  ∃ s' : State, exec (.registerWrite pkg off v) s = .next s' ∧ (s'.pkg pkg).queue n = new ∧ s'.mem = s.mem

theorem State.fn_modFn (s : State) (pkg f : Nat) (g : FnRegs → FnRegs) : ((s.modFn pkg f g).pkg pkg).fn f = g ((s.pkg pkg).fn f) := by
  simp only [State.modFn, State.pkg_setPkg, Package.fn, lookD_putAt_same]

theorem LeavesFn.of_modFn (hb : (s.pkg pkg).boot = 0x00FF) {f off : Nat} {v : Word} {r : CtlReg} {g : FnRegs → FnRegs} {new : FnRegs}
    (hr : ctlReg off = some r) (hw : s.ctlWrite pkg none v r = s.modFn pkg f g) (hg : g ((s.pkg pkg).fn f) = new) :
    LeavesFn s pkg f off v new := by
  refine ⟨_, exec_registerWrite_reg hb hr v, ?_, ?_⟩
  · rw [hw, State.fn_modFn, hg]
  · rw [hw]
    rfl

theorem LeavesQueue.of_setQueue (hb : (s.pkg pkg).boot = 0x00FF) {n off : Nat} {v : Word} {r : CtlReg} {new : Queue}
    (hr : ctlReg off = some r) (hw : s.ctlWrite pkg none v r = s.setQueue pkg n new) : LeavesQueue s pkg n off v new := by
  refine ⟨_, exec_registerWrite_reg hb hr v, ?_, ?_⟩
  · rw [hw, State.queue_setQueue]
  · rw [hw]
    rfl

/-! ### Host writes -/

/-- The registers of a function (R195). -/
theorem functionRegisterWrites (hb : (s.pkg pkg).boot = 0x00FF) (v : Word) {f : Nat} (hf : f < 17) :
    let old := (s.pkg pkg).fn f
    let leaves (off : Nat) (new : FnRegs) : Prop := LeavesFn s pkg f (0x10000 + 0x1000 * f + off) v new
    (∀ r : Fin 64, leaves (8 * r.val) { old with roots := old.roots.set r (v &&& 0xFFFFFFFFFFFF7FF0) }) ∧
    leaves 0x200 { old with htbase := BitVec.ofNat 64 (v.toNat / 16 * 16) } ∧
    leaves 0x208 { old with htsize := BitVec.ofNat 64 (v.toNat % 2 ^ 24) } ∧
    leaves 0x210 { old with ptbase := BitVec.ofNat 64 (v.toNat / 32 * 32) } ∧
    leaves 0x218 { old with ptsize := BitVec.ofNat 64 (v.toNat % 2 ^ 16) } := by
  have at_ {r : Nat} (hr : r < 0x1000) (h8 : r % 8 = 0) := ctlReg_fnReg hf hr h8
  refine ⟨fun r => ?_, ?_, ?_, ?_, ?_⟩
  · refine .of_modFn hb ((at_ (by omega) (by omega)).trans (fnReg_root f r.isLt)) (by rw [State.ctlWrite]) ?_
    simp only [setIdx, r.isLt, ↓reduceDIte]
  · refine .of_modFn hb (at_ (by omega) (by omega)) (by rw [State.ctlWrite]) ?_
    rw [alignDown_eq v (m := 16) rfl]
  · refine .of_modFn hb (at_ (by omega) (by omega)) (by rw [State.ctlWrite]) ?_
    rw [word, fld_zero v rfl]
  · refine .of_modFn hb (at_ (by omega) (by omega)) (by rw [State.ctlWrite]) ?_
    rw [alignDown_eq v (m := 32) rfl]
  · refine .of_modFn hb (at_ (by omega) (by omega)) (by rw [State.ctlWrite]) ?_
    rw [word, fld_zero v rfl]

/-- The registers of a queue whose EN stays (R49). -/
theorem queueRegisterWrites (hb : (s.pkg pkg).boot = 0x00FF) (v : Word) {n : Nat} (hn : n < 1024) :
    let old := (s.pkg pkg).queue n
    let leaves (off : Nat) (new : Queue) : Prop := LeavesQueue s pkg n (32 * n + off) v new
    (v.getLsbD 31 = old.en → leaves 0 { old with qctl := old.qctlAfter v }) ∧
    leaves 8 { old with crbase := BitVec.ofNat 64 (v.toNat / 4096 * 4096) } ∧
    leaves 16 { old with crhead := BitVec.ofNat 16 (v.toNat / 2 ^ 32), crlog2 := BitVec.ofNat 4 (min (v.toNat % 16) 12) } := by
  refine ⟨fun hv => ?_, ?_, ?_⟩
  · exact .of_setQueue hb (ctlReg_qctl hn) (State.writeQctl_same hb hv)
  · refine .of_setQueue hb (ctlReg_crbase hn) ?_
    rw [State.ctlWrite, alignDown_eq v (m := 4096) rfl]
  · refine .of_setQueue hb (ctlReg_crctl hn) ?_
    rw [State.ctlWrite, extract_head, fld_zero v (m := 16) rfl]

theorem exec_queueEnable_responds (hb : (s.pkg pkg).boot = 0x00FF) (hq : q < 1024) {v : Word} (hv : v.getLsbD 31 = true) :
    exec (.queueEnable pkg q v) s = .next (s.writeQctl pkg q v) := by
  simp only [exec_queueEnable, execQueueEnable, hq, hv, and_self, ↓reduceIte, State.hostWrite_responds hb, State.ctlWrite]

theorem exec_queueDisable_responds (hb : (s.pkg pkg).boot = 0x00FF) (hq : q < 1024) {v : Word} (hv : v.getLsbD 31 = false) :
    exec (.queueDisable pkg q v) s = .next (s.writeQctl pkg q v) := by
  simp only [exec_queueDisable, execQueueDisable, hq, hv, Bool.not_false, and_self, ↓reduceIte, State.hostWrite_responds hb, State.ctlWrite]

theorem exec_portstatWrite_responds (hb : (s.pkg pkg).boot = 0x00FF) {p : Nat} (hp : p < 32) (v : Word) :
    exec (.portstatWrite pkg p v) s = .next (s.writePortstat pkg p v) := by
  simp only [exec_portstatWrite, execPortstatWrite, hp, ↓reduceIte, State.hostWrite_responds hb, State.ctlWrite]

theorem State.port_writePortstat (s : State) (pkg p : Nat) (v : Word) : ((s.writePortstat pkg p v).pkg pkg).port p =
    { (s.pkg pkg).port p with afail := ((s.pkg pkg).port p).afail && !v.getLsbD 16 } := by
  simp only [State.writePortstat, State.pkg_setPkg, Package.port, lookD_putAt_same]

/-- Settles O25: a package that responds takes each write as its window or its register says. -/
theorem hostWrites : Obligations.HostWrites := by
  unfold Obligations.HostWrites
  intro s pkg vf i q hb hq
  have hlt := Package.queueOf_lt hq
  have hwin (f : Nat → State) := State.window_responds hb hq f
  refine ⟨fun r hx hl => ?_, fun r hx => ?_, ?_, fun v hx => ?_, fun v hx => ?_, fun v hv hx => ?_, fun v hv hx => ?_, fun v f hf => ?_,
    fun v n hn => ?_, fun v => ⟨?_, ?_⟩, fun v off ho => ?_, fun v p hp => ?_⟩
  · rw [exec_launchWrite, execLaunchWrite, hwin, State.capture_room hx hl]
  · rw [exec_launchWrite, execLaunchWrite, hwin, State.capture_disabled hx, State.malformed]
  · rw [exec_malformedWrite, execMalformedWrite, hwin, State.malformed]
  · simp only [exec_crheadWrite, execCrheadWrite, hwin, hx, ↓reduceIte]
  · simp only [exec_crheadWrite, execCrheadWrite, hwin, hx, Bool.false_eq_true, ↓reduceIte, State.malformed]
  · refine ⟨_, _, exec_queueEnable_responds hb hlt hv, rfl, ?_⟩
    rw [State.writeQctl_enable hb hv hx, State.queue_setQueue]
    exact ⟨(Queue.qctlAfter_en _ v).trans hv, rfl, rfl, rfl, rfl, rfl, rfl, rfl⟩
  · refine ⟨_, _, exec_queueDisable_responds hb hlt hv, rfl, ?_⟩
    rw [State.writeQctl_disable hv hx, State.queue_setQueue]
    exact ⟨(Queue.qctlAfter_en _ v).trans hv, State.flushQueue_emptied s pkg q⟩
  · exact functionRegisterWrites hb v hf
  · obtain ⟨hqctl, hcrbase, hcrctl⟩ := queueRegisterWrites hb v hn
    exact ⟨fun hv => ⟨_, hqctl hv, rfl, Queue.qctlAfter_en _ v, Queue.qctlAfter_fields _ v⟩, hcrbase, hcrctl⟩
  · rw [exec_registerWrite_reg hb (r := .elbase) rfl, State.ctlWrite, alignDown_eq v (m := 4096) rfl]
  · rw [exec_registerWrite_reg hb (r := .elctl) rfl, State.ctlWrite, extract_head]
    rfl
  · cases hr : ctlReg off with
    | none => exact exec_registerWrite_none hr v
    | some r => rw [exec_registerWrite_reg hb hr, State.ctlWrite_notHosts (ctlReg_notHosts ho hr)]
  · exact ⟨_, exec_portstatWrite_responds hb hp v, rfl, State.port_writePortstat ..⟩

end Sys2Proof.Machine
end

section
/-! SUPPORT. The package: reset values, and what the ends of engine operations and of launches leave alone. A lemma `State.Keeps.f` or
`State.Settles.f` speaks of the state that `State.f` gives. -/
namespace Sys2Proof.Machine
open Sys2Proof Sys2Proof.Claims

variable {a s : State}

/-! ### Reset -/

/-- Settles O53: each value is read off the reset state. -/
theorem resetValues : Obligations.ResetValues := by
  refine ⟨rfl, rfl, rfl, rfl, fun k => ⟨rfl, fun q => ⟨(by decide : ({} : Queue).en = false), rfl⟩, fun m hm => ?_, rfl, fun q => rfl⟩⟩
  show (Vector.replicate 16 (0 : BitVec 512)).toList.getD m 1 = 0
  rw [Vector.toList_replicate, List.getD_eq_getElem?_getD, List.getElem?_replicate_of_lt hm, Option.getD_some]

/-! ### Launches and flash -/

/-- A package without the side information of a registration (R401). -/
def Package.unadvertised (k : Nat) (r : Registration) (x : Package) : Package :=
  { x with sit := x.sit.filter fun e => !(e.pkg == k && e.xid == r.xid) }

/-- s has the launches of a, and every package has the flash it has in a. -/
structure State.Keeps (a s : State) : Prop where
  launches : s.launches = a.launches
  flash : ∀ k, (s.pkg k).flash = (a.pkg k).flash

namespace State.Keeps

theorem refl (s : State) : s.Keeps s := ⟨rfl, fun _ => rfl⟩

theorem trans {t : State} (h : a.Keeps s) (g : s.Keeps t) : a.Keeps t :=
  ⟨g.launches.trans h.launches, fun k => (g.flash k).trans (h.flash k)⟩

theorem of_eq {t : State} (h : a.Keeps s) (hl : t.launches = s.launches := by rfl) (hp : t.pkgs = s.pkgs := by rfl) : a.Keeps t :=
  ⟨hl.trans h.launches, fun k => by rw [← h.flash k, State.pkg, State.pkg, hp]⟩

theorem of_rewayed {t : State} (h : a.Keeps s) (hr : s.Rewayed t) : a.Keeps t := by
  obtain ⟨m, f, rfl⟩ := hr
  exact h.of_eq

theorem foldl {α : Type} {f : State → α → State} (hf : ∀ {s x}, a.Keeps s → a.Keeps (f s x)) (l : List α) (h : a.Keeps s) :
    a.Keeps (l.foldl f s) := by
  induction l generalizing s with
  | nil => exact h
  | cons x l ih => exact ih (hf h)

theorem ite {c : Prop} [Decidable c] {t : State} (h : a.Keeps s) (g : a.Keeps t) : a.Keeps (if c then s else t) := by
  split
  · exact h
  · exact g

theorem setPkg {k : Nat} {x : Package} (h : a.Keeps s) (e : x.flash = (a.pkg k).flash) : a.Keeps (s.setPkg k x) := by
  refine ⟨h.launches, fun j => ?_⟩
  by_cases hj : j = k
  · subst hj
    rw [State.pkg_setPkg, e]
  · rw [← h.flash j, State.pkg, State.setPkg_pkgs, lookD_putAt_other _ hj, State.pkg]

theorem modPkg {k : Nat} {f : Package → Package} (h : a.Keeps s) (hf : ∀ p, (f p).flash = p.flash) : a.Keeps (s.modPkg k f) :=
  h.setPkg ((hf _).trans (h.flash k))

theorem unadvertise {k : Nat} {r : Registration} (h : a.Keeps s) : a.Keeps (s.unadvertise k r) :=
  ⟨h.launches, fun j => (lookD_map_keyed (f := fun _ => Package.unadvertised k r) (fun _ _ => rfl : ∀ _ _, Package.flash _ = _) {} j s.pkgs).trans
    (h.flash j)⟩

theorem modThread {k : Nat} {f : Thread → Thread} (h : a.Keeps s) : a.Keeps (s.modThread k f) := by
  unfold State.modThread
  split
  · exact h.of_eq
  · exact h

theorem modRecord {k : Nat} {f : Thread → Thread} (h : a.Keeps s) : a.Keeps (s.modRecord k f) := (modThread h).of_eq

theorem unpark {p : Parked → Bool} (h : a.Keeps s) : a.Keeps (s.unpark p) := foldl modRecord _ h.of_eq

theorem answerParked {p : Parked → Bool} {code : Nat} (h : a.Keeps s) : a.Keeps (s.answerParked p code) := foldl modRecord _ h.of_eq

end State.Keeps

/-! ### The ends of engine operations -/

/-- s has the launches and flash of a, its memory and dies, and the OMUs of the clusters outside `p`. -/
structure State.Settles (p : ClusterId → Prop) (a s : State) : Prop extends State.Keeps a s where
  mem : s.mem = a.mem
  dies : s.dies = a.dies
  omus : ∀ c, ¬ p c → s.omu c = a.omu c

namespace State.Settles
variable {p : ClusterId → Prop}

theorem refl (p : ClusterId → Prop) (s : State) : s.Settles p s := ⟨.refl s, rfl, rfl, fun _ _ => rfl⟩

theorem trans {t : State} (h : a.Settles p s) (g : s.Settles p t) : a.Settles p t :=
  ⟨h.toKeeps.trans g.toKeeps, g.mem.trans h.mem, g.dies.trans h.dies,
    fun c hc => (g.omus c hc).trans (h.omus c hc)⟩

/-- An operation that keeps launches and flash, and leaves memory, dies and OMUs as they are. -/
theorem of_keeps {t : State} (h : a.Settles p s) (hk : a.Keeps t) (hm : t.mem = s.mem := by rfl) (hd : t.dies = s.dies := by rfl)
    (ho : t.omus = s.omus := by rfl) : a.Settles p t :=
  ⟨hk, hm.trans h.mem, hd.trans h.dies, fun c hc => by rw [← h.omus c hc, State.omu, State.omu, ho]⟩

theorem of_eq {t : State} (h : a.Settles p s) (hl : t.launches = s.launches := by rfl) (hp : t.pkgs = s.pkgs := by rfl)
    (hm : t.mem = s.mem := by rfl) (hd : t.dies = s.dies := by rfl) (ho : t.omus = s.omus := by rfl) : a.Settles p t :=
  h.of_keeps (h.toKeeps.of_eq hl hp) hm hd ho

theorem foldl {α : Type} {f : State → α → State} (hf : ∀ {s x}, a.Settles p s → a.Settles p (f s x)) (l : List α) (h : a.Settles p s) :
    a.Settles p (l.foldl f s) := by
  induction l generalizing s with
  | nil => exact h
  | cons x l ih => exact ih (hf h)

theorem ite {c : Prop} [Decidable c] {t : State} (h : a.Settles p s) (g : a.Settles p t) : a.Settles p (if c then s else t) := by
  split
  · exact h
  · exact g

theorem modPkg {k : Nat} {f : Package → Package} (h : a.Settles p s) (hf : ∀ x, (f x).flash = x.flash) : a.Settles p (s.modPkg k f) :=
  h.of_keeps (h.toKeeps.modPkg hf)

theorem modThread {k : Nat} {f : Thread → Thread} (h : a.Settles p s) : a.Settles p (s.modThread k f) := by
  unfold State.modThread
  split
  · exact h.of_eq
  · exact h

theorem modOmu {c : ClusterId} {f : Omu → Omu} (h : a.Settles p s) (hc : p c) : a.Settles p (s.modOmu c f) := by
  refine ⟨h.toKeeps.of_eq, h.mem, h.dies, fun d hd => ?_⟩
  have hne : d ≠ c := fun e => hd (e ▸ hc)
  rw [← h.omus d hd, State.modOmu, State.omu, State.setOmu_omus, lookD_putAt_other _ hne, State.omu]

theorem deliverEntry {q : DoneQ} {b : Issuer} {e c : Nat} {va : Word} (h : a.Settles p s) : a.Settles p (s.deliverEntry q b e c va) := by
  unfold State.deliverEntry State.owe
  split
  · exact modThread h
  · exact h.of_eq

theorem missPromise {b : Issuer} (h : a.Settles p s) : a.Settles p (s.missPromise b) := by
  unfold State.missPromise State.owe
  split
  · exact modThread h
  · exact h.of_eq

theorem dropLocks {n : Nat} (h : a.Settles p s) : a.Settles p (s.dropLocks n) := h.of_eq

theorem endTopo {k n : Nat} {c : Topo} (h : a.Settles p s) : a.Settles p (s.endTopo k c n) :=
  deliverEntry (h.modPkg fun _ => rfl)

theorem settleTopo {k : Nat} (h : a.Settles p s) : a.Settles p (s.settleTopo k) := by
  unfold State.settleTopo
  split
  · exact h
  · split
    · exact .ite (endTopo h) h
    · exact .ite (endTopo h) h

theorem leaveClosed {k : Nat} (h : a.Settles p s) : a.Settles p (s.leaveClosed k) := settleTopo (h.modPkg fun _ => rfl)

theorem advance {k : Nat} (n : Nat) (h : a.Settles p s) : a.Settles p (s.advance k n) := by
  induction n generalizing s with
  | zero => exact h
  | succ n ih =>
    rw [State.advance]
    exact .ite (leaveClosed h) (.ite (ih (h.of_keeps (h.toKeeps.setPkg (h.flash k)))) h)

theorem ackGen {k : Nat} {g : BitVec 16} (h : a.Settles p s) : a.Settles p (s.ackGen k g) :=
  advance _ (h.of_keeps (h.toKeeps.setPkg (h.flash k)))

theorem endReg {k : Nat} {r : Registration} (h : a.Settles p s) : a.Settles p (s.endReg k r) := by
  have h1 : a.Settles p ((s.modPkg k fun x => { x with regs := x.regs.filter fun y => y.key != r.key }).dropLocks r.key) :=
    dropLocks (h.modPkg fun _ => rfl)
  exact foldl ackGen _ (h1.of_keeps h1.toKeeps.unadvertise)

theorem endRegs {k : Nat} (h : a.Settles p s) : a.Settles p (s.endRegs k) := foldl endReg _ h

theorem noteShuf {f : Fop} (h : a.Settles p s) : a.Settles p (s.noteShuf f) := by
  unfold State.noteShuf
  exact .ite h (h.modPkg fun _ => rfl)

theorem endFop {f : Fop} (h : a.Settles p s) : a.Settles p (s.endFop f) := endRegs (deliverEntry (noteShuf h).of_eq)

theorem endCopy {c : ClusterId} {j : CopyJob} {st fc : Nat} {va : Word} (h : a.Settles p s) : a.Settles p (s.endCopy c j st fc va) := by
  unfold State.endCopy
  dsimp only
  split
  · exact deliverEntry (missPromise h).of_eq
  · exact deliverEntry h.of_eq

theorem endPass {c : ClusterId} {x : Pass} (h : a.Settles p s) (hc : p c) : a.Settles p (s.endPass c x) :=
  deliverEntry ((dropLocks h).modOmu hc)

theorem endProbes {e : PostEntry} {st n : Nat} {dir : Bool} (h : a.Settles p s) : a.Settles p (s.endProbes e st dir n) :=
  foldl deliverEntry _ (deliverEntry h)

theorem settleOmu {c : ClusterId} (h : a.Settles p s) (hc : p c) : a.Settles p (s.settleOmu c) := h.modOmu hc

theorem abortQueued {c : ClusterId} {e : PostEntry} (h : a.Settles p s) (hc : p c) : a.Settles p (s.abortQueued c e) := by
  refine settleOmu ?_ hc
  split
  · exact (h.modOmu hc).endPass hc
  · split
    · exact (h.modOmu hc).endProbes
    · exact (h.modOmu hc).modOmu hc
  · exact h.modOmu hc

theorem abortStream {c : ClusterId} {x : Pass} (h : a.Settles p s) (hc : p c) : a.Settles p (s.abortStream c x) :=
  .ite h (modOmu h.of_eq hc)

theorem poisonReg {k : Nat} {r : Registration} (h : a.Settles p s) : a.Settles p (s.poisonReg k r) := by
  unfold State.poisonReg
  dsimp only
  split
  · exact endReg h
  · exact endReg (deliverEntry h)

end State.Settles

/-! ### Thermal shutdown (R65) -/

/-- No posted pass and no streaming one. -/
def Omu.Drained (o : Omu) : Prop := o.queue = [] ∧ o.stream = []

/-- A pass ended POISONED. -/
def State.poisonPass (c : ClusterId) (s : State) (p : Pass) : State := s.endPass c { p with status := 7, rsn := 0, fcode := 0 }

/-- A posted entry ended POISONED. -/
def State.poisonPost (c : ClusterId) (s : State) (e : PostEntry) : State := match e.post with
  | .pass r => s.endPass c (e.ended r 7 0 0 0)
  | .probe dir _ => s.endProbes e 7 dir 0
  | .swap => s

/-- What a shutdown does to one OMU: its passes, then its posts, then its load end POISONED. -/
def State.poisonOmu (s : State) (x : ClusterId × Omu) : State :=
  let s := x.2.queue.foldl (State.poisonPost x.1) (x.2.passes.foldl (State.poisonPass x.1) s)
  let s := s.modOmu x.1 fun o => { o with queue := [], stream := [], state := if o.state = 1 then 0 else o.state }
  match x.2.load with
  | some l =>
    let s := ((s.dropLocks l.key).dropLocks (l.key + 1)).modOmu x.1 fun o => { o with load := none }
    s.deliverEntry .load l.by_ (entryBits l.by_.opr.ticket 7 l.bank 0 0) 0 0
  | none => s

/-- The copies of a die ended. -/
def State.poisonCopies (s : State) (on : ClusterId → Bool) : State :=
  (s.clusters.filter fun x => on x.1).foldl (fun s x => x.2.copies.foldl (fun s j => s.endCopy x.1 j 7 0 0) s) s

/-- The work of a die's OMUs ended. -/
def State.poisonOmus (s : State) (on : ClusterId → Bool) : State := (s.omus.filter fun x => on x.1).foldl State.poisonOmu s

/-- The fabric operations and registrations of a die ended. -/
def State.poisonFabric (s : State) (pkg die : Nat) : State :=
  let s := (s.fops.filter fun f => f.by_.cell.pkg == pkg && f.by_.cell.die == die).foldl (fun s f => s.endFop { f with poisoned := true }) s
  ((s.pkg pkg).regs.filter fun r => r.by_.cell.die == die).foldl (fun s r => s.poisonReg pkg r) s

/-- The clusters of a die. -/
def onDie (pkg die : Nat) (c : ClusterId) : Bool := c.pkg == pkg && c.die == die

theorem State.poisonEngines_eq (s : State) (pkg die : Nat) :
    s.poisonEngines pkg die = ((s.poisonCopies (onDie pkg die)).poisonOmus (onDie pkg die)).poisonFabric pkg die := rfl

theorem State.Settles.poisonPost {p : ClusterId → Prop} {c : ClusterId} {e : PostEntry} (h : a.Settles p s) (hc : p c) :
    a.Settles p (State.poisonPost c s e) := by
  unfold State.poisonPost
  split
  · exact h.endPass hc
  · exact h.endProbes
  · exact h

theorem State.Settles.poisonOmu {p : ClusterId → Prop} {x : ClusterId × Omu} (h : a.Settles p s) (hx : p x.1) : a.Settles p (s.poisonOmu x) := by
  have hpasses : a.Settles p (x.2.passes.foldl (State.poisonPass x.1) s) := .foldl (fun h => h.endPass hx) _ h
  have hposts : a.Settles p (x.2.queue.foldl (State.poisonPost x.1) (x.2.passes.foldl (State.poisonPass x.1) s)) :=
    .foldl (fun h => h.poisonPost hx) _ hpasses
  unfold State.poisonOmu
  dsimp only
  split
  · exact (((hposts.modOmu hx).dropLocks.dropLocks).modOmu hx).deliverEntry
  · exact hposts.modOmu hx

theorem State.omu_modOmu (s : State) (c : ClusterId) (f : Omu → Omu) : (s.modOmu c f).omu c = f (s.omu c) := State.omu_setOmu ..

theorem State.omu_dropLocks (s : State) (n : Nat) (c : ClusterId) : (s.dropLocks n).omu c = s.omu c := rfl

theorem State.omu_deliverEntry (s : State) (q : DoneQ) (b : Issuer) (e n : Nat) (va : Word) (c : ClusterId) :
    (s.deliverEntry q b e n va).omu c = s.omu c := (Settles.deliverEntry (.refl (fun _ => False) s)).omus c id

theorem State.poisonOmu_drained (s : State) (x : ClusterId × Omu) : ((s.poisonOmu x).omu x.1).Drained := by
  unfold State.poisonOmu
  dsimp only
  split
  · rw [State.omu_deliverEntry, State.omu_modOmu, State.omu_dropLocks, State.omu_dropLocks, State.omu_modOmu]
    exact ⟨rfl, rfl⟩
  · rw [State.omu_modOmu]
    exact ⟨rfl, rfl⟩

/-- OMUs ended one after the other: each of them is drained, and one that was stays so. -/
theorem State.poisonOmus_drained (c : ClusterId) (xs : List (ClusterId × Omu)) (h : (s.omu c).Drained ∨ c ∈ xs.map Prod.fst) :
    ((xs.foldl State.poisonOmu s).omu c).Drained := by
  induction xs generalizing s with
  | nil => exact h.resolve_right List.not_mem_nil
  | cons x xs ih =>
    by_cases e : c = x.1
    · subst e
      exact ih (.inl (State.poisonOmu_drained s x))
    · have hc : (s.poisonOmu x).omu c = s.omu c := (Settles.poisonOmu (.refl (· = x.1) s) rfl).omus c e
      exact ih ((h.imp_right fun h => (List.mem_cons.mp h).resolve_left e).imp_left fun h => hc ▸ h)

/-- An OMU that is not listed has no work. -/
theorem State.omu_drained_or_listed (s : State) (c : ClusterId) : (s.omu c).Drained ∨ (c, s.omu c) ∈ s.omus :=
  (lookD_mem_or {} c s.omus).imp_left fun h => by
    rw [State.omu, h]
    exact ⟨rfl, rfl⟩

theorem State.Settles.poisonCopies {p : ClusterId → Prop} {on : ClusterId → Bool} (h : a.Settles p s) : a.Settles p (s.poisonCopies on) :=
  .foldl (fun h => .foldl .endCopy _ h) _ h

theorem State.Settles.poisonFabric {p : ClusterId → Prop} {k d : Nat} (h : a.Settles p s) : a.Settles p (s.poisonFabric k d) :=
  .foldl .poisonReg _ (.foldl .endFop _ h)

theorem State.Settles.poisonEngines (s : State) (pkg die : Nat) : s.Settles (fun _ => True) (s.poisonEngines pkg die) := by
  rw [State.poisonEngines_eq]
  exact .poisonFabric (.foldl (fun h => h.poisonOmu trivial) _ (.poisonCopies (.refl _ s)))

theorem State.poisonEngines_drained {pkg die : Nat} {c : ClusterId} (h : onDie pkg die c = true) :
    ((s.poisonEngines pkg die).omu c).Drained := by
  rw [State.poisonEngines_eq, (Settles.poisonFabric (.refl (fun _ => False) _)).omus c id, State.poisonOmus]
  refine State.poisonOmus_drained c _ ((State.omu_drained_or_listed _ c).imp_right fun hc => ?_)
  exact List.mem_map.mpr ⟨_, List.mem_filter.mpr ⟨hc, h⟩, rfl⟩

/-! ### Writes of control-space registers -/

/-- s has the launches, flash and threads of a. -/
structure State.Spares (a s : State) : Prop extends State.Keeps a s where
  threads : s.threads = a.threads

namespace State.Spares

theorem refl (s : State) : s.Spares s := ⟨.refl s, rfl⟩

theorem of_keeps {t : State} (h : a.Spares s) (hk : a.Keeps t) (ht : t.threads = s.threads := by rfl) : a.Spares t :=
  ⟨hk, ht.trans h.threads⟩

theorem of_eq {t : State} (h : a.Spares s) (hl : t.launches = s.launches := by rfl) (hp : t.pkgs = s.pkgs := by rfl)
    (ht : t.threads = s.threads := by rfl) : a.Spares t := h.of_keeps (h.toKeeps.of_eq hl hp) ht

theorem ite {c : Prop} [Decidable c] {t : State} (h : a.Spares s) (g : a.Spares t) : a.Spares (if c then s else t) := by
  split
  · exact h
  · exact g

theorem setPkg {k : Nat} {x : Package} (h : a.Spares s) (e : x.flash = (a.pkg k).flash) : a.Spares (s.setPkg k x) :=
  h.of_keeps (h.toKeeps.setPkg e)

theorem setQueue {k q : Nat} {x : Queue} (h : a.Spares s) : a.Spares (s.setQueue k q x) := h.setPkg (h.flash k)

theorem modFn {k v : Nat} {f : FnRegs → FnRegs} (h : a.Spares s) : a.Spares (s.modFn k v f) := h.setPkg (h.flash k)

/-- An engine's store, also one that fails on its way. -/
theorem engineStore {w : Who} {va : Word} {bs : List Byte} (h : a.Spares s) :
    Yields (fun e => a.Spares e.2) (fun s' => a.Spares s') (engineStore s w va bs) := by
  unfold Machine.engineStore
  generalize parts va bs.length = ps
  induction ps generalizing s va bs with
  | nil => exact .ok h
  | cons p ps ih =>
    rw [storeParts]
    split
    · exact .error h
    · unfold writeHome
      split
      · exact .error h
      · next e =>
        split at e
        · cases e
        · cases e
          exact ih h.of_eq

theorem logEvent {k d n loc c : Nat} {detail : Word} (h : a.Spares s) : a.Spares (s.logEvent k d n detail loc c) := by
  unfold State.logEvent
  dsimp only
  split
  · exact h
  · split
    · exact h.setPkg (h.flash k)
    · split
      · exact (h.engineStore.of_ok ‹_›).setPkg (h.flash k)
      · next s' e =>
        have hs : a.Spares s' := h.engineStore.of_error e
        exact hs.setPkg (h.flash k)

theorem writeRecord {k q i st rs n : Nat} {ph : Bool} {r : BitVec 512} {d : Word} (h : a.Spares s) :
    a.Spares (s.writeRecord k q i ph r st rs d n) := by
  unfold State.writeRecord
  dsimp only
  split
  · have hok := h.engineStore.of_ok ‹_›
    exact .ite (hok.setPkg (hok.flash k)) hok
  · exact logEvent (setQueue (h.engineStore.of_error ‹_›))

theorem recordNow {k q st : Nat} {r : BitVec 512} (h : a.Spares s) : a.Spares (s.recordNow k q r st) := .ite h (writeRecord h.setQueue)

theorem recordsNow {k q st : Nat} (rs : List (BitVec 512)) (h : a.Spares s) :
    a.Spares (rs.foldl (fun s r => s.recordNow k q r st) s) := by
  induction rs generalizing s with
  | nil => exact h
  | cons r rs ih => exact ih h.recordNow

theorem flushQueue {k q : Nat} (h : a.Spares s) : a.Spares (s.flushQueue k q) := by
  unfold State.flushQueue
  refine recordsNow _ ?_
  split
  · exact writeRecord h.setQueue
  · exact h.setQueue

theorem writeQctl {k q : Nat} {v : Word} (h : a.Spares s) : a.Spares (s.writeQctl k q v) :=
  .ite h.setQueue (.ite h.flushQueue.setQueue h.setQueue)

/-- A write of a register spares threads, launches and flash, whoever writes it. -/
theorem ctlWrite {k : Nat} {nurse : Option ClusterId} {v : Word} (h : a.Spares s) (r : CtlReg) : a.Spares (s.ctlWrite k nurse v r) := by
  cases r with
  | qctl q => exact h.writeQctl
  | crbase | crctl => exact h.setQueue
  | root | htbase | htsize | ptbase | ptsize =>
    rw [State.ctlWrite]
    exact h.modFn
  | portstat | elbase | elctl => exact h.setPkg (h.flash k)
  | clusterMap d =>
    cases nurse with
    | none => exact h
    | some c => exact .ite h h.of_eq
  | cellMap => exact .ite h.of_eq h
  | ccbase => exact .ite (h.setPkg (h.flash k)) h
  | qstat | routeBank => exact h

end State.Spares

/-! ### The end of a launch -/

namespace State.Keeps

theorem storeFrom {c : PCell} {key : Nat} {bs : List Byte} (h : a.Keeps s) : a.Keeps (s.storeFrom c key bs) :=
  (h.of_rewayed (.cleanWhere s fun m l => l.key == lineKey key && l.owner.isSome && s.meets c m l)).of_eq

/-- A relaxed store performed at its home, in an element or in a register (R228). -/
theorem perform {x : RxStore} {t : Thread} (h : a.Keeps s) : Yields (fun _ => True) (fun s' => a.Keeps s') (x.perform s t) := by
  unfold RxStore.perform
  split
  · unfold writeAt
    split
    · exact .error trivial
    · exact .ok h.storeFrom
  · refine .ok ?_
    unfold elemStore
    exact .ite h.of_eq h.of_eq
  · refine .ok ?_
    split
    · exact h.trans (Spares.ctlWrite (.refl s) _).toKeeps
    · exact h

theorem ackStore {k : Nat} {x : RxStore} (h : a.Keeps s) : a.Keeps (s.ackStore k x) := by
  unfold State.ackStore
  split
  · exact h
  · next t ht =>
    have hs : a.Keeps (match x.perform s t with
        | .ok s' => s'
        | .error c => s.setThread k { t with rxErrs := t.rxErrs ++ [⟨c, x.va, x.opr⟩] }) := by
      split
      · exact h.perform.of_ok ‹_›
      · exact h.of_eq
    dsimp only
    split
    · exact hs
    · exact hs.trans (Settles.ackGen (.refl (fun _ => True) _)).toKeeps

theorem drainRx {k : Nat} (h : a.Keeps s) : a.Keeps (s.drainRx k) := by
  unfold State.drainRx
  split
  · exact h
  · exact modThread (foldl ackStore _ h)

theorem closeIfEmpty {l f : Nat} (h : a.Keeps s) : a.Keeps (s.closeIfEmpty l f) := by
  unfold State.closeIfEmpty
  split
  · exact h
  · dsimp only
    split
    · split
      · exact h.of_eq
      · exact answerParked h.of_eq
    · exact h

theorem dropAway {t : Thread} (h : a.Keeps s) : a.Keeps (s.dropAway t) := by
  unfold State.dropAway
  split
  · exact h
  · exact h.of_eq

theorem dropWriter {k : Nat} {c : PCell} (h : a.Keeps s) : a.Keeps (s.dropWriter k c) := .ite h.of_eq h

theorem endThread {k : Nat} (h : a.Keeps s) : a.Keeps (s.endThread k) := by
  unfold State.endThread
  split
  · exact h
  · have hs {c : PCell} {p : Parked → Bool} : a.Keeps ((((s.dropThread k).unyield k).unpark p).dropWriter k c) := dropWriter (unpark h.of_eq)
    exact .ite hs (closeIfEmpty (dropAway hs))

theorem stopCopies {p : Issuer → Bool} (h : a.Keeps s) : a.Keeps (s.stopCopies p) := foldl (fun h => foldl (fun h => h.of_eq) _ h) _ h

theorem stopPasses {p : Issuer → Bool} (h : a.Keeps s) : a.Keeps (s.stopPasses p) := by
  have hs : s.Settles (fun _ => True) (s.stopPasses p) :=
    .foldl (fun h => .foldl (fun h => h.abortStream trivial) _ (.foldl (fun h => h.abortQueued trivial) _ h)) _ (.refl _ s)
  exact h.trans hs.toKeeps

theorem stopRegs {p : Issuer → Bool} (h : a.Keeps s) : a.Keeps (s.stopRegs p) := by
  have hs : s.Settles (fun _ => True) (s.stopRegs p) := .foldl (fun h => .foldl (fun h => h.endReg) _ h) _ (.refl _ s)
  exact h.trans hs.toKeeps

theorem stopEngines {p : Issuer → Bool} (h : a.Keeps s) : a.Keeps (s.stopEngines p) := stopRegs (stopPasses (stopCopies h))

theorem emptyCells {k : Nat} (h : a.Keeps s) : a.Keeps (s.emptyCells k) := h.of_eq

/-- Threads ended one after the other, each with its relaxed stores performed. -/
theorem endThreads (ks : List Nat) (h : a.Keeps s) : a.Keeps (ks.foldl (fun s k => (s.drainRx k).endThread k) s) :=
  foldl (fun h => endThread (drainRx h)) ks h

/-- The end of a launch notes it in the launch's record, and keeps the rest. -/
theorem endLaunch {key st r : Nat} {l : Launch} {d : Word} :
    (s.setLaunch key { l with toWake := [], ending := some (st, r, d) }).Keeps (s.endLaunch key l st r d) :=
  stopEngines (emptyCells (endThreads _ (.refl _)))

end State.Keeps

/-! ### Launches dropped -/

theorem mem_dropAt {α β : Type} [DecidableEq α] {k : α} {x : α × β} {l : List (α × β)} (h : x ∈ dropAt k l) : x ∈ l ∧ x.1 ≠ k := by
  induction l with
  | nil => cases h
  | cons y l ih =>
    unfold dropAt at h
    split at h
    · exact ⟨List.mem_cons_of_mem _ (ih h).1, (ih h).2⟩
    · next hy =>
      rcases List.mem_cons.mp h with rfl | h
      · exact ⟨List.mem_cons_self, hy⟩
      · exact ⟨List.mem_cons_of_mem _ (ih h).1, (ih h).2⟩

theorem dropAt_putAt {α β : Type} [DecidableEq α] (k : α) (v : β) (l : List (α × β)) : dropAt k (putAt k v l) = dropAt k l := by
  induction l with
  | nil => simp only [putAt, dropAt, ↓reduceIte]
  | cons x l ih =>
    by_cases h : x.1 = k
    · simp only [putAt, dropAt, h, ↓reduceIte]
    · simp only [putAt, dropAt, h, ↓reduceIte, ih]

/-- A launch ended and gone, without a record. -/
def State.cutLaunch (s : State) (x : Nat × Launch) : State := (s.endLaunch x.1 x.2 0 0 0).dropLaunch x.1

theorem State.dropLaunches_eq (s : State) (k : Nat) : s.dropLaunches k = (s.launches.filter fun x => x.2.pkg == k).foldl State.cutLaunch s := rfl

theorem State.cutLaunch_launches (s : State) (x : Nat × Launch) : (s.cutLaunch x).launches = dropAt x.1 s.launches := by
  show dropAt x.1 (s.endLaunch x.1 x.2 0 0 0).launches = _
  rw [State.Keeps.endLaunch.launches, State.setLaunch_launches, dropAt_putAt]

theorem State.cutLaunch_flash (s : State) (x : Nat × Launch) (k : Nat) : ((s.cutLaunch x).pkg k).flash = (s.pkg k).flash :=
  State.Keeps.endLaunch.flash k

theorem State.cutLaunches_flash (xs : List (Nat × Launch)) (k : Nat) : ((xs.foldl State.cutLaunch s).pkg k).flash = (s.pkg k).flash := by
  induction xs generalizing s with
  | nil => rfl
  | cons x xs ih => exact ih.trans (State.cutLaunch_flash s x k)

theorem State.mem_cutLaunches {y : Nat × Launch} (xs : List (Nat × Launch)) (h : y ∈ (xs.foldl State.cutLaunch s).launches) :
    y ∈ s.launches ∧ ∀ x ∈ xs, y.1 ≠ x.1 := by
  induction xs generalizing s with
  | nil => exact ⟨h, fun _ hx => absurd hx List.not_mem_nil⟩
  | cons x xs ih =>
    obtain ⟨hy, hxs⟩ := ih h
    obtain ⟨hy, hx⟩ := mem_dropAt (State.cutLaunch_launches s x ▸ hy)
    exact ⟨hy, List.forall_mem_cons.mpr ⟨hx, hxs⟩⟩

theorem State.dropLaunches_pkg {k : Nat} {y : Nat × Launch} (h : y ∈ (s.dropLaunches k).launches) : y.2.pkg ≠ k := by
  rw [State.dropLaunches_eq] at h
  obtain ⟨hy, hxs⟩ := State.mem_cutLaunches _ h
  intro e
  exact hxs y (List.mem_filter.mpr ⟨hy, beq_iff_eq.mpr e⟩) rfl

/-! ### Package reset and loss of power -/

theorem State.unpark_keeps (s : State) (p : Parked → Bool) : s.Keeps (s.unpark p) := .unpark (.refl s)

theorem State.wipe_boot (s : State) (k : Nat) : ((s.wipe k).pkg k).boot = 0 := by
  unfold State.wipe State.pkg
  dsimp only
  rw [lookD_putAt_same]

theorem State.wipe_flash (s : State) (k : Nat) : ((s.wipe k).pkg k).flash = (s.pkg k).flash := by
  unfold State.wipe State.pkg
  dsimp only
  rw [lookD_putAt_same]
  exact ((State.unpark_keeps _ _).flash k).trans (State.cutLaunches_flash _ k)

theorem State.wipe_threads {k : Nat} {x : Nat × Thread} (h : x ∈ (s.wipe k).threads) : x.2.pcell.pkg ≠ k :=
  bne_iff_ne.mp (List.mem_filter.mp h).2

theorem State.wipe_launches {k : Nat} {x : Nat × Launch} (h : x ∈ (s.wipe k).launches) : x.2.pkg ≠ k :=
  State.dropLaunches_pkg ((State.unpark_keeps (s.dropLaunches k) _).launches ▸ h)

/-! ### Start-up -/

/-- Start-up that completes leaves the boot status 0xFF (R39 stage 8). -/
theorem State.trainLink_boot (s : State) (k : Nat) (w : BootWorld) :
    Yields (fun _ => True) (fun s1 => (s1.pkg k).boot = 0x00FF) (s.trainLink k w) := by
  unfold State.trainLink
  split
  · exact .error trivial
  · refine .ok ?_
    rw [State.modPkg, State.pkg_setPkg]

theorem State.stages_boot (s : State) (k : Nat) (x : Bool × ConfigImage) (w : BootWorld) :
    Yields (fun _ => True) (fun s1 => (s1.pkg k).boot = 0x00FF) (s.stages k x w) := by
  unfold State.stages
  dsimp only
  split
  · exact .error trivial
  · exact .bind .trivial fun _ _ => .bind .trivial fun _ _ => State.trainLink_boot ..

theorem exec_powerOnBoot_selected {k : Nat} {x : Bool × ConfigImage} {w : BootWorld} {s1 : State} (hb : (s.pkg k).boot = 0)
    (hx : (s.pkg k).flash.select = .ok x) (hs : s.stages k x w = .ok s1) : exec (.powerOnBoot k w) s = .next s1 := by
  simp only [exec_powerOnBoot, execPowerOnBoot, hb, hx, hs, ne_eq, not_true_eq_false, ↓reduceIte]

theorem exec_powerOnBoot_recovers {k n : Nat} (w : BootWorld) (hb : (s.pkg k).boot = 0) (hx : (s.pkg k).flash.select = .error n) :
    exec (.powerOnBoot k w) s = .next (s.recover k n) := by
  simp only [exec_powerOnBoot, execPowerOnBoot, hb, hx, ne_eq, not_true_eq_false, ↓reduceIte]

/-- The image stage fails as stage 1 or 2 (R39). -/
theorem Flash.select_error {f : Flash} {n : Nat} (h : f.select = .error n) : n < 256 := by
  unfold Flash.select at h
  split at h
  · cases h
    decide
  · split at h
    · cases h
    · cases h
      decide

theorem State.recover_boot {n : Nat} (k : Nat) (h : n < 256) : ((s.recover k n).pkg k).boot.toNat % 256 = n := by
  unfold State.recover
  dsimp only
  rw [State.modPkg, State.pkg_setPkg, BitVec.toNat_ofNat]
  omega

theorem State.recover_threads {k n : Nat} {x : Nat × Thread} (h : x ∈ (s.recover k n).threads) : x.2.pcell.pkg ≠ k :=
  bne_iff_ne.mp (List.mem_filter.mp h).2

/-! ### Measurements (R42) -/

theorem toList_setIdx_getD {α : Type} {n : Nat} (v : Vector α n) {i m : Nat} (hi : i < n) (hm : m < n) (x d : α) :
    (setIdx v i x).toList.getD m d = if m = i then x else v.toList.getD m d := by
  have h (u : Vector α n) : u.toList.getD m d = u[m] := by
    rw [List.getD_eq_getElem?_getD, Vector.getElem?_toList, Vector.getElem?_eq_getElem hm, Option.getD_some]
  rw [h, h, setIdx, dif_pos hi, Vector.getElem_set]
  simp only [eq_comm]

theorem State.extend_meas {n m : Nat} (k : Nat) (digest : List Byte) (hn : n < 16) (hm : m < 16) :
    ((s.modPkg k fun p => p.extend n digest).pkg k).meas.toList.getD m 0 = if m = n
      then BitVec.ofNat 512 (leVal (shake256 (measBytes ((s.pkg k).meas.toList.getD m 0) ++ digest) 64))
      else (s.pkg k).meas.toList.getD m 0 := by
  rw [State.modPkg, State.pkg_setPkg, Package.extend, toList_setIdx_getD _ hn hm]
  by_cases e : m = n
  · simp only [e, ↓reduceIte]
  · simp only [e, ↓reduceIte]

theorem exec_measurementExtend_firmware {k : Nat} {n : BitVec 4} (digest : List Byte) (hb : (s.pkg k).boot = 0x00FF) (hn : 3 ≤ n.toNat) :
    exec (.measurementExtend k n digest) s = .next (s.modPkg k fun p => p.extend n.toNat digest) := by
  simp only [exec_measurementExtend, execMeasurementExtend, hb, hn, and_self, ↓reduceIte]

theorem exec_measurementExtend_start {n : BitVec 4} (k : Nat) (digest : List Byte) (hn : n.toNat < 3) :
    exec (.measurementExtend k n digest) s = .next s := by
  simp only [exec_measurementExtend, execMeasurementExtend, Nat.not_le.mpr hn, and_false, ↓reduceIte]

/-! ### Management (R41, R65) -/

theorem exec_antiRollbackAdvance_booted {k : Nat} {i : ConfigImage} (hb : (s.pkg k).boot = 0x00FF)
    (hi : (if (s.pkg k).flash.fromB then (s.pkg k).flash.slotB else (s.pkg k).flash.slotA) = some i) :
    exec (.antiRollbackAdvance k) s = .next (s.setPkg k { s.pkg k with
      flash := { (s.pkg k).flash with rollback := max (s.pkg k).flash.rollback i.svn } }) := by
  simp only [exec_antiRollbackAdvance, execAntiRollbackAdvance, hb, hi, ↓reduceIte, State.modPkg, Option.map_some, Option.getD_some]

theorem exec_powerCapSet_within (k : Nat) {w : Nat} (h : 800 ≤ w ∧ w ≤ 2000) :
    exec (.powerCapSet k w) s = .next (s.setPkg k { s.pkg k with cap := w }) := by
  simp only [exec_powerCapSet, execPowerCapSet, h, and_self, ↓reduceIte, State.modPkg]

theorem exec_powerCapSet_outside (k : Nat) {w : Nat} (h : ¬ (800 ≤ w ∧ w ≤ 2000)) : exec (.powerCapSet k w) s = .next s := by
  simp only [exec_powerCapSet, execPowerCapSet, h, ↓reduceIte]

/-- Shutdown marks the die, and ends the work of its OMUs; the report comes after. -/
theorem exec_thermalShutdown_ends (s : State) (k d : Nat) : ∃ s' : State, exec (.thermalShutdown k d) s = .next s' ∧ (s'.die k d).shut = true ∧
    s'.mem = s.mem ∧ ∀ c : ClusterId, c.pkg = k → c.die = d → (s'.omu c).Drained := by
  have hsettles := (State.Settles.poisonEngines (s.setDie k d { s.die k d with shut := true }) k d).modPkg (k := k)
    (f := fun p => p.answer (Config.answerBytes [d] [])) fun _ => rfl
  refine ⟨_, rfl, ?_, hsettles.mem, fun c hk hd => ?_⟩
  · rw [State.die, hsettles.dies]
    exact congrArg Die.shut (State.die_setDie s k d _)
  · exact State.poisonEngines_drained (Bool.and_eq_true_iff.mpr ⟨beq_iff_eq.mpr hk, beq_iff_eq.mpr hd⟩)

theorem State.powerLoss_mem {k : Nat} {m : List Host.Cell} {x : Host.Cell} (h : x ∈ m.filter fun x => !volatileAt k x.1) :
    volatileAt k x.1 = false := Bool.not_eq_true' _ ▸ (List.mem_filter.mp h).2

/-- Settles O37: start-up ends as its last stage or its recovery says, the management controller changes the package's own record, and shutdown,
reset and loss of power end what runs there. -/
theorem packageEvents : Obligations.PackageEvents := by
  unfold Obligations.PackageEvents
  intro s k
  refine ⟨fun w x s1 hb hx hs => ⟨exec_powerOnBoot_selected hb hx hs, (State.stages_boot s k x w).of_ok hs⟩,
    fun w n hb hx => ⟨_, exec_powerOnBoot_recovers w hb hx, State.recover_boot k (Flash.select_error hx), rfl, fun x => State.recover_threads⟩,
    fun i => exec_antiRollbackAdvance_booted,
    fun n digest hb hn => ⟨_, exec_measurementExtend_firmware digest hb hn, fun m => State.extend_meas k digest n.isLt⟩,
    fun n digest => exec_measurementExtend_start k digest,
    fun nonce => ⟨_, _, rfl, State.pkg_setPkg ..⟩, fun readings => ⟨_, rfl⟩, fun i => rfl,
    fun w hl hh => exec_powerCapSet_within k ⟨hl, hh⟩, fun w hw => exec_powerCapSet_outside k (by omega), fun d on => rfl,
    exec_thermalShutdown_ends s k, ?_, ?_⟩
  · exact ⟨_, rfl, State.wipe_boot s k, State.wipe_flash s k, fun x => State.wipe_threads, fun x => State.wipe_launches⟩
  · exact ⟨_, rfl, State.wipe_boot s k, State.wipe_flash s k, fun x => State.wipe_threads, fun x => State.powerLoss_mem⟩

end Sys2Proof.Machine
end

section
/-! SUPPORT. Accesses of a thread: loads, stores and atomics brought to their own parts, the checks of an address by its class (R176 to R178), and
accesses to element windows (R183, R184) and to control space (R50). -/
namespace Sys2Proof.Machine
open Sys2Proof Sys2Proof.Claims

variable {s : State} {k n : Nat} {t : Thread} {i : Instr} {va : Word}

/-! ### An instruction's own part -/

theorem issue_selected (h : Selected s k t) (i : Instr) (b : Body) : issue i s b = .next (settle i k t (b s k t)) := by
  obtain ⟨hk, ht, hh⟩ := h
  exact issue_plain hk ht hh

theorem withLook_zero {la : BitVec 4} (h : la = 0) (i : Instr) (w : Bool) (b : Body) : withLook i la w b = b := h ▸ rfl

/-- A load without lookahead is its own part (R226). -/
theorem exec_load {sg : Bool} {o : Load} (h : Selected s k t) (hi : loadOf i = some (n, sg, o)) (hla : o.la = 0) :
    exec i s = .next (settle i k t (loadBody n sg o s k t)) := by
  rw [← issue_selected h, ← withLook_zero hla i (!(extD o.ext).rx) (loadBody n sg o)]
  unfold loadOf at hi
  split at hi
  all_goals cases hi
  all_goals rfl

/-- A store is its own part (R226). -/
theorem exec_store {o : Store} (h : Selected s k t) (hi : storeOf i = some (n, o)) :
    exec i s = .next (settle i k t (storeBody i n o s k t)) := by
  rw [← issue_selected h]
  unfold storeOf at hi
  split at hi
  all_goals cases hi
  all_goals rfl

/-- The body of an atomic, for the new value of its row (R238). -/
theorem atomicOf_body {c : Ctx} {d a : Reg} {la : BitVec 4} {e : Option Ext} {len : Nat} {g : Nat → Nat} (s : State) (k : Nat) (t : Thread)
    (hi : atomicOf c i = some (n, d, a, la, e, len, g)) :
    ∃ b : Body, exec i s = issue i s (withLook i la true b) ∧ ∃ f, b s k t = atomicBody .atomic n d a (extD e) f word s k t := by
  unfold atomicOf at hi
  split at hi
  all_goals cases hi
  all_goals exact ⟨_, rfl, _, rfl⟩

/-- An atomic without lookahead is its own part (R238). -/
theorem exec_atomic {d a : Reg} {e : Option Ext} {len : Nat} {g : Nat → Nat} (h : Selected s k t)
    (hi : atomicOf t.ctx i = some (n, d, a, 0, e, len, g)) :
    ∃ f, exec i s = .next (settle i k t (atomicBody .atomic n d a (extD e) f word s k t)) := by
  obtain ⟨b, hb, f, hf⟩ := atomicOf_body s k t hi
  exact ⟨f, by rw [hb, withLook_zero rfl, issue_selected h, hf]⟩

theorem instrLen_load {sg : Bool} {o : Load} (hi : loadOf i = some (n, sg, o)) : instrLen i = memLen o.ext o.imm := by
  obtain ⟨_, _, imm, ext, _⟩ := o
  unfold loadOf at hi
  split at hi
  all_goals cases hi
  all_goals cases ext
  all_goals cases imm
  all_goals rfl

theorem instrLen_store {o : Store} (hi : storeOf i = some (n, o)) : instrLen i = memLen o.ext o.imm := by
  obtain ⟨_, _, imm, ext⟩ := o
  unfold storeOf at hi
  split at hi
  all_goals cases hi
  all_goals cases ext
  all_goals cases imm
  all_goals rfl

/-! ### What precedes the access -/

theorem extD_ord (e : Option Ext) : (extD e).ord = ordIn e := by
  cases e with
  | none => rfl
  | some x => rfl

theorem extD_rx (e : Option Ext) : (extD e).rx = relaxedIn e := by
  cases e with
  | none => rfl
  | some x => rfl

theorem extD_scope (e : Option Ext) : (extD e).scope = scopeIn e := by
  cases e with
  | none => rfl
  | some x => rfl

/-- An access without ordering waits for no generation. -/
theorem freed_of_ord_none {r : Ord} (h : r = .none) (sc : Sys2Proof.Scope) : Freed s t r sc := by
  subst h
  rintro (e | e) <;> cases e

/-- A release that no generation holds up goes on (R224). -/
theorem ordRel_freed {e : Option Ext} (h : Freed s t (ordIn e) (scopeIn e)) :
    (ordRel (extD e).ord && s.awaitsGen t (extD e).scope) = false := by
  rw [extD_ord, extD_scope]
  unfold Freed at h
  cases ho : ordIn e with
  | none => rfl
  | acq => rfl
  | rel => exact h (.inl ho)
  | both => exact h (.inr ho)

/-- The part of a load of a thread with no relaxed store outstanding. -/
theorem loadBody_quiet (ht : s.thread? k = some t) (hq : Quiet t) (n : Nat) (sg : Bool) (o : Load) :
    loadBody n sg o s k t = orTrap (loadValue s t (addrOf t.ctx o.a o.imm) n (n == 4) ((extD o.ext).ord == .none)) fun r =>
      .next (if ordAcq (extD o.ext).ord then t.acquire (extD o.ext).scope (r.2.setReg k o.d (extendLoad n sg r.1))
        else r.2.setReg k o.d (extendLoad n sg r.1)) := by
  obtain ⟨hr, he⟩ := hq
  simp only [loadBody, State.waitRx_quiet ht hr he, ite_self, orTrap, ht, Option.getD_some]
  rfl

/-- What the release of a store does before its write. -/
def releaseOf (t : Thread) (e : Option Ext) (s : State) : State := if ordRel (extD e).ord then t.release (extD e).scope s else s

/-- The part of a store that is not relaxed, of a thread with no relaxed store outstanding and no generation to wait for. -/
theorem storeBody_quiet {o : Store} (ht : s.thread? k = some t) (hq : Quiet t) (hr : relaxedIn o.ext = false)
    (hf : Freed s t (ordIn o.ext) (scopeIn o.ext)) (i : Instr) (n : Nat) :
    storeBody i n o s k t = orTrap (storeValue s k t (addrOf t.ctx o.a o.imm) n (t.ctx.gpr o.d) ((extD o.ext).ord == .none)
      (releaseOf t o.ext)) .next := by
  obtain ⟨hx, he⟩ := hq
  have hrel := ordRel_freed hf
  simp only [storeBody, extD_rx, hr, Bool.false_eq_true, ↓reduceIte, State.waitRx_quiet ht hx he, orTrap, ht, Option.getD_some, orStay, hrel]
  rfl

/-- The part of a relaxed store. -/
theorem storeBody_relaxed {o : Store} (hr : relaxedIn o.ext = true) (i : Instr) (n : Nat) (s : State) (k : Nat) (t : Thread) :
    storeBody i n o s k t = match rxStoreOf s t i (addrOf t.ctx o.a o.imm) n (t.ctx.gpr o.d) with
      | .error f => .trap s f
      | .ok (x, s) => .next (s.postRx k t x) := by
  simp only [storeBody, extD_rx, hr, ↓reduceIte]
  rfl

/-- The part of an atomic of a thread with no relaxed store outstanding and no generation to wait for. -/
theorem atomicBody_quiet {e : Option Ext} (ht : s.thread? k = some t) (hq : Quiet t) (hf : Freed s t (ordIn e) (scopeIn e)) (acc : Acc) (n : Nat)
    (d a : Reg) (f : Nat → Nat) (result : Nat → Word) :
    atomicBody acc n d a (extD e) f result s k t = orTrap (rmw s k t acc (t.ctx.gpr a) n f (releaseOf t e)) fun r =>
      .next (if ordAcq (extD e).ord then t.acquire (extD e).scope (r.2.setReg k d (result r.1)) else r.2.setReg k d (result r.1)) := by
  obtain ⟨hx, he⟩ := hq
  have hrel := ordRel_freed hf
  simp only [atomicBody, State.waitRx_quiet ht hx he, orTrap, ht, Option.getD_some, orStay, hrel, Bool.false_eq_true, ↓reduceIte]
  rfl

/-! ### The class of an address (R176) -/

theorem fld_class (va : Word) : fld va 56 8 = va.toNat / 2 ^ 56 := by
  have h := va.isLt
  rw [fld_eq]
  omega

theorem fld_offset (va : Word) : fld va 0 56 = va.toNat % 2 ^ 56 := fld_zero va rfl

theorem isControl_eq (va : Word) : isControl va = decide (va.toNat / 2 ^ 56 = 0x7F) := by
  rw [isControl, fld_class]
  exact beq_eq_decide ..

theorem isAlias_eq (va : Word) : isAlias va = decide (0x41 ≤ va.toNat / 2 ^ 56 ∧ va.toNat / 2 ^ 56 ≤ 0x47) := by
  rw [isAlias, fld_class, Bool.decide_and]

theorem isControl_common (h : Common va) : isControl va = false := by
  rw [isControl_eq]
  exact decide_eq_false h.1

theorem isAlias_common (h : Common va) : isAlias va = false := by
  rw [isAlias_eq]
  exact decide_eq_false h.2

/-- No lock in any cluster's table. -/
theorem State.locksFor_nil (h : ∀ c ∈ s.clusters, c.2.locks = []) (w : Who) (va : Word) {loc : Loc} (hg : loc.isGlobal = false) (n : Nat) :
    s.locksFor w va loc n = [] := by
  unfold State.locksFor
  rw [hg]
  refine List.flatMap_eq_nil_iff.mpr fun c hc => ?_
  rw [h c hc]
  rfl

/-! ### The checks of R178 by class -/

theorem placeOf_scratch (h : va.toNat / 2 ^ 56 = 0x40) (s : State) (w : Who) (acc : Acc) (n : Nat) :
    placeOf s w acc va n = if va.toNat % 2 ^ 56 + n ≤ w.limit then .ok { key := keyOf (.scratch w.cell) (w.seg + va.toNat % 2 ^ 56) }
      else .error fAddress := by
  rw [placeOf, fld_class, fld_offset, h]
  rfl

theorem classOk_reserved {acc : Acc} {c : Nat} (h : 0x48 ≤ c) (h5 : c ≠ 0x50) (h6 : c ≠ 0x60) (h7 : c ≠ 0x7F) : classOk acc c = false := by
  have h0 : ¬ c < 0x40 := by omega
  have h4 : c ≠ 0x40 := by omega
  have ha : ¬ c ≤ 0x47 := by omega
  simp only [classOk, h0, ↓reduceIte, beq_false_of_ne h4, beq_false_of_ne h5, beq_false_of_ne h6, beq_false_of_ne h7, ha, decide_false,
    Bool.and_false, Bool.or_self, Bool.false_eq_true]

/-- An access to the thread's own scratch: alignment, then the limit, then locks. -/
theorem resolve_scratch {acc : Acc} (ha : acc ≠ .fetch) (h : va.toNat / 2 ^ 56 = 0x40) (s : State) (w : Who) (n align : Nat) :
    resolve s w acc va n align =
      if va.toNat % align ≠ 0 then .error (fltAt fMisaligned va)
      else if va.toNat % 2 ^ 56 + n ≤ w.limit then
        let loc : Loc := { key := keyOf (.scratch w.cell) (w.seg + va.toNat % 2 ^ 56) }
        if lockedOut (s.locksFor w va loc n) acc then .error (fltAt fLocked va) else .ok loc
      else .error (fltAt fAddress va) := by
  have hc : classOk acc 0x40 = true := bne_iff_ne.mpr ha
  have hctl : ((0x40 : Nat) == 0x7F && acc != .fetch) = false := rfl
  rw [resolve, fld_class, h, placeOf_scratch h, hc, hctl, if_neg Bool.false_ne_true, if_neg (by decide)]
  by_cases hl : va.toNat % 2 ^ 56 + n ≤ w.limit
  · rw [if_pos hl, if_pos hl]
    rfl
  · rw [if_neg hl, if_neg hl]
    rfl

/-- With no locks held, an access within the limit names its place. -/
theorem resolve_scratch_free {acc : Acc} {w : Who} {align : Nat} (ha : acc ≠ .fetch) (h : va.toNat / 2 ^ 56 = 0x40) (hm : va.toNat % align = 0)
    (hl : va.toNat % 2 ^ 56 + n ≤ w.limit) (hn : ∀ c ∈ s.clusters, c.2.locks = []) :
    resolve s w acc va n align = .ok { key := keyOf (.scratch w.cell) (w.seg + va.toNat % 2 ^ 56) } := by
  have hlocks := State.locksFor_nil hn w va (loc := { key := keyOf (.scratch w.cell) (w.seg + va.toNat % 2 ^ 56) }) rfl n
  rw [resolve_scratch ha h, if_neg (not_not.mpr hm), if_pos hl]
  refine if_neg ?_
  rw [hlocks]
  exact Bool.false_ne_true

theorem State.whoOf_seg (s : State) (t : Thread) : (s.whoOf t).seg = t.ctx.seg.toNat / 2 ^ 16 % 16 * 2 ^ 16 :=
  congrArg (· * 2 ^ 16) (fld_eq t.ctx.seg 16 4)

/-- A data access to a class that is reserved (log 68). -/
theorem resolve_reserved {acc : Acc} (h : 0x48 ≤ va.toNat / 2 ^ 56) (h5 : va.toNat / 2 ^ 56 ≠ 0x50) (h6 : va.toNat / 2 ^ 56 ≠ 0x60)
    (h7 : va.toNat / 2 ^ 56 ≠ 0x7F) (s : State) (w : Who) (n align : Nat) : resolve s w acc va n align = .error (fltAt fAddress va) := by
  simp only [resolve, fld_class, classOk_reserved h h5 h6 h7, beq_false_of_ne h7, Bool.false_and, Bool.false_eq_true, ↓reduceIte, Bool.not_false,
    Bool.true_or, fltAt]

/-- A data access to control space: user privilege comes before the rest. -/
theorem resolve_control {acc : Acc} (ha : acc ≠ .fetch) (h : va.toNat / 2 ^ 56 = 0x7F) (s : State) (w : Who) (n align : Nat) :
    resolve s w acc va n align = .error (fltAt (if w.sup then fAddress else fPrivilege) va) := by
  have hacc : (acc != Acc.fetch) = true := bne_iff_ne.mpr ha
  simp only [resolve, fld_class, h, hacc, BEq.rfl, Bool.and_self, ↓reduceIte, fltAt]

/-- The scratch addresses, the reserved classes and control space (R176 to R178, R50). -/
theorem scratchAddress_holds : scratchAddress := by
  unfold scratchAddress
  intro s t acc va n align ha
  have hscratch (h : va.toNat / 2 ^ 56 = 0x40) := resolve_scratch ha h s (s.whoOf t) n align
  refine ⟨fun h hm => ?_, fun h hm hl => ?_, fun h hm hl hn => ?_, fun h h5 h6 h7 => resolve_reserved h h5 h6 h7 ..,
    fun h hp => ?_, fun h hp _ => ?_⟩
  · rw [hscratch h, if_pos hm]
    rfl
  · rw [hscratch h, if_neg (not_not.mpr hm), if_neg (Nat.not_le.mpr hl)]
    rfl
  · rw [resolve_scratch_free ha h hm hl hn, State.whoOf_seg]
    rfl
  · have hsup : (s.whoOf t).sup = false := hp
    rw [resolve_control ha h, hsup]
    rfl
  · have hsup : (s.whoOf t).sup = true := hp
    rw [resolve_control ha h, hsup]
    rfl

/-! ### Refused accesses (R178, R144) -/

theorem loadValue_refused {f : Flt} (hc : Common va) (hr : resolve s (s.whoOf t) .load va n n = .error f) (isWord plain : Bool) :
    loadValue s t va n isWord plain = .error (s, f) := by
  simp only [loadValue, isControl_common hc, isAlias_common hc, readData, hr, Bool.false_eq_true, ↓reduceIte, Except.map]

theorem leOf_length (n x : Nat) : (leOf n x).length = n := by
  induction n generalizing x with
  | zero => rfl
  | succ n ih => rw [leOf, List.length_cons, ih]

theorem storeValue_refused {f : Flt} (hc : Common va) (hr : resolve s (s.whoOf t) .store va n n = .error f) (k : Nat) (v : Word) (plain : Bool)
    (pre : State → State) : storeValue s k t va n v plain pre = .error (s, f) := by
  simp only [storeValue, isControl_common hc, isAlias_common hc, writeData, leOf_length, hr, Bool.false_eq_true, ↓reduceIte]

theorem rxStoreOf_refused {f : Flt} (hc : Common va) (hr : resolve s (s.whoOf t) .store va n n = .error f) (i : Instr) (v : Word) :
    rxStoreOf s t i va n v = .error f := by
  simp only [rxStoreOf, isControl_common hc, isAlias_common hc, hr, Bool.false_eq_true, ↓reduceIte, Except.map]

theorem rmw_refused {acc : Acc} {e : Flt} (hr : resolve s (s.whoOf t) acc va n n = .error e) (k : Nat) (f : Nat → Nat) (pre : State → State) :
    rmw s k t acc va n f pre = .error (s, e) := by
  simp only [rmw, hr]

/-- A store that is not relaxed and meets a fault takes it. -/
theorem exec_plainStore_traps {o : Store} {f : Flt} (h : Selected s k t) (hq : Quiet t) (hi : storeOf i = some (n, o))
    (hr : relaxedIn o.ext = false) (hf : Freed s t (ordIn o.ext) (scopeIn o.ext))
    (hv : ∀ plain pre, storeValue s k t (addrOf t.ctx o.a o.imm) n (t.ctx.gpr o.d) plain pre = .error (s, f)) :
    exec i s = trapsWith s k t i f := by
  obtain ⟨-, ht, -⟩ := id h
  rw [exec_store h hi, storeBody_quiet ht hq hr hf, hv]
  rfl

/-- A store that meets a fault takes it, relaxed or not. -/
theorem exec_store_traps {o : Store} {f : Flt} (h : Selected s k t) (hq : Quiet t) (hi : storeOf i = some (n, o))
    (hrel : relaxedIn o.ext = true ∨ Freed s t (ordIn o.ext) (scopeIn o.ext))
    (hx : rxStoreOf s t i (addrOf t.ctx o.a o.imm) n (t.ctx.gpr o.d) = .error f)
    (hv : ∀ plain pre, storeValue s k t (addrOf t.ctx o.a o.imm) n (t.ctx.gpr o.d) plain pre = .error (s, f)) :
    exec i s = trapsWith s k t i f := by
  cases hr : relaxedIn o.ext with
  | true =>
    rw [exec_store h hi, storeBody_relaxed hr, hx]
    rfl
  | false => exact exec_plainStore_traps h hq hi hr (hrel.resolve_left (by rw [hr]; decide)) hv

/-- A load that meets a fault takes it. -/
theorem exec_load_traps {sg : Bool} {o : Load} {f : Flt} (h : Selected s k t) (hq : Quiet t) (hi : loadOf i = some (n, sg, o)) (hla : o.la = 0)
    (hv : ∀ plain, loadValue s t (addrOf t.ctx o.a o.imm) n (n == 4) plain = .error (s, f)) : exec i s = trapsWith s k t i f := by
  obtain ⟨-, ht, -⟩ := id h
  rw [exec_load h hi hla, loadBody_quiet ht hq, hv]
  rfl

theorem refusedAccessTraps_holds : refusedAccessTraps := by
  unfold refusedAccessTraps
  rintro s k t i f h hq (⟨n, sg, o, hi, hla, hc, hr⟩ | ⟨n, o, hi, hc, hrel, hr⟩ | ⟨n, d, a, e, len, g, hi, hf, hr⟩)
  · exact exec_load_traps h hq hi hla fun plain => loadValue_refused hc hr ..
  · exact exec_store_traps h hq hi hrel (rxStoreOf_refused hc hr ..) fun plain pre => storeValue_refused hc hr ..
  · obtain ⟨-, ht, -⟩ := id h
    obtain ⟨f, hx⟩ := exec_atomic h hi
    rw [hx, atomicBody_quiet ht hq hf, rmw_refused hr]
    rfl

/-! ### Elements of element windows (R183, R184) -/

theorem windowType_eq (d : Word) : windowType d = windowFmt d := by
  rw [windowType, windowFmt, fld_zero d (m := 32) rfl]

theorem elemOffset_eq (d : Word) (e : Nat) : elemOffset d e = (windowBytes d e).1 := by
  rw [elemOffset, windowType_eq, fld_eq]
  rfl

theorem scaleOffset_eq (d : Word) (e : Nat) : scaleOffset d e = elemScale d e := by
  rw [scaleOffset, fld_eq]
  rfl

/-- An element of 4 bits lies in one byte, any other in whole bytes. -/
theorem windowBytes_length (d : Word) (e : Nat) : (windowBytes d e).2 = max 1 ((windowFmt d).width / 8) := by
  show (if (windowFmt d).width < 8 then 1 else (windowFmt d).width / 8) = _
  cases windowFmt d <;> rfl

theorem windowBytes_whole {d : Word} (h : (windowFmt d).width ≠ 4) (e : Nat) : (windowBytes d e).2 = (windowFmt d).width / 8 := by
  show (if (windowFmt d).width < 8 then 1 else (windowFmt d).width / 8) = _
  revert h
  cases windowFmt d <;> decide

theorem windowBytes_nibble {d : Word} (h : (windowFmt d).width = 4) (e : Nat) : (windowBytes d e).2 = 1 := by
  rw [windowBytes_length, h]
  rfl

theorem elemRanges_eq (d : Word) (e : Nat) :
    elemRanges d e = windowBytes d e :: if (windowFmt d).isBlock then [(elemScale d e, 3)] else [] := by
  rw [elemRanges, elemOffset_eq, scaleOffset_eq, windowType_eq, ← windowBytes_length d e]

theorem aliasOf_eq (s : State) (t : Thread) (va : Word) : aliasOf s t.pcell va = (windowOf s t va, va.toNat % 2 ^ 56 / 4) := by
  rw [aliasOf, fld_class, fld_offset]
  rfl

theorem keyOf_add (sp : Space) (a b : Nat) : keyOf sp a + b = keyOf sp (a + b) := Nat.add_assoc ..

/-- Where an element's bytes lie, from the first byte of the virtual cell's scratch on. -/
theorem scratchAt_eq (s : State) (t : Thread) (off : Nat) : keyOf (.scratch t.pcell) (s.whoOf t).seg + off = scratchAt s t off := keyOf_add ..

theorem readFrom_length (n : Nat) : ∀ (l : List Host.Cell) (k : Nat), (readFrom l k n).length = n := by
  induction n with
  | zero => intro l k; cases l <;> rfl
  | succ n ih =>
    intro l k
    cases l with
    | nil => rw [readFrom, List.length_cons, ih]
    | cons x l =>
      rw [readFrom]
      split
      · rw [List.length_cons, ih]
      · rw [List.length_cons, ih]

theorem leVal_lt (bs : List Byte) : leVal bs < 256 ^ bs.length := by
  induction bs with
  | nil => decide
  | cons b bs ih =>
    have hb := b.isLt
    rw [leVal, List.length_cons, Nat.pow_succ]
    omega

theorem State.num_lt (s : State) (k n : Nat) : s.num k n < 256 ^ n := by
  have h := leVal_lt (s.bytes k n)
  rwa [State.bytes, readBytes, readFrom_length] at h

theorem elemCode_eq (s : State) (t : Thread) (d : Word) (e : Nat) :
    elemCode s (keyOf (.scratch t.pcell) (s.whoOf t).seg) d e = windowBits s t d e := by
  have hb := s.num_lt (scratchAt s t (windowBytes d e).1) (windowBytes d e).2
  rw [elemCode, windowBits, windowType_eq, elemOffset_eq, scratchAt_eq, ← windowBytes_length d e]
  by_cases hw : (windowFmt d).width = 4
  · rw [windowBytes_nibble hw] at hb ⊢
    rw [if_pos hw, if_pos hw]
    rcases Nat.mod_two_eq_zero_or_one e with he | he
    · rw [he]
      simp
    · rw [he]
      simp
      omega
  · rw [if_neg hw, if_neg hw]

theorem elemValue_eq (s : State) (t : Thread) (d : Word) (e : Nat) :
    elemValue s (keyOf (.scratch t.pcell) (s.whoOf t).seg) d e t.ctx.nsm = elemLoaded s t d e := by
  rw [elemValue, elemLoaded, elemCode_eq, windowType_eq, scaleOffset_eq, scratchAt_eq]
  rfl

theorem elemEncode_eq (s : State) (t : Thread) (d : Word) (e : Nat) (v : BitVec 32) :
    elemEncode s (keyOf (.scratch t.pcell) (s.whoOf t).seg) d e t.ctx.nsm v = elemStored s t d e v := by
  rw [elemEncode, elemStored, windowType_eq, scaleOffset_eq, scratchAt_eq]

theorem elemStore_eq (s : State) (t : Thread) (d : Word) (e x : Nat) :
    elemStore s (keyOf (.scratch t.pcell) (s.whoOf t).seg) d e x =
      s.store (scratchAt s t (windowBytes d e).1) (elemReplaced s t d e x) := by
  rw [elemStore, elemReplaced, windowType_eq, elemOffset_eq, scratchAt_eq]
  by_cases hw : (windowFmt d).width = 4
  · rw [windowBytes_nibble hw]
    simp only [hw, ↓reduceIte]
  · simp only [hw, ↓reduceIte, windowBytes_whole hw]

/-! ### The checks of an element access (R178, R184) -/

/-- Whether every byte that an element access touches lies within the limit. -/
theorem elemRanges_fit (s : State) (t : Thread) (d : Word) (e : Nat) :
    (elemRanges d e).any (fun r => decide ((s.whoOf t).limit < r.1 + r.2)) = false ↔ elemFits s t d e := by
  rw [elemRanges_eq, elemFits]
  cases (windowFmt d).isBlock with
  | true => simp
  | false => simp

theorem aliasCheck_misaligned {w : Who} {acc : Acc} {rs : List (Nat × Nat)} (h : va.toNat % 4 ≠ 0) :
    aliasCheck s w acc va rs = .error (fltAt fMisaligned va) := by
  rw [← fld_zero va (n := 2) (m := 4) rfl] at h
  rw [aliasCheck, if_pos h]

theorem aliasCheck_beyond {acc : Acc} {d : Word} {e : Nat} (h : va.toNat % 4 = 0) (hf : ¬ elemFits s t d e) :
    aliasCheck s (s.whoOf t) acc va (elemRanges d e) = .error (fltAt fAddress va) := by
  rw [← fld_zero va (n := 2) (m := 4) rfl] at h
  have hany := Bool.eq_true_of_not_eq_false fun hr => hf ((elemRanges_fit s t d e).mp hr)
  rw [aliasCheck, if_neg (not_not.mpr h), if_pos hany]

theorem aliasCheck_ok {acc : Acc} {d : Word} {e : Nat} (h : va.toNat % 4 = 0) (hf : elemFits s t d e)
    (hn : ∀ c ∈ s.clusters, c.2.locks = []) : aliasCheck s (s.whoOf t) acc va (elemRanges d e) = .ok () := by
  rw [← fld_zero va (n := 2) (m := 4) rfl] at h
  have hany := (elemRanges_fit s t d e).mpr hf
  have hlocks : ((elemRanges d e).zipIdx.any fun r => lockedOut
      (s.locksFor (s.whoOf t) va { key := keyOf (.scratch (s.whoOf t).cell) ((s.whoOf t).seg + r.1.1) } r.1.2)
      (if r.2 = 0 then acc else .load)) = false := by
    refine List.any_eq_false.mpr fun r _ => ?_
    rw [State.locksFor_nil hn _ _ rfl]
    exact Bool.false_ne_true
  rw [aliasCheck, if_neg (not_not.mpr h), if_neg (Bool.eq_false_iff.mp hany), if_neg (Bool.eq_false_iff.mp hlocks)]

/-! ### Accesses to element windows and to control space -/

theorem isControl_alias (h1 : 0x41 ≤ va.toNat / 2 ^ 56) (h7 : va.toNat / 2 ^ 56 ≤ 0x47) : isControl va = false := by
  rw [isControl_eq]
  exact decide_eq_false (by omega)

theorem isAlias_alias (h1 : 0x41 ≤ va.toNat / 2 ^ 56) (h7 : va.toNat / 2 ^ 56 ≤ 0x47) : isAlias va = true := by
  rw [isAlias_eq]
  exact decide_eq_true ⟨h1, h7⟩

section Window
variable (h1 : 0x41 ≤ va.toNat / 2 ^ 56) (h7 : va.toNat / 2 ^ 56 ≤ 0x47)
include h1 h7

theorem loadValue_window (s : State) (t : Thread) (plain : Bool) :
    loadValue s t va 4 true plain = (aliasLoad s t va).map fun v => (v.toNat, s) := by
  simp only [loadValue, isControl_alias h1 h7, isAlias_alias h1 h7, Bool.false_eq_true, ↓reduceIte]

theorem loadValue_windowSize (hn : n ≠ 4) (s : State) (t : Thread) (plain : Bool) :
    loadValue s t va n (n == 4) plain = .error (s, fltAt fMisaligned va) := by
  simp only [loadValue, isControl_alias h1 h7, isAlias_alias h1 h7, beq_false_of_ne hn, Bool.false_eq_true, ↓reduceIte]

theorem storeValue_window (s : State) (k : Nat) (t : Thread) (v : Word) (plain : Bool) (pre : State → State) :
    storeValue s k t va 4 v plain pre = aliasStore s t va (v.extractLsb' 0 32) pre := by
  simp only [storeValue, isControl_alias h1 h7, isAlias_alias h1 h7, Bool.false_eq_true, ↓reduceIte]

theorem storeValue_windowSize (hn : n ≠ 4) (s : State) (k : Nat) (t : Thread) (v : Word) (plain : Bool) (pre : State → State) :
    storeValue s k t va n v plain pre = .error (s, fltAt fMisaligned va) := by
  simp only [storeValue, isControl_alias h1 h7, isAlias_alias h1 h7, hn, Bool.false_eq_true, ↓reduceIte]

theorem rxStoreOf_windowSize (hn : n ≠ 4) (s : State) (t : Thread) (i : Instr) (v : Word) :
    rxStoreOf s t i va n v = .error (fltAt fMisaligned va) := by
  simp only [rxStoreOf, isControl_alias h1 h7, isAlias_alias h1 h7, hn, ne_eq, not_false_eq_true, Bool.false_eq_true, ↓reduceIte]

end Window

/-- The fault of a window load is that of its checks. -/
theorem aliasLoad_refused {f : Flt}
    (h : aliasCheck s (s.whoOf t) .load va (elemRanges (windowOf s t va) (va.toNat % 2 ^ 56 / 4)) = .error f) :
    aliasLoad s t va = .error (s, f) := by
  have ha : aliasOf s (s.whoOf t).cell va = _ := aliasOf_eq s t va
  simp only [aliasLoad, ha, h]

/-- A window load that passes its checks reads the element. -/
theorem aliasLoad_reads (h : aliasCheck s (s.whoOf t) .load va (elemRanges (windowOf s t va) (va.toNat % 2 ^ 56 / 4)) = .ok ()) (hx : t.rx = [])
    (hp : s.poison = []) : aliasLoad s t va = .ok (elemLoaded s t (windowOf s t va) (va.toNat % 2 ^ 56 / 4)) := by
  have ha : aliasOf s (s.whoOf t).cell va = _ := aliasOf_eq s t va
  have hpoison (a n : Nat) : s.poisoned a n = false := by rw [State.poisoned, hp, List.any_nil]
  have hany : (elemRanges (windowOf s t va) (va.toNat % 2 ^ 56 / 4)).any
      (fun r => s.poisoned (keyOf (.scratch (s.whoOf t).cell) (s.whoOf t).seg + r.1) r.2) = false :=
    List.any_eq_false.mpr fun r _ => Bool.eq_false_iff.mp (hpoison ..)
  simp only [aliasLoad, ha, h, hany, Bool.false_eq_true, ↓reduceIte, hx, State.peekRx, List.foldl_nil]
  exact congrArg Except.ok (elemValue_eq ..)

theorem aliasStore_refused {f : Flt} (v : BitVec 32) (pre : State → State)
    (h : aliasCheck s (s.whoOf t) .store va (elemRanges (windowOf s t va) (va.toNat % 2 ^ 56 / 4)) = .error f) :
    aliasStore s t va v pre = .error (s, f) := by
  have ha : aliasOf s (s.whoOf t).cell va = _ := aliasOf_eq s t va
  simp only [aliasStore, ha, h]

/-- A window store that passes its checks replaces the element. -/
theorem aliasStore_writes {v : BitVec 32} {pre : State → State} (hpre : pre s = s)
    (h : aliasCheck s (s.whoOf t) .store va (elemRanges (windowOf s t va) (va.toNat % 2 ^ 56 / 4)) = .ok ()) :
    aliasStore s t va v pre = .ok (let d := windowOf s t va
      let e := va.toNat % 2 ^ 56 / 4
      s.store (scratchAt s t (windowBytes d e).1) (elemReplaced s t d e (elemStored s t d e v))) := by
  have ha : aliasOf s (s.whoOf t).cell va = _ := aliasOf_eq s t va
  simp only [aliasStore, ha, h, hpre]
  rw [← elemStore_eq, ← elemEncode_eq]
  rfl

theorem signedOf_toNat {w : Nat} (v : BitVec w) (hw : 0 < w) : signedOf w v.toNat = v.toInt := by
  have hpow : 2 ^ w = 2 * 2 ^ (w - 1) := by rw [← Nat.pow_succ', Nat.succ_eq_add_one, Nat.sub_add_cancel hw]
  rw [signedOf, Nat.mod_eq_of_lt v.isLt, BitVec.toInt_eq_toNat_cond]
  by_cases h : v.toNat < 2 ^ (w - 1)
  · rw [if_pos h, if_pos (by omega)]
  · rw [if_neg h, if_neg (by omega)]

/-- A word of 32 bits loaded (R226). -/
theorem extendLoad_word (sg : Bool) (v : BitVec 32) : extendLoad 4 sg v.toNat = if sg then v.signExtend 64 else v.zeroExtend 64 := by
  cases sg with
  | true => exact congrArg (BitVec.ofInt 64) (signedOf_toNat v (by decide))
  | false => exact BitVec.ofNat_toNat ..

/-- A word of 64 bits loaded is that word. -/
theorem extendLoad_double (v : Word) : extendLoad 8 true v.toNat = v :=
  (congrArg (BitVec.ofInt 64) (signedOf_toNat v (by decide))).trans BitVec.ofInt_toInt

theorem ordRel_none {e : Option Ext} (h : ordIn e = .none) : ordRel (extD e).ord = false := by
  rw [extD_ord, h]
  rfl

theorem releaseOf_none {e : Option Ext} (h : ordIn e = .none) (t : Thread) (s : State) : releaseOf t e s = s := by
  rw [releaseOf, ordRel_none h]
  rfl

/-- A load that reads a value and changes nothing else commits with it. -/
theorem exec_load_reads {sg : Bool} {o : Load} {x : Nat} (h : Selected s k t) (hq : Quiet t) (hi : loadOf i = some (n, sg, o)) (hla : o.la = 0)
    (ho : ordIn o.ext = .none) (hv : ∀ plain, loadValue s t (addrOf t.ctx o.a o.imm) n (n == 4) plain = .ok (x, s)) :
    exec i s = .next (done s k (withReg t o.d (extendLoad n sg x)) (t.ctx.pc + BitVec.ofNat 64 (memLen o.ext o.imm))) := by
  obtain ⟨-, ht, -⟩ := id h
  have hacq : ordAcq (extD o.ext).ord = false := by
    rw [extD_ord, ho]
    rfl
  rw [exec_load h hi hla, loadBody_quiet ht hq, hv, ← instrLen_load hi]
  simp only [orTrap, hacq, Bool.false_eq_true, ↓reduceIte, settle, State.setReg_eq ht, State.commit_setThread]
  rfl

/-- A store that leaves its thread's record alone commits. -/
theorem exec_store_writes {o : Store} {s1 : State} (h : Selected s k t) (hq : Quiet t) (hi : storeOf i = some (n, o)) (hr : relaxedIn o.ext = false)
    (ho : ordIn o.ext = .none)
    (hv : ∀ plain, storeValue s k t (addrOf t.ctx o.a o.imm) n (t.ctx.gpr o.d) plain (releaseOf t o.ext) = .ok s1) (h1 : s1.threads = s.threads) :
    exec i s = .next (done s1 k t (t.ctx.pc + BitVec.ofNat 64 (memLen o.ext o.imm))) := by
  obtain ⟨-, ht, -⟩ := id h
  have hf := freed_of_ord_none (s := s) (t := t) ho (scopeIn o.ext)
  have ht1 : s1.thread? k = some t := by rwa [State.thread?, h1]
  rw [exec_store h hi, storeBody_quiet ht hq hr hf, hv, ← instrLen_store hi]
  simp only [orTrap, settle, State.commit_eq ht1]
  rfl


/-! ### Control space (R50) -/

theorem ctlCheck_reg {r : CtlReg} (hp : t.ctx.priv = true) (hr : ctlReg (va.toNat % 2 ^ 56) = some r) : ctlCheck t va 8 = .ok r := by
  rw [ctlCheck, fld_offset, hp, hr]
  rfl

theorem loadValue_control {r : CtlReg} (hc : va.toNat / 2 ^ 56 = 0x7F) (hx : t.rx = []) (hp : t.ctx.priv = true)
    (hr : ctlReg (va.toNat % 2 ^ 56) = some r) (s : State) (isWord plain : Bool) :
    loadValue s t va 8 isWord plain = .ok ((s.ctlRead t.pcell.pkg r).toNat, s) := by
  have hctl : isControl va = true := by rw [isControl_eq, hc]; rfl
  simp only [loadValue, hctl, ctlCheck_reg hp hr, hx, ↓reduceIte, List.filterMap_nil, List.foldl_nil]

theorem storeValue_control {r : CtlReg} (hc : va.toNat / 2 ^ 56 = 0x7F) (hn : t.nurse = false) (hp : t.ctx.priv = true)
    (hr : ctlReg (va.toNat % 2 ^ 56) = some r) (s : State) (k : Nat) (v : Word) (plain : Bool) (pre : State → State) :
    storeValue s k t va 8 v plain pre = .ok ((pre s).ctlWrite t.pcell.pkg none v r) := by
  have hctl : isControl va = true := by rw [isControl_eq, hc]; rfl
  have hnurse : t.nurseOf = none := by rw [Thread.nurseOf, hn]; rfl
  simp only [storeValue, hctl, ctlCheck_reg hp hr, hnurse, ↓reduceIte]

/-! ### The clauses of windows and control space -/

/-- A window load of 32 bits (R184). -/
theorem windowLoad_holds {sg : Bool} {o : Load} (h : Selected s k t) (hq : Quiet t) (hi : loadOf i = some (4, sg, o)) (hla : o.la = 0)
    (ho : ordIn o.ext = .none) :
    let va := addrOf t.ctx o.a o.imm
    let d := windowOf s t va
    let e := va.toNat % 2 ^ 56 / 4
    0x41 ≤ va.toNat / 2 ^ 56 → va.toNat / 2 ^ 56 ≤ 0x47 →
    (va.toNat % 4 ≠ 0 → exec i s = trapsWith s k t i { code := 0x03, faddr := va }) ∧
    (va.toNat % 4 = 0 → ¬ elemFits s t d e → exec i s = trapsWith s k t i { code := 0x04, faddr := va }) ∧
    (va.toNat % 4 = 0 → elemFits s t d e → (∀ c ∈ s.clusters, c.2.locks = []) → s.poison = [] →
      exec i s = .next (done s k (withReg t o.d (if sg then (elemLoaded s t d e).signExtend 64 else (elemLoaded s t d e).zeroExtend 64))
        (t.ctx.pc + BitVec.ofNat 64 (memLen o.ext o.imm)))) := by
  intro va d e h1 h7
  refine ⟨fun hm => ?_, fun hm hf => ?_, fun hm hf hn hp => ?_⟩
  · refine exec_load_traps h hq hi hla fun plain => ?_
    rw [beq_self_eq_true, loadValue_window h1 h7, aliasLoad_refused (aliasCheck_misaligned hm)]
    rfl
  · refine exec_load_traps h hq hi hla fun plain => ?_
    rw [beq_self_eq_true, loadValue_window h1 h7, aliasLoad_refused (aliasCheck_beyond hm hf)]
    rfl
  · rw [← extendLoad_word]
    refine exec_load_reads h hq hi hla ho fun plain => ?_
    rw [beq_self_eq_true, loadValue_window h1 h7, aliasLoad_reads (aliasCheck_ok hm hf hn) hq.1 hp]
    rfl

/-- A window store of 32 bits (R184). -/
theorem windowStore_holds {o : Store} (h : Selected s k t) (hq : Quiet t) (hi : i = .stw o) (hr : relaxedIn o.ext = false)
    (ho : ordIn o.ext = .none) :
    let va := addrOf t.ctx o.a o.imm
    let d := windowOf s t va
    let e := va.toNat % 2 ^ 56 / 4
    0x41 ≤ va.toNat / 2 ^ 56 → va.toNat / 2 ^ 56 ≤ 0x47 →
    (va.toNat % 4 ≠ 0 → exec i s = trapsWith s k t i { code := 0x03, faddr := va }) ∧
    (va.toNat % 4 = 0 → ¬ elemFits s t d e → exec i s = trapsWith s k t i { code := 0x04, faddr := va }) ∧
    (va.toNat % 4 = 0 → elemFits s t d e → (∀ c ∈ s.clusters, c.2.locks = []) →
      exec i s = .next (done (s.store (scratchAt s t (windowBytes d e).1)
        (elemReplaced s t d e (elemStored s t d e ((t.ctx.gpr o.d).setWidth 32)))) k t
        (t.ctx.pc + BitVec.ofNat 64 (memLen o.ext o.imm)))) := by
  intro va d e h1 h7
  have hst : storeOf i = some (4, o) := by rw [hi]; rfl
  refine ⟨fun hm => ?_, fun hm hf => ?_, fun hm hf hn => ?_⟩
  · refine exec_plainStore_traps h hq hst hr (freed_of_ord_none ho _) fun plain pre => ?_
    rw [storeValue_window h1 h7, aliasStore_refused _ pre (aliasCheck_misaligned hm)]
    rfl
  · refine exec_plainStore_traps h hq hst hr (freed_of_ord_none ho _) fun plain pre => ?_
    rw [storeValue_window h1 h7, aliasStore_refused _ pre (aliasCheck_beyond hm hf)]
    rfl
  · refine exec_store_writes h hq hst hr ho (fun plain => ?_) rfl
    rw [storeValue_window h1 h7, ← BitVec.setWidth_eq_extractLsb' (by decide), aliasStore_writes (releaseOf_none ho ..)
      (aliasCheck_ok hm hf hn)]

theorem windowAccess_holds : windowAccess := by
  unfold windowAccess
  intro s k t i h hq
  refine ⟨fun o sg hi hla ho => windowLoad_holds h hq hi hla ho, fun o hi hr ho => windowStore_holds h hq hi hr ho,
    fun n va hn h1 h7 => ⟨fun sg o hi hla hva => ?_, fun o hi hva hrel => ?_⟩, fun o r hi hla ho hc hp hr => ?_,
    fun o s1 hi hrx ho hc hp hn hb _ hsome hs1 => ?_⟩
  · subst hva
    exact exec_load_traps h hq hi hla fun plain => loadValue_windowSize h1 h7 hn ..
  · subst hva
    exact exec_store_traps h hq hi hrel (rxStoreOf_windowSize h1 h7 hn ..) fun plain pre => storeValue_windowSize h1 h7 hn ..
  · have hld : loadOf i = some (8, true, o) := by rw [hi]; rfl
    rw [← extendLoad_double (s.ctlRead t.pcell.pkg r)]
    exact exec_load_reads h hq hld hla ho fun plain => loadValue_control hc hq.1 hp hr ..
  · have hst : storeOf i = some (8, o) := by rw [hi]; rfl
    obtain ⟨r, hr⟩ := Option.isSome_iff_exists.mp hsome
    rw [exec_registerWrite_reg hb hr] at hs1
    obtain rfl := Host.Outcome.next.inj hs1
    refine exec_store_writes h hq hst hrx ho (fun plain => ?_) (State.Spares.ctlWrite (.refl s) r).threads
    rw [storeValue_control hc hn hp hr, releaseOf_none ho]

/-- Settles O58: the checks run in the order of R178 by the class of the address, a refused access goes no further than its fault, and an access
that passes is that of the window's element or of the control register. -/
theorem accessChecks : Obligations.AccessChecks := ⟨scratchAddress_holds, refusedAccessTraps_holds, windowAccess_holds⟩

end Sys2Proof.Machine
end

section
/-! SUPPORT. A swarm message whose cell holds the thread of a second seat of its launch: what the wake takes from that thread is noted in the launch's
own record (R181, R464). -/
namespace Sys2Proof.Machine
open Sys2Proof Sys2Proof.Claims

/-- The cell of seat 1, which the swarm message wakes. -/
def heldCell : PCell := ⟨0, 0, 0, 1⟩

/-- A launch of two cells, whose first has started. -/
def heldLaunch : Launch := { placedLaunch with toWake := [1] }

/-- The thread of the launch's first cell, which waits on an engine command whose destination lies in ways of the second cell (R181). -/
def heldThread : Thread := { placedThread 2 with run := .parked (.held heldCell 0x5000001000000000) 0 }

/-- The second cell has one way of scratch, and the launch, which takes none, has not reached it yet. -/
def heldState : State where
  threads := [(1, heldThread)]
  cells := [(heldCell, { nscr := 1 })]
  vcells := [(placedLcell, { isOpen := true, launch := 2 })]
  clusters := [(⟨0, 0, 0⟩, { cellMap := ((Vector.replicate 32 0).set 0 0x8000).set 1 0x8001 })]
  dies := [((0, 0), { clusterMap := (Vector.replicate 8 0).set 0 0x80 })]
  launches := [(2, heldLaunch)]
  nextKey := 3

/-- The wake of the second cell sets its ways to those of the launch. The scratch that the held command names is gone, so the waiting thread
takes its fault there, and without a TVEC the launch notes the supervisor trap. -/
theorem heldState_wake : ∃ s', exec (.swarmMessage 2 1) heldState = .next s' ∧ (s'.launch? 2).map (fun l => l.trapped.length) = some 1 :=
  ⟨_, rfl, by decide +kernel⟩

/-- Refutes O26: a swarm message can change its launch in more than `toWake`, since a thread of the same launch may take a supervisor trap when
the woken cell's ways are set. -/
theorem not_launchStarts : ¬ Obligations.LaunchStarts := by
  unfold Obligations.LaunchStarts
  intro h
  have hseat : heldState.seatAt 2 1 = some ⟨heldLaunch, ⟨0, 0, 0, 1⟩, ⟨heldCell, 0, 0⟩⟩ := rfl
  obtain ⟨-, -, hswarm⟩ := h heldState
  obtain ⟨s', hexec, hlaunch, -⟩ := hswarm 2 1 heldLaunch _ rfl hseat (by decide) rfl
  obtain ⟨s₁, hexec₁, hwake⟩ := heldState_wake
  obtain rfl := Host.Outcome.next.inj (hexec₁.symm.trans hexec)
  rw [hlaunch] at hwake
  exact absurd hwake (by decide)

end Sys2Proof.Machine
end

section
/-! SUPPORT. Threads that owe nothing, with no relaxed store and no vector command left to wait for, and what a fly of such a thread comes to
(R90). -/
namespace Sys2Proof.Machine
open Sys2Proof Sys2Proof.Claims

variable {s : State} {k : Nat} {t : Thread}

/-! ### A thread that owes nothing -/

theorem Ctx.drainVq_nil {c : Ctx} (h : c.vq = []) : drainVq c = c := by
  unfold drainVq
  rw [h, List.foldl_nil, ← h]

theorem State.drainV_still (ht : s.thread? k = some t) (hv : t.ctx.vq = []) : s.drainV k = s := by
  rw [State.drainV, State.modThread_some ht, Thread.modCtx, Ctx.drainVq_nil hv, State.setThread_self ht]

theorem State.waitRx_still (ht : s.thread? k = some t) (h : Still t) : (s.drainV k).waitRx k = .ok s := by
  obtain ⟨⟨hr, he⟩, hv⟩ := h
  rw [State.drainV_still ht hv, State.waitRx_quiet ht hr he]

theorem Thread.inGang_none (h : t.gang = .none) : t.inGang = false := by
  rw [Thread.inGang, h]
  rfl

theorem Thread.inGang_of_ne (h : t.gang ≠ .none) : t.inGang = true := bne_iff_ne.mpr h

theorem tidHome_eq (tid : BitVec 32) : tidHome tid = tid.toNat / 2 ^ 12 := by
  have h := tid.isLt
  rw [tidHome, fld_eq]
  omega

/-! ### A change of a thread's record beside a release -/

theorem releaseAt_setThread (s : State) (c : PCell) (sc : Sys2Proof.Scope) (k : Nat) (t : Thread) :
    releaseAt (s.setThread k t) c sc = (releaseAt s c sc).setThread k t := by
  unfold releaseAt
  split
  · unfold State.cleanAll State.cleanWhere
    rw [show (s.setThread k t).linesWhere (heldFor c) = s.linesWhere (heldFor c) from rfl, State.writeBacks_setThread]
    rfl
  · rfl

/-! ### What the end of an instruction comes to -/

theorem settle_next (i : Instr) (k : Nat) (t : Thread) (s : State) : settle i k t (.next s) = s.commit k (nextPc i t.ctx) := rfl

theorem settle_stay (i : Instr) (k : Nat) (t : Thread) (s : State) : settle i k t (.stay s) = s.unyield k := rfl

theorem settle_park (i : Instr) (k : Nat) (t : Thread) (s : State) (why : Why) :
    settle i k t (.park s why) = s.parkOn k why (recordOf i t.ctx 0) := rfl

/-- A ready thread parks with the dclk of its issue. -/
theorem State.parkOn_ready (ht : s.thread? k = some t) (hr : t.run = .ready) (why : Why) (opr : OpRec) :
    s.parkOn k why opr = (s.setThread k { t with run := .parked why (s.cycOf t), waitOpr := opr }).unyield k := by
  simp only [State.parkOn, ht, hr]

/-! ### fly (R90) -/

theorem State.noteAway_world (s : State) (t : Thread) (f : Nat) :
    (s.noteAway t f).threads = s.threads ∧ (s.noteAway t f).dies = s.dies ∧ (s.noteAway t f).clock = s.clock := by
  unfold State.noteAway
  split
  · exact ⟨rfl, rfl, rfl⟩
  · exact ⟨rfl, rfl, rfl⟩

/-- With a queue register bound, and in a gang, a fly is illegal. -/
theorem exec_fly_illegal {a : Reg} {x y : Seat} (h : Selected s k t) (hx : s.seat t = some x)
    (hy : s.seatAt t.launch (t.ctx.gpr a).toNat = some y) (hb : t.gang ≠ .none ∨ ∃ n, t.ctx.q.get n ≠ none) :
    exec (.fly a) s = trapsWith s k t (.fly a) { code := 0x01 } := by
  have hb : (t.inGang || t.ctx.q.toList.any Option.isSome) = true := by
    refine Bool.or_eq_true_iff.mpr (hb.imp Thread.inGang_of_ne fun ⟨n, hn⟩ => ?_)
    refine List.any_eq_true.mpr ⟨t.ctx.q.get n, ?_, Option.isSome_iff_ne_none.mpr hn⟩
    exact Vector.mem_toList_iff.mpr (Vector.getElem_mem n.isLt)
  rw [exec_fly, execFly, issue_selected h]
  simp only [hx, hy, hb, ↓reduceIte]
  rfl

theorem unbound_any {q : Vector (Option Port) 8} (hq : ∀ n, q.get n = none) : q.toList.any Option.isSome = false := by
  refine List.any_eq_false.mpr fun o ho => ?_
  obtain ⟨i, hi, rfl⟩ := Vector.mem_iff_getElem.mp (Vector.mem_toList_iff.mp ho)
  have h : q[i] = none := hq ⟨i, hi⟩
  rw [h]
  decide

section
variable {a : Reg} {x y : Seat} (h : Selected s k t) (hx : s.seat t = some x) (hy : s.seatAt t.launch (t.ctx.gpr a).toNat = some y)
  (hg : t.gang = .none) (ho : Still t) (hq : ∀ n, t.ctx.q.get n = none)
include h hx hy hg ho hq

/-- A fly to the thread's own virtual cell has no effect. -/
theorem exec_fly_home (hf : (t.ctx.gpr a).toNat = t.flat) : exec (.fly a) s = .next (done s k t (t.ctx.pc + 4)) := by
  obtain ⟨-, ht, -⟩ := id h
  have hy' : s.seatAt t.launch t.flat = some y := hf ▸ hy
  rw [exec_fly, execFly, issue_selected h]
  simp only [hx, hf, hy', Thread.inGang_none hg, unbound_any hq, Bool.or_self, Bool.false_eq_true, ↓reduceIte, State.waitRx_still ht ho, orTrap, ht,
    Option.getD_some]
  rw [settle_next, State.commit_eq ht]
  rfl

/-- A fly to another virtual cell: the release, the note at home, and the thread on its way. -/
theorem exec_fly_leaves {c : PCell} {n : Nat} (hr : t.run = .ready) (hf : (t.ctx.gpr a).toNat ≠ t.flat) (hp : t.place = .slot c n)
    (haway : s.awayFree t (t.ctx.gpr a).toNat = true) (hreach : s.reaches x.cell.pkg (s.cell c).bank y.cell.pkg = true)
    (hgen : s.awaitsGen t .part = false) :
    let r := releaseAt s c .part
    let r := if t.tid.toNat / 2 ^ 12 = (t.ctx.gpr a).toNat then r else r.noteAway t (t.ctx.gpr a).toNat
    exec (.fly a) s = .next ((r.setThread k { t with
      place := .flying c n y.cell (t.ctx.gpr a).toNat, run := .parked .fly (s.cycOf t), waitOpr := recordOf (.fly a) t.ctx 0 }).unyield k) := by
  obtain ⟨-, ht, -⟩ := id h
  intro r0 r
  have hc : t.pcell = c := by rw [Thread.pcell, hp]
  let u : Thread := { t with place := .flying c n y.cell (t.ctx.gpr a).toNat }
  have hrel : t.release .part s = r0 := by rw [Thread.release, hc]
  have hreach' : s.reaches x.cell.pkg (s.cell t.pcell).bank y.cell.pkg = true := hc ▸ hreach
  have hw := releaseAt_same s c .part
  obtain ⟨hthreads, hdies, hclock⟩ : r.threads = s.threads ∧ r.dies = s.dies ∧ r.clock = s.clock := by
    obtain ⟨h1, h2, h3⟩ := State.noteAway_world r0 t (t.ctx.gpr a).toNat
    by_cases e : t.tid.toNat / 2 ^ 12 = (t.ctx.gpr a).toNat
    · simp only [r, e, ↓reduceIte]
      exact ⟨hw.threads, hw.dies, hw.clock⟩
    · simp only [r, e, ↓reduceIte]
      exact ⟨h1.trans hw.threads, h2.trans hw.dies, h3.trans hw.clock⟩
  have htr : r.thread? k = some t := by rw [State.thread?, hthreads]; exact ht
  have hexec : exec (.fly a) s = .next (settle (.fly a) k t
      (.park (r.setThread k u) .fly)) := by
    rw [exec_fly, execFly, issue_selected h]
    simp only [hx, hy, Thread.inGang_none hg, unbound_any hq, Bool.or_self, Bool.false_eq_true, ↓reduceIte, State.waitRx_still ht ho, orTrap, ht,
      Option.getD_some, hf, haway, hreach', Bool.not_true, orStay, hgen, hp, hrel, tidHome_eq]
    rw [show (if t.tid.toNat / 2 ^ 12 = (t.ctx.gpr a).toNat then r0 else r0.noteAway t (t.ctx.gpr a).toNat) = r from rfl, State.modThread_some htr]
  have hu : u.pcell = t.pcell := hc.symm
  have hcyc : (r.setThread k u).cycOf u = s.cycOf t := by
    simp only [State.cycOf, State.cyc, State.die, State.setThread_clock, State.setThread_dies, hdies, hclock, hu]
  rw [hexec, settle_park, State.parkOn_ready (State.thread?_setThread r k u) hr, State.setThread_setThread, hcyc]

end

/-- Settles O15: fly to the thread's own virtual cell commits, fly to another one parks it on its way, and a bound queue register or a gang is
illegal. -/
theorem flyLeaves : Obligations.FlyLeaves := by
  unfold Obligations.FlyLeaves
  intro s k t a x y h hr hx hy
  exact ⟨fun hg ho hq => ⟨exec_fly_home h hx hy hg ho hq, fun c n hf hp haway hreach hgen =>
    exec_fly_leaves h hx hy hg ho hq hr hf hp haway hreach hgen⟩, exec_fly_illegal h hx hy⟩

end Sys2Proof.Machine
end

section
/-! SUPPORT. Reads of records and indivisible accesses of a thread, and what a fork comes to (R83, R162). -/
namespace Sys2Proof.Machine
open Sys2Proof Sys2Proof.Claims

variable {s : State} {k : Nat} {t : Thread}

/-! ### A read of a thread, and an indivisible access -/

/-- A read of a thread after its checks changes TLBs, memory and cache ways at most. -/
theorem readData_same {va : Word} {n : Nat} {plain : Bool} {bs : List Byte} {s' : State} (h : readData s t va n plain = .ok (bs, s')) :
    s.SameWorld s' := by
  unfold readData at h
  simp only at h
  split at h
  · cases h
  · split at h
    · cases h
    case _ heq =>
      cases h
      exact (State.sameWorld_fillTlb ..).trans (readOwn_same heq)

theorem readRecord_same {va : Word} {r : BitVec 256} {s' : State} (h : readRecord s t va = .ok (r, s')) : s.SameWorld s' := by
  unfold readRecord at h
  cases h0 : readData s t va 8 true with
  | error e => rw [h0] at h; cases h
  | ok a =>
  cases h1 : readData a.2 t (va + 8) 8 true with
  | error e => simp only [h0, bind, Except.bind, h1] at h; cases h
  | ok b =>
  cases h2 : readData b.2 t (va + 16) 8 true with
  | error e => simp only [h0, bind, Except.bind, h1, h2] at h; cases h
  | ok c =>
  cases h3 : readData c.2 t (va + 24) 8 true with
  | error e => simp only [h0, bind, Except.bind, h1, h2, h3] at h; cases h
  | ok d =>
    simp only [h0, bind, Except.bind, h1, h2, h3] at h
    cases h
    exact (((readData_same h0).trans (readData_same h1)).trans (readData_same h2)).trans (readData_same h3)

theorem State.noteGen_some (ht : s.thread? k = some t) (g : Option (Nat × BitVec 16)) : s.noteGen k g = s.setThread k (t.noted s g) := by
  cases g with
  | none => exact (State.setThread_self ht).symm
  | some g => rw [State.noteGen, State.modThread_some ht]

theorem State.genOf_whoOf (s1 s : State) (t : Thread) (loc : Loc) : s1.genOf (s.whoOf t) loc = s1.genOf (s1.whoOf t) loc := by
  unfold State.genOf Loc.remote
  rfl

theorem Thread.noted_store (t : Thread) (s : State) (key : Nat) (bs : List Byte) (g : Option (Nat × BitVec 16)) :
    t.noted (s.store key bs) g = t.noted s g := by
  cases g with
  | none => rfl
  | some g => rfl

/-- What an indivisible access leaves: its bytes in memory, and the generation it crossed in noted by its thread. -/
theorem rmw_atPlace {acc : Acc} {va : Word} {n : Nat} {pre : State → State} {loc : Loc} {bs : List Byte} {s1 : State}
    (h : AtPlace s t acc va n pre loc bs s1) (ht : s1.thread? k = some t) (f : Nat → Nat) :
    rmw s k t acc va n f pre = .ok (leVal bs, (s1.store loc.key (leOf n (f (leVal bs)))).setThread k (crossed s1 t loc)) := by
  obtain ⟨hres, hread⟩ := h
  have ht' : (s1.store loc.key (leOf n (f (leVal bs)))).thread? k = some t := ht
  have hread' : readAt (loc.settle (pre (s.fillTlb (s.whoOf t).cell false loc)) (s.whoOf t).cell n) (s.whoOf t) loc n false = .ok (bs, s1) := hread
  simp only [rmw, hres, hread', State.noteGen_some ht', Thread.noted_store, State.genOf_whoOf s1 s, crossed]

/-- The world that an indivisible access finds after its read. -/
theorem atPlace_same {acc : Acc} {va : Word} {n : Nat} {pre : State → State} {loc : Loc} {bs : List Byte} {s1 : State}
    (h : AtPlace s t acc va n pre loc bs s1) (hpre : ∀ s : State, s.SameWorld (pre s)) : s.SameWorld s1 :=
  (((State.sameWorld_fillTlb ..).trans (hpre _)).trans (Loc.settle_same ..)).trans (readAt_same h.2)

/-! ### fork (R162, R83) -/

/-- The bits of a word with a field replaced. -/
theorem getLsbD_putFld {n : Nat} (w : BitVec n) (lo len v i : Nat) (hi : i < n) :
    (putFld w lo len v).getLsbD i = if lo ≤ i ∧ i < lo + len then v.testBit (i - lo) else w.getLsbD i := by
  have hsub : i - lo < n := by omega
  simp only [putFld, BitVec.getLsbD_or, BitVec.getLsbD_and, BitVec.getLsbD_not, BitVec.getLsbD_shiftLeft, BitVec.getLsbD_ofNat,
    Nat.testBit_two_pow_sub_one, Nat.testBit_mod_two_pow, hi, hsub, decide_true, Bool.true_and]
  by_cases h1 : i < lo
  · simp [h1, Nat.not_le.mpr h1]
  · by_cases h2 : i < lo + len
    · have : i - lo < len := by omega
      simp [*, Nat.not_lt.mp h1]
    · have : ¬ i - lo < len := by omega
      simp [*]

/-- A record with ORIGIN replaced. -/
theorem putFld_origin (r : BitVec 256) (v : Nat) :
    putFld r 44 20 v = r.extractLsb' 64 192 ++ BitVec.ofNat 20 v ++ r.extractLsb' 0 44 := by
  refine BitVec.eq_of_getLsbD_eq fun i hi => ?_
  rw [getLsbD_putFld r 44 20 v i hi, BitVec.getLsbD_append, BitVec.getLsbD_append, BitVec.getLsbD_ofNat, BitVec.getLsbD_extractLsb',
    BitVec.getLsbD_extractLsb']
  by_cases h1 : i < 44
  · have : ¬ 44 ≤ i := by omega
    simp only [h1, this, false_and, ↓reduceIte, decide_true, Bool.true_and, Nat.zero_add]
  · by_cases h2 : i < 64
    · have h3 : i - 44 < 20 := by omega
      have h4 : 44 ≤ i ∧ i < 44 + 20 := by omega
      simp only [h1, h3, h4, and_self, ↓reduceIte, decide_true, Bool.true_and]
    · have h3 : ¬ i - 44 < 20 := by omega
      have h4 : ¬ (44 ≤ i ∧ i < 44 + 20) := by omega
      have h5 : i - 44 - 20 < 192 := by omega
      have h6 : 64 + (i - 44 - 20) = i := by omega
      simp only [h1, h3, h4, h5, h6, ↓reduceIte, decide_true, Bool.true_and]

/-- ORIGIN replaced leaves JOIN as it was. -/
theorem taskJoin_putFld (r : BitVec 256) (v : Nat) : taskJoin (putFld r 44 20 v) = taskJoin r := by
  refine BitVec.eq_of_getLsbD_eq fun i hi => ?_
  have h1 : ¬ (44 ≤ 64 + i ∧ 64 + i < 44 + 20) := by omega
  rw [taskJoin, taskJoin, BitVec.getLsbD_extractLsb', BitVec.getLsbD_extractLsb', getLsbD_putFld r 44 20 v (64 + i) (by omega), if_neg h1]

theorem taskJoin_toNat (r : BitVec 256) : (taskJoin r).toNat = r.toNat / 2 ^ 64 % 2 ^ 64 := by
  rw [taskJoin, BitVec.extractLsb'_toNat, Nat.shiftRight_eq_div_pow]

theorem taskJoin_class (r : BitVec 256) : fld (taskJoin r) 56 8 = r.toNat / 2 ^ 120 % 256 := by
  rw [fld_eq, taskJoin_toNat]
  omega

theorem taskDomain_toNat (r : BitVec 256) : (taskDomain r).toNat = r.toNat / 2 ^ 32 % 8 := by
  rw [taskDomain, BitVec.extractLsb'_toNat, Nat.shiftRight_eq_div_pow]

section
variable {a : Reg} {r0 : BitVec 256} {s1 : State} {x : Seat}

/-- A deque with LWM entries to spare takes the child (R83). -/
theorem forkTo_push {v : VCell} (h : x.launch.ready.lwm ≤ 64 / 2 ^ x.place.fold - v.deque.length) (inl : Nat) : forkTo x v inl = .push :=
  if_pos h

/-- A fork whose record has passed its checks places it (R162). -/
theorem exec_fork_record (h : Selected s k t) (hg : t.gang = .none) (ho : Still t) (ha : (t.ctx.gpr a).toNat % 8 = 0)
    (hr : readRecord s t (t.ctx.gpr a) = .ok (r0, s1)) (hx : s1.seat t = some x) (hb : badTask r0 x.launch.ready.codeLen = none)
    (hj : ¬ (taskJoin r0 ≠ 0 ∧ 0x40 ≤ fld (taskJoin r0) 56 8 ∧ fld (taskJoin r0) 56 8 ≤ 0x47 ∧ taskDomain r0 ≠ 0)) :
    exec (.fork a) s = .next (settle (.fork a) k t (forkRecord (.fork a) s1 k t x r0)) := by
  obtain ⟨-, ht, -⟩ := id h
  have hal : fld (t.ctx.gpr a) 0 3 = 0 := (fld_zero _ rfl).trans ha
  rw [exec_fork, execFork, issue_selected h]
  simp only [Thread.inGang_none hg, Bool.false_eq_true, ↓reduceIte, hal, ne_eq, not_true_eq_false, State.waitRx_still ht ho, orTrap, ht,
    Option.getD_some, hr, hx, Option.map_some, hb]
  rw [if_neg hj]

theorem forkRecord_waits (hgen : s1.awaitsGen t .part = true) : forkRecord (.fork a) s1 k t x r0 = .stay s1 := by
  simp only [forkRecord, orStay, hgen, ↓reduceIte]

variable (hw : x.launch.ready.lwm ≤ 64 / 2 ^ x.place.fold - (s1.vcell x.cell).deque.length)
include hw

/-- A fork into a deque with room: the join word counted, the release, the record at the bottom. -/
theorem forkRecord_pushes {joined : State} (hgen : s1.awaitsGen t .part = false)
    (hj : (if taskJoin r0 = 0 then .ok s1 else (rmw s1 k t .atomic (taskJoin r0) 8 (fun n => n + 1) id).map Prod.snd) = Except.ok joined) :
    forkRecord (.fork a) s1 k t x r0 =
      .next ((t.release .part joined).setVcell x.cell (((t.release .part joined).vcell x.cell).push (putFld r0 44 20 t.flat))) := by
  simp only [forkRecord, orStay, hgen, Bool.false_eq_true, ↓reduceIte, forkTo_push hw, taskJoin_putFld, hj, orTrap]

end

/-- Settles O11: a fork with room in its deque reads its record, counts the child in its join word, releases and pushes the record; while
its release waits it stays. -/
theorem forkPushes : Obligations.ForkPushes := by
  unfold Obligations.ForkPushes
  intro s k t u a r0 s1 s2 x h hg ho ha hr hx hb hjoin hw r s3
  obtain ⟨-, ht, -⟩ := id h
  have ht1 : s1.thread? k = some t := ((readRecord_same hr).thread k).trans ht
  have hzero : taskJoin r0 = 0 ↔ r0.toNat / 2 ^ 64 % 2 ^ 64 = 0 := by
    rw [← taskJoin_toNat, BitVec.toNat_eq]
    rfl
  have hdom : taskDomain r0 = 0 ↔ r0.toNat / 2 ^ 32 % 8 = 0 := by
    rw [← taskDomain_toNat, BitVec.toNat_eq]
    rfl
  have hcls : ¬ (taskJoin r0 ≠ 0 ∧ 0x40 ≤ fld (taskJoin r0) 56 8 ∧ fld (taskJoin r0) 56 8 ≤ 0x47 ∧ taskDomain r0 ≠ 0) := by
    rw [ne_eq, ne_eq, hzero, hdom, taskJoin_class]
    rintro ⟨h0, hlo, hhi, hd⟩
    rcases hjoin with ⟨hz, -⟩ | ⟨hok, -⟩
    · exact h0 hz
    · exact hok.elim (fun hn => hn ⟨hlo, hhi⟩) hd
  have hj : (if taskJoin r0 = 0 then .ok s1 else (rmw s1 k t .atomic (taskJoin r0) 8 (fun n => n + 1) id).map Prod.snd) =
      Except.ok (s2.setThread k u) := by
    rcases hjoin with ⟨hz, rfl, rfl⟩ | ⟨-, hz, loc, bs, s', hat, rfl, rfl⟩
    · rw [if_pos (hzero.mpr hz), State.setThread_self ht1]
    · have ht' : s'.thread? k = some t := ((atPlace_same hat State.SameWorld.rfl').thread k).trans ht1
      rw [if_neg fun e => hz (hzero.mp e), show taskJoin r0 = r0.extractLsb' 64 64 from rfl, rmw_atPlace hat ht']
      rfl
  rw [exec_fork_record h hg ho ha hr hx hb hcls]
  refine ⟨fun hgen => ?_, fun hgen => ?_⟩
  · have hrel : t.release .part (s2.setThread k u) = s3.setThread k u := releaseAt_setThread ..
    rw [forkRecord_pushes hw hgen hj, hrel, putFld_origin, settle_next]
    exact congrArg _ (State.commit_setThread (s3.setVcell x.cell ((s3.vcell x.cell).push r)) k u _)
  · rw [forkRecord_waits hgen, settle_stay]

end Sys2Proof.Machine
end

section
/-! SUPPORT. Barriers (R406, R407): an arrival counted, the target of a phase, and what the last participant and the others come to. -/
namespace Sys2Proof.Machine
open Sys2Proof Sys2Proof.Claims

variable {s : State} {k : Nat} {t : Thread}

/-! ### Memory read where it was written -/

/-- The cells of written bytes, with cells above them, read as those bytes, whatever the cells above hold. -/
theorem readFrom_freshCells : ∀ (bs : List Byte) (k : Nat) (l : List Host.Cell), (∀ c ∈ l.head?, k + bs.length ≤ c.1) →
    readFrom (freshCells k bs ++ l) k bs.length = bs
  | [], _, _, _ => by rw [List.length_nil, readFrom]
  | b :: bs, k, l, h => by
    have hl : ∀ c ∈ l.head?, k + 1 + bs.length ≤ c.1 := fun c hc => by have := h c hc; rw [List.length_cons] at this; omega
    have ih := readFrom_freshCells bs (k + 1) l hl
    by_cases hb : b = 0
    · subst hb
      rw [freshCells, if_pos rfl, List.length_cons]
      have hlow : ∀ c ∈ (freshCells (k + 1) bs ++ l).head?, c.1 ≠ k := by
        intro c hc
        have hk : k + 1 ≤ c.1 := by
          cases hf : freshCells (k + 1) bs with
          | nil => rw [hf, List.nil_append] at hc; exact Nat.le_trans (Nat.le_add_right ..) (hl c hc)
          | cons x xs =>
            have hab := cellsAbove_freshCells (k + 1) bs
            rw [hf, List.cons_append, List.head?_cons, Option.mem_def, Option.some.injEq] at hc
            subst hc
            rw [hf] at hab
            simp only [cellsAbove, Bool.and_eq_true, decide_eq_true_eq] at hab
            exact hab.1.1
        omega
      cases hf : freshCells (k + 1) bs ++ l with
      | nil => rw [readFrom, ← hf, ih]
      | cons x xs =>
        rw [hf, List.head?_cons] at hlow
        rw [readFrom, if_neg (hlow x rfl), ← hf, ih]
    · rw [freshCells, if_neg hb, List.length_cons, List.cons_append, readFrom, if_pos rfl, ih]

theorem dropWhile_takeWhile {α : Type} (p : α → Bool) (l r : List α) : (l.takeWhile p ++ r).dropWhile p = r.dropWhile p := by
  rw [List.dropWhile_append_of_pos fun x hx => List.mem_takeWhile_imp hx]

/-- Bytes written are read back, in any memory. -/
theorem readBytes_writeBytes (l : List Host.Cell) (k : Nat) (bs : List Byte) : readBytes (writeBytes l k bs) k bs.length = bs := by
  have htail : ∀ c ∈ (l.dropWhile fun c => decide (c.1 < k + bs.length)).head?, k + bs.length ≤ c.1 := fun c hc => by
    have := List.head?_dropWhile_not (fun c : Host.Cell => decide (c.1 < k + bs.length)) l
    rw [hc] at this
    simpa using this
  have hstay : ∀ c ∈ (freshCells k bs ++ l.dropWhile fun c => decide (c.1 < k + bs.length)).head?, ¬ c.1 < k := by
    intro c hc
    cases hf : freshCells k bs with
    | nil => rw [hf, List.nil_append] at hc; have := htail c hc; omega
    | cons x xs =>
      have hab := cellsAbove_freshCells k bs
      rw [hf, List.cons_append, List.head?_cons, Option.mem_def, Option.some.injEq] at hc
      subst hc
      rw [hf] at hab
      simp only [cellsAbove, Bool.and_eq_true, decide_eq_true_eq] at hab
      exact Nat.not_lt.mpr hab.1.1
  have hdrop : (freshCells k bs ++ l.dropWhile fun c => decide (c.1 < k + bs.length)).dropWhile (fun c => decide (c.1 < k)) =
      freshCells k bs ++ l.dropWhile fun c => decide (c.1 < k + bs.length) := by
    cases hl : freshCells k bs ++ l.dropWhile fun c => decide (c.1 < k + bs.length) with
    | nil => rfl
    | cons x xs =>
      rw [hl, List.head?_cons] at hstay
      exact List.dropWhile_cons_of_neg (by rw [decide_eq_true_eq]; exact hstay x rfl)
  rw [readBytes, writeBytes, List.append_assoc, dropWhile_takeWhile, hdrop, readFrom_freshCells _ _ _ htail]

theorem leVal_leOf : ∀ (n x : Nat), leVal (leOf n x) = x % 256 ^ n
  | 0, x => by rw [leOf, leVal, Nat.pow_zero, Nat.mod_one]
  | n + 1, x => by
    rw [leOf, leVal, leVal_leOf n, BitVec.toNat_ofNat, show 256 ^ (n + 1) = 256 * 256 ^ n from Nat.pow_succ', Nat.mod_mul (a := 256)]

/-- A number stored is the number there. -/
theorem State.num_store (s : State) (key n x : Nat) : (s.store key (leOf n x)).num key n = x % 256 ^ n := by
  have h := readBytes_writeBytes s.mem key (leOf n x)
  rw [leOf_length] at h
  rw [State.num, State.bytes, State.store_mem, h, leVal_leOf]

/-! ### Words whose waiters all still wait -/

theorem State.wordChanged_held {key : Nat} (h : ∀ p ∈ s.parked, p.req.key = key → s.servable p.req = false) : s.wordChanged key = s := by
  have hnone : (s.parked.find? fun p => p.req.key == key && s.servable p.req) = none := by
    refine List.find?_eq_none.mpr fun p hp hk => ?_
    obtain ⟨hkey, hserve⟩ := Bool.and_eq_true_iff.mp hk
    rw [h p hp (eq_of_beq hkey)] at hserve
    cases hserve
  simp only [State.wordChanged, State.serveWord, hnone]

/-! ### The target of a phase (R406) -/

/-- The first multiple of n above old is reached by one more arrival just where that arrival makes a multiple. -/
theorem phase_le_iff {n : Nat} (hn : n ≠ 0) (old : Nat) : (old / n + 1) * n ≤ old + 1 ↔ (old + 1) % n = 0 := by
  have hlt : old % n < n := Nat.mod_lt _ (Nat.pos_of_ne_zero hn)
  have hold : old / n * n + old % n = old := by rw [Nat.mul_comm]; exact Nat.div_add_mod old n
  have hmod : (old + 1) % n = (old % n + 1) % n := (Nat.mod_add_mod old n 1).symm
  have hsum : (old / n + 1) * n = old / n * n + n := Nat.succ_mul ..
  rw [hmod, hsum]
  by_cases hlast : old % n + 1 = n
  · rw [hlast, Nat.mod_self]
    exact ⟨fun _ => rfl, fun _ => by omega⟩
  · rw [Nat.mod_eq_of_lt (by omega)]
    omega

theorem barTarget_toNat {old n : Nat} (h : old + n < 2 ^ 64) : (barTarget old n).toNat = (old / n + 1) * n := by
  have hle : (old / n + 1) * n ≤ old + n := by
    rw [Nat.succ_mul]
    exact Nat.add_le_add_right (Nat.div_mul_le_self old n) n
  rw [barTarget, word, BitVec.toNat_ofNat]
  exact Nat.mod_eq_of_lt (by omega)

/-- The operand that bar takes (R406). -/
theorem barOk_iff (gb : Word) : barOk gb = true ↔ gb.toNat / 2 ^ 34 = 0 ∧ gb.toNat / 2 ^ 32 % 4 ≠ 1 ∧ gb.toNat % 2 ^ 32 ≠ 0 := by
  have hlt := gb.isLt
  simp only [barOk, fld_eq, Bool.and_eq_true, bne_iff_ne, ne_eq, beq_iff_eq]
  omega

/-! ### bar in one form (R406) -/

/-- The two forms of bar, with scope and length. -/
def IsBar (a b : Reg) (i : Instr) (sc : Sys2Proof.Scope) (len : Nat) : Prop :=
  i = .bar a b ∧ sc = .sys ∧ len = 4 ∨ i = .barScoped a b sc ∧ len = 12

/-- The request of a bar at its home. -/
def barRequest (t : Thread) (i : Instr) (a b : Reg) (loc : Loc) (old : Nat) : HomeReq :=
  { instr := i, opr := recordOf i t.ctx 0, va := t.ctx.gpr a, key := loc.key, home := homeOf loc.key, peer := loc.peer
    target := barTarget old (fld (t.ctx.gpr b) 0 32) }

section
variable {a b : Reg} {i : Instr} {sc : Sys2Proof.Scope} {len : Nat} (hi : IsBar a b i sc len)
include hi

theorem IsBar.exec_eq (h : Selected s k t) : exec i s = .next (settle i k t (barBody i a b s k t)) := by
  rcases hi with ⟨rfl, -, -⟩ | ⟨rfl, -⟩
  · exact issue_selected h _ _
  · exact issue_selected h _ _

theorem IsBar.scope : barScope i = sc := by
  rcases hi with ⟨rfl, rfl, -⟩ | ⟨rfl, -⟩
  · rfl
  · rfl

theorem IsBar.nextPc (c : Ctx) : nextPc i c = c.pc + BitVec.ofNat 64 len := by
  rcases hi with ⟨rfl, -, rfl⟩ | ⟨rfl, rfl⟩
  · rfl
  · rfl

/-- The operand record of a bar holds g[B]. -/
theorem IsBar.recordOf_vb (c : Ctx) : (recordOf i c 0).vb = c.gpr b := by
  rcases hi with ⟨rfl, -, -⟩ | ⟨rfl, -⟩
  · rfl
  · rfl

theorem IsBar.servable (s : State) (t : Thread) (loc : Loc) (old : Nat) :
    s.servable (barRequest t i a b loc old) = decide ((barTarget old (fld (t.ctx.gpr b) 0 32)).toNat ≤ s.num loc.key 8) := by
  rcases hi with ⟨rfl, -, -⟩ | ⟨rfl, -⟩
  · rfl
  · rfl

/-- A bar that cannot be served and finds room in the table parks there. -/
theorem IsBar.arrive_parks {u : Thread} {loc : Loc} {old : Nat} (hu : s.thread? k = some u) (hr : t.run = .ready)
    (hs : s.servable (barRequest t i a b loc old) = false) (hroom : s.tableFull (barRequest t i a b loc old).home = false) :
    arrive s k t (barRequest t i a b loc old) =
      .stay { s.setThread k { u with run := .parked .bar (s.cycOf t), req := some (barRequest t i a b loc old) } with
        parked := s.parked ++ [⟨k, barRequest t i a b loc old⟩] } := by
  have hpark (f : Thread → Thread) : State.modThread { s with parked := s.parked ++ [⟨k, barRequest t i a b loc old⟩] } k f =
      State.setThread { s with parked := s.parked ++ [⟨k, barRequest t i a b loc old⟩] } k (f u) :=
    State.modThread_some (s := { s with parked := s.parked ++ [⟨k, barRequest t i a b loc old⟩] }) hu f
  simp only [arrive, hs, Bool.false_eq_true, ↓reduceIte, hr, hroom, hpark]
  rcases hi with ⟨rfl, -, -⟩ | ⟨rfl, -⟩
  · rfl
  · rfl

/-- An arrival is the last of its phase where it makes a multiple of N. -/
theorem IsBar.servable_iff {loc : Loc} {bs : List Byte} {s1 s2 : State} (hok : barOk (t.ctx.gpr b) = true)
    (hsum : leVal bs + (t.ctx.gpr b).toNat % 2 ^ 32 < 2 ^ 64) (hs2 : s2.mem = (s1.store loc.key (leOf 8 (leVal bs + 1))).mem) :
    s2.servable (barRequest t i a b loc (leVal bs)) = decide ((leVal bs + 1) % ((t.ctx.gpr b).toNat % 2 ^ 32) = 0) := by
  obtain ⟨-, -, hn⟩ := (barOk_iff _).mp hok
  have hnum : s2.num loc.key 8 = leVal bs + 1 := by
    rw [show s2.num loc.key 8 = (s1.store loc.key (leOf 8 (leVal bs + 1))).num loc.key 8 by rw [State.num, State.num, State.bytes, State.bytes, hs2],
      State.num_store]
    exact Nat.mod_eq_of_lt (by omega)
  rw [hi.servable, hnum, fld_zero _ rfl, barTarget_toNat hsum, decide_eq_decide, phase_le_iff hn]

theorem IsBar.applyReq (s : State) (t : Thread) (loc : Loc) (old : Nat) :
    applyReq s k t (barRequest t i a b loc old) = barDone s k t (barRequest t i a b loc old) := by
  rcases hi with ⟨rfl, -, -⟩ | ⟨rfl, -⟩
  · rfl
  · rfl

/-- A bar in a gang is illegal (R89). -/
theorem IsBar.exec_gang (h : Selected s k t) (hg : t.gang ≠ .none) : exec i s = trapsWith s k t i { code := 0x01 } := by
  rw [hi.exec_eq h, barBody, aloneBody, if_pos (Thread.inGang_of_ne hg)]
  rfl

/-- A bar whose g[B] is not one that it takes is illegal. -/
theorem IsBar.exec_bad (h : Selected s k t)
    (hb : (t.ctx.gpr b).toNat / 2 ^ 34 ≠ 0 ∨ (t.ctx.gpr b).toNat / 2 ^ 32 % 4 = 1 ∨ (t.ctx.gpr b).toNat % 2 ^ 32 = 0) :
    exec i s = trapsWith s k t i { code := 0x01 } := by
  have hok : barOk (t.ctx.gpr b) = false := by
    rw [Bool.eq_false_iff, ne_eq, barOk_iff]
    omega
  rw [hi.exec_eq h, barBody, aloneBody]
  split
  · rfl
  · simp only [hok, Bool.not_false, ↓reduceIte]
    rfl

variable {loc : Loc} {bs : List Byte} {s1 : State} (h : Selected s k t) (hg : t.gang = .none) (hok : barOk (t.ctx.gpr b) = true)
  (hq : Quiet t) (hgen : s.awaitsGen t sc = false)
  (hat : AtPlace s t .atomic (t.ctx.gpr a) 8 (fun s => releaseAt s t.pcell sc) loc bs s1)
include h hg hok hq hgen hat

/-- A bar that has passed its checks counts its arrival and asks at the home of its word. -/
theorem IsBar.exec_arrive : exec i s = .next (settle i k t (arrive
    (((s1.store loc.key (leOf 8 (leVal bs + 1))).setThread k (crossed s1 t loc)).wordChanged loc.key) k t (barRequest t i a b loc (leVal bs)))) := by
  obtain ⟨-, ht, -⟩ := id h
  obtain ⟨hr, he⟩ := hq
  have ht1 : s1.thread? k = some t := ((atPlace_same hat fun s => releaseAt_same ..).thread k).trans ht
  have hrmw : rmw s k t .atomic (t.ctx.gpr a) 8 (fun n => n + 1) (t.release (barScope i)) = _ := hi.scope ▸ rmw_atPlace hat ht1 (fun n => n + 1)
  rw [hi.exec_eq h, barBody, aloneBody, if_neg (by rw [Thread.inGang_none hg]; decide)]
  simp only [hok, Bool.not_true, Bool.false_eq_true, ↓reduceIte, State.waitRx_quiet ht hr he, orTrap, ht, Option.getD_some, orStay,
    hi.scope ▸ hgen, hrmw, hat.1]
  rfl

variable (hsum : leVal bs + (t.ctx.gpr b).toNat % 2 ^ 32 < 2 ^ 64)
include hsum

/-- The last participant acquires, sets RTSEL.BANK where SW asks for it, and commits. -/
theorem IsBar.exec_last (hlast : (leVal bs + 1) % ((t.ctx.gpr b).toNat % 2 ^ 32) = 0) (hw : NoWaiter s loc.key) :
    let s3 := acquireAt (s1.store loc.key (leOf 8 (leVal bs + 1))) t.pcell sc
    let sw := (t.ctx.gpr b).toNat / 2 ^ 32 % 4
    let s4 := if 2 ≤ sw then s3.setCell t.pcell { s3.cell t.pcell with bank := decide (sw = 3) } else s3
    exec i s = .next (done s4 k (crossed s1 t loc) (t.ctx.pc + BitVec.ofNat 64 len)) := by
  intro s3 sw s4
  obtain ⟨-, -, hhead⟩ := id h
  have hsame := atPlace_same hat fun s => releaseAt_same s t.pcell sc
  have hsw : fld (t.ctx.gpr b) 32 2 = sw := fld_eq ..
  have hw1 : NoWaiter (s1.store loc.key (leOf 8 (leVal bs + 1))) loc.key := by
    rw [NoWaiter, State.store_parked, hsame.parked]
    exact hw
  have hw4 : ∀ p ∈ (s4.setThread k (crossed s1 t loc)).parked, p.req.key ≠ loc.key := by
    have hp : s4.parked = (s1.store loc.key (leOf 8 (leVal bs + 1))).parked := by
      simp only [s4]
      split
      · exact (acquireAt_same ..).parked
      · exact (acquireAt_same ..).parked
    rw [State.setThread_parked, hp]
    exact hw1
  have hdone : barDone ((s1.store loc.key (leOf 8 (leVal bs + 1))).setThread k (crossed s1 t loc)) k t (barRequest t i a b loc (leVal bs)) =
      .next (s4.setThread k (crossed s1 t loc)) := by
    have hisHead : (barRequest t i a b loc (leVal bs)).isHead t = false := by
      rw [HomeReq.isHead, hhead]
    have hacq : t.acquire (barScope (barRequest t i a b loc (leVal bs)).instr)
        ((s1.store loc.key (leOf 8 (leVal bs + 1))).setThread k (crossed s1 t loc)) = s3.setThread k (crossed s1 t loc) := by
      rw [show (barRequest t i a b loc (leVal bs)).instr = i from rfl, hi.scope]
      exact acquireAt_setThread ..
    have hvb : fld (barRequest t i a b loc (leVal bs)).opr.vb 32 2 = sw := by
      rw [show (barRequest t i a b loc (leVal bs)).opr = recordOf i t.ctx 0 from rfl, hi.recordOf_vb, hsw]
    simp only [barDone, hisHead, Bool.false_eq_true, ↓reduceIte, hacq, hvb, s4]
    split
    · rfl
    · rfl
  rw [hi.exec_arrive h hg hok hq hgen hat, State.wordChanged_none (s := (s1.store loc.key _).setThread k _) hw1, arrive,
    hi.servable_iff (s2 := (s1.store loc.key _).setThread k _) hok hsum rfl, if_pos (decide_eq_true hlast), hi.applyReq, hdone]
  show Host.Outcome.next (settle i k t (.next ((s4.setThread k (crossed s1 t loc)).wordChanged loc.key))) = _
  rw [State.wordChanged_none hw4, settle_next, State.commit_setThread, hi.nextPc]
  rfl

/-- A participant before the last parks with the target of its phase. -/
theorem IsBar.exec_parks (hmore : (leVal bs + 1) % ((t.ctx.gpr b).toNat % 2 ^ 32) ≠ 0) (hr : t.run = .ready)
    (hheld : ∀ p ∈ s.parked, p.req.key = loc.key → (s1.store loc.key (leOf 8 (leVal bs + 1))).servable p.req = false)
    (hroom : s.tableFull (homeOf loc.key) = false) :
    let r := barRequest t i a b loc (leVal bs)
    let s2 := (s1.store loc.key (leOf 8 (leVal bs + 1))).setThread k { crossed s1 t loc with run := .parked .bar (s.cycOf t), req := some r }
    exec i s = .next (State.unyield { s2 with parked := s.parked ++ [⟨k, r⟩] } k) := by
  intro r s2
  have hsame := atPlace_same hat fun s => releaseAt_same s t.pcell sc
  let s1' := (s1.store loc.key (leOf 8 (leVal bs + 1))).setThread k (crossed s1 t loc)
  have hparked : s1'.parked = s.parked := hsame.parked
  have hchanged : s1'.wordChanged loc.key = s1' := State.wordChanged_held fun p hp => hheld p (hparked ▸ hp)
  have hfull : s1'.tableFull r.home = false := by
    rw [State.tableFull, hparked]
    exact hroom
  have hserve : s1'.servable r = false := by
    rw [hi.servable_iff (s2 := s1') hok hsum rfl]
    exact decide_eq_false hmore
  have hcyc : s1'.cycOf t = s.cycOf t := by
    rw [State.cycOf, State.cycOf, State.cyc, State.cyc, State.die, State.die]
    show s1.clock - (lookD {} _ s1.dies).since = _
    rw [hsame.clock, hsame.dies]
  have harrive := hi.arrive_parks (State.thread?_setThread _ k (crossed s1 t loc)) hr hserve hfull
  rw [hcyc, hparked, State.setThread_setThread] at harrive
  rw [hi.exec_arrive h hg hok hq hgen hat, hchanged, harrive, settle_stay]

end

/-- Settles O23: bar counts one arrival; the last of a phase commits and the others park with its target; a bad g[B] and a gang are
illegal. -/
theorem barrierResult : Obligations.BarrierResult := by
  unfold Obligations.BarrierResult
  intro s k t a b i sc len h hi gb n sw
  have hi : IsBar a b i sc len := hi
  refine ⟨hi.exec_gang h, hi.exec_bad h, ?_⟩
  intro loc bs s1 hg hhigh hsw hn hq hgen hat hsum s2
  have hok : barOk (t.ctx.gpr b) = true := (barOk_iff _).mpr ⟨hhigh, hsw, hn⟩
  refine ⟨hi.exec_last h hg hok hq hgen hat hsum, fun hmore hr hheld hroom => ?_⟩
  have hfull : s.tableFull (homeOf loc.key) = false := decide_eq_false (Nat.not_le.mpr hroom)
  have hn64 : (barTarget (leVal bs) (fld (t.ctx.gpr b) 0 32)).toNat = (leVal bs / n + 1) * n := by
    rw [fld_zero _ rfl]
    exact barTarget_toNat hsum
  refine ⟨_, _, hi.exec_parks h hg hok hq hgen hat hsum hmore hr hheld hfull, rfl, rfl, rfl, hn64, ?_⟩
  rw [State.thread?_unyield]
  exact congrArg (Option.map fun t => t.unwait k) (State.thread?_setThread ..)

end Sys2Proof.Machine
end

section
/-! SUPPORT. The threads that a state holds and the gangs that they are in: operations that begin no thread and move none between gangs, and
the end of a gang at the trap of its leader (R89, R427 to R439). -/
namespace Sys2Proof.Machine
open Sys2Proof Sys2Proof.Claims

variable {a s : State}

/-! ### Stores of a cell -/

/-- Bytes that a cell stores change memory and cache ways at most, as far as they get. -/
theorem cellStore_same {w : Who} {va : Word} {bs : List Byte} :
    Yields (fun e => s.SameWorld e.2) (fun s' => s.SameWorld s') (cellStore s w va bs) := by
  suffices h : ∀ (ps : List (Word × Nat)) {s1 : State} {va : Word} {bs : List Byte}, s.SameWorld s1 → Yields (fun e => s.SameWorld e.2)
      (fun s' => s.SameWorld s') (storeParts (fun s loc b => writeAt s w loc b false) w s1 va bs ps) from h _ (.rfl' s)
  intro ps
  induction ps with
  | nil => exact fun h => h
  | cons p ps ih =>
    intro s1 va bs h
    rw [storeParts]
    split
    · exact h
    · split
      · exact h
      · exact ih (h.trans (writeAt_same ‹_›))

theorem State.writeArea_same {t : Thread} {bs : List Byte} {s' : State} (h : s.writeArea t bs = some s') : s.SameWorld s' := by
  unfold State.writeArea at h
  split at h
  · cases h
  · split at h
    · cases h
      exact Yields.of_ok cellStore_same ‹_›
    · cases h

theorem State.writeTrec_same {t : Thread} {bs : List Byte} {s' : State} (h : s.writeTrec t bs = some s') : s.SameWorld s' := by
  unfold State.writeTrec at h
  simp only at h
  split at h
  · cases h
  · split at h
    · split at h
      · cases h
      · next hw =>
        refine (writeAt_same hw).trans ?_
        unfold Except.toOption at h
        split at h
        · cases h
          exact writeAt_same ‹_›
        · cases h
    · cases h

/-! ### Threads and their gangs -/

/-- Every thread that s holds is one that a holds, in the gang that it is in there. -/
def State.Crews (a s : State) : Prop := ∀ k t, s.thread? k = some t → ∃ u, a.thread? k = some u ∧ t.gang = u.gang

namespace State.Crews

theorem refl (s : State) : s.Crews s := fun _ t h => ⟨t, h, rfl⟩

theorem trans {t : State} (h : a.Crews s) (g : s.Crews t) : a.Crews t := fun k v hv => by
  obtain ⟨u, hu, e⟩ := g k v hv
  obtain ⟨w, hw, e'⟩ := h k u hu
  exact ⟨w, hw, e.trans e'⟩

theorem of_eq {t : State} (h : a.Crews s) (e : t.threads = s.threads := by rfl) : a.Crews t := fun k u hu =>
  h k u (by rw [← hu, State.thread?, State.thread?, e])

theorem of_same {t : State} (h : a.Crews s) (g : s.SameWorld t) : a.Crews t := h.of_eq g.threads

theorem ite {c : Prop} [Decidable c] {t : State} (h : a.Crews s) (g : a.Crews t) : a.Crews (if c then s else t) := by
  split
  · exact h
  · exact g

theorem foldl {α : Type} {f : State → α → State} (hf : ∀ {s x}, a.Crews s → a.Crews (f s x)) (l : List α) (h : a.Crews s) :
    a.Crews (l.foldl f s) := by
  induction l generalizing s with
  | nil => exact h
  | cons x l ih => exact ih (hf h)

/-- A thread's record replaced by one in the same gang. -/
theorem setThread {k : Nat} {t u : Thread} (h : a.Crews s) (hu : s.thread? k = some u) (e : t.gang = u.gang) : a.Crews (s.setThread k t) := by
  intro j v hv
  by_cases hj : j = k
  · subst hj
    rw [State.thread?_setThread] at hv
    cases hv
    obtain ⟨w, hw, e'⟩ := h j u hu
    exact ⟨w, hw, e.trans e'⟩
  · rw [State.thread?_setThread_other _ hj] at hv
    exact h j v hv

theorem modThread {k : Nat} {f : Thread → Thread} (h : a.Crews s) (hf : ∀ t, (f t).gang = t.gang) : a.Crews (s.modThread k f) := by
  cases e : s.thread? k with
  | none => rwa [State.modThread_none e]
  | some t =>
    rw [State.modThread_some e]
    exact h.setThread e (hf t)

theorem modRecord {k : Nat} {f : Thread → Thread} (h : a.Crews s) (hf : ∀ t, (f t).gang = t.gang) : a.Crews (s.modRecord k f) :=
  (modThread h hf).of_eq

theorem dropThread {k : Nat} (h : a.Crews s) : a.Crews (s.dropThread k) := by
  intro j v hv
  by_cases hj : j = k
  · subst hj
    rw [State.thread?, State.dropThread_threads, look?_dropAt_same] at hv
    cases hv
  · rw [State.thread?, State.dropThread_threads, look?_dropAt_other hj] at hv
    exact h j v hv

/-- Every thread's record changed, none in its gang. -/
theorem map {t : State} {f : Nat × Thread → Nat × Thread} (h : a.Crews s) (hf : ∀ x, (f x).1 = x.1 ∧ (f x).2.gang = x.2.gang)
    (e : t.threads = s.threads.map f) : a.Crews t := by
  intro k u hu
  have hall : ∀ l : List (Nat × Thread), look? k (l.map f) = some u → ∃ v, look? k l = some v ∧ u.gang = v.gang := by
    intro l
    induction l with
    | nil => exact nofun
    | cons x l ih =>
      obtain ⟨hk, hg⟩ := hf x
      by_cases hx : x.1 = k
      · simp only [List.map_cons, look?, hk, hx, ↓reduceIte, Option.some.injEq, exists_eq_left']
        rintro rfl
        exact hg
      · simpa only [List.map_cons, look?, hk, hx, ↓reduceIte] using ih
  obtain ⟨v, hv, hg⟩ := hall s.threads (by rw [← e]; exact hu)
  obtain ⟨w, hw, e'⟩ := h k v hv
  exact ⟨w, hw, hg.trans e'⟩

theorem unyield {k : Nat} (h : a.Crews s) : a.Crews (s.unyield k) :=
  h.map (f := fun x => (x.1, x.2.unwait k)) (fun x => ⟨rfl, by unfold Thread.unwait; split <;> rfl⟩) rfl

theorem unpark {p : Parked → Bool} (h : a.Crews s) : a.Crews (s.unpark p) :=
  foldl (fun {s x} (h : a.Crews s) => modRecord (k := x.thread) h (by intro t; rfl)) _ h.of_eq

theorem answerParked {p : Parked → Bool} {code : Nat} (h : a.Crews s) : a.Crews (s.answerParked p code) :=
  foldl (fun {s x} (h : a.Crews s) => modRecord (k := x.thread) h (by intro t; rfl)) _ h.of_eq

/-! #### Completion entries and generations -/

theorem owe {b : Issuer} {f : Thread → Thread} (h : a.Crews s) (hf : ∀ t, (f t).gang = t.gang) : a.Crews (s.owe b f) := by
  unfold State.owe
  split
  · exact modThread h hf
  · exact h.of_eq

theorem receive_gang (t : Thread) (q : DoneQ) (b : Issuer) (e c : Nat) (va : Word) : (t.receive q b e c va).gang = t.gang := by
  unfold Thread.receive
  cases q <;> exact apply_ite Thread.gang .. |>.trans (ite_self _)

theorem endTopo {k n : Nat} {c : Topo} (h : a.Crews s) : a.Crews (s.endTopo k c n) := owe h.of_eq fun _ => receive_gang ..

theorem settleTopo {k : Nat} (h : a.Crews s) : a.Crews (s.settleTopo k) := by
  unfold State.settleTopo
  split
  · exact h
  · split
    · exact ite h.endTopo h
    · exact ite h.endTopo h

theorem advance {k : Nat} : ∀ (n : Nat) {s : State}, a.Crews s → a.Crews (s.advance k n)
  | 0, _, h => h
  | n + 1, _, h => by
    rw [State.advance]
    split
    · exact settleTopo h.of_eq
    · split
      · exact advance n h.of_eq
      · exact h

theorem ackGen {k : Nat} {g : BitVec 16} (h : a.Crews s) : a.Crews (s.ackGen k g) := advance _ h.of_eq

/-! #### Relaxed stores -/

theorem perform {x : RxStore} {t : Thread} (h : a.Crews s) : Yields (fun _ => True) (fun s' => a.Crews s') (x.perform s t) := by
  unfold RxStore.perform
  split
  · cases hw : writeAt s { s.whoOf t with bank := x.bank } { key := x.key, domain := x.domain, peer := x.peer } x.bytes false with
    | error c => exact .error trivial
    | ok s' => exact .ok (h.of_same (writeAt_same hw))
  · exact .ok (ite h.of_eq h.of_eq)
  · refine .ok ?_
    split
    · exact h.of_eq (State.Spares.ctlWrite (.refl s) _).threads
    · exact h

theorem ackStore {k : Nat} {x : RxStore} (h : a.Crews s) : a.Crews (s.ackStore k x) := by
  unfold State.ackStore
  split
  · exact h
  · next t ht =>
    have hs : a.Crews (match x.perform s t with
        | .ok s' => s'
        | .error c => s.setThread k { t with rxErrs := t.rxErrs ++ [⟨c, x.va, x.opr⟩] }) := by
      split
      · exact h.perform.of_ok ‹_›
      · exact h.setThread ht rfl
    dsimp only
    split
    · exact hs
    · exact hs.ackGen

theorem drainRx {k : Nat} (h : a.Crews s) : a.Crews (s.drainRx k) := by
  unfold State.drainRx
  split
  · exact h
  · exact modThread (foldl ackStore _ h) fun _ => rfl

/-! #### The end of a thread -/

theorem closeIfEmpty {l f : Nat} (h : a.Crews s) : a.Crews (s.closeIfEmpty l f) := by
  unfold State.closeIfEmpty
  split
  · exact h
  · dsimp only
    split
    · split
      · exact h.of_eq
      · exact answerParked h.of_eq
    · exact h

theorem dropAway {t : Thread} (h : a.Crews s) : a.Crews (s.dropAway t) := by
  unfold State.dropAway
  split
  · exact h
  · exact h.of_eq

/-- What follows once a thread's record is gone. -/
theorem endThread_rest {k : Nat} {t : Thread} (ht : s.thread? k = some t) : (s.dropThread k).Crews (s.endThread k) := by
  have hs : (s.dropThread k).Crews ((((s.dropThread k).unyield k).unpark fun p => p.thread == k).dropWriter k t.pcell) :=
    have h := unpark (unyield (refl (s.dropThread k)))
    ite h.of_eq h
  simp only [State.endThread, ht]
  exact ite hs (closeIfEmpty (dropAway hs))

theorem endThread {k : Nat} (h : a.Crews s) : a.Crews (s.endThread k) := by
  cases ht : s.thread? k with
  | none => simpa only [State.endThread, ht] using h
  | some t => exact h.dropThread.trans (endThread_rest ht)

/-! #### Faults -/

theorem logEvent {p d n loc c : Nat} {detail : Word} (h : a.Crews s) : a.Crews (s.logEvent p d n detail loc c) :=
  h.of_eq (State.Spares.logEvent (.refl s)).threads

theorem noteTrap {t : Thread} {n : Nat} {va : Word} (h : a.Crews s) : a.Crews (s.noteTrap t n va) := by
  unfold State.noteTrap
  split
  · exact ite h h.of_eq
  · exact h

theorem doubleTrap {k : Nat} {t : Thread} {f : Flt} {r : OpRec} {n : Nat} (h : a.Crews s) : a.Crews (s.doubleTrap k t f r n) := by
  refine logEvent (of_eq (endThread (noteTrap ?_)))
  cases hw : s.writeArea t (trapBytes f r f.code n 0 false f.detail t (s.cycOf t)) with
  | none => exact h
  | some s' => exact h.of_same (State.writeArea_same hw)

theorem spillOver {c : PCell} (h : a.Crews s) : a.Crews (s.spillOver c) := by
  unfold State.spillOver
  dsimp only
  split
  · exact h
  · refine h.map (fun x => ?_) rfl
    split
    · exact ⟨rfl, rfl⟩
    · exact ⟨rfl, rfl⟩

section
variable {k : Nat} {t u : Thread} {f : Flt} {r : OpRec} {rp : Repeat} (ht : s.thread? k = some u) (e : t.gang = u.gang)
include ht e

theorem superEntry {code : Nat} {detail : Word} (h : a.Crews s) : a.Crews (s.superEntry k t f r code detail rp) := by
  unfold State.superEntry
  dsimp only
  split
  · exact doubleTrap h
  · next s' hw =>
    have hs := State.writeArea_same hw
    exact noteTrap (setThread (h.of_same hs) ((hs.thread k).trans ht) e)

theorem upcall {i : Nat} {s' : State} (h : a.Crews s) (hs : s.upcall k t f r i rp = some s') : a.Crews s' := by
  unfold State.upcall at hs
  split at hs
  · cases hs
  · next s1 hw =>
    have hsame := State.writeTrec_same hw
    cases hs
    exact spillOver (setThread (u := u) (h.of_same hsame).of_eq ((hsame.thread k).trans ht) e)

/-- The delivery of a fault begins no thread and moves none between gangs. -/
theorem deliver {own : OpRec} (h : a.Crews s) : a.Crews (s.deliver k t f own) := by
  unfold State.deliver
  dsimp only
  split
  · exact doubleTrap h
  · split
    · refine superEntry (u := u) ?_ e (logEvent h.of_eq)
      rw [State.thread?, (State.Spares.logEvent (.refl _)).threads]
      exact ht
    · split
      · split
        · exact superEntry ht e h
        · split
          · exact superEntry ht e h
          · cases hu : s.upcall k t f (f.opr.getD own) _ (t.series f (s.cycOf t)) with
            | none => exact superEntry ht e h
            | some s' => exact upcall ht e h hu
        · exact superEntry ht e h
      · exact superEntry ht e h

end

theorem gone {k : Nat} (h : a.Crews s) (hk : a.thread? k = none) : s.thread? k = none := by
  cases e : s.thread? k with
  | none => rfl
  | some t =>
    obtain ⟨u, hu, -⟩ := h k t e
    rw [hk] at hu
    cases hu

end State.Crews

/-! ### A gang that its leader's trap disbands (R89) -/

/-- What is left of a gang that k led: its members are gone, and k is in no gang. -/
def State.Left (s : State) (k : Nat) (ms : List Nat) : Prop :=
  (∀ m ∈ ms, s.thread? m = none) ∧ ∀ t, s.thread? k = some t → t.gang = .none

section
variable {k : Nat} {t : Thread} {ms : List Nat}

theorem State.Left.of_crews (h : a.Left k ms) (c : a.Crews s) : s.Left k ms := by
  refine ⟨fun m hm => c.gone (h.1 m hm), fun t ht => ?_⟩
  obtain ⟨u, hu, e⟩ := c k t ht
  exact e.trans (h.2 u hu)

theorem State.thread?_endThread (s : State) (k : Nat) : (s.endThread k).thread? k = none := by
  cases ht : s.thread? k with
  | none => exact (Crews.endThread (.refl s)).gone ht
  | some t =>
    refine (Crews.endThread_rest ht).gone ?_
    rw [State.thread?, State.dropThread_threads, look?_dropAt_same]

/-- Threads ended one after the other are gone. -/
theorem State.thread?_endThreads : ∀ (ms : List Nat) (s : State), ∀ m ∈ ms, (ms.foldl (fun s m => (s.drainRx m).endThread m) s).thread? m = none
  | m :: ms, s, j, hj => by
    rw [List.foldl_cons]
    rcases List.mem_cons.mp hj with rfl | hj
    · exact (Crews.foldl (fun h => h.drainRx.endThread) ms (.refl _)).gone (State.thread?_endThread ..)
    · exact State.thread?_endThreads ms _ j hj

theorem State.disband_left (ht : s.thread? k = some t) (hg : t.gang = .leader ms) (hk : k ∉ ms) : (s.disband k).Left k ms := by
  simp only [State.disband, ht, hg]
  refine ⟨fun m hm => ?_, fun u hu => ?_⟩
  · have hmk : m ≠ k := fun e => hk (e ▸ hm)
    rw [State.thread?_modThread_other hmk]
    exact State.thread?_endThreads ms s m hm
  · cases e : (ms.foldl (fun s m => (s.drainRx m).endThread m) s).thread? k with
    | none =>
      rw [State.modThread_none e, e] at hu
      cases hu
    | some v =>
      rw [State.thread?_modThread_same e] at hu
      cases hu
      rfl

/-- The stop of a thread that owes nothing releases its reservations. -/
theorem State.stopThread_still (ht : s.thread? k = some t) (h : Still t) : s.stopThread k = s.releaseSlots k := by
  obtain ⟨⟨hr, -⟩, hv⟩ := h
  rw [State.stopThread, State.drainRx_quiet ht hr]
  exact State.drainV_still (s := s.releaseSlots k) ht hv

/-- A fault that a gang's leader takes disbands the gang. -/
theorem takeFault_left (ht : s.thread? k = some t) (ho : Still t) (hc : t.cached = false) (hg : t.gang = .leader ms) (hk : k ∉ ms) (f : Flt)
    (own : OpRec) : (takeFault s k f own).Left k ms := by
  have hleft : (((s.releaseSlots k).setThread k { t with vErr := none }).disband k).Left k ms :=
    State.disband_left (State.thread?_setThread ..) hg hk
  have ht1 : (s.releaseSlots k).thread? k = some t := ht
  simp only [hg] at hleft
  simp only [takeFault, State.stopThread_still ht ho, ht1, hc, Bool.false_eq_true, ↓reduceIte, hg]
  split
  · exact hleft.of_crews (State.Crews.deliver ‹_› rfl (.refl _))
  · exact hleft

end

/-! ### Supervisor instructions (R446), and those barred in gangs (R89, R318, R365, R410) -/

/-- The supervisor instructions. -/
def IsSuper (a b d : Reg) (i : Instr) : Prop :=
  i = .rte ∨ i = .halt ∨ i = .ctxsv a b ∨ i = .ctxld a b ∨ i = .tlbi a b ∨ i = .cap a ∨ i = .scrub a b ∨ i = .topo d a

/-- The optical instructions but pstat, the fabric instructions and the mailbox instructions. -/
def IsAlone (a b d : Reg) (v : VNum) (sc : Sys2Proof.Scope) (i : Instr) : Prop :=
  i = .pbank d a b ∨ i = .pdec d a b ∨ i = .pswap ∨ i = .pass d a ∨ i = .probe d a ∨ i = .pcal a b ∨ i = .pabort a ∨
    i = .mst d a ∨ i = .shufset d a ∨ i = .shuf d a ∨ i = .bar a b ∨ i = .barScoped a b sc ∨ i = .xred d a ∨
    i = .gpost a v ∨ i = .gtake v a

section
variable {k : Nat} {t : Thread} {i : Instr} {a b d : Reg} {v : VNum} {sc : Sys2Proof.Scope}

/-- A supervisor instruction is its own part under the checks of R446. -/
theorem IsSuper.exec_eq (hi : IsSuper a b d i) (h : Selected s k t) : ∃ p : Body, exec i s = .next (settle i k t (superBody p s k t)) := by
  rcases hi with rfl | rfl | rfl | rfl | rfl | rfl | rfl | rfl
  all_goals exact ⟨_, issue_selected h _ _⟩

theorem IsSuper.exec_user (hi : IsSuper a b d i) (h : Selected s k t) (hp : t.ctx.priv = false) :
    exec i s = trapsWith s k t i { code := 0x02 } := by
  obtain ⟨p, hx⟩ := hi.exec_eq h
  rw [hx, superBody, hp]
  rfl

theorem IsSuper.exec_gang (hi : IsSuper a b d i) (h : Selected s k t) (hp : t.ctx.priv = true) (hg : t.gang ≠ .none) :
    exec i s = trapsWith s k t i { code := 0x01 } := by
  obtain ⟨p, hx⟩ := hi.exec_eq h
  rw [hx, superBody, hp, Thread.inGang_of_ne hg]
  rfl

/-- An instruction whose own part is illegal. -/
theorem issue_illegal (h : Selected s k t) {p : Body} (hp : p s k t = .trap s { code := fIllegal }) :
    issue i s p = trapsWith s k t i { code := 0x01 } := by
  rw [issue_selected h, hp]
  rfl

theorem IsAlone.exec_gang (hi : IsAlone a b d v sc i) (h : Selected s k t) (hg : t.gang ≠ .none) :
    exec i s = trapsWith s k t i { code := 0x01 } := by
  have hg : t.inGang = true := Thread.inGang_of_ne hg
  rcases hi with rfl | rfl | rfl | rfl | rfl | rfl | rfl | rfl | rfl | rfl | rfl | rfl | rfl | rfl | rfl
  all_goals
    apply issue_illegal h
    exact if_pos hg

end

/-- Settles O60: supervisor instructions are PRIVILEGE at user privilege and illegal in a gang, the others barred in gangs are illegal there,
and the trap of a gang's leader leaves no member. -/
theorem privilegeChecks : Obligations.PrivilegeChecks := by
  unfold Obligations.PrivilegeChecks
  intro s k t i a b d v sc h super alone
  refine ⟨fun hi => IsSuper.exec_user hi h, fun hi => IsSuper.exec_gang hi h, fun hi => IsAlone.exec_gang hi h, ?_⟩
  intro ms hi hg hk hc ho
  obtain ⟨-, ht, -⟩ := id h
  refine ⟨_, IsAlone.exec_gang hi h (by rw [hg]; exact nofun), ?_⟩
  exact (takeFault_left ht ho hc hg hk _ _).of_crews (State.Crews.unyield (.refl _))

end Sys2Proof.Machine
end

section
/-! SUPPORT. What comes between a thread's instructions: saves into a context cache (R440 to R443), the checker (R151), acknowledgements
(R228), wait limits (R93, R235) and page walks (R196). -/
namespace Sys2Proof.Machine
open Sys2Proof Sys2Proof.Claims

variable {s : State} {k : Nat} {t : Thread}

/-! ### Entries of a context cache -/

/-- A lookup in a table whose entries keep their keys. -/
theorem look?_map_keyed {α β : Type} [DecidableEq α] {f : α × β → α × β} (hf : ∀ x, (f x).1 = x.1) (k : α) (l : List (α × β)) :
    look? k (l.map f) = (look? k l).map fun v => (f (k, v)).2 := by
  induction l with
  | nil => rfl
  | cons x l ih =>
    by_cases hx : x.1 = k
    · subst hx
      simp only [List.map_cons, look?, hf, ↓reduceIte, Option.map_some]
    · simpa only [List.map_cons, look?, hf, hx, ↓reduceIte] using ih

/-- A spill marks entries, and changes nothing else of a thread. -/
theorem State.thread?_spillOver (ht : s.thread? k = some t) (c : PCell) :
    ∃ b f, (s.spillOver c).thread? k = some { t with spilled := b, fctx := f } := by
  unfold State.spillOver
  dsimp only
  split
  · exact ⟨t.spilled, t.fctx, ht⟩
  · rw [State.thread?, look?_map_keyed fun x => by split <;> rfl, show look? k s.threads = some t from ht, Option.map_some]
    dsimp only
    split
    · exact ⟨t.spilled, t.fctx, rfl⟩
    · exact ⟨_, _, rfl⟩

theorem State.spillOver_mem (s : State) (c : PCell) : (s.spillOver c).mem = s.mem := by
  unfold State.spillOver
  dsimp only
  split
  · rfl
  · rfl

theorem Thread.unwait_eq (t : Thread) (k : Nat) : ∃ r, t.unwait k = { t with run := r } := by
  unfold Thread.unwait
  split
  · exact ⟨_, rfl⟩
  · exact ⟨t.run, rfl⟩

/-- A thread that owes nothing, put into the context cache of its cell: its entry is written now. -/
theorem State.thread?_shelve (ht : s.thread? k = some t) (ho : Still t) (resumable : Bool) (masks : BitVec 40) (forced : Bool) :
    ∃ b f r, (s.shelve resumable masks forced k).thread? k = some { t with
      place := .cache t.pcell resumable s.stamp, masks := masks, forced := forced, preempt := none, spilled := b, fctx := f, run := r } := by
  have ht1 : (s.releaseSlots k).tick.2.thread? k = some t := ht
  have hstamp : (s.releaseSlots k).tick.1 = s.stamp := rfl
  simp only [State.shelve, State.stopThread_still ht ho, ht1, hstamp]
  obtain ⟨b, f, hspill⟩ := State.thread?_spillOver (State.thread?_setThread (s.releaseSlots k).tick.2 k { t with
    place := .cache t.pcell resumable s.stamp, masks := masks, forced := forced, spilled := false, preempt := none
    run := if t.goesOn then .ready else t.run }) t.pcell
  obtain ⟨r, hr⟩ := Thread.unwait_eq { t with
    place := .cache t.pcell resumable s.stamp, masks := masks, forced := forced, spilled := b, preempt := none, fctx := f
    run := if t.goesOn then .ready else t.run } k
  refine ⟨b, f, r, ?_⟩
  rw [State.thread?_unyield, hspill, Option.map_some, hr]

theorem State.shelve_mem (ht : s.thread? k = some t) (ho : Still t) (resumable : Bool) (masks : BitVec 40) (forced : Bool) :
    (s.shelve resumable masks forced k).mem = s.mem := by
  have ht1 : (s.releaseSlots k).tick.2.thread? k = some t := ht
  simp only [State.shelve, State.stopThread_still ht ho, ht1]
  exact State.spillOver_mem ..

/-! ### Saves (R440 to R442, R259, R260) -/

theorem Thread.crew_alone (hg : t.gang = .none) (k : Nat) : t.crew k = [k] := by
  rw [Thread.crew, hg]

theorem State.saveCrew_alone (ht : s.thread? k = some t) (hg : t.gang = .none) (hv : t.vErr = none) (masks : BitVec 40) (forced : Bool) :
    s.saveCrew k t masks forced = s.shelve true masks forced k := by
  have hnone : ([k].find? fun m => ((s.thread? m).map fun u => u.vErr.isSome).getD false) = none := by
    rw [List.find?_cons_of_neg, List.find?_nil]
    rw [ht, Option.map_some, hv]
    decide
  simp only [State.saveCrew, Thread.crew_alone hg, hnone, State.shelveCrew, hg]

/-- A save of a thread whose vector unit has found an error is the trap instead. -/
theorem State.saveCrew_error {r : OpRec} (ht : s.thread? k = some t) (hg : t.gang = .none) (hv : t.vErr = some r) (masks : BitVec 40)
    (forced : Bool) : s.saveCrew k t masks forced = (takeFault (s.unpark fun p => p.thread == k) k { code := fUncorrectable } {}).unyield k := by
  have hsome : ([k].find? fun m => ((s.thread? m).map fun u => u.vErr.isSome).getD false) = some k := by
    rw [List.find?_cons_of_pos]
    rw [ht, Option.map_some, hv]
    rfl
  simp only [State.saveCrew, Thread.crew_alone hg, hsome]

theorem exec_preemption_saves {m : BitVec 40} (ht : s.thread? k = some t) (hm : s.liveMask t = some m) (hb : s.between t = true)
    (hh : s.honours t = true) : exec (.preemption k) s = .next (s.saveCrew k t m false) := by
  rw [exec_preemption, execPreemption]
  simp only [ht, hm, hb, hh, Bool.and_self, ↓reduceIte]

theorem exec_forcedSave_saves (ht : s.thread? k = some t) (hd : s.forcedDue t = true) :
    exec (.forcedSave k) s = .next (s.saveCrew k t (BitVec.allOnes 40) true) := by
  rw [exec_forcedSave, execForcedSave]
  simp only [ht, hd, ↓reduceIte]

/-- A saved thread: its entry, its masks, and the memory. -/
theorem State.saveCrew_saved (ht : s.thread? k = some t) (hg : t.gang = .none) (hv : t.vErr = none) (ho : Still t) (m : BitVec 40) (forced : Bool) :
    ∃ u : Thread, (s.saveCrew k t m forced).thread? k = some u ∧ u.place = .cache t.pcell true s.stamp ∧ u.masks = m ∧ u.forced = forced ∧
      u.preempt = none ∧ u.ctx = t.ctx ∧ (s.saveCrew k t m forced).mem = s.mem := by
  rw [State.saveCrew_alone ht hg hv]
  obtain ⟨b, f, r, hu⟩ := State.thread?_shelve ht ho true m forced
  exact ⟨_, hu, rfl, rfl, rfl, rfl, rfl, State.shelve_mem ht ho ..⟩

/-! ### The checker (R151, R349, R469) -/

theorem exec_checkerRetry_discards {n : Nat} (ht : s.thread? k = some t) (hturn : s.readyTurn t.pcell = some (k, n)) (hr : t.retry = none)
    (again : Bool) : exec (.checkerRetry k again) s =
      .next ((s.setThread k { t with retry := some again }).setCell t.pcell { s.cell t.pcell with rot := (n + 1) % 16 }) := by
  rw [exec_checkerRetry, execCheckerRetry]
  simp only [ht, hturn, hr, Option.isNone_none, and_self, ↓reduceIte]
  rfl

/-- A second mismatch is UNCORRECTABLE, and counts for the unit that executes the instruction. -/
theorem State.mismatch_fetched {i : Instr} {s1 : State} (htodo : t.todo = none) (hhead : t.ctx.head = none)
    (hf : fetchInstr s t = .ok (i, s1)) : s.mismatch k t =
      ((takeFault s1 k { code := 0x10 } (recordOf i t.ctx 0)).unyield k).countEvent (checkedUnit i t.pcell) t.ctx.pc := by
  have hopen : t.ctx.opened = none := by rw [Ctx.opened, hhead]
  simp only [State.mismatch, htodo, hf, raiseAt, hopen]
  rfl

theorem stepThread_mismatch {i : Instr} {s1 : State} (hr : t.retry = some true) (hv : t.vErr = none) (hh : t.homeErr = none)
    (hb : s.before t = none) (htodo : t.todo = none) (hhead : t.ctx.head = none)
    (hf : fetchInstr (s.setThread k { t with retry := none }) { t with retry := none } = .ok (i, s1)) :
    stepThread s k t = .next (((takeFault s1 k { code := 0x10 } (recordOf i t.ctx 0)).unyield k).countEvent
      (if (encode i).op = 0x2C then .vector t.pcell else .pipeline t.pcell) t.ctx.pc) := by
  have hstep : stepThread s k t = .next ((s.setThread k { t with retry := none }).mismatch k { t with retry := none }) := by
    simp only [stepThread, State.lateFault_none hv, State.homeFault_none hh, hb, hr, ↓reduceIte]
  rw [hstep, State.mismatch_fetched (t := { t with retry := none }) htodo hhead hf]
  rfl

/-! ### Answers and acknowledgements (R145, R228) -/

theorem exec_accessCompletion_ok {h : Head} {s1 : State} (ht : s.thread? k = some t) (ho : t.ctx.opened = some h)
    (hp : performHead s k t h = .ok s1) : exec (.accessCompletion k) s = .next s1 := by
  rw [exec_accessCompletion, execAccessCompletion]
  simp only [ht, ho, hp]

theorem exec_accessCompletion_error {h : Head} {s1 : State} {f : Flt} (ht : s.thread? k = some t) (ho : t.ctx.opened = some h)
    (hp : performHead s k t h = .error (s1, f)) : exec (.accessCompletion k) s = .next ((takeFault s1 k f h.opr).unyield k) := by
  rw [exec_accessCompletion, execAccessCompletion]
  simp only [ht, ho, hp]

theorem exec_relaxedStoreAck_first {x : RxStore} {xs : List RxStore} (ht : s.thread? k = some t) (hx : t.rx = x :: xs) :
    exec (.relaxedStoreAck k 0) s = .next ((s.ackStore k x).modThread k fun t => { t with rx := t.rx.eraseIdx 0 }) := by
  have hfirst : t.rx[0]? = some x := by rw [hx]; rfl
  rw [exec_relaxedStoreAck, execRelaxedStoreAck]
  simp only [ht, Option.bind_some, hfirst, Option.map_some, List.take_zero, List.any_nil, Bool.false_eq_true, ↓reduceIte]

/-- An acknowledged store of memory: what it writes, and in no generation nothing else. -/
theorem State.ackStore_ok {x : RxStore} {s1 : State} (ht : s.thread? k = some t) (hp : x.perform s t = .ok s1) :
    (s.ackStore k x).mem = s1.mem ∧ (x.gen = none → s.ackStore k x = s1) := by
  simp only [State.ackStore, ht, hp]
  cases x.gen with
  | none => exact ⟨rfl, fun _ => rfl⟩
  | some g => exact ⟨(State.Settles.ackGen (.refl (fun _ => False) s1)).mem, nofun⟩

/-! ### Wait limits (R93, R235) -/

theorem State.waitLimit_slot {c : PCell} {n : Nat} (hq : t.req = none) (hp : t.place = .slot c n) (why : Why) :
    s.waitLimit k t why = takeFault (s.setThread k t) k { code := fWaitLimit, detail := Why.detail why } t.waitOpr := by
  obtain ⟨⟩ := t
  cases hp
  cases hq
  rfl

theorem exec_waitLimitExpiry_wfw {since n : Nat} {c : PCell} (ht : s.thread? k = some t) (hl : s.limitOver t since = true)
    (hc : t.cached = false) (hq : t.req = none) (hr : t.run = .parked .wfw since) (hp : t.place = .slot c n) :
    exec (.waitLimitExpiry k) s = .next (takeFault (s.setThread k t) k { code := 0x09, detail := 5 } t.waitOpr) := by
  have hend : exec (.waitLimitExpiry k) s = .next (s.waitLimit k t .wfw) := by
    rw [exec_waitLimitExpiry, execWaitLimitExpiry]
    simp only [ht, hr, hl, Bool.not_true, Bool.false_eq_true, ↓reduceIte, hc]
  rw [hend, State.waitLimit_slot hq hp]
  rfl

/-- A request parked at a home is withdrawn first. -/
theorem exec_waitLimitExpiry_withdraws {since : Nat} (ht : s.thread? k = some t) (hl : s.limitOver t since = true)
    (hr : t.run = .parked .fullEmpty since ∨ t.run = .parked .bar since) :
    exec (.waitLimitExpiry k) s = .next (s.setThread k { t with run := .withdrawing, answer := none }) := by
  rw [exec_waitLimitExpiry, execWaitLimitExpiry]
  rcases hr with hr | hr
  · simp only [ht, hr, hl, Bool.not_true, Bool.false_eq_true, ↓reduceIte]
  · simp only [ht, hr, hl, Bool.not_true, Bool.false_eq_true, ↓reduceIte]

/-! ### Page walks (R196) -/

/-- A walk fills the TLBs with its leaf, and a walk that faults leaves nothing. -/
theorem exec_pageWalk_fills (s : State) (cell : PCell) (vf : Nat) (va : Word) (kind : AccessKind) (e : TlbEntry) :
    let w := { pkgWho cell.pkg vf with cluster := clusterOf cell, cell := cell }
    (translate s w (kind == .fetch) va = .ok (e, false) →
      exec (.pageWalk cell vf va kind) s = .next (s.fillTlb cell (kind == .fetch) { key := 0, entry := some e })) ∧
    (∀ f, translate s w (kind == .fetch) va = .error f → exec (.pageWalk cell vf va kind) s = .next s) := by
  intro w
  refine ⟨fun h => ?_, fun f h => ?_⟩
  · dsimp only [w] at h
    rw [exec_pageWalk, execPageWalk]
    simp only [h]
  · dsimp only [w] at h
    rw [exec_pageWalk, execPageWalk]
    simp only [h]

/-- Settles O28: saves, the checker, acknowledgements, wait limits and page walks, each by the lemma about its event. -/
theorem interruptions : Obligations.Interruptions := by
  unfold Obligations.Interruptions
  intro s k t ht
  refine ⟨?_, ?_, ?_, ?_, ?_, ?_, ?_, ?_, ?_, fun since hl hr => exec_waitLimitExpiry_withdraws ht hl hr, exec_pageWalk_fills s⟩
  · intro m hm hb hh hg ho hv
    obtain ⟨u, h⟩ := State.saveCrew_saved ht hg hv ho m false
    exact ⟨_, u, exec_preemption_saves ht hm hb hh, h⟩
  · intro m r hm hb hh hg hv
    rw [exec_preemption_saves ht hm hb hh, State.saveCrew_error ht hg hv]
    rfl
  · intro r hd hg hv
    rw [exec_forcedSave_saves ht hd, State.saveCrew_error ht hg hv]
    rfl
  · intro hd hg ho hv
    obtain ⟨u, h⟩ := State.saveCrew_saved ht hg hv ho (BitVec.allOnes 40) true
    exact ⟨_, u, exec_forcedSave_saves ht hd, h⟩
  · exact fun n again hturn hr => exec_checkerRetry_discards ht hturn hr again
  · intro i s1 u hr hv hh hb htodo hhead hf
    exact stepThread_mismatch hr hv hh hb htodo hhead hf
  · exact fun h ho => ⟨fun s1 => exec_accessCompletion_ok ht ho, fun s1 f => exec_accessCompletion_error ht ho⟩
  · intro x xs hx
    refine ⟨fun s1 hkind hw => ?_, fun d e v nsm hkind => ?_⟩
    · have hp : x.perform s t = .ok s1 := by
        simp only [RxStore.perform, hkind]
        exact hw
      obtain ⟨hmem, hall⟩ := State.ackStore_ok ht hp
      refine ⟨_, exec_relaxedStoreAck_first ht hx, (State.modThread_mem ..).trans hmem, fun hg => ?_⟩
      rw [hall hg, State.thread?_modThread_same (((writeAt_same hw).thread k).trans ht), hx]
      rfl
    · have hp : x.perform s t = .ok (elemStore s x.key d e (elemEncode s x.key d e nsm v)) := by
        simp only [RxStore.perform, hkind]
      exact ⟨_, exec_relaxedStoreAck_first ht hx, (State.modThread_mem ..).trans (State.ackStore_ok ht hp).1⟩
  · exact fun since hl hc hq c n hr hp => exec_waitLimitExpiry_wfw ht hl hc hq hr hp

end Sys2Proof.Machine
end

section
/-! SUPPORT. Events of threads: starts of tasks (R74), contexts that resume (R86, R443), steals (R78 to R81), reservations for gangs (R88),
flights (R91), wakes (R165, R450) and sleeps (R144). -/
namespace Sys2Proof.Machine
open Sys2Proof Sys2Proof.Claims

variable {s : State} {k : Nat} {t : Thread}

/-! ### What shared operations leave as it was -/

theorem State.Rewayed.acquireAt (s : State) (c : PCell) (sc : Sys2Proof.Scope) : s.Rewayed (acquireAt s c sc) := by
  unfold Machine.acquireAt
  split
  · exact .flushWhere ..
  · exact .refl s

/-- A change of a thread's record also kept beside changes threads and saved contexts only. -/
theorem State.modRecord_eq (s : State) (k : Nat) (f : Thread → Thread) :
    ∃ th sv, s.modRecord k f = { s with threads := th, saved := sv } := by
  unfold State.modRecord State.modThread
  split
  · exact ⟨_, _, rfl⟩
  · exact ⟨_, _, rfl⟩

/-- Requests answered at their home are gone from the table, and records of threads change. -/
theorem State.answerParked_eq (s : State) (gone : Parked → Bool) (code : Nat) :
    ∃ th sv, s.answerParked gone code = { s with threads := th, saved := sv, parked := s.parked.filter fun p => !gone p } := by
  suffices h : ∀ (l : List Parked) (s : State), ∃ th sv,
      l.foldl (fun s p => s.modRecord p.thread fun t => { t with run := .ready, homeErr := some code }) s = { s with threads := th, saved := sv } from h _ _
  intro l
  induction l with
  | nil => exact fun s => ⟨s.threads, s.saved, rfl⟩
  | cons p l ih =>
    intro s
    obtain ⟨th, sv, h⟩ := State.modRecord_eq s p.thread fun t => { t with run := .ready, homeErr := some code }
    obtain ⟨th', sv', h'⟩ := ih { s with threads := th, saved := sv }
    exact ⟨th', sv', by rw [List.foldl_cons, h, h']⟩

/-- A virtual cell that may close keeps its deque, and steals go on. -/
theorem State.closeIfEmpty_keeps (s : State) (l f : Nat) :
    (s.closeIfEmpty l f).steals = s.steals ∧ ∀ c, ((s.closeIfEmpty l f).vcell c).deque = (s.vcell c).deque := by
  have hclosed (c d : LCell) : ((s.setVcell c { s.vcell c with isOpen := false }).vcell d).deque = (s.vcell d).deque := by
    by_cases h : d = c
    · rw [h, State.vcell_setVcell]
    · rw [State.vcell, State.setVcell_vcells, lookD_putAt_other _ h, State.vcell]
  unfold State.closeIfEmpty
  split
  · exact ⟨rfl, fun _ => rfl⟩
  · dsimp only
    split
    · split
      · exact ⟨rfl, hclosed _⟩
      · obtain ⟨th, sv, h⟩ := State.answerParked_eq _ _ _
        rw [h]
        exact ⟨rfl, hclosed _⟩
    · exact ⟨rfl, fun _ => rfl⟩

/-- A ready thread is answered at most with an error of its home. -/
theorem State.thread?_closeIfEmpty (ht : s.thread? k = some t) (hr : t.run = .ready) (l f : Nat) :
    ∃ e, (s.closeIfEmpty l f).thread? k = some { t with homeErr := e } := by
  have hfold : ∀ (ps : List Parked) (code : Nat) (s : State) (e : Option Nat), s.thread? k = some { t with homeErr := e } →
      ∃ e, (ps.foldl (fun s p => s.modRecord p.thread fun t => { t with run := .ready, homeErr := some code }) s).thread? k =
        some { t with homeErr := e } := by
    intro ps code
    induction ps with
    | nil => exact fun s e h => ⟨e, h⟩
    | cons p ps ih =>
      intro s e h
      by_cases hp : k = p.thread
      · refine ih _ (some code) ?_
        subst hp
        show (s.modThread p.thread _).thread? p.thread = _
        rw [State.thread?_modThread_same h, ← hr]
      · exact ih _ e ((State.thread?_modThread_other hp _).trans h)
  unfold State.closeIfEmpty
  split
  · exact ⟨_, ht⟩
  · dsimp only
    split
    · split
      · exact ⟨_, ht⟩
      · exact hfold _ _ _ _ ht
    · exact ⟨_, ht⟩

/-! ### Task starts (R74) -/

theorem State.startPlace_eq (s : State) (x : Seat) (slot : Nat) : ∃ p n, s.startPlace x slot = (p, { s with stamp := n }) := by
  unfold State.startPlace
  dsimp only
  split
  · exact ⟨_, _, rfl⟩
  · exact ⟨_, _, rfl⟩

/-- A thread starts at user privilege. -/
theorem startTstat_priv (r : Ready) : (startTstat r).getLsbD bitPriv = false := by
  unfold startTstat
  split
  · decide
  · decide

/-- A task that starts: its thread, and what its cell and the messages of thieves keep. -/
theorem State.startTask_starts (s : State) (key flat slot : Nat) (x : Seat) (r : BitVec 256) :
    (s.startTask key flat slot x r).steals = s.steals ∧ ((s.startTask key flat slot x r).vcell x.cell).deque = (s.vcell x.cell).deque ∧
    ∃ u : Thread, (s.startTask key flat slot x r).thread? s.nextKey = some u ∧
      StartsAt u key flat slot (x.launch.ready.codeBase + BitVec.ofNat 64 (taskEntry r)) ∧ u.ctx.gpr 0 = r.extractLsb' 128 64 ∧
      u.ctx.gpr 1 = r.extractLsb' 192 64 ∧ u.ctx.joinAddr = taskJoin r ∧ u.ctx.origin = taskOrigin r ∧ u.ctx.domain = taskDomain r := by
  obtain ⟨m, f, hacq⟩ := State.Rewayed.acquireAt s x.place.cell .part
  unfold State.startTask
  rw [hacq]
  dsimp only
  generalize hs1 : (State.mapLines { s with mem := m } f).setVcell x.cell _ = s1
  obtain ⟨p, n, hp⟩ := State.startPlace_eq ((s1.newTid x.cell flat slot).2.fresh.2) x slot
  rw [hp]
  have hkey : (s1.newTid x.cell flat slot).2.fresh.1 = s.nextKey := by rw [← hs1]; rfl
  refine ⟨by rw [← hs1]; rfl, ?_, _, by rw [hkey]; exact State.thread?_setThread .., ?_⟩
  · show ((s1.newTid x.cell flat slot).2.vcell x.cell).deque = _
    rw [State.newTid, State.vcell_setVcell, ← hs1, State.vcell_setVcell]
    rfl
  · exact ⟨⟨rfl, rfl, rfl, rfl, rfl, rfl, rfl, startTstat_priv _, rfl⟩, rfl, rfl, rfl, rfl, rfl⟩

theorem exec_taskStart_starts {cell : LCell} {slot key flat : Nat} {x : Seat} {ds : List (BitVec 256)} {r : BitVec 256}
    (hseat : s.seatOf cell = some (key, flat, x)) (hx : x.cell = cell) (hfree : s.vslotFree x key flat slot = true)
    (hd : (s.vcell cell).deque = ds ++ [r]) :
    exec (.taskStart cell slot) s = .next ((s.setVcell cell { s.vcell cell with deque := ds }).startTask key flat slot x r) := by
  have hrefill : s.refill key flat x = s := by
    rw [State.refill, hx, hd]
    simp only [List.isEmpty_eq_false_iff.mpr (List.append_ne_nil_of_right_ne_nil ds (List.cons_ne_nil r [])), Bool.not_false, Bool.true_or,
      ↓reduceIte]
  rw [exec_taskStart, execTaskStart]
  simp only [hseat, hfree, Bool.not_true, Bool.false_eq_true, ↓reduceIte, hrefill, hd, List.getLast?_concat, List.dropLast_concat]

/-! ### Contexts that resume (R86, R443) -/

theorem exec_contextResume_alone {cell : PCell} {slot : Nat} (hl : s.longest cell slot = some (k, t)) (ht : s.thread? k = some t)
    (hg : t.gang = .none) (hh : t.ctx.head = none) :
    exec (.contextResume cell slot) s = .next (s.setThread k (t.resumed t.pcell slot (s.cycOf t))) := by
  have hhead : (t.resumed t.pcell slot (s.cycOf t)).ctx.head = none := by
    show (if t.forced then t.ctx else t.ctx.masked t.masks).head = none
    split
    · exact hh
    · exact hh
  have hres : resumeHead (s.setThread k (t.resumed t.pcell slot (s.cycOf t))) k = s.setThread k (t.resumed t.pcell slot (s.cycOf t)) := by
    simp only [resumeHead, State.thread?_setThread, hhead]
  rw [exec_contextResume, execContextResume]
  simp only [hl, Thread.crew_alone hg, State.resumeAll, List.foldl_cons, List.foldl_nil, ht, State.crewSlot, hres, ite_self]

/-- Registers outside the live mask read as zero (R21). -/
theorem Ctx.gpr_masked (c : Ctx) (mask : BitVec 40) (r : Reg) : (c.masked mask).gpr r = if mask.getLsbD r.toNat then c.gpr r else 0 := by
  show (Vector.ofFn fun i : Fin 16 => if mask.getLsbD (0 + i) then c.g.get i else 0).get r.toFin = _
  rw [Vector.get_ofFn, Nat.zero_add]
  rfl

/-! ### Steals (R78 to R81) -/

theorem exec_stealAttempt_sends {thief : LCell} {key flat y : Nat} {x : Seat} (hseat : s.seatOf thief = some (key, flat, x))
    (hmay : s.maySteal key flat x = true) (hv : x.launch.ready.victim flat (s.vcell thief).j = some y) :
    ∃ s' : State, exec (.stealAttempt thief) s = .next s' ∧ s'.steals = s.steals ++ [⟨s.nextKey, key, flat, y, none⟩] ∧
      s'.vcell thief = { s.vcell thief with j := (s.vcell thief).j + 1, stealing := true } := by
  rw [exec_stealAttempt, execStealAttempt]
  simp only [hseat, hmay, Bool.not_true, Bool.false_eq_true, ↓reduceIte, hv]
  exact ⟨_, rfl, rfl, State.vcell_setVcell ..⟩

/-- A victim's record that may go, taken out of its deque. -/
theorem State.stealFrom_deque {key thief victim i : Nat} {x : Seat} (hc : (s.cell x.place.cell).capped = false)
    (hb : (s.vcell x.cell).bhead = (s.vcell x.cell).btail)
    (hi : ((s.vcell x.cell).deque.findIdx? fun r => x.launch.ready.eligible r thief) = some i) :
    s.stealFrom key thief victim x = ((s.vcell x.cell).deque[i]?,
      (s.setVcell x.cell { s.vcell x.cell with deque := (s.vcell x.cell).deque.eraseIdx i }).closeIfEmpty key victim) := by
  simp only [State.stealFrom, hc, Bool.false_eq_true, ↓reduceIte, hb, hi]

theorem exec_stealRequest_answers {n i : Nat} {m : StealMsg} {x : Seat} (hm : (s.steals.find? fun m => m.id == n && m.answer.isNone) = some m)
    (hx : s.seatAt m.launch m.victim = some x) (hc : (s.cell x.place.cell).capped = false)
    (hb : (s.vcell x.cell).bhead = (s.vcell x.cell).btail)
    (hi : ((s.vcell x.cell).deque.findIdx? fun r => x.launch.ready.eligible r m.thief) = some i) :
    ∃ s' : State, exec (.stealRequest n) s = .next s' ∧ (s'.vcell x.cell).deque = (s.vcell x.cell).deque.eraseIdx i ∧
      s'.steals = s.steals.map fun y => if y.id = n then { y with answer := some (s.vcell x.cell).deque[i]? } else y := by
  obtain ⟨hsteals, hdeque⟩ := State.closeIfEmpty_keeps
    (s.setVcell x.cell { s.vcell x.cell with deque := (s.vcell x.cell).deque.eraseIdx i }) m.launch m.victim
  rw [exec_stealRequest, execStealRequest]
  simp only [hm, hx, State.stealFrom_deque hc hb hi]
  refine ⟨_, rfl, (hdeque x.cell).trans (by rw [State.vcell_setVcell]), ?_⟩
  rw [hsteals]
  rfl

/-- The first of a list that meets one condition, where it also meets another. -/
theorem find?_and_of_find? {α : Type} {p q : α → Bool} {l : List α} {a : α} (h : l.find? p = some a) (hq : q a = true) :
    (l.find? fun x => p x && q x) = some a := by
  obtain ⟨hp, as, bs, rfl, has⟩ := List.find?_eq_some_iff_append.mp h
  refine List.find?_eq_some_iff_append.mpr ⟨by rw [hp, hq]; rfl, as, bs, rfl, fun x hx => ?_⟩
  rw [Bool.not_and, has x hx, Bool.true_or]

/-- The answer of a steal leaves threads, cells and reservations, and with them the slots that are free. -/
theorem State.thiefSlot_setVcell (s : State) (l : List StealMsg) (m : StealMsg) (x : Seat) {v : VCell}
    (h : v.reserved = (s.vcell x.cell).reserved) : (State.setVcell { s with steals := l } x.cell v).thiefSlot m x = s.thiefSlot m x := by
  have hfree (n : Nat) : (State.setVcell { s with steals := l } x.cell v).vslotFree x m.launch m.thief n = s.vslotFree x m.launch m.thief n := by
    unfold State.vslotFree State.slotFree
    rw [State.vcell_setVcell, h]
    rfl
  unfold State.thiefSlot
  simp only [hfree]

/-- A thief whose record has come: no attempt is under way, and the waits of R80 begin anew. -/
def VCell.lucky (v : VCell) : VCell := { v with stealing := false, fails := 0, wait := 64, waitUntil := 0 }

section
variable {n : Nat} {m : StealMsg} {x : Seat} (hm : (s.steals.find? fun m => m.id == n && m.answer.isSome) = some m)
  (hx : s.seatAt m.launch m.thief = some x)
include hm hx

theorem exec_stealAnswer_none (ha : m.answer = some none) :
    exec (.stealAnswer n) s = .next (State.setVcell { s with steals := s.steals.filter fun y => y.id != n } x.cell
      ((s.vcell x.cell).noLuck (s.cyc x.cell.pkg x.cell.die))) := by
  have hfound := find?_and_of_find? hm (q := s.canTake) (by simp only [State.canTake, ha])
  have hx' : State.seatAt { s with steals := s.steals.filter fun y => y.id != n } m.launch m.thief = some x := hx
  rw [exec_stealAnswer, execStealAnswer]
  simp only [hfound, hx', ha]
  rfl

/-- A record that comes while a slot is free starts there. -/
theorem exec_stealAnswer_starts {r : BitVec 256} {slot : Nat} (ha : m.answer = some (some r)) (hs : s.thiefSlot m x = some slot) :
    exec (.stealAnswer n) s = .next ((State.setVcell { s with steals := s.steals.filter fun y => y.id != n } x.cell
      (s.vcell x.cell).lucky).startTask m.launch m.thief slot x r) := by
  have hfound := find?_and_of_find? hm (q := s.canTake) (by simp only [State.canTake, ha, hx, hs, Option.isSome_some, Bool.true_or])
  have hx' : State.seatAt { s with steals := s.steals.filter fun y => y.id != n } m.launch m.thief = some x := hx
  have hslot := State.thiefSlot_setVcell s (s.steals.filter fun y => y.id != n) m x (v := (s.vcell x.cell).lucky) rfl
  rw [exec_stealAnswer, execStealAnswer]
  simp only [hfound, hx', ha]
  split
  · next slot' h =>
    cases hs.symm.trans (hslot.symm.trans h)
    rfl
  · next h => cases hs.symm.trans (hslot.symm.trans h)

/-- A record that comes while no slot is free goes into the deque, where that has room (R76). -/
theorem exec_stealAnswer_keeps {r : BitVec 256} (ha : m.answer = some (some r)) (hs : s.thiefSlot m x = none)
    (hroom : (s.vcell x.cell).deque.length < x.dequeCap) :
    ∃ s' : State, exec (.stealAnswer n) s = .next s' ∧ s'.steals = s.steals.filter (fun y => y.id != n) ∧
      (s'.vcell x.cell).deque = (s.vcell x.cell).deque ++ [r] ∧ s'.threads = s.threads := by
  have hfound := find?_and_of_find? hm (q := s.canTake) (by simp only [State.canTake, ha, hx, decide_eq_true hroom, Bool.or_true])
  have hx' : State.seatAt { s with steals := s.steals.filter fun y => y.id != n } m.launch m.thief = some x := hx
  have hslot := State.thiefSlot_setVcell s (s.steals.filter fun y => y.id != n) m x (v := (s.vcell x.cell).lucky) rfl
  rw [exec_stealAnswer, execStealAnswer]
  simp only [hfound, hx', ha]
  split
  · next slot' h => cases hs.symm.trans (hslot.symm.trans h)
  · refine ⟨_, rfl, rfl, ?_, rfl⟩
    rw [State.vcell_setVcell, State.vcell_setVcell]
    rfl

omit hm in
/-- A record that finds neither a free slot nor room waits. -/
theorem exec_stealAnswer_waits {r : BitVec 256} (ha : m.answer = some (some r)) (hs : s.thiefSlot m x = none)
    (hfull : x.dequeCap ≤ (s.vcell x.cell).deque.length) (hone : s.steals = [m]) : exec (.stealAnswer n) s = .next s := by
  have hno : s.canTake m = false := by
    simp only [State.canTake, ha, hx, hs, decide_eq_false (Nat.not_lt.mpr hfull), Option.isSome_none, Bool.or_self]
  have hnone : (s.steals.find? fun m => m.id == n && m.answer.isSome && s.canTake m) = none := by
    rw [hone, List.find?_cons_of_neg, List.find?_nil]
    rw [hno, Bool.and_false]
    decide
  rw [exec_stealAnswer, execStealAnswer]
  simp only [hnone]

end

/-! ### Time slices and reservations (R86, R88) -/

theorem exec_timesliceExpiry_asks (ht : s.thread? k = some t) (ho : s.sliceOver t = true) :
    exec (.timesliceExpiry k) s = .next (s.setThread k { t with preempt := some (s.cycOf t) }) := by
  rw [exec_timesliceExpiry, execTimesliceExpiry, State.modThread_some ht, if_pos ho]

/-- A free slot is reserved for the one thread that waits for it. -/
theorem exec_gangSlotReservation_reserves {cell : LCell} {slot f : Nat} {x : Seat} (hone : s.threads = [(k, t)])
    (hslot : t.slot?.map Prod.snd = some slot) (hw : s.waitedSeats t = [(f, x)]) (hx : x.cell = cell)
    (hfree : t.slot? ≠ some (x.place.cell, slot)) (hc : (s.cell x.place.cell).capped = false) (hr : (s.vcell cell).reserved = []) :
    exec (.gangSlotReservation cell slot) s = .next (s.setVcell cell { s.vcell cell with reserved := [(slot, k)] }) := by
  subst hx
  have hfound : ([(f, x)].find? fun m => m.2.cell == x.cell) = some (f, x) := List.find?_cons_of_pos (beq_self_eq_true x.cell)
  have htaken : ([(k, t)].any fun y => y.2.slot? == some (x.place.cell, slot)) = false := by
    rw [List.any_cons, List.any_nil, Bool.or_false]
    exact beq_false_of_ne hfree
  have hres : s.reserveSlot k slot x = s.setVcell x.cell { s.vcell x.cell with reserved := [(slot, k)] } := by
    simp only [State.reserveSlot, hone, htaken, hc, hr, List.any_nil, Bool.or_self, Bool.false_eq_true, ↓reduceIte, List.nil_append]
  rw [exec_gangSlotReservation, execGangSlotReservation]
  simp only [hone, List.findSome?_cons, hslot, ↓reduceIte, hw, hfound, Option.map_some, hres]

/-! ### Flights (R91) -/

/-- A ready thread that is put down at its destination: what follows answers it at most with an error of a home. -/
theorem State.thread?_putDown {u : Thread} (hu : u.run = .ready) (s : State) (t : Thread) (f l from_ : Nat) (c : LCell) (v : State → VCell)
    (p : PCell) :
    let s1 := (s.setThread k u).noteAway t f
    ∃ e, (State.closeIfEmpty (acquireAt (s1.setVcell c (v s1)) p .part) l from_).thread? k = some { u with homeErr := e } := by
  refine State.thread?_closeIfEmpty ?_ hu l from_
  rw [(acquireAt_same ..).thread, State.thread?, State.setVcell_threads, (State.noteAway_world ..).1]
  exact State.thread?_setThread ..

/-- A thread that lands in a free slot goes on behind its fly. -/
theorem exec_flyArrival_lands {n m f : Nat} {c : PCell} {d : LCell} {y : Seat} (ht : s.thread? k = some t) (hp : t.place = .flying c n d f)
    (hy : s.seatAt t.launch f = some y) (hc : (s.cell y.place.cell).capped = false) (hfree : s.freeSlot y = some m) :
    ∃ (s' : State) (u : Thread), exec (.flyArrival k) s = .next s' ∧ s'.thread? k = some u ∧ u.place = .slot y.place.cell m ∧ u.flat = f ∧
      u.run = .ready ∧ u.ctx = t.ctx.landed (y.launch.ready.segOf y.place) := by
  rw [exec_flyArrival, execFlyArrival]
  simp only [ht, hp, hy, hc, Bool.false_eq_true, ↓reduceIte, hfree]
  generalize hu : ite (sameDie _ _ = true) _ _ = u
  obtain ⟨hrun, hplace, hflat, hctx⟩ : u.run = .ready ∧ u.place = .slot y.place.cell m ∧ u.flat = f ∧
      u.ctx = t.ctx.landed (y.launch.ready.segOf y.place) := by
    subst hu
    split
    · exact ⟨rfl, rfl, rfl, rfl⟩
    · exact ⟨rfl, rfl, rfl, rfl⟩
  obtain ⟨e, he⟩ := State.thread?_putDown hrun s t f t.launch t.flat y.cell (fun s => (s.vcell y.cell).opened t.launch) y.place.cell
  exact ⟨_, _, rfl, he, hplace, hflat, hrun, hctx⟩

/-! ### Wakes and sleeps (R144, R165, R450) -/

section
variable {n : Nat} {w : Wake} (hw : (s.wakes.find? fun w => w.id == n) = some w)
  (hfound : (s.threads.find? fun x => x.2.tid == w.tid && x.2.launch == w.launch && !x.2.nurse) = some (k, t))
include hw hfound

/-- A wake that finds its thread: what it does by what the thread waits for and where it is. -/
theorem exec_wakeDelivery_found (ht : s.thread? k = some t) : ∃ s' : State, exec (.wakeDelivery n) s = .next s' ∧
    s'.wakes = s.wakes.filter (fun x => x.id != n) ∧ s'.mem = s.mem ∧
    (∀ m, t.run = .parked .wfw m → s'.thread? k = some (t.commitAt (t.ctx.pc + 4))) ∧
    (∀ c m, t.run = .suspended → t.place = .cache c false m → s'.thread? k = some { t with place := .cache c true s.stamp, run := .ready }) ∧
    (∀ c m, t.run = .ready → t.place = .slot c m →
      s'.thread? k = some (withCtx t fun c => { c with tstat := putFld c.tstat 25 1 1 })) ∧
    (∀ c m, t.run = .ready → t.place = .cache c false m → t.gang = .none → (s.cell c).capped = false →
      s'.thread? k = some { t with place := .cache c true s.stamp }) := by
  let s1 : State := { s with wakes := s.wakes.filter fun x => x.id != n }
  have hcommit : s1.commit k (nextPc .wfw t.ctx) = done s1 k t (t.ctx.pc + 4) := State.commit_eq (s := s1) ht _
  rw [exec_wakeDelivery, execWakeDelivery]
  simp only [hw, hfound]
  refine ⟨_, rfl, ?_, ?_, fun m hr => ?_, fun c m hr hp => ?_, fun c m hr hp => ?_, fun c m hr hp hg hc => ?_⟩
  · split
    · exact (congrArg State.wakes hcommit).trans rfl
    · rfl
    · split
      · rfl
      · rfl
    · rfl
  · split
    · exact (congrArg State.mem hcommit).trans rfl
    · rfl
    · split
      · rfl
      · rfl
    · rfl
  · simp only [hr]
    exact (congrArg (State.thread? · k) hcommit).trans (State.thread?_committed ..)
  · simp only [hr, hp]
    exact State.thread?_setThread ..
  · simp only [hr, hp]
    exact State.thread?_setThread ..
  · have hc1 : (s1.cell c).capped = false := hc
    simp only [hr, hp, hg, true_and]
    rw [if_pos (by rw [show State.cell _ c = s1.cell c from rfl, hc1]; rfl)]
    exact State.thread?_setThread ..

end

theorem exec_sleepExpiry_commits {n : Nat} (ht : s.thread? k = some t) (hr : t.run = .sleeping n) (hn : n ≤ s.cycOf t) :
    exec (.sleepExpiry k) s = .next (done s k t (t.ctx.pc + 4)) := by
  rw [exec_sleepExpiry, execSleepExpiry]
  simp only [ht, hr, if_pos hn]
  rw [State.commit_eq ht]
  rfl

/-- Settles O6: starts, resumptions, steals, slices, reservations, flights, wakes and sleeps, each by the lemma about its event. -/
theorem threadEvents : Obligations.ThreadEvents := by
  unfold Obligations.ThreadEvents
  refine ⟨fun s => ⟨?_, ?_, ?_, ?_, ?_, ?_, ?_⟩, fun s => ⟨?_, ?_, ?_⟩⟩
  · intro cell slot key flat x ds r hseat hx hfree hd
    obtain ⟨-, hdeque, u, hu, hstart⟩ := State.startTask_starts (s.setVcell cell { s.vcell cell with deque := ds }) key flat slot x r
    refine ⟨_, u, exec_taskStart_starts hseat hx hfree hd, ?_, hu, hstart⟩
    subst hx
    rw [hdeque, State.vcell_setVcell]
  · intro cell slot k t hl ht _ hg _ hh
    refine ⟨_, exec_contextResume_alone hl ht hg hh, rfl, rfl, ?_, fun hf => ?_, fun hf r => ?_⟩
    · show (if t.forced then t.ctx else t.ctx.masked t.masks).pc = _
      split
      · rfl
      · rfl
    · exact if_pos hf
    · rw [show (t.resumed t.pcell slot (s.cycOf t)).ctx = if t.forced then t.ctx else t.ctx.masked t.masks from rfl, hf]
      exact Ctx.gpr_masked ..
  · exact fun thief key flat x hseat hmay y hv => exec_stealAttempt_sends hseat hmay hv
  · exact fun n i m x hm hx hc hb hi => exec_stealRequest_answers hm hx hc hb hi
  · intro n m x hm hx
    refine ⟨exec_stealAnswer_none hm hx, fun r slot ha hs => ?_, fun r ha hno => ?_⟩
    · obtain ⟨hsteals, -, u, hu, hstart, -⟩ := State.startTask_starts
        (State.setVcell { s with steals := s.steals.filter fun y => y.id != n } x.cell (s.vcell x.cell).lucky) m.launch m.thief slot x r
      exact ⟨_, u, exec_stealAnswer_starts hm hx ha hs, hsteals, hu, hstart⟩
    · have hs : s.thiefSlot m x = none :=
        List.find?_eq_none.mpr fun j hj => Bool.eq_false_iff.mp (hno j (List.mem_range.mp hj))
      exact ⟨exec_stealAnswer_keeps hm hx ha hs, exec_stealAnswer_waits hx ha hs⟩
  · exact fun k t ht ho => exec_timesliceExpiry_asks ht ho
  · exact fun cell slot k f t x hone hslot hw hx hfree hc hr => exec_gangSlotReservation_reserves hone hslot hw hx hfree hc hr
  · intro k n m f c d t y ht hp hy hc hfree
    obtain ⟨s', u, hexec, hu, hplace, hflat, hrun, hctx⟩ := exec_flyArrival_lands ht hp hy hc hfree
    refine ⟨s', u, hexec, hu, hplace, hflat, hrun, ?_, fun r => ?_, fun v => ?_⟩
    · rw [hctx]
      rfl
    · rw [hctx]
      rfl
    · rw [hctx]
      exact Vector.getElem_replicate ..
  · exact fun n k w t hw ht hfound => exec_wakeDelivery_found hw hfound ht
  · exact fun k n t ht hr hn => exec_sleepExpiry_commits ht hr hn

end Sys2Proof.Machine
end

section
/-! SUPPORT. Fault windows and corrected errors (R470, R475), retired pseudo-channels (R192), and the change of a logical cluster's maps (R72,
R440, R473). -/
namespace Sys2Proof.Machine
open Sys2Proof Sys2Proof.Claims

variable {s : State}

/-! ### Tables -/

/-- A lookup in a table whose values change by their key, where the default does not. -/
theorem lookD_map_fixed {α β : Type} [DecidableEq α] {f : α → β → β} {d : β} {k : α} (hd : f k d = d) (l : List (α × β)) :
    lookD d k (l.map fun x => (x.1, f x.1 x.2)) = f k (lookD d k l) := by
  induction l with
  | nil => exact hd.symm
  | cons x l ih =>
    by_cases h : x.1 = k
    · simp only [List.map_cons, lookD, h, ↓reduceIte]
    · simp only [List.map_cons, lookD, h, ↓reduceIte, ih]

/-- A lookup in a table from which keys have gone. -/
theorem lookD_filter {α β : Type} [DecidableEq α] (d : β) (k : α) (p : α → Bool) (l : List (α × β)) :
    lookD d k (l.filter fun x => p x.1) = if p k then lookD d k l else d := by
  induction l with
  | nil => exact (ite_self _).symm
  | cons x l ih =>
    rw [List.filter_cons]
    by_cases hk : x.1 = k
    · subst hk
      cases hp : p x.1 with
      | true => simp only [↓reduceIte, lookD]
      | false => simpa only [hp, Bool.false_eq_true, ↓reduceIte] using ih
    · split
      · simpa only [lookD, hk, ↓reduceIte] using ih
      · simpa only [lookD, hk, ↓reduceIte] using ih

/-! ### Fault windows (R470, R475) -/

section
variable {pkg die : Nat}

theorem State.inWindow_same (h : s.cyc pkg die / 2 ^ 30 ≤ (s.die pkg die).window) : s.inWindow pkg die = s := if_pos h

/-- A new window: the window of its die, the counts of its units, and the records of its stacks. -/
theorem State.inWindow_new (h : (s.die pkg die).window < s.cyc pkg die / 2 ^ 30) :
    (s.inWindow pkg die).mem = s.mem ∧ ((s.inWindow pkg die).die pkg die).window = s.cyc pkg die / 2 ^ 30 ∧
    (∀ u : Monitored, lookD 0 u (s.inWindow pkg die).counts =
      if (unitPlace u).1 = pkg ∧ (unitPlace u).2.1 = die then 0 else lookD 0 u s.counts) ∧
    ∀ n, ((s.inWindow pkg die).pkg pkg).stack n = if n / 2 = die then ((s.pkg pkg).stack n).cleared else (s.pkg pkg).stack n := by
  rw [State.inWindow, if_neg (show ¬ s.windowOf pkg die ≤ (s.die pkg die).window from Nat.not_le.mpr h)]
  refine ⟨rfl, ?_, fun u => ?_, fun n => ?_⟩
  · show (((s.setDie pkg die { s.die pkg die with window := s.windowOf pkg die }).die pkg die).window) = _
    rw [State.die_setDie]
    rfl
  · refine (lookD_filter 0 u (fun u => !((unitPlace u).1 == pkg && (unitPlace u).2.1 == die)) s.counts).trans ?_
    by_cases hu : (unitPlace u).1 = pkg ∧ (unitPlace u).2.1 = die
    · rw [if_pos hu, hu.1, hu.2, beq_self_eq_true, beq_self_eq_true]
      rfl
    · rw [if_neg hu, if_pos]
      rw [Bool.not_eq_true', Bool.and_eq_false_iff, beq_eq_false_iff_ne, beq_eq_false_iff_ne]
      exact not_and_or.mp hu
  · rw [State.pkg_setPkg]
    refine (congrArg (lookD ({} : Stack) n) (List.map_congr_left fun x _ => ?_)).trans
      (lookD_map_fixed (f := fun (m : Nat) (y : Stack) => if m / 2 = die then y.cleared else y) (d := {}) (k := n) (by split <;> rfl) _)
    split
    · rfl
    · rfl

/-- The filter of a stack whose die enters a new window is empty. -/
theorem State.inWindow_filter {stack : Nat} (h : (s.die pkg (stack / 2)).window < s.cyc pkg (stack / 2) / 2 ^ 30) :
    (((s.inWindow pkg (stack / 2)).pkg pkg).stack stack).filter = [] := by
  obtain ⟨-, -, -, hstack⟩ := State.inWindow_new h
  rw [hstack, if_pos rfl]
  rfl

end

/-! ### The event log -/

theorem State.Rewayed.store (s : State) (key : Nat) (bs : List Byte) : s.Rewayed (s.store key bs) := by
  refine ⟨(s.store key bs).mem, fun _ ls => ls, ?_⟩
  show s.store key bs = { s.store key bs with cells := s.cells.map id }
  rw [List.map_id]
  rfl

theorem State.Rewayed.updateLines (s : State) (c : PCell) (key : Nat) (bs : List Byte) : s.Rewayed (s.updateLines c key bs) := ⟨s.mem, _, rfl⟩

theorem State.Rewayed.storeFrom (s : State) (c : PCell) (key : Nat) (bs : List Byte) : s.Rewayed (s.storeFrom c key bs) :=
  ((State.Rewayed.cleanWhere s _).trans (.store _ key bs)).trans (.updateLines ..)

/-- Stores at homes and beside cache ways change memory and cache ways at most. -/
theorem State.Rewayed.storeParts {put : State → Loc → List Byte → Except Nat State} {w : Who}
    (hp : ∀ {s loc bs s'}, put s loc bs = .ok s' → s.Rewayed s') (ps : List (Word × Nat)) {s : State} {va : Word} {bs : List Byte} :
    Yields (fun e => s.Rewayed e.2) (fun s' => s.Rewayed s') (storeParts put w s va bs ps) := by
  suffices h : ∀ {s1 : State} {va : Word} {bs : List Byte}, s.Rewayed s1 →
      Yields (fun e => s.Rewayed e.2) (fun s' => s.Rewayed s') (Machine.storeParts put w s1 va bs ps) from h (.refl s)
  induction ps with
  | nil => exact fun h => h
  | cons p ps ih =>
    intro s1 va bs h
    rw [Machine.storeParts]
    split
    · exact h
    · split
      · exact h
      · exact ih (h.trans (hp ‹_›))

theorem State.Rewayed.engineStore {w : Who} {va : Word} {bs : List Byte} :
    Yields (fun e => s.Rewayed e.2) (fun s' => s.Rewayed s') (engineStore s w va bs) := by
  refine State.Rewayed.storeParts (fun {s loc bs s'} h => ?_) _
  unfold writeHome at h
  split at h
  · cases h
  · cases h
    exact .store ..

theorem State.Rewayed.cellStore {w : Who} {va : Word} {bs : List Byte} :
    Yields (fun e => s.Rewayed e.2) (fun s' => s.Rewayed s') (cellStore s w va bs) := by
  refine State.Rewayed.storeParts (fun {s loc bs s'} h => ?_) _
  unfold writeAt at h
  split at h
  · cases h
  · cases h
    exact .storeFrom ..

/-- An entry of the event log: dies, clusters and stacks stay. -/
theorem State.logEvent_keeps (s : State) (p d n : Nat) (detail : Word) (loc c : Nat) :
    (s.logEvent p d n detail loc c).dies = s.dies ∧ (s.logEvent p d n detail loc c).clusters = s.clusters ∧
    ∀ j, ((s.logEvent p d n detail loc c).pkg j).hbms = (s.pkg j).hbms := by
  have hset {s' : State} {x : Package} (hr : s.Rewayed s') (hx : x.hbms = (s.pkg p).hbms) :
      (s'.setPkg p x).dies = s.dies ∧ (s'.setPkg p x).clusters = s.clusters ∧ ∀ j, ((s'.setPkg p x).pkg j).hbms = (s.pkg j).hbms := by
    obtain ⟨m, f, rfl⟩ := hr
    refine ⟨rfl, rfl, fun j => ?_⟩
    by_cases hj : j = p
    · rw [hj, State.pkg_setPkg, hx]
    · rw [State.pkg, State.setPkg_pkgs, lookD_putAt_other _ hj]
      rfl
  unfold State.logEvent
  dsimp only
  split
  · exact ⟨rfl, rfl, fun _ => rfl⟩
  · split
    · exact hset (.refl s) rfl
    · split
      · exact hset (State.Rewayed.engineStore.of_ok ‹_›) rfl
      · next e => exact hset (State.Rewayed.engineStore.of_error e) rfl

/-! ### Corrected errors (R475) -/

/-- The hashes put into a filter. -/
theorem mem_foldl_insert {hs l : List Nat} {h : Nat} :
    h ∈ hs.foldl (fun l h => if l.contains h then l else l ++ [h]) l ↔ h ∈ l ∨ h ∈ hs := by
  induction hs generalizing l with
  | nil => simp
  | cons x hs ih =>
    rw [List.foldl_cons, ih]
    by_cases hx : x ∈ l
    · rw [if_pos (List.contains_iff_mem.mpr hx), List.mem_cons]
      exact ⟨Or.imp_right .inr, fun h => h.elim .inl fun h => h.elim (fun e => .inl (e ▸ hx)) .inr⟩
    · rw [if_neg fun h => hx (List.contains_iff_mem.mp h), List.mem_append, List.mem_singleton, List.mem_cons, or_assoc]

section
variable {pkg stack : Nat} {ra : BitVec 32}

/-- A row whose bits are not all in the filter sets them. -/
theorem exec_correctedError_first {h : Nat} (hh : h ∈ rowHashes ra)
    (hn : h ∉ (((s.inWindow pkg (stack / 2)).pkg pkg).stack stack).filter) :
    ∃ s' : State, exec (.correctedError pkg stack ra) s = .next s' ∧
      ∀ g, g ∈ ((s'.pkg pkg).stack stack).filter ↔
        g ∈ (((s.inWindow pkg (stack / 2)).pkg pkg).stack stack).filter ∨ g ∈ rowHashes ra := by
  have hall : ((rowHashes ra).all fun h => (((s.inWindow pkg (stack / 2)).pkg pkg).stack stack).filter.contains h) = false :=
    List.all_eq_false.mpr ⟨h, hh, fun hc => hn (List.contains_iff_mem.mp hc)⟩
  rw [exec_correctedError, execCorrectedError]
  simp only [hall, Bool.false_eq_true, ↓reduceIte]
  refine ⟨_, rfl, fun g => ?_⟩
  rw [Package.stack, (State.logEvent_keeps ..).2.2, State.modPkg, State.pkg_setPkg, lookD_putAt_same]
  exact mem_foldl_insert

/-- A repeated row counts in its bank. -/
theorem exec_correctedError_repeated (hall : ∀ h ∈ rowHashes ra, h ∈ (((s.inWindow pkg (stack / 2)).pkg pkg).stack stack).filter) :
    ∃ s' : State, exec (.correctedError pkg stack ra) s = .next s' ∧
      lookD 0 (ra.toNat / 2 ^ 19) ((s'.pkg pkg).stack stack).repeats =
        lookD 0 (ra.toNat / 2 ^ 19) (((s.inWindow pkg (stack / 2)).pkg pkg).stack stack).repeats + 1 := by
  have hall : ((rowHashes ra).all fun h => (((s.inWindow pkg (stack / 2)).pkg pkg).stack stack).filter.contains h) = true :=
    List.all_eq_true.mpr fun h hh => List.contains_iff_mem.mpr (hall h hh)
  have hbank : fld ra 19 13 = ra.toNat / 2 ^ 19 := by
    have hlt := ra.isLt
    rw [fld_eq]
    omega
  rw [exec_correctedError, execCorrectedError]
  simp only [hall, ↓reduceIte, hbank]
  refine ⟨_, rfl, ?_⟩
  split
  · rw [Package.stack, (State.logEvent_keeps ..).2.2, State.modPkg, State.pkg_setPkg, lookD_putAt_same, lookD_putAt_same]
  · rw [Package.stack, State.modPkg, State.pkg_setPkg, lookD_putAt_same, lookD_putAt_same]

/-! ### Retired pseudo-channels (R192) -/

theorem Package.mem_retired_retire (p : Package) (stack chan : Nat) : chan ∈ ((p.retire stack chan).stack stack).retired := by
  unfold Package.retire
  dsimp only
  split
  · next h => exact List.contains_iff_mem.mp h
  · rw [Package.stack, lookD_putAt_same]
    exact List.mem_append_right _ (List.mem_singleton_self chan)

theorem exec_pseudoChannelRetirement_retires {chan : Nat} (hc : chan < 192) (hq : s.pagesQuiet pkg = true) :
    ∃ s' : State, exec (.pseudoChannelRetirement pkg stack chan) s = .next s' ∧ chan ∈ ((s'.pkg pkg).stack stack).retired := by
  rw [exec_pseudoChannelRetirement, execPseudoChannelRetirement]
  cases hr : ((s.pkg pkg).stack stack).retired.contains chan with
  | true => exact ⟨s, by simp only [Bool.or_true, Bool.true_or, ↓reduceIte], List.contains_iff_mem.mp hr⟩
  | false =>
    simp only [decide_eq_false (Nat.not_le.mpr hc), hq, Bool.not_true, Bool.or_self, Bool.false_eq_true, ↓reduceIte]
    refine ⟨_, rfl, ?_⟩
    rw [Package.stack, (State.logEvent_keeps ..).2.2, State.modPkg, State.pkg_setPkg]
    exact Package.mem_retired_retire ..

theorem exec_pseudoChannelRetirement_busy {chan : Nat} (hq : s.pagesQuiet pkg = false) :
    exec (.pseudoChannelRetirement pkg stack chan) s = .next s := by
  rw [exec_pseudoChannelRetirement, execPseudoChannelRetirement]
  simp only [hq, Bool.not_false, Bool.or_true, ↓reduceIte]

end

/-! ### The maps of a logical cluster (R70, R72, R473) -/

/-- s has the cluster maps and the cell maps of a. -/
structure State.Mapped (a s : State) : Prop where
  dies : s.dies = a.dies
  clusters : s.clusters = a.clusters

namespace State.Mapped
variable {a : State}

theorem refl (s : State) : s.Mapped s := ⟨rfl, rfl⟩

theorem of_eq {t : State} (h : a.Mapped s) (hd : t.dies = s.dies := by rfl) (hc : t.clusters = s.clusters := by rfl) : a.Mapped t :=
  ⟨hd.trans h.dies, hc.trans h.clusters⟩

theorem of_rewayed {t : State} (h : a.Mapped s) (hr : s.Rewayed t) : a.Mapped t := by
  obtain ⟨m, f, rfl⟩ := hr
  exact h.of_eq

theorem foldl {α : Type} {f : State → α → State} (hf : ∀ {s x}, a.Mapped s → a.Mapped (f s x)) (l : List α) (h : a.Mapped s) :
    a.Mapped (l.foldl f s) := by
  induction l generalizing s with
  | nil => exact h
  | cons x l ih => exact ih (hf h)

theorem modThread {k : Nat} {f : Thread → Thread} (h : a.Mapped s) : a.Mapped (s.modThread k f) := by
  unfold State.modThread
  split
  · exact h.of_eq
  · exact h

theorem logEvent {p d n loc c : Nat} {detail : Word} (h : a.Mapped s) : a.Mapped (s.logEvent p d n detail loc c) := by
  obtain ⟨hd, hc, -⟩ := State.logEvent_keeps s p d n detail loc c
  exact h.of_eq hd hc

theorem spillOver {c : PCell} (h : a.Mapped s) : a.Mapped (s.spillOver c) := by
  unfold State.spillOver
  dsimp only
  split
  · exact h
  · exact h.of_eq

theorem spillAll {c : PCell} (h : a.Mapped s) : a.Mapped (s.spillAll c) := foldl spillOver _ h

theorem spill {flat k : Nat} {x : Seat} (h : a.Mapped s) : a.Mapped (s.spill flat x k) := by
  refine (foldl (fun {s r} h => ?_) _ h).of_eq
  split
  · exact h.of_rewayed (State.Rewayed.cellStore.of_ok ‹_›)
  · exact h.of_rewayed (State.Rewayed.cellStore.of_error ‹_›)

theorem fitDeque {x : Lcl} {j : Nat} (h : a.Mapped s) : a.Mapped (s.fitDeque x j) := by
  unfold State.fitDeque
  split
  · exact h
  · dsimp only
    split
    · exact h
    · exact h.spill

theorem readvertise {x : Lcl} (h : a.Mapped s) : a.Mapped (s.readvertise x) := foldl (fun h => h.of_eq) _ h

theorem unsealed {x : Lcl} {js : List Nat} (h : a.Mapped s) : a.Mapped (s.unseal x js) := by
  refine foldl (fun {s y} h => ?_) _ h
  split
  · exact modThread (modThread h)
  · exact h

theorem restarted {x : Lcl} {k : ClusterId} {n : Nat} {js : List Nat} {new : List (BitVec 16)} (h : a.Mapped s) :
    a.Mapped (s.restarted x k n js new) := unsealed (foldl (fun h => (logEvent h).of_eq) _ h)

/-- Once the maps are written, a remap leaves them. -/
theorem remap (s : State) (x : Lcl) (old new : ClusterId) (map : List (BitVec 16)) :
    ∃ s1 : State, (s1.writeMaps x new map).Mapped (s.remap x old new map) :=
  ⟨_, foldl spillAll _ (readvertise (foldl fitDeque _ (of_eq (refl _))))⟩

end State.Mapped

section
variable {x : Lcl} {old new : ClusterId} {map : List (BitVec 16)}

/-- The maps that are in force after a remap (R70, R72). -/
def State.InForce (s : State) (x : Lcl) (new : ClusterId) (map : List (BitVec 16)) : Prop :=
  (x.lcl < 8 → (s.die x.pkg x.die).clusterMap.toList.getD x.lcl 0 = BitVec.ofNat 8 (0x80 + new.cl)) ∧
  ∀ j < 32, (s.cluster new).cellMap.toList.getD j 0 = map.getD j 0 &&& 0xF81F

theorem State.inForce_writeMaps (s : State) (x : Lcl) (new : ClusterId) (map : List (BitVec 16)) : (s.writeMaps x new map).InForce x new map := by
  refine ⟨fun hl => ?_, fun j hj => ?_⟩
  · show ((s.setDie x.pkg x.die _).die x.pkg x.die).clusterMap.toList.getD x.lcl 0 = _
    rw [State.die_setDie, toList_setIdx_getD _ hl hl, if_pos rfl]
  · show ((State.setCluster _ new _).cluster new).cellMap.toList.getD j 0 = _
    rw [State.cluster_setCluster, List.getD_eq_getElem?_getD, Vector.getElem?_toList, Vector.getElem?_ofFn, dif_pos hj, Option.getD_some]

theorem State.InForce.of_mapped {a : State} (h : a.InForce x new map) (hm : a.Mapped s) : s.InForce x new map := by
  rw [State.InForce, State.die, State.cluster, hm.dies, hm.clusters]
  exact h

theorem State.inForce_remap (s : State) (x : Lcl) (old new : ClusterId) (map : List (BitVec 16)) : (s.remap x old new map).InForce x new map := by
  obtain ⟨s1, h⟩ := State.Mapped.remap s x old new map
  exact (State.inForce_writeMaps s1 x new map).of_mapped h

/-- New maps for a quiet cluster are in force once its capped cells have been restarted by them. -/
theorem State.inForce_remapAll (s : State) (x : Lcl) (old new : ClusterId) (map : List (BitVec 16)) : (s.remapAll x old new map).InForce x new map :=
  (State.inForce_remap s x old new map).of_mapped (State.Mapped.foldl .restarted _ (.refl _))

/-! ### Quiesces and restarts (R72, R440, R473) -/

section
variable {pkg die lcl target : Nat} (hp : s.physCluster pkg die lcl = some old) (hg : s.goalOf ⟨pkg, die, lcl⟩ = none)
  (hc : s.canHost ⟨pkg, die, lcl⟩ ⟨pkg, die, target⟩ = true) (hm : s.mapOk ⟨pkg, die, lcl⟩ ⟨pkg, die, target⟩ map = true)
include hp hg hc hm

theorem exec_clusterQuiesce_remaps (hq : s.quiet ⟨pkg, die, lcl⟩ old = true) :
    exec (.clusterQuiesce pkg die lcl target map) s = .next (s.remapAll ⟨pkg, die, lcl⟩ old ⟨pkg, die, target⟩ map) := by
  have hr : s.reachable ⟨pkg, die, lcl⟩ old (.maps target map) = true := Bool.and_eq_true_iff.mpr ⟨hc, hm⟩
  rw [exec_clusterQuiesce, execClusterQuiesce]
  simp only [hg, Option.getD_none, State.carryOn, hp, hr, ↓reduceIte, Bool.not_true, Bool.false_eq_true, hq, State.reach]

/-- A logical cluster that is not quiet: the quiesce becomes pending. -/
theorem exec_clusterQuiesce_pends (hq : s.quiet ⟨pkg, die, lcl⟩ old = false) :
    exec (.clusterQuiesce pkg die lcl target map) s = .next { s with quiesces := s.quiesces ++ [⟨pkg, die, lcl, .maps target map⟩] } := by
  have hr : s.reachable ⟨pkg, die, lcl⟩ old (.maps target map) = true := Bool.and_eq_true_iff.mpr ⟨hc, hm⟩
  rw [exec_clusterQuiesce, execClusterQuiesce]
  simp only [hg, Option.getD_none, State.carryOn, hp, hr, ↓reduceIte, Bool.not_true, Bool.false_eq_true, hq, Bool.not_false, State.quiesce,
    Option.isSome_none]

end

theorem State.physCluster_of_lclOf (h : s.lclOf old = some x) : s.physCluster x.pkg x.die x.lcl = some old := by
  unfold State.lclOf at h
  obtain ⟨l, hl, rfl⟩ := Option.map_eq_some_iff.mp h
  exact eq_of_beq (List.find?_some (p := fun l => s.physCluster old.pkg old.die l == some old) hl)

/-- The restart of the one capped cell of a quiet cluster, where it has a target. -/
theorem exec_cellRestart_remaps {cell : PCell} (hx : s.lclOf (clusterOf cell) = some x)
    (hcap : s.cappedOn (clusterOf cell) (s.cluster (clusterOf cell)).cellMap.toList = [cell.cell]) (hg : s.goalOf x = none)
    (hq : s.quiet x (clusterOf cell) = true)
    (hnew : s.retarget x (clusterOf cell) (s.cluster (clusterOf cell)).cellMap.toList cell.cell = some map) :
    exec (.cellRestart cell) s = .next (((s.remap x (clusterOf cell) (clusterOf cell) map).restarted x (clusterOf cell) cell.cell
      (cellsOn (s.cluster (clusterOf cell)).cellMap.toList cell.cell) map).endQuiesce x) := by
  have hhere : [cell.cell].contains cell.cell = true := List.contains_iff_mem.mpr (List.mem_singleton_self _)
  have hr : s.reachable x (clusterOf cell) .restart = true := by
    rw [State.reachable, hcap]
    rfl
  rw [exec_cellRestart, execCellRestart]
  simp only [hx, hcap, hhere, ↓reduceIte, hg, Option.getD_none, State.carryOn, State.physCluster_of_lclOf hx, hr, Bool.not_true, Bool.false_eq_true,
    hq, State.reach, State.restartAll, List.foldl_cons, List.foldl_nil, State.restartCell, hnew]

end

/-- Settles O5: windows, corrected errors and retirements by the lemmas about their events, and maps in force after a remap. -/
theorem errorHandling : Obligations.ErrorHandling := by
  unfold Obligations.ErrorHandling
  refine ⟨fun s pkg => ⟨?_, ?_, ?_, ?_, ?_, ?_, ?_⟩, fun s => ⟨?_, ?_⟩⟩
  · intro die h
    obtain ⟨hmem, hwin, hcounts, -⟩ := State.inWindow_new h
    exact ⟨_, exec_faultWindowBoundary s pkg die, hmem, hwin, hcounts⟩
  · intro die h
    rw [exec_faultWindowBoundary, execFaultWindowBoundary, State.inWindow_same h]
  · intro stack ra h
    have hempty := State.inWindow_filter h
    obtain ⟨s', hexec, hf⟩ := exec_correctedError_first (s := s) (pkg := pkg) (stack := stack) (ra := ra) (h := rowHash ra 0x9E3779B1)
      (List.mem_cons_self ..) (by rw [hempty]; exact List.not_mem_nil)
    refine ⟨s', hexec, fun g => ?_⟩
    rw [hf, hempty, List.mem_nil_iff, false_or]
  · intro stack ra h hw hh hn
    have hsame := State.inWindow_same hw
    obtain ⟨s', hexec, hf⟩ := exec_correctedError_first (pkg := pkg) (stack := stack) hh (by rw [hsame]; exact hn)
    rw [hsame] at hf
    exact ⟨s', hexec, fun g hg => (hf g).mpr (.inr hg), fun g hg => (hf g).mpr (.inl hg)⟩
  · intro stack ra hw hall
    have hsame := State.inWindow_same hw
    obtain ⟨s', hexec, hf⟩ := exec_correctedError_repeated (pkg := pkg) (stack := stack) (ra := ra) (by rw [hsame]; exact hall)
    rw [hsame] at hf
    exact ⟨s', hexec, hf⟩
  · exact fun stack chan hc hq => exec_pseudoChannelRetirement_retires hc hq
  · exact fun stack chan hq => exec_pseudoChannelRetirement_busy hq
  · intro pkg die lcl target map old hl hp hg hc hm
    refine ⟨fun hq => ?_, exec_clusterQuiesce_pends hp hg hc hm⟩
    obtain ⟨hcluster, hcells⟩ := State.inForce_remapAll s ⟨pkg, die, lcl⟩ old ⟨pkg, die, target⟩ map
    exact ⟨_, exec_clusterQuiesce_remaps hp hg hc hm hq, hcluster hl, hcells⟩
  · intro cell x new map hx hcap hg hq hnew
    obtain ⟨-, hcells⟩ := (State.inForce_remap s x (clusterOf cell) (clusterOf cell) new).of_mapped
      (State.Mapped.of_eq (State.Mapped.restarted (.refl _)))
    exact ⟨_, exec_cellRestart_remaps hx hcap hg hq hnew, hcells⟩

end Sys2Proof.Machine
end

section
/-! SUPPORT. Instructions whose own part puts the record of their thread once, or faults; results of shifts and comparisons as numbers; the
immediate instructions (R158). -/
namespace Sys2Proof.Machine
open Sys2Proof Sys2Proof.Claims

variable {s s' : State} {k : Nat} {t u : Thread} {i : Instr}

/-! ### What an instruction's own part leaves, committed -/

theorem done_eq (s : State) (k : Nat) (t : Thread) (p : Word) : done s k t p = (s.setThread k t).commit k p := (State.commit_setThread ..).symm

/-- The part of an instruction that leaves its thread as it was. -/
theorem settle_kept (ht : s.thread? k = some u) (i : Instr) (t : Thread) : settle i k t (.next s) = done s k u (nextPc i t.ctx) := by
  rw [settle_next, State.commit_eq ht]
  rfl

/-- The part of an instruction that puts its thread's record. -/
theorem settle_put (s : State) (k : Nat) (t u : Thread) (i : Instr) : settle i k t (.next (s.setThread k u)) = done s k u (nextPc i t.ctx) := by
  rw [settle_next, done_eq]

theorem settle_jump (s : State) (k : Nat) (t u : Thread) (i : Instr) (p : Word) : settle i k t (.jump (s.setThread k u) p) = done s k u p := by
  rw [done_eq]
  rfl

theorem settle_trap (s : State) (k : Nat) (t : Thread) (i : Instr) (f : Flt) :
    Host.Outcome.next (settle i k t (.trap s f)) = trapsWith s k t i f := rfl

/-- The part of an instruction that parks its ready thread. -/
theorem settle_parked (ht : s.thread? k = some t) (hr : t.run = .ready) (i : Instr) (why : Why) :
    Host.Outcome.next (settle i k t (.park s why)) = parkedFor s k i t why := by
  rw [settle_park, State.parkOn_ready ht hr]
  rfl

/-- i is an instruction of len bytes that writes v to register d and does nothing else. -/
def Writes (s : State) (k : Nat) (t : Thread) (i : Instr) (d : Reg) (v : Word) (len : Nat) : Prop :=
  ∃ b : Body, exec i s = issue i s b ∧ b s k t = .next (s.setReg k d v) ∧ instrLen i = len

theorem Writes.exec_eq {d : Reg} {v : Word} {len : Nat} (h : Selected s k t) (hw : Writes s k t i d v len) :
    exec i s = .next (done s k (withReg t d v) (t.ctx.pc + BitVec.ofNat 64 len)) := by
  obtain ⟨b, hb, hv, rfl⟩ := hw
  rw [hb, issue_selected h, hv, State.setReg_eq h.2.1, settle_put]
  rfl

/-! ### Results as numbers -/

theorem shiftLeft_eq_mul (a : Word) (n : Nat) : a <<< n = BitVec.ofNat 64 (a.toNat * 2 ^ n) := by
  rw [← Nat.shiftLeft_eq]
  rfl

theorem ushiftRight_eq_div (a : Word) (n : Nat) : a >>> n = BitVec.ofNat 64 (a.toNat / 2 ^ n) := by
  refine BitVec.eq_of_toNat_eq ?_
  rw [BitVec.toNat_ushiftRight, Nat.shiftRight_eq_div_pow, BitVec.toNat_ofNat,
    Nat.mod_eq_of_lt ((Nat.div_le_self ..).trans_lt a.isLt)]

theorem sshiftRight_eq_div (a : Word) (n : Nat) : a.sshiftRight n = BitVec.ofInt 64 (a.toInt / (2 : Int) ^ n) := by
  rw [BitVec.sshiftRight, Int.shiftRight_eq_div_pow]
  norm_cast

/-! ### OP 0x02 to 0x07 (R158) -/

theorem encRRI_len (op : BitVec 6) (o : RRI) : (encRRI op o).len = immLen o.imm := by
  obtain ⟨_, _, imm⟩ := o
  cases imm
  · rfl
  · rfl

theorem encM_len (op : BitVec 6) (la : BitVec 4) (d a : Reg) (imm : Disp) : (encM op la d a imm).len = dispLen imm := by
  cases imm
  · rfl
  · rfl

theorem immResult_writes {d : Reg} {v : Word} {len : Nat} (s : State) (k : Nat) (hi : immResult t.ctx i = some (d, v, len)) :
    Writes s k t i d v len := by
  cases i
  case addi o | andi o | ori o | xori o => cases hi; exact ⟨_, rfl, rfl, encRRI_len ..⟩
  case li => cases hi; exact ⟨_, exec_li .., rfl, rfl⟩
  case liImm64 => cases hi; exact ⟨_, exec_liImm64 .., rfl, rfl⟩
  case lil => cases hi; exact ⟨_, exec_lil .., rfl, rfl⟩
  case lhi => cases hi; exact ⟨_, exec_lhi .., rfl, rfl⟩
  case shli o => cases hi; exact ⟨_, rfl, congrArg (fun v => Res.next (s.setReg k o.d v)) (shiftLeft_eq_mul ..), rfl⟩
  case shri o => cases hi; exact ⟨_, rfl, congrArg (fun v => Res.next (s.setReg k o.d v)) (ushiftRight_eq_div ..), rfl⟩
  case sari o => cases hi; exact ⟨_, rfl, congrArg (fun v => Res.next (s.setReg k o.d v)) (sshiftRight_eq_div ..), rfl⟩
  case slti o | sltni o | lea o => cases hi; exact ⟨_, rfl, rfl, encM_len ..⟩
  all_goals cases hi

/-- Settles O7: each immediate instruction writes one register, with the value of its row. -/
theorem immediateResult : Obligations.ImmediateResult := by
  unfold Obligations.ImmediateResult
  exact fun s k t i d v len h hi => (immResult_writes s k hi).exec_eq h

end Sys2Proof.Machine
end

section
/-! SUPPORT. The results of OP 0x01 (R156, R157): each function of the model in the numbers of its row. -/
namespace Sys2Proof.Machine
open Sys2Proof Sys2Proof.Claims

variable {s : State} {k : Nat} {t : Thread} {i : Instr}

/-! ### Shifts, products and comparisons -/

theorem shiftCount_eq (b : Word) : shiftCount b = shiftN b := fld_zero b rfl

theorem valShl_eq (a b : Word) : valShl a b = BitVec.ofNat 64 (a.toNat * 2 ^ shiftN b) := by
  rw [valShl, shiftCount_eq, shiftLeft_eq_mul]

theorem valShr_eq (a b : Word) : valShr a b = BitVec.ofNat 64 (a.toNat / 2 ^ shiftN b) := by
  rw [valShr, shiftCount_eq, ushiftRight_eq_div]

theorem valSar_eq (a b : Word) : valSar a b = BitVec.ofInt 64 (a.toInt / (2 : Int) ^ shiftN b) := by
  rw [valSar, shiftCount_eq, sshiftRight_eq_div]

theorem valRol_eq (a b : Word) : valRol a b = if shiftN b = 0 then a else (a <<< shiftN b) ||| (a >>> (64 - shiftN b)) := by
  have hlt : shiftN b < 64 := Nat.mod_lt _ (by decide)
  rw [valRol, shiftCount_eq, BitVec.rotateLeft_def, Nat.mod_eq_of_lt hlt]
  split
  case isTrue h => rw [h, BitVec.shiftLeft_zero, Nat.sub_zero, BitVec.ushiftRight_eq_zero (Nat.le_refl _), BitVec.or_zero]
  case isFalse => rfl

theorem mul_eq_ofInt (a b : Word) : a * b = BitVec.ofInt 64 (a.toInt * b.toInt) := by
  rw [BitVec.ofInt_mul, BitVec.ofInt_toInt, BitVec.ofInt_toInt]

theorem valMin_eq (a b : Word) : valMin a b = if a.toInt < b.toInt then a else b := by
  simp only [valMin, BitVec.slt_iff_toInt_lt]

theorem valMax_eq (a b : Word) : valMax a b = if a.toInt < b.toInt then b else a := by
  simp only [valMax, BitVec.slt_iff_toInt_lt]

theorem valMinn_eq (a b : Word) : valMinn a b = if a.toNat < b.toNat then a else b := by
  simp only [valMinn, BitVec.ult_iff_lt, BitVec.lt_def]

theorem valMaxn_eq (a b : Word) : valMaxn a b = if a.toNat < b.toNat then b else a := by
  simp only [valMaxn, BitVec.ult_iff_lt, BitVec.lt_def]

/-- A flag is 1 where its condition holds. -/
theorem flag_eq {b : Bool} {p : Prop} [Decidable p] (h : b = true ↔ p) : flag b = if p then 1 else 0 := by
  simp only [flag, h]

/-! ### Counts of bits -/

theorem leadZeros_zero (n : Nat) : leadZeros 0 n = n := by
  induction n with
  | zero => rfl
  | succ n ih => rw [leadZeros, ih, show BitVec.getLsbD (0 : Word) n = false from BitVec.getLsbD_zero]; rfl

/-- Zero bits above the highest 1 at m, of the n low bits. -/
theorem leadZeros_above {a : Word} {m : Nat} (hm : a.getLsbD m = true) (hz : ∀ i, m < i → a.getLsbD i = false) :
    ∀ n, m < n → leadZeros a n = n - 1 - m
  | n + 1, h => by
    rw [leadZeros]
    by_cases e : n = m
    · subst e
      rw [if_pos hm]
      omega
    · rw [hz n (by omega), leadZeros_above hm hz n (by omega)]
      show n - 1 - m + 1 = n + 1 - 1 - m
      omega

theorem leadZeros_eq (a : Word) : leadZeros a 64 = if a = 0 then 64 else 63 - a.toNat.log2 := by
  split
  case isTrue h => rw [h]; exact leadZeros_zero 64
  case isFalse h =>
    have h0 : a.toNat ≠ 0 := fun e => h (BitVec.eq_of_toNat_eq e)
    have hlt : a.toNat.log2 < 64 := (Nat.log2_lt h0).mpr a.isLt
    refine leadZeros_above (Nat.testBit_log2 h0) (fun i hi => ?_) 64 hlt
    exact Nat.testBit_lt_two_pow (Nat.lt_log2_self.trans_le (Nat.pow_le_pow_right (by decide) hi))

theorem trailZeros_eq (a : Word) : ∀ n ≤ 64, 64 - n + trailZeros a n = ((List.range' (64 - n) n).find? a.getLsbD).getD 64
  | 0, _ => rfl
  | n + 1, h => by
    have ih := trailZeros_eq a n (by omega)
    have e : 64 - (n + 1) = 63 - n := by omega
    have e' : 63 - n + 1 = 64 - n := by omega
    rw [e, List.range'_succ, List.find?_cons, trailZeros, e']
    cases hb : a.getLsbD (63 - n)
    · rw [if_neg (by decide)]
      simp only
      omega
    · rfl

theorem valCtz_eq (a : Word) : valCtz a = BitVec.ofNat 64 (((List.range 64).find? fun i => a.getLsbD i).getD 64) := by
  have h := trailZeros_eq a 64 (Nat.le_refl _)
  rw [Nat.sub_self, Nat.zero_add, ← List.range_eq_range'] at h
  exact congrArg word h

theorem countOnes_eq (a : Word) (n : Nat) : countOnes a n = ((List.range n).map fun i => a.getLsbD i).countP id := by
  induction n with
  | zero => rfl
  | succ n ih => rw [countOnes, ih, List.range_succ, List.map_append, List.countP_append, List.map_singleton, List.countP_singleton]; rfl

/-! ### Fields -/

theorem fieldWidth_eq (b : Word) : fieldWidth b = b.toNat / 256 % 64 + 1 := by
  rw [fieldWidth, fld_eq]
  rfl

theorem fieldMask_toNat (b : Word) : (fieldMask b).toNat = 2 ^ fieldWidth b - 1 := by
  have hw : fieldWidth b ≤ 64 := by rw [fieldWidth_eq]; omega
  have hp : 2 ^ fieldWidth b ≤ 2 ^ 64 := Nat.pow_le_pow_right (by decide) hw
  exact Nat.mod_eq_of_lt (by omega)

theorem valBext_eq (a b : Word) : valBext a b = BitVec.ofNat 64 (a.toNat / 2 ^ (b.toNat % 64) % 2 ^ (b.toNat / 256 % 64 + 1)) := by
  refine BitVec.eq_of_toNat_eq ?_
  have hlt : a.toNat / 2 ^ (b.toNat % 64) % 2 ^ (b.toNat / 256 % 64 + 1) < 2 ^ 64 :=
    (Nat.mod_le ..).trans_lt ((Nat.div_le_self ..).trans_lt a.isLt)
  rw [valBext, BitVec.toNat_and, fieldMask_toNat, Nat.and_two_pow_sub_one_eq_mod, BitVec.toNat_ushiftRight, Nat.shiftRight_eq_div_pow,
    shiftCount_eq, fieldWidth_eq, BitVec.toNat_ofNat, Nat.mod_eq_of_lt hlt]
  rfl

theorem fieldMask_shift (b : Word) :
    fieldMask b <<< shiftCount b = BitVec.ofNat 64 ((2 ^ (b.toNat / 256 % 64 + 1) - 1) * 2 ^ (b.toNat % 64)) := by
  rw [shiftLeft_eq_mul, fieldMask_toNat, fieldWidth_eq, shiftCount_eq]
  rfl

theorem valBins_eq (d a b : Word) :
    valBins d a b =
      (d &&& ~~~BitVec.ofNat 64 ((2 ^ (b.toNat / 256 % 64 + 1) - 1) * 2 ^ (b.toNat % 64))) |||
        ((a <<< (b.toNat % 64)) &&& BitVec.ofNat 64 ((2 ^ (b.toNat / 256 % 64 + 1) - 1) * 2 ^ (b.toNat % 64))) := by
  rw [valBins, fieldMask_shift, shiftCount_eq]
  rfl

theorem valZext_eq (w : Width) (a : Word) : valZext w a = BitVec.ofNat 64 (a.toNat % 2 ^ Width.bits w) := by
  refine BitVec.eq_of_toNat_eq ?_
  rw [valZext, BitVec.toNat_setWidth, BitVec.toNat_setWidth, BitVec.toNat_ofNat]

/-- The least significant byte of a little-endian number is its last part. -/
theorem ofNat_leVal_cons (n : Nat) (b : Byte) (bs : List Byte) : BitVec.ofNat (n + 8) (leVal (b :: bs)) = BitVec.ofNat n (leVal bs) ++ b := by
  refine BitVec.eq_of_toNat_eq ?_
  have hb := b.isLt
  rw [BitVec.toNat_append, ← Nat.shiftLeft_add_eq_or_of_lt hb, Nat.shiftLeft_eq, BitVec.toNat_ofNat, BitVec.toNat_ofNat, leVal, pow_add,
    mul_comm (2 ^ n), Nat.mod_mul, show (b.toNat + 256 * leVal bs) % 2 ^ 8 = b.toNat by omega,
    show (b.toNat + 256 * leVal bs) / 2 ^ 8 = leVal bs by omega]
  ring

theorem ofNat_div_eq_extract (x : Word) (lo : Nat) : BitVec.ofNat 8 (x.toNat / 2 ^ lo) = x.extractLsb' lo 8 := by
  refine BitVec.eq_of_toNat_eq ?_
  rw [BitVec.toNat_ofNat, BitVec.extractLsb'_toNat, Nat.shiftRight_eq_div_pow]

theorem valBswap_eq (x : Word) :
    valBswap x = x.extractLsb' 0 8 ++ x.extractLsb' 8 8 ++ x.extractLsb' 16 8 ++ x.extractLsb' 24 8 ++ x.extractLsb' 32 8 ++
      x.extractLsb' 40 8 ++ x.extractLsb' 48 8 ++ x.extractLsb' 56 8 := by
  have hlast (b : Byte) : BitVec.ofNat 8 (leVal [b]) = b := by
    rw [leVal, leVal, mul_zero, add_zero, BitVec.ofNat_toNat, BitVec.setWidth_eq]
  have hbytes : (leOf 8 x.toNat).reverse = [x.extractLsb' 56 8, x.extractLsb' 48 8, x.extractLsb' 40 8, x.extractLsb' 32 8,
      x.extractLsb' 24 8, x.extractLsb' 16 8, x.extractLsb' 8 8, x.extractLsb' 0 8] := by
    simp only [← ofNat_div_eq_extract, leOf, Nat.div_div_eq_div_mul]
    norm_num
  rw [valBswap, hbytes, word, ofNat_leVal_cons 56, ofNat_leVal_cons 48, ofNat_leVal_cons 40, ofNat_leVal_cons 32, ofNat_leVal_cons 24,
    ofNat_leVal_cons 16, ofNat_leVal_cons 8, hlast]

/-! ### Division (R157) -/

theorem valDiv_eq (a b : Word) : valDiv a b = (divide true a b).1 := by
  unfold valDiv divide
  split
  case isTrue => rfl
  case isFalse =>
    split
    case isTrue h =>
      obtain ⟨-, rfl, rfl⟩ := h
      decide
    case isFalse => rfl

theorem valRem_eq (a b : Word) : valRem a b = (divide true a b).2 := by
  unfold valRem divide
  split
  case isTrue => rfl
  case isFalse =>
    split
    case isTrue h =>
      obtain ⟨-, rfl, rfl⟩ := h
      decide
    case isFalse => 
      show _ = a - BitVec.ofInt 64 (a.toInt.tdiv b.toInt) * b
      rw [sub_eq_add_neg, BitVec.ofInt_add, BitVec.ofInt_neg, BitVec.ofInt_mul, BitVec.ofInt_toInt, BitVec.ofInt_toInt, sub_eq_add_neg]

theorem valDivn_eq (a b : Word) : valDivn a b = (divide false a b).1 := by
  unfold valDivn divide
  split
  case isTrue => rfl
  case isFalse => rfl

theorem valRemn_eq (a b : Word) : valRemn a b = (divide false a b).2 := by
  unfold valRemn divide
  split
  case isTrue => rfl
  case isFalse =>
    show BitVec.ofNat 64 (a.toNat % b.toNat) = a - BitVec.ofNat 64 (a.toNat / b.toNat) * b
    have h := congrArg (BitVec.ofNat 64) (Nat.mod_add_div' a.toNat b.toNat)
    rw [BitVec.ofNat_add, BitVec.ofNat_mul, BitVec.ofNat_toNat, BitVec.ofNat_toNat, BitVec.setWidth_eq, BitVec.setWidth_eq] at h
    exact eq_sub_of_add_eq h

/-! ### The instructions -/

theorem encRRS_len (fn : BitVec 8) (la : BitVec 4) (d a : Reg) (b : Src) : (encRRS fn la d a b).len = srcLen b := by
  cases b
  · rfl
  · rfl

/-- An instruction of two sources writes f of them, and so the value v that f gives. -/
theorem Writes.two {o : RRS} {f : Word → Word → Word} {v : Word} (s : State) (k : Nat) (t : Thread) (he : exec i s = issue i s (regBody o.d o.a o.b f))
    (hl : instrLen i = srcLen o.b) (hv : f (t.ctx.gpr o.a) (srcVal t.ctx o.b) = v) : Writes s k t i o.d v (srcLen o.b) :=
  ⟨_, he, by rw [← hv]; rfl, hl⟩

/-- An instruction of two sources that opens no window. -/
theorem Writes.twoL {o : RRSL} {f : Word → Word → Word} {d : Reg} {v w : Word} {len : Nat} (s : State) (k : Nat) (t : Thread)
    (hi : (if o.la = 0 then some (o.d, w, srcLen o.b) else none) = some (d, v, len))
    (he : exec i s = issue i s (withLook i o.la false (regBody o.d o.a o.b f))) (hl : instrLen i = srcLen o.b)
    (hv : f (t.ctx.gpr o.a) (srcVal t.ctx o.b) = w) : Writes s k t i d v len := by
  obtain ⟨hla, hi⟩ := Option.ite_none_right_eq_some.mp hi
  cases hi
  exact ⟨_, he, by rw [← hv, withLook_zero hla]; rfl, hl⟩

/-- An instruction of one source. -/
theorem Writes.one {d a : Reg} {f : Word → Word} {v : Word} (s : State) (k : Nat) (t : Thread) (he : exec i s = issue i s (unary d a f))
    (hl : instrLen i = 4) (hv : f (t.ctx.gpr a) = v) : Writes s k t i d v 4 := ⟨_, he, by rw [← hv]; rfl, hl⟩

theorem intResult_writes {d : Reg} {v : Word} {len : Nat} (s : State) (k : Nat) (hi : intResult t.ctx i = some (d, v, len)) :
    Writes s k t i d v len := by
  cases i
  case add | sub | and | or | xor | andn => cases hi; exact .two _ _ _ rfl (encRRS_len ..) rfl
  case shl => cases hi; exact .two _ _ _ rfl (encRRS_len ..) (valShl_eq ..)
  case shr => cases hi; exact .two _ _ _ rfl (encRRS_len ..) (valShr_eq ..)
  case sar => cases hi; exact .two _ _ _ rfl (encRRS_len ..) (valSar_eq ..)
  case rol => cases hi; exact .two _ _ _ rfl (encRRS_len ..) (valRol_eq ..)
  case mul => exact .twoL _ _ _ hi rfl (encRRS_len ..) (mul_eq_ofInt ..)
  case mulh => exact .twoL _ _ _ hi rfl (encRRS_len ..) rfl
  case mulhn => exact .twoL _ _ _ hi rfl (encRRS_len ..) rfl
  case min => cases hi; exact .two _ _ _ rfl (encRRS_len ..) (valMin_eq ..)
  case max => cases hi; exact .two _ _ _ rfl (encRRS_len ..) (valMax_eq ..)
  case minn => cases hi; exact .two _ _ _ rfl (encRRS_len ..) (valMinn_eq ..)
  case maxn => cases hi; exact .two _ _ _ rfl (encRRS_len ..) (valMaxn_eq ..)
  case slt => cases hi; exact .two _ _ _ rfl (encRRS_len ..) (flag_eq BitVec.slt_iff_toInt_lt)
  case sltn => cases hi; exact .two _ _ _ rfl (encRRS_len ..) (flag_eq BitVec.ult_iff_lt)
  case seq => cases hi; exact .two _ _ _ rfl (encRRS_len ..) (flag_eq beq_iff_eq)
  case sel => cases hi; exact ⟨_, exec_sel .., rfl, rfl⟩
  case clz => cases hi; exact .one _ _ _ rfl rfl (congrArg word (leadZeros_eq _))
  case ctz => cases hi; exact .one _ _ _ rfl rfl (valCtz_eq _)
  case popc => cases hi; exact .one _ _ _ rfl rfl (congrArg word (countOnes_eq _ 64))
  case bext => cases hi; exact .two _ _ _ rfl (encRRS_len ..) (valBext_eq ..)
  case bins o =>
    cases hi
    exact ⟨_, exec_bins .., congrArg (fun v => Res.next (s.setReg k o.d v)) (valBins_eq ..), encRRS_len ..⟩
  case sext => cases hi; exact .one _ _ _ rfl rfl rfl
  case zext => cases hi; exact .one _ _ _ rfl rfl (valZext_eq ..)
  case bswap => cases hi; exact .one _ _ _ rfl rfl (valBswap_eq _)
  all_goals cases hi

theorem divResult_writes {d : Reg} {v : Word} {len : Nat} (s : State) (k : Nat) (hi : divResult t.ctx i = some (d, v, len)) :
    Writes s k t i d v len := by
  cases i
  case div => exact .twoL _ _ _ hi rfl (encRRS_len ..) (valDiv_eq ..)
  case divn => exact .twoL _ _ _ hi rfl (encRRS_len ..) (valDivn_eq ..)
  case rem => exact .twoL _ _ _ hi rfl (encRRS_len ..) (valRem_eq ..)
  case remn => exact .twoL _ _ _ hi rfl (encRRS_len ..) (valRemn_eq ..)
  all_goals cases hi

/-- Settles O38: each instruction of OP 0x01 writes one register, with the value of its row. -/
theorem integerResult : Obligations.IntegerResult := by
  unfold Obligations.IntegerResult integerRegisterResult divisionResult
  exact ⟨fun s k t i d v len h hi => (intResult_writes s k hi).exec_eq h, fun s k t i d v len h hi => (divResult_writes s k hi).exec_eq h⟩

end Sys2Proof.Machine
end

section
/-! SUPPORT. Lookahead windows as they open (R145, R146). -/
namespace Sys2Proof.Machine
open Sys2Proof Sys2Proof.Claims

variable {s : State} {k n : Nat} {t : Thread} {i : Instr} {la : BitVec 4} {len : Nat}

/-- i is an instruction of len bytes that opens a window when its lookahead count la is not 0. -/
def Looks (s : State) (i : Instr) (la : BitVec 4) (len : Nat) : Prop :=
  ∃ (w : Bool) (b : Body), exec i s = issue i s (withLook i la w b) ∧ instrLen i = len

/-- With no window open, an instruction with a lookahead count opens one (R145, R146). -/
theorem Looks.exec_eq (hl : Looks s i la len) (h : Selected s k t) (hla : la ≠ 0) (hg : t.gang = .none) (hq : Quiet t) :
    exec i s = .next (done s k { t.takeTicket with
      ctx := { t.ctx with head := some ⟨recordOf i t.ctx t.ticket, la.toNat, true, none⟩ } } (t.ctx.pc + BitVec.ofNat 64 len)) := by
  obtain ⟨w, b, he, rfl⟩ := hl
  obtain ⟨hr, hx⟩ := hq
  obtain ⟨-, ht, hh⟩ := id h
  have hopen : t.ctx.opened = none := by rw [Ctx.opened, hh]
  have hclosed : (la == 0 || t.inGang || t.ctx.opened.isSome) = false := by
    rw [beq_false_of_ne hla, Thread.inGang_none hg, hopen]
    rfl
  have hset (x : Head) : t.ctx.setOpened x = { t.ctx with head := some x } := by rw [Ctx.setOpened, hh]
  rw [he, issue_selected h, withLook, hclosed]
  simp only [Bool.false_eq_true, ↓reduceIte, State.waitRx_quiet ht hr hx, ite_self, orTrap]
  rw [State.modThread_some ht, settle_put, hset]
  rfl

theorem Looks.load {sg : Bool} {o : Load} (s : State) (hi : loadOf i = some (n, sg, o)) : Looks s i o.la (memLen o.ext o.imm) := by
  have hlen := instrLen_load hi
  unfold loadOf at hi
  split at hi
  all_goals cases hi
  all_goals exact ⟨_, _, rfl, hlen⟩

/-- The bytes of an atomic of one operand. -/
theorem encAtomic_len (fn : BitVec 8) (o : Atomic) : (encAtomic fn o).len = 4 + partLen o.ext.isSome + (srcLen o.b - 4) := by
  obtain ⟨_, _, b, ext, _⟩ := o
  cases ext
  · cases b <;> rfl
  · cases b <;> rfl

theorem encCas_len (fn : BitVec 8) (o : Cas) : (encCas fn o).len = 12 + (srcLen o.b - 4) := by
  obtain ⟨_, _, b, _, _, _⟩ := o
  cases b
  · rfl
  · rfl

theorem instrLen_atomic {c : Ctx} {d a : Reg} {e : Option Ext} {f : Nat → Nat} (hi : atomicOf c i = some (n, d, a, la, e, len, f)) :
    instrLen i = len := by
  cases i
  case acas | acasW => cases hi; exact encCas_len ..
  case afadd | afand | afor | afxor | afmin | afmax | afminn | afmaxn | aswap | afaddW | afandW | aforW | afxorW | afminW | afmaxW | afminnW
      | afmaxnW | aswapW => cases hi; exact encAtomic_len ..
  all_goals cases hi

theorem Looks.atomic {d a : Reg} {e : Option Ext} {f : Nat → Nat} (s : State) (k : Nat) (hi : atomicOf t.ctx i = some (n, d, a, la, e, len, f)) :
    Looks s i la len := by
  obtain ⟨b, hb, -⟩ := atomicOf_body s k t hi
  exact ⟨true, b, hb, instrLen_atomic hi⟩

/-- Settles O10: loads, atomics, axadd, products and divisions with a lookahead count open a window. -/
theorem windowOpens : Obligations.WindowOpens := by
  unfold Obligations.WindowOpens
  intro s k t i la len h hla hg hq hi
  refine Looks.exec_eq ?_ h hla hg hq
  rcases hi with ⟨n, sg, o, hi, rfl, rfl⟩ | ⟨n, d, a, e, f, hi⟩ | ⟨o, rfl, rfl, rfl⟩ | ⟨o, rfl, rfl, hi⟩
  · exact .load s hi
  · exact .atomic s k hi
  · exact ⟨_, _, rfl, encAtomic_len ..⟩
  · rcases hi with rfl | rfl | rfl | rfl | rfl | rfl | rfl
    all_goals exact ⟨_, _, rfl, encRRS_len ..⟩

end Sys2Proof.Machine
end

section
/-! SUPPORT. Control registers (R153 to R155, R173, R174): what they read and what a write of one stores. -/
namespace Sys2Proof.Machine
open Sys2Proof Sys2Proof.Claims

variable {s : State} {k : Nat} {t : Thread} {i : Instr} {r : CReg} {v : Word}

/-! ### Reads (R173) -/

theorem readCreg_eq (s : State) (t : Thread) (r : CReg) : s.readCreg t r = cregValue s t r := by
  cases r
  case ways | group => exact (BitVec.ofNat_toNat ..).symm
  case wdesc n =>
    show (s.cell t.pcell).wdesc.toList.getD (n.toNat - 1) 0 = _
    rw [List.getD_eq_getElem?_getD, cregValue]
    cases (s.cell t.pcell).wdesc.toList[n.toNat - 1]?
    · rfl
    · rfl
  all_goals rfl

/-- Settles O17: a read writes the register's value, but for TVEC at user privilege. -/
theorem controlRead : Obligations.ControlRead := by
  unfold Obligations.ControlRead
  intro s k t d r h
  refine ⟨fun hr => ?_, fun hr hp => ?_⟩
  · have hok : (r == .tvec && !t.ctx.priv) = false := by
      rcases hr with hr | hp
      · rw [beq_false_of_ne hr, Bool.false_and]
      · rw [hp, Bool.not_true, Bool.and_false]
    refine Writes.exec_eq h ⟨_, exec_crr .., ?_, rfl⟩
    simp only [hok, Bool.false_eq_true, ↓reduceIte, readCreg_eq]
  · subst hr
    rw [exec_crr, execCrr, issue_selected h]
    simp only [beq_self_eq_true, hp, Bool.not_false, Bool.and_true, ↓reduceIte]
    rfl

/-! ### What a write stores -/

theorem alignDown_udiv (v : Word) {n m : Nat} (h : 2 ^ n = m) (hm : m < 2 ^ 64) : alignDown v n = v / BitVec.ofNat 64 m * BitVec.ofNat 64 m := by
  refine BitVec.eq_of_toNat_eq ?_
  rw [alignDown_eq v h, BitVec.toNat_mul, BitVec.toNat_udiv, BitVec.toNat_ofNat, BitVec.toNat_ofNat, Nat.mod_eq_of_lt hm]

/-- The n low bits of a value. -/
theorem and_lowMask (v : Word) {n : Nat} (hn : n ≤ 64) : v &&& BitVec.ofNat 64 (2 ^ n - 1) = BitVec.ofNat 64 (v.toNat % 2 ^ n) := by
  have hp : 2 ^ n ≤ 2 ^ 64 := Nat.pow_le_pow_right (by decide) hn
  refine BitVec.eq_of_toNat_eq ?_
  rw [BitVec.toNat_and, BitVec.toNat_ofNat, BitVec.toNat_ofNat, Nat.mod_eq_of_lt (by omega : 2 ^ n - 1 < 2 ^ 64), Nat.and_two_pow_sub_one_eq_mod,
    Nat.mod_eq_of_lt ((Nat.mod_le ..).trans_lt v.isLt)]

theorem wlimValue_eq (v : Word) : wlimValue v = BitVec.ofNat 64 (if v.toNat % 2 ^ 32 < 256 then 256 else v.toNat % 2 ^ 32) := by
  rw [wlimValue, fld_zero v rfl, word]
  congr 1
  split
  · omega
  · omega

theorem isNan_f32 (x : Nat) : (f32.decode x).isNan = decide (x / 2 ^ 23 % 256 = 255 ∧ x % 2 ^ 23 ≠ 0) := by
  have htop : (f32.special && x / 2 ^ f32.fbits % 2 ^ f32.ebits == f32.topExp) = decide (x / 2 ^ 23 % 256 = 255) := beq_eq_decide ..
  unfold Fmt.decode
  simp only [htop, decide_eq_true_eq, Bool.decide_and, ne_eq, decide_not]
  split
  case isTrue h =>
    rw [decide_eq_true h, Bool.true_and]
    show (if x % 2 ^ 23 = 0 then _ else _ : FVal).isNan = _
    split
    case isTrue h0 => rw [decide_eq_true h0]; rfl
    case isFalse h0 => rw [decide_eq_false h0]; rfl
  case isFalse h =>
    rw [decide_eq_false h, Bool.false_and]
    split
    · rfl
    · rfl

theorem gpivValue_eq (v : Word) : gpivValue v = floorStored v := by
  have hlow : v &&& 0xFFFFFFFF = word (v.toNat % 2 ^ 32) := and_lowMask v (n := 32) (by decide)
  have hexp : v.toNat % 2 ^ 32 / 2 ^ 23 % 256 = v.toNat / 2 ^ 23 % 256 := by omega
  have hfrac : v.toNat % 2 ^ 32 % 2 ^ 23 = v.toNat % 2 ^ 23 := by omega
  simp only [gpivValue, floorStored, fld_zero v (n := 32) rfl, isNan_f32, hlow, hexp, hfrac, Bool.or_eq_true, decide_eq_true_eq]

/-- What a write of GPIV stores, by the code of the number: the codes up to that of infinity stay. -/
theorem gpivValue_le (v : Word) :
    gpivValue v = if v.toNat % 2 ^ 32 ≤ 0x7F800000 then BitVec.ofNat 64 (v.toNat % 2 ^ 32) else 0 := by
  have hlow : v &&& 0xFFFFFFFF = BitVec.ofNat 64 (v.toNat % 2 ^ 32) := and_lowMask v (n := 32) (by decide)
  have hsign : v.getLsbD 31 = true ↔ v.toNat / 2 ^ 31 % 2 = 1 := by
    rw [BitVec.getLsbD, Nat.testBit_eq_decide_div_mod_eq, decide_eq_true_eq]
  have hbad : (v.getLsbD 31 = true ∨ v.toNat / 2 ^ 23 % 256 = 255 ∧ v.toNat % 2 ^ 23 ≠ 0) ↔ ¬ v.toNat % 2 ^ 32 ≤ 0x7F800000 := by
    rw [hsign]
    omega
  rw [gpivValue_eq, floorStored, hlow, if_congr hbad rfl rfl, ite_not]

theorem putFld_nsm (w v : Word) : putFld w 4 1 (fld v 4 1) = (w &&& ~~~0x10) ||| (v &&& 0x10) := by
  refine BitVec.eq_of_getLsbD_eq fun i hi => ?_
  have hbit : (0x10 : Word).getLsbD i = decide (i = 4) := by
    show (BitVec.ofNat 64 (2 ^ 4)).getLsbD i = _
    rw [BitVec.getLsbD_ofNat, Nat.testBit_two_pow, decide_eq_true hi, Bool.true_and]
    exact decide_eq_decide.mpr eq_comm
  rw [getLsbD_putFld w 4 1 _ i hi, BitVec.getLsbD_or, BitVec.getLsbD_and, BitVec.getLsbD_and, BitVec.getLsbD_not, hbit, decide_eq_true hi]
  by_cases e : i = 4
  · subst e
    have hv : (fld v 4 1).testBit 0 = v.getLsbD 4 := by
      show (v.extractLsb' 4 1).getLsbD 0 = _
      rw [BitVec.getLsbD_extractLsb']
      rfl
    simpa using hv
  · have : ¬ (4 ≤ i ∧ i < 4 + 1) := by omega
    simp [e, this]

theorem wdescOk_iff (v : Word) : wdescOk v = true ↔ WindowOk v := by
  have hlist (f : Nat) : ([0, 1, 4, 5, 8, 9, 12, 13, 14, 15, 16].contains f = true) ↔
      (f = 0 ∨ f = 1 ∨ f = 4 ∨ f = 5 ∨ f = 8 ∨ f = 9 ∨ 12 ≤ f ∧ f ≤ 16) := by
    simp only [List.contains_iff_mem, List.mem_cons, List.not_mem_nil, or_false]
    omega
  unfold wdescOk WindowOk
  simp only [fld_eq, Bool.and_eq_true, hlist, beq_iff_eq, pow_zero, Nat.div_one]
  rw [and_assoc]
  refine and_congr_right fun hf => ?_
  have htop : 15 ≤ v.toNat % 2 ^ 5 ↔ v.toNat % 32 = 15 ∨ v.toNat % 32 = 16 := by omega
  rw [if_congr htop rfl rfl]
  rfl

/-! ### The registers of a thread -/

/-- A write of a control register is what crw, crs and crc write (R173). -/
theorem exec_written (h : Selected s k t) (hw : written s t i = some (r, v)) :
    exec i s = .next (settle i k t (writeCreg s k t r v)) ∧ nextPc i t.ctx = t.ctx.pc + 4 := by
  cases i
  case crw => cases hw; exact ⟨by rw [exec_crw, execCrw, issue_selected h], rfl⟩
  case crs => cases hw; exact ⟨by rw [exec_crs, execCrs, issue_selected h, readCreg_eq], rfl⟩
  case crc => cases hw; exact ⟨by rw [exec_crc, execCrc, issue_selected h, readCreg_eq], rfl⟩
  all_goals cases hw

theorem Ctx.writeTcause_none {c : Ctx} (hh : c.head = none) (v : Word) : c.writeTcause v = { c with tcause := v &&& 0xFFF } := by
  rw [Ctx.writeTcause, hh]

/-- A write of a register of the thread changes its context as R174 says. -/
theorem writeCreg_ctx {c : Ctx} (ht : s.thread? k = some t) (hh : t.ctx.head = none) (hc : ctxWrite t.ctx v r = some c)
    (hp : r ≠ .seg ∨ t.ctx.priv = true) : writeCreg s k t r v = .next (s.setThread k { t with ctx := c }) := by
  have hput (f : Ctx → Ctx) (e : f t.ctx = c) : Res.next (s.modThread k fun t => t.modCtx f) = .next (s.setThread k { t with ctx := c }) := by
    rw [State.modThread_some ht, Thread.modCtx, e]
  have hself : Res.next s = .next (s.setThread k { t with ctx := t.ctx }) := by rw [State.setThread_self ht]
  cases r
  case tstat => cases hc; exact hput _ (by rw [putFld_nsm])
  case tid | cyc | rtsel => cases hc; exact hself
  case seg =>
    have hp : t.ctx.priv = true := hp.resolve_left fun e => e rfl
    cases hc
    rw [writeCreg]
    simp only [hp, ↓reduceIte]
    exact hput _ rfl
  case wlim => cases hc; exact hput _ (by rw [wlimValue_eq, apply_ite (BitVec.ofNat 64), ← and_lowMask v (n := 32) (by decide)]; rfl)
  case gpiv => cases hc; exact hput _ (by rw [gpivValue_eq])
  case uvec => cases hc; exact hput _ (by rw [alignDown_udiv v (m := 4) rfl (by decide)]; rfl)
  case tcause => cases hc; exact hput _ (Ctx.writeTcause_none hh v)
  case tepc => cases hc; exact hput _ rfl
  case trec => cases hc; exact hput _ (by rw [alignDown_udiv v (m := 128) rfl (by decide)]; rfl)
  all_goals cases hc

theorem controlWrite_holds : controlWrite := by
  unfold controlWrite
  intro s k t i r v c h hw hc
  obtain ⟨-, ht, hh⟩ := id h
  obtain ⟨he, hpc⟩ := exec_written h hw
  rw [he]
  refine ⟨fun hp => ?_, fun hr hp => ?_⟩
  · rw [writeCreg_ctx ht hh hc hp, settle_put, hpc]
  · subst hr
    rw [writeCreg]
    simp only [hp, Bool.false_eq_true, ↓reduceIte]
    rfl

end Sys2Proof.Machine
end

section
/-! SUPPORT. The registers of a cell (R180 to R183): the lines that a write of GROUP gives up, and the ways that a write of WAYS moves. -/
namespace Sys2Proof.Machine
open Sys2Proof Sys2Proof.Claims

variable {s : State} {k : Nat} {t : Thread} {i : Instr} {v : Word}

/-! ### Lines taken out of a cell -/

theorem State.cell_flushWhere (s : State) (p : PCell → Line → Bool) (c : PCell) :
    (s.flushWhere p).cell c = { s.cell c with lines := (s.cell c).lines.filter fun l => !p c l } := by
  obtain ⟨m, e⟩ := State.writeBacks_eq (s.linesWhere p) s
  rw [State.flushWhere, e]
  exact lookD_map_fixed (f := fun (c : PCell) (x : Cell) => { x with lines := x.lines.filter fun l => !p c l }) rfl s.cells

/-! ### GROUP (R182) -/

theorem State.writeGroup_threads (s : State) (c : PCell) (v : Word) : (s.writeGroup c v).threads = s.threads :=
  (State.sameWorld_flushWhere ..).threads

theorem State.writeGroup_gsz (s : State) (c : PCell) (v : Word) : ((s.writeGroup c v).cell c).gsz = v.extractLsb' 0 2 := by
  rw [State.writeGroup, State.cell_setCell]

/-- The lines that a write of GROUP leaves a cell: those that it does not hold for another. -/
theorem State.mem_writeGroup_lines (s : State) (c : PCell) (v : Word) (l : Line) :
    l ∈ ((s.writeGroup c v).cell c).lines ↔ l ∈ (s.cell c).lines ∧ (l.owner = none ∨ l.owner = some c) := by
  have hkeep : (!(c == c && l.owner.isSome && l.owner != some c)) = true ↔ l.owner = none ∨ l.owner = some c := by
    cases l.owner with
    | none => simp
    | some d => simp
  rw [State.writeGroup, State.cell_setCell, State.dropVictims, State.cell_flushWhere, List.mem_filter, hkeep]

/-! ### WDESC and TVEC (R174, R183) -/

theorem setIdx_of_lt {α : Type} {n : Nat} (x : Vector α n) {j : Nat} (h : j < n) (a : α) : setIdx x j a = x.set j a h := dif_pos h

theorem writeCreg_wdesc (n : BitVec 3) (hv : wdescOk v = true) (s : State) (k : Nat) (t : Thread) : writeCreg s k t (.wdesc n) v =
    .next (s.setCell t.pcell { s.cell t.pcell with wdesc := setIdx (s.cell t.pcell).wdesc (n.toNat - 1) (wdescMask v) }) := if_pos hv

theorem writeCreg_wdesc_refused (n : BitVec 3) (hv : wdescOk v = false) (s : State) (k : Nat) (t : Thread) :
    writeCreg s k t (.wdesc n) v = .trap s { code := 0x01 } := if_neg (Bool.eq_false_iff.mp hv)

theorem writeCreg_tvec (hp : t.ctx.priv = true) (s : State) (k : Nat) (v : Word) : writeCreg s k t .tvec v =
    .next (s.setCell t.pcell { s.cell t.pcell with tvec := alignDown v 13 }) := if_pos hp

theorem writeCreg_tvec_user (hp : t.ctx.priv = false) (s : State) (k : Nat) (v : Word) :
    writeCreg s k t .tvec v = .trap s { code := 0x02 } := if_neg (Bool.eq_false_iff.mp hp)

theorem cellRegisterWrite_holds : cellRegisterWrite := by
  unfold cellRegisterWrite
  intro s k t i v h x
  obtain ⟨-, ht, -⟩ := id h
  refine ⟨fun n hw => ?_, fun hw => ?_, fun hw => ?_⟩
  · obtain ⟨he, hpc⟩ := exec_written h hw
    have hn : (BitVec.ofNat 3 (n.val + 1)).toNat - 1 = n.val := by
      have := n.isLt
      rw [BitVec.toNat_ofNat]
      omega
    refine ⟨fun hv => ?_, fun hv => ?_⟩
    · rw [he, writeCreg_wdesc _ ((wdescOk_iff v).mpr hv), settle_kept (by exact ht), hpc, hn, setIdx_of_lt _ n.isLt]
      rfl
    · rw [he, writeCreg_wdesc_refused _ (Bool.eq_false_iff.mpr fun e => hv ((wdescOk_iff v).mp e)), settle_trap]
  · obtain ⟨he, hpc⟩ := exec_written h hw
    refine ⟨fun hp => ?_, fun hp => ?_⟩
    · rw [he, writeCreg_tvec hp, settle_kept (by exact ht), hpc, alignDown_udiv v (m := 8192) rfl (by decide)]
      rfl
    · rw [he, writeCreg_tvec_user hp, settle_trap]
  · obtain ⟨he, hpc⟩ := exec_written h hw
    have ht' : (s.writeGroup t.pcell v).thread? k = some t := by rw [State.thread?, State.writeGroup_threads]; exact ht
    refine ⟨done (s.writeGroup t.pcell v) k t (t.ctx.pc + 4), ?_, State.thread?_committed .., State.writeGroup_gsz .., fun l hl => ?_,
      fun l hl ho => ?_⟩
    · rw [he, writeCreg, settle_kept ht', hpc]
    · exact ((State.mem_writeGroup_lines s t.pcell v l).mp hl).2
    · exact (State.mem_writeGroup_lines s t.pcell v l).mpr ⟨hl, .inl ho⟩

/-! ### The ways of a cell change (R181) -/

theorem State.dropLocks_foldl (ks : List Nat) (s : State) : ∃ cl, ks.foldl (fun s k => s.dropLocks (k + 1)) s = { s with clusters := cl } := by
  induction ks generalizing s with
  | nil => exact ⟨s.clusters, rfl⟩
  | cons k ks ih =>
    obtain ⟨cl, e⟩ := ih (s.dropLocks (k + 1))
    exact ⟨cl, e⟩

theorem State.cutCaptures_eq (s : State) (key n : Nat) : ∃ cl om, s.cutCaptures key n = { s with clusters := cl, omus := om } := by
  unfold State.cutCaptures
  obtain ⟨cl, e⟩ := State.dropLocks_foldl _ _
  exact ⟨cl, _, e⟩

theorem State.answerParked_none (h : s.parked = []) (gone : Parked → Bool) (code : Nat) : s.answerParked gone code = s := by
  rw [State.answerParked, h]
  show { s with parked := [] } = s
  rw [← h]

theorem State.evictHeld_none (h : ∀ y ∈ s.threads, ∀ c' va since, y.2.run ≠ .parked (.held c' va) since) (c : PCell) : s.evictHeld c = s := by
  unfold State.evictHeld
  rw [List.filterMap_eq_nil_iff.mpr]
  · rfl
  · intro y hy
    split
    case h_1 c' va since hr => exact absurd hr (h y hy c' va since)
    case h_2 => rfl

/-- A cell with m scratch ways, before the requests and captures in leaving ways are answered: the lines of ways that enter scratch are gone,
and the ways that change sides read zero and empty. -/
def State.resplit (s : State) (c : PCell) (m : BitVec 5) : State :=
  let n := (s.cell c).nscr.toNat
  let s := if n < m.toNat then s.flushWays c m.toNat else s
  let s := s.clearRange (keyOf (.scratch c) (min n m.toNat * wayBytes)) ((max n m.toNat - min n m.toNat) * wayBytes)
  s.setCell c { s.cell c with nscr := m, waysPending := none }

theorem State.resplit_cell (s : State) (c : PCell) (m : BitVec 5) : (s.resplit c m).cell c =
    { (if (s.cell c).nscr.toNat < m.toNat then s.flushWays c m.toNat else s).cell c with nscr := m, waysPending := none } :=
  State.cell_setCell ..

theorem State.resplit_threads (s : State) (c : PCell) (m : BitVec 5) : (s.resplit c m).threads = s.threads := by
  show (if (s.cell c).nscr.toNat < m.toNat then s.flushWays c m.toNat else s).threads = _
  split
  · exact (State.sameWorld_flushWhere ..).threads
  · rfl

theorem State.resplit_parked (s : State) (c : PCell) (m : BitVec 5) : (s.resplit c m).parked = s.parked := by
  show (if (s.cell c).nscr.toNat < m.toNat then s.flushWays c m.toNat else s).parked = _
  split
  · exact (State.sameWorld_flushWhere ..).parked
  · rfl

/-- With no request parked and no command held, a change of WAYS does no more than that, but for locks and captures. -/
theorem State.setWays_eq (hpark : s.parked = []) (hheld : ∀ y ∈ s.threads, ∀ c' va since, y.2.run ≠ .parked (.held c' va) since) (c : PCell)
    (m : BitVec 5) : ∃ cl om, s.setWays c m = { s.resplit c m with clusters := cl, omus := om } := by
  have hsplit (key n : Nat) : ∃ cl om, (((s.resplit c m).cutCaptures key n).evictParked key n).evictHeld c =
      { s.resplit c m with clusters := cl, omus := om } := by
    obtain ⟨cl, om, e⟩ := State.cutCaptures_eq (s.resplit c m) key n
    let s' : State := { s.resplit c m with clusters := cl, omus := om }
    have hp : s'.evictParked key n = s' := State.answerParked_none (s := s') ((State.resplit_parked s c m).trans hpark) _ _
    have hh : s'.evictHeld c = s' := State.evictHeld_none (s := s') (fun y hy => hheld y (State.resplit_threads s c m ▸ hy)) c
    exact ⟨cl, om, by rw [e, hp, hh]⟩
  by_cases hlt : m.toNat < (s.cell c).nscr.toNat
  · obtain ⟨cl, om, e⟩ := hsplit (keyOf (.scratch c) (min (s.cell c).nscr.toNat m.toNat * wayBytes))
      ((max (s.cell c).nscr.toNat m.toNat - min (s.cell c).nscr.toNat m.toNat) * wayBytes)
    exact ⟨cl, om, (if_pos hlt).trans e⟩
  · exact ⟨_, _, if_neg hlt⟩

/-- The lines that a larger split leaves in cache: those of ways that stay. -/
theorem State.mem_resplit_lines {c : PCell} {m : BitVec 5} {l : Line} (hm : (s.cell c).nscr.toNat < m.toNat)
    (hl : l ∈ ((s.resplit c m).cell c).lines) : l ∈ (s.cell c).lines ∧ m.toNat ≤ l.way := by
  rw [State.resplit_cell, if_pos hm, State.flushWays, State.cell_flushWhere] at hl
  obtain ⟨hin, hway⟩ := List.mem_filter.mp hl
  refine ⟨hin, ?_⟩
  simpa using hway

/-! ### Memory that reads zero again -/

theorem readCell_filter_out {p : Host.Cell → Bool} {key : Nat} (hp : ∀ v, p (key, v) = false) : ∀ l : List Host.Cell, readCell (l.filter p) key = 0
  | [] => rfl
  | (a, v) :: l => by
    have ih := readCell_filter_out hp l
    by_cases h : p (a, v) = true
    · have ha : a ≠ key := fun e => by rw [e, hp v] at h; exact absurd h (by decide)
      rw [List.filter_cons_of_pos h, readCell, if_neg ha, ih, ite_self]
    · rw [List.filter_cons_of_neg h, ih]

theorem hasKey_filter_out {p : Nat → Bool} {key : Nat} (hp : p key = false) (l : List Nat) : hasKey (l.filter p) key = false := by
  refine List.any_eq_false.mpr fun a ha => ?_
  have hpa := (List.mem_filter.mp ha).2
  intro e
  rw [beq_iff_eq.mp e, hp] at hpa
  exact absurd hpa (by decide)

/-- Within a cleared range, a byte reads zero, and a word of a space that starts empty is empty. -/
theorem State.clearRange_reads {key n j : Nat} (hlo : key ≤ j) (hhi : j < key + n) (hempty : startsFull (keySpace j) = false) :
    (s.clearRange key n).byte j = 0 ∧ (s.clearRange key n).full j = false := by
  have hout : (decide (j < key) || decide (key + n ≤ j)) = false := by
    rw [decide_eq_false (by omega), decide_eq_false (by omega)]
    rfl
  refine ⟨readCell_filter_out (fun _ => hout) s.mem, ?_⟩
  rw [State.full, hempty, show hasKey (s.clearRange key n).fe j = false from hasKey_filter_out hout s.fe]
  rfl

/-- The offsets of a cell's scratch lie in scratch, whose bits start empty. -/
theorem keySpace_scratch {c : PCell} {off : Nat} (hcell : c.cell < 64) (hcl : c.cl < 8) (hdie : c.die < 4) (hpkg : c.pkg < 512)
    (hoff : off < 2 ^ 64) : startsFull (keySpace (keyOf (.scratch c) off)) = false := by
  have hcode : keyOf (.scratch c) off / 2 ^ 64 = spaceCode (.scratch c) := by
    rw [keyOf]
    omega
  have hkind : spaceCode (.scratch c) / 2 ^ 20 = 0 := by
    rw [spaceCode]
    omega
  rw [keySpace, hcode, spaceOf]
  simp only [hkind]
  rfl

/-! ### A write of WAYS (R180, R181) -/

theorem waysField (v : Word) : (v.extractLsb' 0 5 : BitVec 5).toNat = v.toNat % 32 := fld_zero v rfl

theorem writeWays_privilege (hf : (s.ownPlace t).fold ≠ 0) (hp : t.ctx.priv = false) (k : Nat) (v : Word) :
    writeWays s k t v = .trap s { code := 0x02 } := if_pos ⟨hf, by rw [hp]; rfl⟩

section
variable (hfree : (s.ownPlace t).fold = 0 ∨ t.ctx.priv = true)
include hfree

theorem waysWrite_allowed : ¬ ((s.ownPlace t).fold ≠ 0 ∧ (!t.ctx.priv) = true) := by
  rintro ⟨hf, hp⟩
  rcases hfree with h | h
  · exact hf h
  · rw [h] at hp
    exact absurd hp (by decide)

theorem writeWays_illegal (k : Nat) (hm : 16 < v.toNat % 32) : writeWays s k t v = .trap s { code := 0x01 } := by
  rw [writeWays, if_neg (waysWrite_allowed hfree), if_pos (by rwa [waysField])]
  rfl

variable (hm : v.toNat % 32 ≤ 16) (hnone : (s.cell t.pcell).waysPending = none)
include hm hnone

theorem writeWays_same (k : Nat) (he : v.toNat % 32 = (s.cell t.pcell).nscr.toNat) : writeWays s k t v = .next s := by
  have he' : v.extractLsb' 0 5 = (s.cell t.pcell).nscr := BitVec.eq_of_toNat_eq (by rw [waysField, he])
  rw [writeWays, if_neg (waysWrite_allowed hfree), if_neg (by rw [waysField]; omega)]
  simp only [hnone, he', ↓reduceIte]

/-- A write of another split, with no lock on the leaving ways, makes it. -/
theorem writeWays_changes (k : Nat) (he : v.toNat % 32 ≠ (s.cell t.pcell).nscr.toNat)
    (hlock : s.waysLocked t.pcell (v.toNat % 32) (s.cell t.pcell).nscr.toNat = false) :
    writeWays s k t v = .next (s.setWays t.pcell (v.extractLsb' 0 5)) := by
  have he' : v.extractLsb' 0 5 ≠ (s.cell t.pcell).nscr := fun e => he (by rw [← waysField, e])
  rw [writeWays, if_neg (waysWrite_allowed hfree), if_neg (by rw [waysField]; omega)]
  simp only [hnone, he', ↓reduceIte, waysField, hlock, Bool.false_eq_true, and_false]

end

theorem waysWrite_holds : waysWrite := by
  unfold waysWrite
  intro s k t i v h hw x m n c key
  obtain ⟨-, ht, -⟩ := id h
  obtain ⟨he, hpc⟩ := exec_written h hw
  rw [he, writeCreg]
  refine ⟨fun hf hp => ?_, fun hfree hm => ?_, fun hfree heq hm hnone => ?_, fun hfree hm hne hnone hlock hpark hheld hcell hcl hdie hpkg => ?_⟩
  · rw [writeWays_privilege hf hp, settle_trap]
  · rw [writeWays_illegal hfree k hm, settle_trap]
  · rw [writeWays_same hfree hm hnone k heq, settle_kept ht, hpc]
  · let b : BitVec 5 := v.extractLsb' 0 5
    have hb : b.toNat = m := waysField v
    obtain ⟨cl, om, hset⟩ := State.setWays_eq hpark hheld c b
    have ht' : State.thread? { s.resplit c b with clusters := cl, omus := om } k = some t := by
      show look? k (s.resplit c b).threads = _
      rw [State.resplit_threads]
      exact ht
    have hcellEq := State.resplit_cell s c b
    refine ⟨done { s.resplit c b with clusters := cl, omus := om } k t (t.ctx.pc + 4), ?_, State.thread?_committed .., ?_, ?_, fun hlt l hl => ?_,
      fun off hlo hhi => ?_⟩
    · rw [writeWays_changes hfree hm hnone k hne hlock, show t.pcell = c from rfl, hset, settle_kept ht', hpc]
    · show ((s.resplit c b).cell c).nscr.toNat = m
      rw [hcellEq, ← hb]
    · show ((s.resplit c b).cell c).waysPending = none
      rw [hcellEq]
    · rw [← hb] at hlt ⊢
      exact State.mem_resplit_lines hlt hl
    · have hoff : off < 2 ^ 64 := by omega
      have hstart : min n b.toNat * wayBytes ≤ off := by
        rw [hb, min_comm]
        exact hlo
      have hend : off < min n b.toNat * wayBytes + (max n b.toNat - min n b.toNat) * wayBytes := by
        rw [hb, ← Nat.add_mul, Nat.add_sub_cancel' min_le_max, max_comm]
        exact hhi
      exact State.clearRange_reads (Nat.add_le_add_left hstart _) ((Nat.add_lt_add_left hend _).trans_eq (Nat.add_assoc ..).symm)
        (keySpace_scratch hcell hcl hdie hpkg hoff)

/-- Settles O48: writes of the registers of a thread, of those of its cell, and of WAYS. -/
theorem controlWrites : Obligations.ControlWrites := ⟨controlWrite_holds, cellRegisterWrite_holds, waysWrite_holds⟩

/-! ### The writes as steps of their own -/

section
variable {r : CReg} (ht : s.thread? k = some t)
include ht

theorem writeEvent_next {s' : State} (h : writeCreg s k t r v = .next s') : writeEvent k r v s = s' := by
  simp only [writeEvent, ht, h]

theorem writeEvent_trap {s' : State} {f : Flt} (h : writeCreg s k t r v = .trap s' f) : writeEvent k r v s = takeFault s' k f {} := by
  simp only [writeEvent, ht, h]

theorem writeEvent_ctx {f : Ctx → Ctx} (h : writeCreg s k t r v = .next (s.modThread k fun t => t.modCtx f)) :
    writeEvent k r v s = s.setThread k (withCtx t f) := by
  rw [writeEvent_next ht h, State.modThread_some ht]
  rfl

/-- A change of WAYS that waited is made, and the write of its parked thread commits (R181). -/
theorem exec_waysChange_commits {c : PCell} {m : BitVec 5} {n : Nat} (hpend : (s.cell c).waysPending = some (k, m))
    (hr : t.run = .parked .ways n) (hi : t.waitOpr.instr? = some i) (hlock : s.waysLocked c m.toNat (s.cell c).nscr.toNat = false)
    (hpark : s.parked = []) (hheld : ∀ y ∈ s.threads, ∀ c' va since, y.2.run ≠ .parked (.held c' va) since) :
    ∃ s' : State, exec (.waysChange c) s = .next s' ∧ (s'.cell c).nscr = m ∧ (s'.cell c).waysPending = none ∧
      s'.thread? k = some (t.commitAt (nextPc i t.ctx)) := by
  obtain ⟨cl, om, hset⟩ := State.setWays_eq hpark hheld c m
  have ht' : State.thread? { s.resplit c m with clusters := cl, omus := om } k = some t := by
    show look? k (s.resplit c m).threads = _
    rw [State.resplit_threads]
    exact ht
  have hcellEq := State.resplit_cell s c m
  refine ⟨done { s.resplit c m with clusters := cl, omus := om } k t (nextPc i t.ctx), ?_, ?_, ?_, State.thread?_committed ..⟩
  · rw [exec_waysChange, execWaysChange]
    simp only [hpend, hlock, Bool.false_eq_true, ↓reduceIte, hset, ht', hr, hi]
    rw [State.commit_eq ht']
    rfl
  · show ((s.resplit c m).cell c).nscr = m
    rw [hcellEq]
  · show ((s.resplit c m).cell c).waysPending = none
    rw [hcellEq]

end

/-- Settles O30: each write by the lemma about what its register takes, and the change of WAYS that waited. -/
theorem registerWriteEvents : Obligations.RegisterWriteEvents := by
  unfold Obligations.RegisterWriteEvents
  intro s k t v ht
  refine ⟨?_, ?_, fun hh => ?_, fun n hn hv => ?_, fun n hn hv => ?_, fun c => ?_, fun hfree hm => ?_, fun hfree heq hm hnone => ?_,
    fun c m n i hpend hr hi hlock hpark hheld => exec_waysChange_commits ht hpend hr hi hlock hpark hheld⟩
  · rw [exec_wlimWrite, execWlimWrite, writeEvent_ctx ht rfl, wlimValue_eq]
  · rw [exec_gpivWrite, execGpivWrite, writeEvent_ctx ht rfl, gpivValue_le]
  · rw [exec_tcauseWrite, execTcauseWrite, writeEvent_ctx ht rfl, ← and_lowMask v (n := 12) (by decide), withCtx, Ctx.writeTcause_none hh]
    rfl
  · rw [exec_wdescWrite, execWdescWrite, if_neg hn, writeEvent_next ht (writeCreg_wdesc n hv s k t)]
  · rw [exec_wdescWrite, execWdescWrite, if_neg hn, writeEvent_trap ht (writeCreg_wdesc_refused n hv s k t)]
  · exact ⟨s.writeGroup c v, rfl, State.writeGroup_gsz .., State.writeGroup_threads ..,
      fun l hl => ((State.mem_writeGroup_lines s c v l).mp hl).2⟩
  · rw [exec_waysWrite, execWaysWrite, writeEvent_trap (r := .ways) ht (writeWays_illegal hfree k hm)]
  · rw [exec_waysWrite, execWaysWrite, writeEvent_next (r := .ways) ht (writeWays_same hfree hm hnone k heq)]

end Sys2Proof.Machine
end

section
/-! SUPPORT. Queue registers (R171, R172): bindings, shared queues, and the entries of completion queues (R250). -/
namespace Sys2Proof.Machine
open Sys2Proof Sys2Proof.Claims

variable {s : State} {k : Nat} {t : Thread} {i : Instr}

/-! ### Bindings (R172) -/

theorem Ctx.setQr_eq (c : Ctx) (q : BitVec 3) (p : Option Port) :
    c.setQr q p = { c with q := Vector.ofFn fun i => if i = q.toFin then p else c.q.get i } := by
  have hvec : c.q.set q.toNat p q.isLt = Vector.ofFn fun i => if i = q.toFin then p else c.q.get i := by
    refine Vector.ext fun j hj => ?_
    rw [Vector.getElem_set, Vector.getElem_ofFn]
    exact if_congr ⟨fun e => Fin.ext e.symm, fun e => (congrArg Fin.val e).symm⟩ rfl rfl
  rw [Ctx.setQr, hvec]

theorem Ctx.bindPort_eq (c : Ctx) (q : BitVec 3) (p : Port) : c.bindPort q p =
    { c with q := Vector.ofFn fun i => if i = q.toFin then some p else if c.q.get i = some p then none else c.q.get i } := by
  rw [Ctx.bindPort, Ctx.setQr_eq]
  congr 2
  funext j
  have hmap : (c.q.map fun x => if x = some p then none else x).get j = if c.q.get j = some p then none else c.q.get j :=
    Vector.getElem_map _ j.isLt
  rw [hmap]

theorem queueBinding_holds : queueBinding := by
  unfold queueBinding
  intro s k t qd p h
  obtain ⟨-, ht, -⟩ := id h
  refine ⟨?_, ?_⟩
  · rw [exec_qbind, execQbind, issue_selected h, State.modThread_some ht, settle_put, Thread.modCtx, Ctx.bindPort_eq]
    rfl
  · rw [exec_qrel, execQrel, issue_selected h, State.modThread_some ht, settle_put, Thread.modCtx, Ctx.setQr_eq]
    rfl

/-! ### Shared queues (R171) -/

theorem VCell.queue_eq (v : VCell) (n : Fin 4) : v.queue n = v.sq.get n := by
  rw [VCell.queue, List.getD_eq_getElem?_getD, List.getElem?_eq_getElem (by rw [Vector.length_toList]; exact n.isLt)]
  exact Vector.getElem_toList _

section
variable {q : BitVec 3} {r : Reg} (h : Selected s k t)
include h

theorem exec_qpush_shared {n : Fin 4} (hq : t.ctx.q.get q.toFin = some (sharedPort n)) : exec (.qpush q r) s =
    .next (settle (.qpush q r) k t (if 32 ≤ ((s.vcell (s.cellFor t)).queue n).length then .park s .queue
      else .next (s.setVcell (s.cellFor t) { s.vcell (s.cellFor t) with
        sq := setIdx (s.vcell (s.cellFor t)).sq n ((s.vcell (s.cellFor t)).queue n ++ [t.ctx.gpr r]) }))) := by
  have hq : t.ctx.qr q = some (sharedPort n) := hq
  rw [exec_qpush, execQpush, issue_selected h, hq]
  match n with
  | 0 | 1 | 2 | 3 => rfl

theorem exec_qpop_shared {n : Fin 4} (hq : t.ctx.q.get q.toFin = some (sharedPort n)) : exec (.qpop r q) s =
    .next (settle (.qpop r q) k t (match (s.vcell (s.cellFor t)).queue n with
      | [] => .park s .queue
      | v :: l => .next ((s.setVcell (s.cellFor t) { s.vcell (s.cellFor t) with sq := setIdx (s.vcell (s.cellFor t)).sq n l }).setReg k r v))) := by
  have hq : t.ctx.qr q = some (sharedPort n) := hq
  rw [exec_qpop, execQpop, issue_selected h, hq]
  match n with
  | 0 | 1 | 2 | 3 => rfl

theorem exec_qpush_unbound (hq : t.ctx.q.get q.toFin = none) : exec (.qpush q r) s = trapsWith s k t (.qpush q r) { code := 0x0E } := by
  have hq : t.ctx.qr q = none := hq
  rw [exec_qpush, execQpush, issue_selected h, hq]
  rfl

theorem exec_qpop_unbound (hq : t.ctx.q.get q.toFin = none ∨ t.ctx.q.get q.toFin = some .passpost) :
    exec (.qpop r q) s = trapsWith s k t (.qpop r q) { code := 0x0E } := by
  have hq : t.ctx.qr q = none ∨ t.ctx.qr q = some .passpost := hq
  rw [exec_qpop, execQpop, issue_selected h]
  rcases hq with hq | hq
  · rw [hq]
    rfl
  · rw [hq]
    rfl

end

theorem sharedQueueResult_holds : sharedQueueResult := by
  unfold sharedQueueResult
  intro s k t q r n h hr v
  obtain ⟨-, ht, -⟩ := id h
  refine ⟨fun hq hl => ?_, fun hq hl => ?_, fun x xs hq hx => ?_, fun hq hx => ?_, fun hq => ⟨exec_qpush_unbound h hq, exec_qpop_unbound h (.inl hq)⟩,
    fun hq => exec_qpop_unbound h (.inr hq)⟩
  · rw [exec_qpush_shared h hq, VCell.queue_eq, if_neg (Nat.not_le.mpr hl), settle_kept (by exact ht), setIdx_of_lt _ n.isLt]
    rfl
  · rw [exec_qpush_shared h hq, VCell.queue_eq, if_pos hl, settle_parked ht hr]
  · rw [exec_qpop_shared h hq, VCell.queue_eq, hx]
    simp only
    rw [State.setReg_eq (by exact ht), settle_put, setIdx_of_lt _ n.isLt]
    rfl
  · rw [exec_qpop_shared h hq, VCell.queue_eq, hx]
    exact settle_parked ht hr ..

/-! ### Completion queues (R250) -/

/-- The completion queue q of a port holds e as its oldest entry of the thread, which is u without it. -/
def Thread.Gives (t : Thread) (p : Port) (q : DoneQ) (e : Word) (u : Thread) : Prop :=
  ∃ es, p = .passdone ∧ q = .pass ∧ t.passdone = e :: es ∧ u = { t with passdone := es } ∨
    p = .cpydone ∧ q = .copy ∧ t.cpydone = e :: es ∧ u = { t with cpydone := es } ∨
    p = .decdone ∧ q = .load ∧ t.decdone = e :: es ∧ u = { t with decdone := es } ∨
    p = .probeout ∧ q = .probe ∧ t.probeout = e :: es ∧ u = { t with probeout := es }

theorem dropFirst_append {α : Type} {p : α → Bool} {a : List α} {f : α} {b : List α} (ha : ∀ x ∈ a, p x = false) (hf : p f = true) :
    dropFirst p (a ++ f :: b) = a ++ b := by
  induction a with
  | nil => exact if_pos hf
  | cons x a ih =>
    have hx : p x = false := ha x List.mem_cons_self
    rw [List.cons_append, dropFirst, hx, ih fun y hy => ha y (List.mem_cons_of_mem x hy)]
    rfl

theorem find?_append_first {α : Type} {p : α → Bool} {a : List α} {f : α} {b : List α} (ha : ∀ x ∈ a, p x = false) (hf : p f = true) :
    (a ++ f :: b).find? p = some f := by
  rw [List.find?_append, List.find?_eq_none.mpr fun x hx => Bool.eq_false_iff.mp (ha x hx), List.find?_cons_of_pos hf]
  rfl

section
variable {p : Port} {q : DoneQ} {qa : BitVec 3} {r : Reg} {e : Word} {u : Thread}

theorem Thread.Gives.engFlts (hp : t.Gives p q e u) : u.engFlts = t.engFlts := by
  obtain ⟨es, hp⟩ := hp
  rcases hp with ⟨-, -, -, rfl⟩ | ⟨-, -, -, rfl⟩ | ⟨-, -, -, rfl⟩ | ⟨-, -, -, rfl⟩
  all_goals rfl

variable (h : Selected s k t) (hq : t.ctx.q.get qa.toFin = some p) (hp : t.Gives p q e u)
include h hq hp

/-- A pop of a completion queue takes its oldest entry. -/
theorem exec_qpop_entry : exec (.qpop r qa) s = .next (settle (.qpop r qa) k t (popped (s.setThread k u) k t r q e)) := by
  have hq : t.ctx.qr qa = some p := hq
  obtain ⟨es, hp⟩ := hp
  rw [exec_qpop, execQpop, issue_selected h, hq]
  rcases hp with ⟨rfl, rfl, hl, rfl⟩ | ⟨rfl, rfl, hl, rfl⟩ | ⟨rfl, rfl, hl, rfl⟩ | ⟨rfl, rfl, hl, rfl⟩
  all_goals
    rw [hl]
    exact congrArg (fun s => Host.Outcome.next (settle _ k t (popped s k t r _ e))) (State.modThread_some h.2.1 _)

/-- An entry without a fault code goes to gd, with an acquire but for scout results. -/
theorem exec_qpop_value (hc : entryFcode q e = 0) : exec (.qpop r qa) s =
    .next (done (if q = .probe then s else acquireAt s t.pcell .sys) k (withReg u r e) (t.ctx.pc + 4)) := by
  have hreg : (s.setThread k u).setReg k r e = s.setThread k (withReg u r e) := by
    rw [State.setReg_eq (State.thread?_setThread ..), State.setThread_setThread]
    rfl
  have hput : (if q == .probe then s.setThread k (withReg u r e) else t.acquire .sys (s.setThread k (withReg u r e))) =
      (if q = .probe then s else acquireAt s t.pcell .sys).setThread k (withReg u r e) := by
    by_cases hq : q = .probe
    · simp only [hq, beq_self_eq_true, ↓reduceIte]
    · simp only [beq_false_of_ne hq, hq, ↓reduceIte, Bool.false_eq_true]
      exact acquireAt_setThread ..
  rw [exec_qpop_entry h hq hp]
  simp only [popped, hc, ne_eq, not_true_eq_false, ↓reduceIte, hreg, hput, settle_put]
  rfl

variable (hc : entryFcode q e ≠ 0)
include hc

/-- An entry with a fault code is the fault of the operation that it completes, which is kept no longer. -/
theorem exec_qpop_fault {a b : List EngFlt} {f : EngFlt} (hl : t.engFlts = a ++ f :: b) (hf : f.of_ q e = true)
    (ha : ∀ x ∈ a, x.of_ q e = false) : exec (.qpop r qa) s = trapsWith (s.setThread k { u with engFlts := a ++ b }) k t (.qpop r qa)
      { code := entryFcode q e, faddr := f.va, opr := some f.opr } := by
  rw [exec_qpop_entry h hq hp]
  simp only [popped, hc, ne_eq, not_false_eq_true, ↓reduceIte]
  rw [State.modThread_some (State.thread?_setThread ..), State.setThread_setThread, hp.engFlts, hl, find?_append_first ha hf,
    dropFirst_append ha hf]
  rfl

/-- Where no operation is kept, the operand record is empty (log 61). -/
theorem exec_qpop_unkept (hl : t.engFlts = []) : exec (.qpop r qa) s = trapsWith (s.setThread k u) k t (.qpop r qa)
    { code := entryFcode q e, opr := some {} } := by
  have hself : { u with engFlts := [] } = u := by rw [← hl, ← hp.engFlts]
  rw [exec_qpop_entry h hq hp]
  simp only [popped, hc, ne_eq, not_false_eq_true, ↓reduceIte]
  rw [State.modThread_some (State.thread?_setThread ..), State.setThread_setThread, hp.engFlts, hl, dropFirst, hself]
  rfl

end

theorem EngFlt.of_ticket (f : EngFlt) {q : DoneQ} (hq : q ≠ .pass) (e : Word) :
    f.of_ q e = decide (f.opr.ticket.toNat = e.toNat / 2 ^ 32) := by
  have he : fld e 32 32 = e.toNat / 2 ^ 32 := by
    have := e.isLt
    rw [fld_eq]
    omega
  cases q
  case pass => exact absurd rfl hq
  all_goals exact (beq_eq_decide ..).trans (by rw [he])

theorem EngFlt.of_pass (f : EngFlt) (e : Word) : f.of_ .pass e = decide (f.opr.ticket.toNat % 2 ^ 22 = e.toNat % 2 ^ 22) := by
  refine (beq_eq_decide ..).trans ?_
  rw [fld_eq, fld_eq, pow_zero, Nat.div_one, Nat.div_one]

theorem completionPop_holds : completionPop := by
  unfold completionPop
  intro s k t q r e es h
  have hpass : entryFcode .pass e = e.toNat / 2 ^ 22 % 32 := fld_eq ..
  have hcopy : entryFcode .copy e = e.toNat / 2 ^ 23 % 32 := fld_eq ..
  rw [← hpass, ← hcopy]
  have gpass (hl : t.passdone = e :: es) : t.Gives .passdone .pass e { t with passdone := es } := ⟨es, .inl ⟨rfl, rfl, hl, rfl⟩⟩
  have gcopy (hl : t.cpydone = e :: es) : t.Gives .cpydone .copy e { t with cpydone := es } := ⟨es, .inr (.inl ⟨rfl, rfl, hl, rfl⟩)⟩
  have gload (hl : t.decdone = e :: es) : t.Gives .decdone .load e { t with decdone := es } := ⟨es, .inr (.inr (.inl ⟨rfl, rfl, hl, rfl⟩))⟩
  have gprobe (hl : t.probeout = e :: es) : t.Gives .probeout .probe e { t with probeout := es } :=
    ⟨es, .inr (.inr (.inr ⟨rfl, rfl, hl, rfl⟩))⟩
  have hticket (q : DoneQ) (hq : q ≠ .pass) {f : EngFlt} (hm : f.opr.ticket.toNat = e.toNat / 2 ^ 32) : f.of_ q e = true := by
    rw [EngFlt.of_ticket _ hq, decide_eq_true hm]
  have hothers (q : DoneQ) (hq : q ≠ .pass) {a : List EngFlt} (ha : ∀ x ∈ a, x.opr.ticket.toNat ≠ e.toNat / 2 ^ 32) : ∀ x ∈ a, x.of_ q e = false :=
    fun x hx => by rw [EngFlt.of_ticket _ hq, decide_eq_false (ha x hx)]
  refine ⟨fun hq hl hc => exec_qpop_value h hq (gpass hl) hc, fun hq hl hc => exec_qpop_value h hq (gcopy hl) hc,
    fun hq hl hc => exec_qpop_value h hq (gload hl) hc, fun hq hl => exec_qpop_value h hq (gprobe hl) rfl,
    fun hq hl hc => ⟨fun a b f hf hm ha => ?_, fun hn => exec_qpop_unkept h hq (gcopy hl) hc hn⟩,
    fun a b f hq hl hc hf hm ha => ?_, fun a b f hq hl hc hf hm ha => ?_⟩
  · exact exec_qpop_fault h hq (gcopy hl) hc hf (hticket .copy nofun hm) (hothers .copy nofun ha)
  · exact exec_qpop_fault h hq (gload hl) hc hf (hticket .load nofun hm) (hothers .load nofun ha)
  · exact exec_qpop_fault h hq (gpass hl) hc hf (by rw [EngFlt.of_pass, decide_eq_true hm])
      fun x hx => by rw [EngFlt.of_pass, decide_eq_false (ha x hx)]

/-- Settles O43: bindings, shared queues, and the entries of completion queues. -/
theorem queueResults : Obligations.QueueResults := ⟨queueBinding_holds, sharedQueueResult_holds, completionPop_holds⟩

end Sys2Proof.Machine
end

section
/-! SUPPORT. Threads that wait: yield, sleep, wfw and wake (R144, R165). -/
namespace Sys2Proof.Machine
open Sys2Proof Sys2Proof.Claims

variable {s : State} {k : Nat} {t : Thread} {i : Instr} {a : Reg}

/-- A yield commits, and its thread waits for the others that are ready then, of which it is none. -/
theorem yieldBody_yields (ht : s.thread? k = some t) (hg : t.gang = .none) (hlen : instrLen i = 4) :
    ∃ t' : Thread, (settle i k t (yieldBody i s k t)).thread? k = some t' ∧ (settle i k t (yieldBody i s k t)).mem = s.mem ∧
      t'.ctx = { t.ctx with pc := t.ctx.pc + 4 } ∧ t'.run = .yielded ((done s k t (t.ctx.pc + 4)).readyOthers k t.pcell) := by
  have hpc : nextPc i t.ctx = t.ctx.pc + 4 := by rw [nextPc, hlen]; rfl
  have hcommit : s.commit k (nextPc i t.ctx) = done s k t (t.ctx.pc + 4) := by rw [State.commit_eq ht, hpc]; rfl
  have hdone : (done s k t (t.ctx.pc + 4)).thread? k = some (t.commitAt (t.ctx.pc + 4)) := State.thread?_committed ..
  have hself : ((done s k t (t.ctx.pc + 4)).readyOthers k t.pcell).filter (· != k) = (done s k t (t.ctx.pc + 4)).readyOthers k t.pcell := by
    refine List.filter_eq_self.mpr fun j hj => bne_iff_ne.mpr fun e => ?_
    obtain ⟨x, -, hx⟩ := List.mem_filterMap.mp hj
    obtain ⟨⟨hne, -⟩, hxj⟩ := Option.ite_none_right_eq_some.mp hx
    exact hne ((Option.some.inj hxj).trans e)
  simp only [yieldBody, Thread.inGang_none hg, Bool.false_eq_true, ↓reduceIte, hcommit, hdone, settle_stay]
  refine ⟨_, by rw [State.thread?_unyield, State.thread?_setThread, Option.map_some], rfl, Thread.unwait_ctx .., ?_⟩
  exact congrArg Run.yielded hself

theorem exec_sleep_waits (h : Selected s k t) (hg : t.gang = .none) (ha : t.ctx.gpr a ≠ 0) : exec (.sleep a) s = .next ((s.setThread k { t with
    run := .sleeping (s.cycOf t + 9 + (if (t.ctx.gpr a).toNat < 2 ^ 32 then (t.ctx.gpr a).toNat else 2 ^ 32 - 1)) }).unyield k) := by
  have ha' : (t.ctx.gpr a).toNat ≠ 0 := fun e => ha (BitVec.eq_of_toNat_eq e)
  have hmin : min (t.ctx.gpr a).toNat (2 ^ 32 - 1) = if (t.ctx.gpr a).toNat < 2 ^ 32 then (t.ctx.gpr a).toNat else 2 ^ 32 - 1 := by
    split
    · omega
    · omega
  have hne : ¬ min (t.ctx.gpr a).toNat (2 ^ 32 - 1) = 0 := by omega
  rw [exec_sleep, execSleep, issue_selected h]
  simp only [Thread.inGang_none hg, Bool.false_eq_true, if_neg hne, ↓reduceIte, State.modThread_some h.2.1, settle_stay]
  rw [hmin]

theorem exec_sleep_zero (h : Selected s k t) (hg : t.gang = .none) (ha : t.ctx.gpr a = 0) :
    exec (.sleep a) s = .next (settle (.sleep a) k t (yieldBody (.sleep a) s k t)) := by
  rw [exec_sleep, execSleep, issue_selected h]
  simp only [Thread.inGang_none hg, Bool.false_eq_true, ↓reduceIte, ha]
  rfl

theorem exec_sleepExpiry_early {n : Nat} (ht : s.thread? k = some t) (hr : t.run = .sleeping n) (hn : ¬ n ≤ s.cycOf t) :
    exec (.sleepExpiry k) s = .next s := by
  rw [exec_sleepExpiry, execSleepExpiry]
  simp only [ht, hr, if_neg hn]

theorem exec_wfw_woken (h : Selected s k t) (hg : t.gang = .none) (hw : t.ctx.wp = true) :
    exec .wfw s = .next (done s k (withCtx t fun c => { c with tstat := putFld c.tstat 25 1 0 }) (t.ctx.pc + 4)) := by
  rw [exec_wfw, execWfw, issue_selected h]
  simp only [Thread.inGang_none hg, Bool.false_eq_true, ↓reduceIte, hw, State.modThread_some h.2.1, settle_put]
  rfl

theorem exec_wfw_parks (h : Selected s k t) (hg : t.gang = .none) (hw : t.ctx.wp = false) (hr : t.run = .ready) :
    exec .wfw s = parkedFor s k .wfw t .wfw := by
  rw [exec_wfw, execWfw, issue_selected h]
  simp only [Thread.inGang_none hg, Bool.false_eq_true, ↓reduceIte, hw]
  exact settle_parked h.2.1 hr ..

theorem exec_wake_sends (h : Selected s k t) : exec (.wake a) s = .next (done { s with
    nextKey := s.nextKey + 1, wakes := s.wakes ++ [⟨s.nextKey, t.launch, (t.ctx.gpr a).setWidth 32⟩] } k t (t.ctx.pc + 4)) := by
  have hlow : (t.ctx.gpr a).extractLsb' 0 32 = (t.ctx.gpr a).setWidth 32 := BitVec.eq_of_toNat_eq (by simp)
  rw [exec_wake, execWake, issue_selected h, hlow, settle_kept (by exact h.2.1)]
  rfl

/-- Settles O14: a yield waits for the others, a sleep for its dclk, wfw for a wake, and wake sends one. -/
theorem threadWaits : Obligations.ThreadWaits := by
  unfold Obligations.ThreadWaits
  intro s k t a h hg
  obtain ⟨-, ht, -⟩ := id h
  refine ⟨fun i hi => ?_, exec_sleep_waits h hg, fun n hr => ?_, exec_wfw_woken h hg, exec_wfw_parks h hg, exec_wake_sends h⟩
  · have hexec : exec i s = .next (settle i k t (yieldBody i s k t)) ∧ instrLen i = 4 := by
      rcases hi with rfl | ⟨rfl, ha⟩
      · exact ⟨issue_selected h .., rfl⟩
      · exact ⟨exec_sleep_zero h hg ha, rfl⟩
    obtain ⟨t', hyield⟩ := yieldBody_yields ht hg hexec.2
    exact ⟨_, t', hexec.1, hyield⟩
  · split
    · exact exec_sleepExpiry_commits ht hr ‹_›
    · exact exec_sleepExpiry_early ht hr ‹_›

end Sys2Proof.Machine
end

section
/-! SUPPORT. What an indivisible access leaves alone, and what a join and the end of a task come to (R163, R164). -/
namespace Sys2Proof.Machine
open Sys2Proof Sys2Proof.Claims

variable {s s1 : State} {k : Nat} {t : Thread}

/-! ### Stamps, keys and wakes beside an access -/

/-- s' has given out the stamps and keys that s has, and the same wakes are on their way. -/
structure State.SameNames (s s' : State) : Prop where
  stamp : s'.stamp = s.stamp
  nextKey : s'.nextKey = s.nextKey
  wakes : s'.wakes = s.wakes

theorem State.SameNames.trans {a b c : State} (h : a.SameNames b) (g : b.SameNames c) : a.SameNames c :=
  ⟨g.stamp.trans h.stamp, g.nextKey.trans h.nextKey, g.wakes.trans h.wakes⟩

theorem State.Rewayed.names {s' : State} (h : s.Rewayed s') : s.SameNames s' := by
  obtain ⟨m, f, rfl⟩ := h
  exact ⟨rfl, rfl, rfl⟩

theorem State.names_fillTlb (s : State) (c : PCell) (f : Bool) (l : Loc) : s.SameNames (s.fillTlb c f l) := by
  unfold State.fillTlb
  split
  · exact ⟨rfl, rfl, rfl⟩
  · exact ⟨rfl, rfl, rfl⟩

theorem State.Rewayed.releaseAt (s : State) (c : PCell) (sc : Sys2Proof.Scope) : s.Rewayed (releaseAt s c sc) := by
  unfold Machine.releaseAt
  split
  · exact .cleanWhere ..
  · exact .refl s

theorem State.Rewayed.settle (loc : Loc) (s : State) (c : PCell) (n : Nat) : s.Rewayed (loc.settle s c n) := by
  unfold Loc.settle
  split
  · exact .flushRange ..
  · exact .refl s

theorem atPlace_names {acc : Acc} {va : Word} {n : Nat} {pre : State → State} {loc : Loc} {bs : List Byte} (h : AtPlace s t acc va n pre loc bs s1)
    (hpre : ∀ s : State, s.Rewayed (pre s)) : s.SameNames s1 := by
  obtain ⟨-, hread⟩ := h
  rw [readAt_home hread]
  exact ((State.names_fillTlb ..).trans (hpre _).names).trans (State.Rewayed.settle ..).names

/-! ### join (R163) -/

theorem State.thread?_toCache {u : Thread} (hu : s.thread? k = some u) (resumable : Bool) (run : Run) :
    ∃ b f, (s.toCache k resumable run).thread? k = some { u with
      place := .cache u.pcell resumable s.stamp, run := run, preempt := none, spilled := b, fctx := f } := by
  have hu' : s.tick.2.thread? k = some u := hu
  simp only [State.toCache, hu']
  exact State.thread?_spillOver (State.thread?_setThread ..) u.pcell

theorem State.toCache_mem (s : State) (k : Nat) (resumable : Bool) (run : Run) : (s.toCache k resumable run).mem = s.mem := by
  unfold State.toCache
  dsimp only
  split
  · rfl
  · exact State.spillOver_mem ..

theorem Thread.noted_ctx (t : Thread) (s : State) (g : Option (Nat × BitVec 16)) : (t.noted s g).ctx = t.ctx := by
  cases g with
  | none => rfl
  | some g => rfl

theorem Thread.noted_place (t : Thread) (s : State) (g : Option (Nat × BitVec 16)) : (t.noted s g).place = t.place := by
  cases g with
  | none => rfl
  | some g => rfl

theorem crossed_ctx (s : State) (t : Thread) (loc : Loc) : (crossed s t loc).ctx = t.ctx := Thread.noted_ctx ..

theorem crossed_pcell (s : State) (t : Thread) (loc : Loc) : (crossed s t loc).pcell = t.pcell := by
  rw [Thread.pcell, crossed, Thread.noted_place]
  rfl

section
variable {a : Reg} {loc : Loc} {bs : List Byte} (h : Selected s k t) (hg : t.gang = .none) (ho : Still t) (ha : (t.ctx.gpr a).toNat % 8 = 0)
  (hat : AtPlace s t .atomic (t.ctx.gpr a) 8 id loc bs s1)

/-- What a join leaves in memory, and its thread's record with the generation that the access crossed in. -/
def joined (s1 : State) (k : Nat) (t : Thread) (loc : Loc) (bs : List Byte) : State :=
  (s1.store loc.key (leOf 8 (joinWord t.tid (leVal bs)).1)).setThread k (crossed s1 t loc)

include h hg ho ha hat

/-- A join writes its word and then acquires, waits, or is illegal. -/
theorem exec_join_ends : ∃ f : Option Bool → Res,
    exec (.join a) s = .next (settle (.join a) k t (f (joinWord t.tid (leVal bs)).2)) ∧
    f none = .trap (joined s1 k t loc bs) { code := 0x01 } ∧ f (some true) = .next (t.acquire .part (joined s1 k t loc bs)) ∧
    f (some false) = if t.ctx.wp then .stay ((joined s1 k t loc bs).modThread k fun t => t.modCtx (·.setTstat bitWp false))
      else .stay (((joined s1 k t loc bs).toCache k false .suspended).modThread k fun t => { t with masks := BitVec.allOnes 40, forced := false }) := by
  obtain ⟨-, ht, -⟩ := id h
  have ht1 : s1.thread? k = some t := ((atPlace_same hat State.SameWorld.rfl').thread k).trans ht
  have hal : fld (t.ctx.gpr a) 0 3 = 0 := (fld_zero _ rfl).trans ha
  refine ⟨fun o => match o with
    | none => .trap (joined s1 k t loc bs) { code := fIllegal }
    | some true => .next (t.acquire .part (joined s1 k t loc bs))
    | some false =>
      if t.ctx.wp then .stay ((joined s1 k t loc bs).modThread k fun t => t.modCtx (·.setTstat bitWp false))
      else .stay (((joined s1 k t loc bs).toCache k false .suspended).modThread k fun t => { t with masks := BitVec.allOnes 40, forced := false }),
    ?_, rfl, rfl, rfl⟩
  rw [exec_join, execJoin, issue_selected h]
  simp only [Thread.inGang_none hg, Bool.false_eq_true, ↓reduceIte, hal, ne_eq, not_true_eq_false, State.waitRx_still ht ho, orTrap, ht,
    Option.getD_some, rmw_atPlace hat ht1]
  rfl

/-- With no child left, a join acquires and goes on. -/
theorem exec_join_done (hc : leVal bs % 2 ^ 32 = 0) : exec (.join a) s = .next (done
    (acquireAt (s1.store loc.key (leOf 8 (if leVal bs / 2 ^ 32 = t.tid.toNat then 0 else leVal bs))) t.pcell .part) k (crossed s1 t loc)
      (t.ctx.pc + 4)) := by
  obtain ⟨f, he, -, hf, -⟩ := exec_join_ends h hg ho ha hat
  have hword : joinWord t.tid (leVal bs) = (if leVal bs / 2 ^ 32 = t.tid.toNat then 0 else leVal bs, some true) := by
    unfold joinWord
    dsimp only
    rw [if_pos hc]
    split
    · rfl
    · rfl
  rw [he, hword, hf, Thread.acquire, joined, acquireAt_setThread, settle_put, hword]
  rfl

/-- A join whose word names another waiter is illegal, and the word stays. -/
theorem exec_join_conflict (hc : leVal bs % 2 ^ 32 ≠ 0) (h0 : leVal bs / 2 ^ 32 ≠ 0) (ht : leVal bs / 2 ^ 32 ≠ t.tid.toNat) :
    exec (.join a) s = trapsWith ((s1.store loc.key (leOf 8 (leVal bs))).setThread k (crossed s1 t loc)) k t (.join a) { code := 0x01 } := by
  obtain ⟨f, he, hf, -⟩ := exec_join_ends h hg ho ha hat
  have hword : joinWord t.tid (leVal bs) = (leVal bs, none) := by
    unfold joinWord
    dsimp only
    rw [if_neg hc, if_neg fun e => e.elim h0 ht]
  rw [he, hword, hf, settle_trap, joined, hword]

/-- With children left, a join names itself the waiter, and takes a wake that came in between or suspends. -/
theorem exec_join_waits (hc : leVal bs % 2 ^ 32 ≠ 0) (hw : leVal bs / 2 ^ 32 = 0 ∨ leVal bs / 2 ^ 32 = t.tid.toNat) :
    ∃ s' : State, exec (.join a) s = .next s' ∧ s'.mem = writeBytes s1.mem loc.key (leOf 8 (t.tid.toNat * 2 ^ 32 + leVal bs % 2 ^ 32)) ∧
      (t.ctx.wp = true → s'.thread? k =
        some ((withCtx (crossed s1 t loc) fun c => { c with tstat := putFld c.tstat 25 1 0 }).unwait k)) ∧
      (t.ctx.wp = false → ∃ t' : Thread, s'.thread? k = some t' ∧ t'.ctx = t.ctx ∧ t'.run = .suspended ∧
        t'.place = .cache t.pcell false s.stamp) := by
  obtain ⟨f, he, -, -, hf⟩ := exec_join_ends h hg ho ha hat
  have hword : joinWord t.tid (leVal bs) = (t.tid.toNat * 2 ^ 32 + leVal bs % 2 ^ 32, some false) := by
    unfold joinWord
    dsimp only
    rw [if_neg hc, if_pos hw]
  have hmem : (joined s1 k t loc bs).mem = writeBytes s1.mem loc.key (leOf 8 (t.tid.toNat * 2 ^ 32 + leVal bs % 2 ^ 32)) := by
    rw [joined, hword]
    rfl
  have hj : (joined s1 k t loc bs).thread? k = some (crossed s1 t loc) := State.thread?_setThread ..
  have hstamp : (joined s1 k t loc bs).stamp = s.stamp := (atPlace_names hat State.Rewayed.refl).stamp
  rw [he, hword, hf]
  by_cases hwp : t.ctx.wp = true
  · rw [if_pos hwp]
    refine ⟨_, rfl, ?_, fun _ => ?_, fun e => absurd hwp (Bool.eq_false_iff.mp e)⟩
    · exact (State.modThread_mem ..).trans hmem
    · rw [settle_stay, State.modThread_some hj, State.thread?_unyield, State.thread?_setThread]
      rfl
  · rw [if_neg hwp]
    obtain ⟨b, g, hcache⟩ := State.thread?_toCache hj false .suspended
    refine ⟨_, rfl, ?_, fun e => absurd e hwp, fun _ => ?_⟩
    · exact (State.modThread_mem ..).trans ((State.toCache_mem ..).trans hmem)
    · rw [settle_stay, State.modThread_some hcache, State.thread?_unyield, State.thread?_setThread, Option.map_some]
      exact ⟨_, rfl, crossed_ctx s1 t loc, rfl, congrArg₂ (Place.cache · false ·) (crossed_pcell s1 t loc) hstamp⟩

end

/-- Settles O12: a join goes on, waits, takes back a wake or is illegal, as its word says. -/
theorem joinResult : Obligations.JoinResult := by
  unfold Obligations.JoinResult
  exact fun s k t a loc bs s1 h hg ho ha hat => ⟨exec_join_done h hg ho ha hat, exec_join_waits h hg ho ha hat, exec_join_conflict h hg ho ha hat⟩

end Sys2Proof.Machine
end

section
/-! SUPPORT. What the end of a thread leaves alone, and the end of a task (R164). -/
namespace Sys2Proof.Machine
open Sys2Proof Sys2Proof.Claims

variable {a s s1 : State} {k : Nat} {t : Thread}

/-! ### The end of a thread -/

/-- A thread's record with another answer to what it waited for. -/
def Thread.rerun (t : Thread) (r : Run) (q : Option HomeReq) (e : Option Nat) : Thread := { t with run := r, req := q, homeErr := e }

theorem Thread.unwait_rerun (t : Thread) (k : Nat) : t.unwait k = t.rerun (t.unwait k).run t.req t.homeErr := by
  unfold Thread.unwait
  split
  · rfl
  · rfl

/-- s has the memory and the wakes of a, and its threads differ from those of a at most in what they wait for. -/
structure State.Amends (a s : State) : Prop where
  mem : s.mem = a.mem
  wakes : s.wakes = a.wakes
  records : ∀ j, ∃ r q e, s.thread? j = (a.thread? j).map fun t => t.rerun r q e

namespace State.Amends

theorem refl (s : State) : s.Amends s := by
  refine ⟨rfl, rfl, fun j => ?_⟩
  cases e : s.thread? j with
  | none => exact ⟨.ready, none, none, rfl⟩
  | some t => exact ⟨t.run, t.req, t.homeErr, rfl⟩

theorem trans {b : State} (h : a.Amends b) (g : b.Amends s) : a.Amends s := by
  refine ⟨g.mem.trans h.mem, g.wakes.trans h.wakes, fun j => ?_⟩
  obtain ⟨r, q, e, hj⟩ := h.records j
  obtain ⟨r', q', e', gj⟩ := g.records j
  exact ⟨r', q', e', by rw [gj, hj, Option.map_map]; rfl⟩

theorem of_eq {b : State} (h : a.Amends s) (ht : b.threads = s.threads := by rfl) (hm : b.mem = s.mem := by rfl)
    (hw : b.wakes = s.wakes := by rfl) : a.Amends b :=
  ⟨hm.trans h.mem, hw.trans h.wakes, fun j => by rw [State.thread?, ht]; exact h.records j⟩

theorem setThread {u : Thread} (h : a.Amends s) (ht : s.thread? k = some t) (hu : ∃ r q e, u = t.rerun r q e) : a.Amends (s.setThread k u) := by
  refine h.trans ⟨rfl, rfl, fun j => ?_⟩
  by_cases hj : j = k
  · obtain ⟨r, q, e, rfl⟩ := hu
    exact ⟨r, q, e, by rw [hj, State.thread?_setThread, ht]; rfl⟩
  · rw [State.thread?_setThread_other _ hj]
    exact (refl s).records j

theorem modRecord {f : Thread → Thread} (h : a.Amends s) (hf : ∀ t, ∃ r q e, f t = t.rerun r q e) : a.Amends (s.modRecord k f) := by
  suffices hm : a.Amends (s.modThread k f) from hm.of_eq
  cases ht : s.thread? k with
  | none => rwa [State.modThread_none ht]
  | some t =>
    rw [State.modThread_some ht]
    exact h.setThread ht (hf t)

theorem foldl {α : Type} {f : State → α → State} (hf : ∀ {s x}, a.Amends s → a.Amends (f s x)) (l : List α) (h : a.Amends s) :
    a.Amends (l.foldl f s) := by
  induction l generalizing s with
  | nil => exact h
  | cons x l ih => exact ih (hf h)

theorem unyield (h : a.Amends s) : a.Amends (s.unyield k) := by
  refine h.trans ⟨rfl, rfl, fun j => ?_⟩
  rw [State.thread?_unyield]
  cases ht : s.thread? j with
  | none => exact ⟨.ready, none, none, rfl⟩
  | some t =>
    exact ⟨(t.unwait k).run, t.req, t.homeErr, congrArg some (t.unwait_rerun k)⟩

theorem unpark {p : Parked → Bool} (h : a.Amends s) : a.Amends (s.unpark p) :=
  foldl (fun h => h.modRecord fun t => ⟨.ready, none, t.homeErr, rfl⟩) _ h.of_eq

theorem answerParked {p : Parked → Bool} {code : Nat} (h : a.Amends s) : a.Amends (s.answerParked p code) :=
  foldl (fun h => h.modRecord fun t => ⟨.ready, t.req, some code, rfl⟩) _ h.of_eq

theorem closeIfEmpty {l f : Nat} (h : a.Amends s) : a.Amends (s.closeIfEmpty l f) := by
  unfold State.closeIfEmpty
  split
  · exact h
  · dsimp only
    split
    · split
      · exact h.of_eq
      · exact answerParked h.of_eq
    · exact h

theorem dropAway (h : a.Amends s) : a.Amends (s.dropAway t) := by
  unfold State.dropAway
  split
  · exact h
  · exact h.of_eq

theorem dropWriter {c : PCell} (h : a.Amends s) : a.Amends (s.dropWriter k c) := by
  unfold State.dropWriter
  dsimp only
  split
  · exact h.of_eq
  · exact h

theorem endThread (ht : s.thread? k = some t) : (s.dropThread k).Amends (s.endThread k) := by
  have hs : (s.dropThread k).Amends ((((s.dropThread k).unyield k).unpark fun p => p.thread == k).dropWriter k t.pcell) :=
    (refl (s.dropThread k)).unyield.unpark.dropWriter
  simp only [State.endThread, ht]
  split
  · exact hs
  · exact hs.dropAway.closeIfEmpty

end State.Amends

theorem State.endThread_mem (s : State) (k : Nat) : (s.endThread k).mem = s.mem := by
  cases ht : s.thread? k with
  | none => simp only [State.endThread, ht]
  | some t => exact (State.Amends.endThread ht).mem

theorem State.endThread_wakes (s : State) (k : Nat) : (s.endThread k).wakes = s.wakes := by
  cases ht : s.thread? k with
  | none => simp only [State.endThread, ht]
  | some t => exact (State.Amends.endThread ht).wakes

theorem State.keepHeld_mem (s : State) (k : Nat) : (s.keepHeld k).mem = s.mem := by
  unfold State.keepHeld
  split
  · rfl
  · split
    · rfl
    · rfl

theorem State.keepHeld_wakes (s : State) (k : Nat) : (s.keepHeld k).wakes = s.wakes := by
  unfold State.keepHeld
  split
  · rfl
  · split
    · rfl
    · rfl

/-! ### tend (R164) -/

/-- Bytes of a number hold it up to their own width. -/
theorem leOf_mod : ∀ n x : Nat, leOf n (x % 256 ^ n) = leOf n x
  | 0, _ => rfl
  | n + 1, x => by
    have hbyte : BitVec.ofNat 8 (x % 256 ^ (n + 1)) = BitVec.ofNat 8 x := by
      refine BitVec.eq_of_toNat_eq ?_
      rw [BitVec.toNat_ofNat, BitVec.toNat_ofNat, Nat.pow_succ', show 2 ^ 8 = 256 from rfl, Nat.mod_mul_right_mod]
    rw [leOf, leOf, hbyte, Nat.pow_succ', Nat.mod_mul_right_div_self, leOf_mod n]

theorem word_origin (x : Nat) : (word x).extractLsb' 44 20 = BitVec.ofNat 20 (x / 2 ^ 44) := by
  refine BitVec.eq_of_toNat_eq ?_
  rw [word, BitVec.extractLsb'_toNat, BitVec.toNat_ofNat, BitVec.toNat_ofNat, Nat.shiftRight_eq_div_pow]
  omega

theorem word_domain (x : Nat) : (word x).extractLsb' 32 3 = BitVec.ofNat 3 (x / 2 ^ 32) := by
  refine BitVec.eq_of_toNat_eq ?_
  rw [word, BitVec.extractLsb'_toNat, BitVec.toNat_ofNat, BitVec.toNat_ofNat, Nat.shiftRight_eq_div_pow]
  omega

/-- A thread's record with its queue registers unbound. -/
def Thread.unbound (t : Thread) : Thread := withCtx t fun c => { c with q := Vector.replicate 8 none }

/-- The identity that an inline run restores from its two words (R164). -/
def Thread.outer (u : Thread) (b1 b2 : List Byte) : Thread := withCtx u fun c =>
  { (c.setGpr 14 (c.gpr 14 + 16)) with
    tstat := putFld c.tstat 48 16 (c.inl - 1), joinAddr := BitVec.ofNat 64 (leVal b2)
    origin := BitVec.ofNat 20 (leVal b1 / 2 ^ 44), domain := BitVec.ofNat 3 (leVal b1 / 2 ^ 32) }

theorem orTrap_ok {α : Type} (x : α) (f : α → Res) : orTrap (.ok x) f = f x := rfl

/-- What is left of tend once its identity, if any, is to be restored: t is the thread's record without its queues. -/
def tendLast (k : Nat) (t : Thread) (s : State) : Res :=
  if t.ctx.inl = 0 then .stay ((s.keepHeld k).endThread k)
  else orTrap (readIdentity s ((s.thread? k).getD t)) fun id =>
    .jump (id.2.modThread k fun t => t.modCtx fun c =>
      { (c.setGpr regLs (c.gpr regLs + 16)).setInl (c.inl - 1) with
        joinAddr := word id.1.2, origin := (word id.1.1).extractLsb' 44 20, domain := (word id.1.1).extractLsb' 32 3 }) (t.ctx.gpr regLr)

/-- The state after the join word w of a task has been read: its waiter is woken if it was the last, with a wake of key n. -/
def State.afterDec (s : State) (n : Nat) (t : Thread) (w : Nat) : State :=
  if w % 2 ^ 32 == 1 && w / 2 ^ 32 != 0 then
    { s with nextKey := s.nextKey + 1, wakes := s.wakes ++ [⟨n, t.launch, BitVec.ofNat 32 (w / 2 ^ 32)⟩] }
  else s

section
variable (h : Selected s k t) (hg : t.gang = .none) (ho : Still t)
include h hg ho

theorem exec_tend_held (hj : t.ctx.joinAddr ≠ 0) (hw : s.awaitsGen t .part = true) : exec .tend s = .next (s.unyield k) := by
  obtain ⟨-, ht, -⟩ := id h
  rw [exec_tend, execTend, issue_selected h]
  simp only [Thread.inGang_none hg, Bool.false_eq_true, ↓reduceIte, State.waitRx_still ht ho, orTrap, ht, Option.getD_some, hw, bne_iff_ne.mpr hj,
    Bool.and_self, orStay, settle_stay]

/-- A task with no join word ends without one. -/
theorem exec_tend_plain (hj : t.ctx.joinAddr = 0) :
    exec .tend s = .next (settle .tend k t (tendLast k t.unbound (s.setThread k t.unbound))) := by
  obtain ⟨-, ht, -⟩ := id h
  rw [exec_tend, execTend, issue_selected h]
  simp only [Thread.inGang_none hg, Bool.false_eq_true, ↓reduceIte, State.waitRx_still ht ho, orTrap_ok, Option.getD_some, hj, bne_self_eq_false,
    Bool.false_and, orStay, State.modThread_some ht, State.thread?_setThread, ne_eq, not_true_eq_false, false_and, tendLast]
  rfl

/-- A task with a join word makes it one lower, with a release, before it ends. -/
theorem exec_tend_counted {loc : Loc} {bs : List Byte} (hj : t.ctx.joinAddr ≠ 0) (hw : s.awaitsGen t .part = false)
    (hat : AtPlace (s.setThread k t.unbound) t.unbound .atomic t.ctx.joinAddr 8 (fun s => releaseAt s t.pcell .part) loc bs s1) :
    exec .tend s = .next (settle .tend k t (tendLast k t.unbound
      (((s1.store loc.key (leOf 8 ((leVal bs + (2 ^ 64 - 1)) % 2 ^ 64))).setThread k (crossed s1 t.unbound loc)).afterDec s.nextKey t (leVal bs)))) := by
  obtain ⟨-, ht, -⟩ := id h
  have ht1 : s1.thread? k = some t.unbound :=
    ((atPlace_same hat fun s => releaseAt_same s ..).thread k).trans (State.thread?_setThread ..)
  have hrmw : rmw (s.setThread k t.unbound) k t.unbound .atomic t.ctx.joinAddr 8 (fun n => n + (2 ^ 64 - 1)) (t.unbound.release .part) =
      .ok (leVal bs, (s1.store loc.key (leOf 8 ((leVal bs + (2 ^ 64 - 1)) % 2 ^ 64))).setThread k (crossed s1 t.unbound loc)) := by
    rw [show 2 ^ 64 = 256 ^ 8 from rfl, leOf_mod]
    exact rmw_atPlace hat ht1 _
  have hwake : (t.ctx.joinAddr ≠ 0 ∧ leVal bs % 2 ^ 32 = 1 ∧ leVal bs / 2 ^ 32 ≠ 0) ↔ (leVal bs % 2 ^ 32 == 1 && leVal bs / 2 ^ 32 != 0) = true := by
    rw [Bool.and_eq_true, beq_iff_eq, bne_iff_ne, and_iff_right hj]
  rw [exec_tend, execTend, issue_selected h]
  simp only [Thread.inGang_none hg, Bool.false_eq_true, ↓reduceIte, State.waitRx_still ht ho, orTrap_ok, ht, Option.getD_some, hw, Bool.and_false,
    orStay, State.modThread_some ht, State.thread?_setThread, if_neg hj]
  rw [show t.modCtx Ctx.unbindAll = t.unbound from rfl, hrmw]
  simp only [orTrap_ok, hwake, State.afterDec]
  rw [show s.nextKey = s1.nextKey from (atPlace_names hat fun s => .releaseAt ..).nextKey.symm]
  rfl

end

/-- An inline run goes on behind the task that it was called from. -/
theorem tendLast_inner {u : Thread} {b1 b2 : List Byte} {x s2 s3 : State} {t0 : Thread} (hi : t0.ctx.inl ≠ 0) (hu : u.ctx = t0.ctx)
    (hx : x.thread? k = some u) (h1 : readData x u (t0.ctx.gpr 14) 8 true = .ok (b1, s2))
    (h2 : readData s2 u (t0.ctx.gpr 14 + 8) 8 true = .ok (b2, s3)) :
    settle .tend k t (tendLast k t0 x) = done s3 k (u.outer b1 b2) (t0.ctx.gpr 15) := by
  rw [← hu] at h1 h2 ⊢
  have ht3 : s3.thread? k = some u := ((readData_same h2).thread k).trans (((readData_same h1).thread k).trans hx)
  have hi' : u.ctx.inl ≠ 0 := hu ▸ hi
  have hid : readIdentity x u = .ok ((leVal b1, leVal b2), s3) := by
    rw [readIdentity, if_neg hi']
    show (readData x u (u.ctx.gpr 14) 8 true >>= _) = _
    rw [h1]
    show (readData s2 u (u.ctx.gpr 14 + 8) 8 true >>= _) = _
    rw [h2]
    rfl
  simp only [tendLast, ← hu, if_neg hi', hx, Option.getD_some, hid, orTrap_ok, State.modThread_some ht3, settle_jump, word_origin, word_domain]
  rfl

/-- A task that runs by itself ends its thread. -/
theorem tendLast_alone {t0 : Thread} (hi : t0.ctx.inl = 0) (x : State) : ∃ s' : State, settle .tend k t (tendLast k t0 x) = s' ∧
    s'.thread? k = none ∧ s'.mem = x.mem ∧ s'.wakes = x.wakes := by
  refine ⟨_, rfl, ?_⟩
  rw [tendLast, if_pos hi, settle_stay, State.thread?_unyield, State.thread?_endThread]
  exact ⟨rfl, (State.endThread_mem ..).trans (State.keepHeld_mem ..), (State.endThread_wakes ..).trans (State.keepHeld_wakes ..)⟩

theorem State.afterDec_thread (s : State) (n : Nat) (t : Thread) (w j : Nat) : (s.afterDec n t w).thread? j = s.thread? j := by
  unfold State.afterDec
  split
  · rfl
  · rfl

theorem State.afterDec_mem (s : State) (n : Nat) (t : Thread) (w : Nat) : (s.afterDec n t w).mem = s.mem := by
  unfold State.afterDec
  split
  · rfl
  · rfl

theorem State.afterDec_wakes (s : State) (n : Nat) (t : Thread) (w : Nat) : (s.afterDec n t w).wakes = if w % 2 ^ 32 == 1 && w / 2 ^ 32 != 0 then
    s.wakes ++ [⟨n, t.launch, BitVec.ofNat 32 (w / 2 ^ 32)⟩] else s.wakes := by
  unfold State.afterDec
  split
  · rfl
  · rfl

/-- Settles O13: tend by the kind of its task and its join word. -/
theorem taskEnds : Obligations.TaskEnds := by
  unfold Obligations.TaskEnds
  intro s k t h hg ho
  refine ⟨fun hi hj => ?_, exec_tend_held h hg ho, fun loc bs s1 hi hj hw hat => ?_, fun b1 b2 s1 s2 hi hj h1 h2 => ?_,
    fun loc bs b1 b2 s1 s2 s3 hi hj hw hat h1 h2 => ?_⟩
  · obtain ⟨s', hs, hgone, hmem, hwakes⟩ := tendLast_alone (k := k) (t := t) (t0 := t.unbound) hi (s.setThread k t.unbound)
    exact ⟨s', hs ▸ exec_tend_plain h hg ho hj, hgone, hmem, hwakes⟩
  · obtain ⟨s', hs, hgone, hmem, hwakes⟩ := tendLast_alone (k := k) (t := t) (t0 := t.unbound) hi
      (((s1.store loc.key (leOf 8 ((leVal bs + (2 ^ 64 - 1)) % 2 ^ 64))).setThread k (crossed s1 t.unbound loc)).afterDec s.nextKey t (leVal bs))
    refine ⟨s', hs ▸ exec_tend_counted h hg ho hj hw hat, hgone, hmem.trans (State.afterDec_mem ..), hwakes.trans ?_⟩
    rw [State.afterDec_wakes, State.setThread_wakes]
    exact congrArg (fun w : List Wake => if leVal bs % 2 ^ 32 == 1 && leVal bs / 2 ^ 32 != 0 then
      w ++ [⟨s.nextKey, t.launch, BitVec.ofNat 32 (leVal bs / 2 ^ 32)⟩] else w) (atPlace_names hat fun s => .releaseAt ..).wakes
  · rw [exec_tend_plain h hg ho hj]
    exact congrArg _ (tendLast_inner (t0 := t.unbound) hi rfl (State.thread?_setThread ..) h1 h2)
  · have hc : (crossed s1 t.unbound loc).ctx = t.unbound.ctx := crossed_ctx ..
    rw [exec_tend_counted h hg ho hj hw hat]
    exact congrArg _ (tendLast_inner (t0 := t.unbound) hi hc ((State.afterDec_thread ..).trans (State.thread?_setThread ..)) h1 h2)

end Sys2Proof.Machine
end

section
/-! SUPPORT. A gang that forms and a gang that disbands (R168, R170). -/
namespace Sys2Proof.Machine
open Sys2Proof Sys2Proof.Claims

variable {s : State} {k : Nat} {t : Thread}

/-! ### ungang (R170) -/

theorem State.endThread_other {m : Nat} (s : State) (hk : k ≠ m) :
    ∃ r q e, (s.endThread m).thread? k = (s.thread? k).map fun t => t.rerun r q e := by
  cases hm : s.thread? m with
  | none =>
    simp only [State.endThread, hm]
    exact (State.Amends.refl s).records k
  | some u =>
    have hkept : (s.dropThread m).thread? k = s.thread? k := look?_dropAt_other hk _
    rw [← hkept]
    exact (State.Amends.endThread hm).records k

/-- The threads ms ended: what a gang's leader does with its followers (R89, R170). -/
def State.endThreads (s : State) (ms : List Nat) : State := ms.foldl (fun s m => (s.drainRx m).endThread m) s

/-- Followers that owe no store are ended without a change of memory or of their leader but for what it waits for. -/
theorem State.endThreads_leaves : ∀ (ms : List Nat) (s : State) (t : Thread), s.thread? k = some t → k ∉ ms →
    (∀ m ∈ ms, ∀ u, s.thread? m = some u → u.rx = []) →
    (s.endThreads ms).mem = s.mem ∧ ∃ r q e, (s.endThreads ms).thread? k = some (t.rerun r q e)
  | [], _, t, ht, _, _ => ⟨rfl, t.run, t.req, t.homeErr, ht⟩
  | m :: ms, s, t, ht, hk, hrx => by
    obtain ⟨hkm, hkms⟩ := not_or.mp (mt List.mem_cons.mpr hk)
    have hdrain : s.drainRx m = s := by
      cases hm : s.thread? m with
      | none => simp only [State.drainRx, hm]
      | some u => exact State.drainRx_quiet hm (hrx m List.mem_cons_self u hm)
    have hstep : s.endThreads (m :: ms) = (s.endThread m).endThreads ms := by
      rw [State.endThreads, List.foldl_cons, hdrain]
      rfl
    obtain ⟨r, q, e, hkept⟩ := State.endThread_other s hkm
    have hrest : ∀ j ∈ ms, ∀ u, (s.endThread m).thread? j = some u → u.rx = [] := by
      intro j hj u hu
      by_cases hjm : j = m
      · rw [hjm, State.thread?_endThread] at hu
        cases hu
      · obtain ⟨r', q', e', hj'⟩ := State.endThread_other s hjm
        rw [hj', Option.map_eq_some_iff] at hu
        obtain ⟨v, hv, rfl⟩ := hu
        exact hrx j (List.mem_cons_of_mem m hj) v hv
    rw [ht] at hkept
    obtain ⟨hmem, r', q', e', hend⟩ := State.endThreads_leaves ms _ _ hkept hkms hrest
    rw [hstep]
    exact ⟨hmem.trans (State.endThread_mem ..), r', q', e', hend⟩

theorem exec_ungang_settles (h : Selected s k t) (ho : Still t) : exec .ungang s = .next (settle .ungang k t (.next (s.disband k))) := by
  obtain ⟨-, ht, -⟩ := id h
  rw [exec_ungang, execUngang, issue_selected h, State.drainV_still ht ho.2]

theorem exec_ungang_alone (h : Selected s k t) (ho : Still t) (hg : t.gang = .none) :
    exec .ungang s = .next (done s k t (t.ctx.pc + 4)) := by
  obtain ⟨-, ht, -⟩ := id h
  have hsame : s.disband k = s := by simp only [State.disband, ht, hg]
  rw [exec_ungang_settles h ho, hsame, settle_kept ht]
  rfl

theorem exec_ungang_leader {ms : List Nat} (h : Selected s k t) (ho : Still t) (hg : t.gang = .leader ms) (hk : k ∉ ms)
    (hrx : ∀ m ∈ ms, ∀ u, s.thread? m = some u → u.rx = []) :
    ∃ s' : State, exec .ungang s = .next s' ∧ (∀ m ∈ ms, s'.thread? m = none) ∧ s'.mem = s.mem ∧
      s'.thread? k = some { (withCtx t fun c => { c with tstat := putFld c.tstat 23 1 0 }).commitAt (t.ctx.pc + 4) with gang := .none } := by
  obtain ⟨-, ht, -⟩ := id h
  obtain ⟨hmem, r, q, e, hend⟩ := State.endThreads_leaves ms s t ht hk hrx
  have hdis : s.disband k =
      (s.endThreads ms).setThread k { (t.rerun r q e).modCtx (·.setTstat bitGld false) with gang := .none, todo := none } := by
    simp only [State.disband, ht, hg]
    exact State.modThread_some hend _
  refine ⟨_, exec_ungang_settles h ho, fun m hm => ?_, ?_, ?_⟩
  · rw [hdis, settle_put, done, State.thread?_unyield, State.thread?_setThread_other _ (ne_of_mem_of_not_mem hm hk)]
    exact congrArg (Option.map _) (State.thread?_endThreads ms s m hm)
  · rw [hdis, settle_put]
    exact hmem
  · rw [hdis, settle_put]
    exact State.thread?_committed ..

theorem gangDisbands_holds : gangDisbands := fun _ _ _ h ho =>
  ⟨exec_ungang_alone h ho, fun _ hg hk _ hrx => exec_ungang_leader h ho hg hk hrx⟩

/-! ### Slots reserved (R88) -/

section
variable {n : Nat}

theorem State.reserveSlot_eq (s : State) (k n : Nat) (x : Seat) : ∃ v, s.reserveSlot k n x = { s with vcells := v } := by
  unfold State.reserveSlot
  dsimp only
  split
  · exact ⟨_, rfl⟩
  · exact ⟨_, rfl⟩

theorem State.reserveSlots_eq (k n : Nat) : ∀ (ms : List (Nat × Seat)) (s : State),
    ∃ v, ms.foldl (fun s m => s.reserveSlot k n m.2) s = { s with vcells := v }
  | [], s => ⟨s.vcells, rfl⟩
  | m :: ms, s => by
    obtain ⟨v, hv⟩ := State.reserveSlot_eq s k n m.2
    obtain ⟨w, hw⟩ := State.reserveSlots_eq k n ms { s with vcells := v }
    exact ⟨w, by rw [List.foldl_cons, hv, hw]⟩

/-- A slot that a leader can have: no thread is in it, its cell is not capped, and nothing is reserved there. -/
def State.Reservable (s : State) (n : Nat) (x : Seat) : Prop :=
  (s.vcell x.cell).reserved = [] ∧ (s.cell x.place.cell).capped = false ∧ ∀ y ∈ s.threads, y.2.slot? ≠ some (x.place.cell, n)

theorem State.reserveSlot_free {x : Seat} (h : s.Reservable n x) (k : Nat) :
    s.reserveSlot k n x = s.setVcell x.cell { s.vcell x.cell with reserved := [(n, k)] } := by
  obtain ⟨hr, hc, hfree⟩ := h
  have htaken : (s.threads.any fun y => y.2.slot? == some (x.place.cell, n)) = false :=
    List.any_eq_false.mpr fun y hy => by simpa only [beq_iff_eq] using hfree y hy
  simp only [State.reserveSlot, htaken, hc, hr, List.any_nil, Bool.or_self, Bool.false_eq_true, ↓reduceIte, List.nil_append]

theorem State.reserveSlot_reserves {x : Seat} (h : s.Reservable n x) : (s.reserveSlot k n x).isReserved k n x = true := by
  rw [State.reserveSlot_free h, State.isReserved, State.vcell_setVcell]
  exact List.contains_iff_mem.mpr List.mem_cons_self

theorem State.reserveSlot_keeps_reserved {x : Seat} (h : s.isReserved k n x = true) (y : Seat) :
    (s.reserveSlot k n y).isReserved k n x = true := by
  unfold State.reserveSlot
  dsimp only
  split
  · exact h
  · by_cases e : x.cell = y.cell
    · rw [State.isReserved, e, State.vcell_setVcell]
      rw [State.isReserved, e] at h
      exact List.contains_iff_mem.mpr (List.mem_append_left _ (List.contains_iff_mem.mp h))
    · rwa [State.isReserved, State.vcell, State.setVcell_vcells, lookD_putAt_other _ e, ← State.vcell]

theorem State.reserveSlots_keep_reserved {x : Seat} : ∀ (ms : List (Nat × Seat)) (s : State), s.isReserved k n x = true →
    (ms.foldl (fun s m => s.reserveSlot k n m.2) s).isReserved k n x = true
  | [], _, h => h
  | m :: ms, _, h => State.reserveSlots_keep_reserved ms _ (State.reserveSlot_keeps_reserved h m.2)

theorem State.Reservable.reserveSlot {x y : Seat} (hx : s.Reservable n x) (hy : s.Reservable n y) (e : y.cell ≠ x.cell) :
    (s.reserveSlot k n x).Reservable n y := by
  obtain ⟨hr, hc, hfree⟩ := hy
  rw [State.reserveSlot_free hx]
  refine ⟨?_, hc, hfree⟩
  rwa [State.vcell, State.setVcell_vcells, lookD_putAt_other _ e]

/-- A leader gets every slot of its gang that is free. -/
theorem State.reserveSlots_reserve : ∀ (ms : List (Nat × Seat)) (s : State), (ms.map fun m => m.2.cell).Nodup →
    (∀ m ∈ ms, s.Reservable n m.2) → (ms.all fun m => (ms.foldl (fun s m => s.reserveSlot k n m.2) s).isReserved k n m.2) = true
  | [], _, _, _ => rfl
  | m :: ms, s, hnd, hfree => by
    obtain ⟨hm, hnd⟩ := List.nodup_cons.mp hnd
    have hm0 := hfree m List.mem_cons_self
    have hrest : ∀ y ∈ ms, (s.reserveSlot k n m.2).Reservable n y.2 := fun y hy =>
      hm0.reserveSlot (hfree y (List.mem_cons_of_mem m hy)) (ne_of_mem_of_not_mem (List.mem_map_of_mem (f := fun m => m.2.cell) hy) hm)
    rw [List.all_cons, List.foldl_cons, Bool.and_eq_true]
    exact ⟨State.reserveSlots_keep_reserved ms _ (State.reserveSlot_reserves hm0), State.reserveSlots_reserve ms _ hnd hrest⟩

end

/-! ### Followers (R168) -/

/-- One follower is made: it has the next key, and the rest follow. -/
theorem State.addFollowers_cons (s : State) (lead : Nat) (t : Thread) (n f0 : Nat) (pc : Word) (m : Nat × Seat) (ms : List (Nat × Seat)) :
    ∃ (tid : Word) (since : Nat) (x : State), x.threads = s.threads ∧ x.nextKey = s.nextKey + 1 ∧ s.addFollowers lead t n f0 pc (m :: ms) =
      let r := (x.setThread s.nextKey { followerOf lead t n f0 pc tid m with slotSince := since }).addFollowers lead t n f0 pc ms
      (s.nextKey :: r.1, r.2) := ⟨_, _, (s.newTid m.2.cell m.1 n).2.fresh.2, rfl, rfl, rfl⟩

/-- The followers of a gang have the next keys, in the order of their seats, and no other record changes. -/
theorem State.addFollowers_threads (lead : Nat) (t : Thread) (n f0 : Nat) (pc : Word) : ∀ (ms : List (Nat × Seat)) (s : State),
    (s.addFollowers lead t n f0 pc ms).1 = List.range' s.nextKey ms.length ∧
    (∀ i < s.nextKey, (s.addFollowers lead t n f0 pc ms).2.thread? i = s.thread? i) ∧
    ∀ j m, ms[j]? = some m → ∃ tid since, (s.addFollowers lead t n f0 pc ms).2.thread? (s.nextKey + j) =
      some { followerOf lead t n f0 pc tid m with slotSince := since }
  | [], _ => ⟨rfl, fun _ _ => rfl, fun _ _ h => nomatch h⟩
  | m :: ms, s => by
    obtain ⟨tid, since, x, hthreads, hnext, hcons⟩ := State.addFollowers_cons s lead t n f0 pc m ms
    obtain ⟨hkeys, hold, hnew⟩ := State.addFollowers_threads lead t n f0 pc ms
      (x.setThread s.nextKey { followerOf lead t n f0 pc tid m with slotSince := since })
    rw [State.setThread_nextKey, hnext] at hkeys hold hnew
    rw [hcons]
    refine ⟨congrArg (s.nextKey :: ·) hkeys, fun i hi => ?_, fun j m' hj => ?_⟩
    · dsimp only
      rw [hold i (Nat.lt_succ_of_lt hi), State.thread?_setThread_other _ (Nat.ne_of_lt hi), State.thread?, hthreads]
      rfl
    · cases j with
      | zero =>
        cases hj
        exact ⟨tid, since, (hold _ (Nat.lt_succ_self _)).trans (State.thread?_setThread ..)⟩
      | succ j =>
        rw [← Nat.add_assoc, Nat.add_right_comm]
        exact hnew j m' hj

/-! ### gang (R168) -/

theorem look?_mem {α β : Type} [DecidableEq α] {k : α} {v : β} {l : List (α × β)} (h : look? k l = some v) : (k, v) ∈ l := by
  induction l with
  | nil => cases h
  | cons x l ih =>
    rw [look?] at h
    split at h
    · next e =>
      cases h
      exact e ▸ List.mem_cons_self
    · exact List.mem_cons_of_mem _ (ih h)

/-- What a follower starts with: the leader's registers but for g3 and g4, and nothing in its vector and queue registers. -/
theorem followerOf_regs (lead : Nat) (t : Thread) (n f0 : Nat) (pc tid : Word) (m : Nat × Seat) :
    let c := (followerOf lead t n f0 pc tid m).ctx
    c.gpr 3 = BitVec.ofNat 64 m.1 ∧ c.gpr 4 = BitVec.ofNat 64 (m.1 - f0) ∧ (∀ r : Reg, r ≠ 3 → r ≠ 4 → c.gpr r = t.ctx.gpr r) ∧
    (∀ v : VNum, c.vr v = 0) ∧ ∀ q, c.qr q = none := by
  have hg : ∀ r : Reg, (followerOf lead t n f0 pc tid m).ctx.gpr r = ((t.ctx.setGpr 3 (word m.1)).setGpr 4 (word (m.1 - f0))).gpr r :=
    fun _ => rfl
  refine ⟨?_, ?_, fun r h3 h4 => ?_, fun v => Vector.getElem_replicate .., fun q => Vector.getElem_replicate ..⟩
  · rw [hg, Ctx.gpr_setGpr_other _ (by decide), Ctx.gpr_setGpr_same]
    rfl
  · rw [hg, Ctx.gpr_setGpr_same]
    rfl
  · rw [hg, Ctx.gpr_setGpr_other _ h4, Ctx.gpr_setGpr_other _ h3]

section
variable {w : GangWidth} {c : PCell} {n : Nat} {x : Seat} {ms : List (Nat × Seat)} (h : Selected s k t) (hg : t.gang = .none) (ho : Still t)
  (hp : t.place = .slot c n) (hx : s.seat t = some x) (hf : x.place.fold = 0) (hn : n < x.launch.ready.slots)
  (hs : s.gangSeats t (GangWidth.size w) = some ms) (hnd : (ms.map fun m => m.2.cell).Nodup) (hkeys : ∀ y ∈ s.threads, y.1 < s.nextKey)
  (hfree : ∀ m ∈ ms, s.Reservable n m.2)
include h hg ho hp hx hf hn hs hnd hfree

/-- A gang whose slots are free forms from a state with the same threads and keys. -/
theorem exec_gang_forms : ∃ (s0 : State) (r : List Nat × State), s0.threads = s.threads ∧ s0.nextKey = s.nextKey ∧
    r = s0.addFollowers k t n (t.flat / (GangWidth.size w) * (GangWidth.size w)) (t.ctx.pc + 4) ms ∧
    exec (.gang w) s = .next (settle (.gang w) k t (.next (r.2.modThread k fun t =>
      { t.modCtx (·.setTstat bitGld true) with gang := .leader r.1 }))) := by
  obtain ⟨-, ht, -⟩ := id h
  have hall := State.reserveSlots_reserve (k := k) ms s hnd hfree
  obtain ⟨v, hv⟩ := State.reserveSlots_eq k n ms s
  rw [hv] at hall
  refine ⟨({ s with vcells := v } : State).releaseSlots k, _, rfl, rfl, rfl, ?_⟩
  have ht0 : (({ s with vcells := v } : State).releaseSlots k).thread? k = some t := ht
  rw [exec_gang, execGang, issue_selected h]
  simp only [hp, hx, hs, Thread.inGang_none hg, hf, bne_self_eq_false, Nat.not_le.mpr hn, decide_false, Bool.or_self, Bool.false_eq_true,
    ↓reduceIte, State.drainV_still ht ho.2, hv, hall, ht0, Option.getD_some]
  rfl

include hkeys

theorem exec_gang_members : ∃ (s' : State) (fs : List Nat), exec (.gang w) s = .next s' ∧ fs.length = ms.length ∧
    s'.thread? k = some { (withCtx t fun c => { c with tstat := putFld c.tstat 23 1 1 }).commitAt (t.ctx.pc + 4) with gang := .leader fs } ∧
    ∀ (j : Nat) (m : Nat × Seat) (f : Nat), ms[j]? = some m → fs[j]? = some f → ∃ tid since, s'.thread? f =
      some { followerOf k t n (t.flat / (GangWidth.size w) * (GangWidth.size w)) (t.ctx.pc + 4) tid m with slotSince := since } := by
  obtain ⟨-, ht, -⟩ := id h
  obtain ⟨s0, _, hthreads, hnext, rfl, hexec⟩ := exec_gang_forms h hg ho hp hx hf hn hs hnd hfree
  obtain ⟨hfs, hold, hnew⟩ := s0.addFollowers_threads k t n (t.flat / (GangWidth.size w) * (GangWidth.size w)) (t.ctx.pc + 4) ms
  have hk : k < s0.nextKey := hnext ▸ hkeys _ (look?_mem ht)
  have htk := (hold k hk).trans ((congrArg (look? k) hthreads).trans ht)
  rw [State.modThread_some htk, settle_put] at hexec
  refine ⟨_, _, hexec, ?_, State.thread?_committed .., fun j m f hj hfj => ?_⟩
  · rw [hfs, List.length_range']
  · obtain ⟨hlt, rfl⟩ := List.getElem?_eq_some_iff.mp hfj
    obtain ⟨tid, since, hu⟩ := hnew j m hj
    have hkey : (s0.addFollowers k t n (t.flat / (GangWidth.size w) * (GangWidth.size w)) (t.ctx.pc + 4) ms).1[j] = s0.nextKey + j := by
      simp only [hfs, List.getElem_range', Nat.one_mul]
    have hne : s0.nextKey + j ≠ k := Nat.ne_of_gt (Nat.lt_add_right j hk)
    refine ⟨tid, since, ?_⟩
    rw [hkey, done, State.thread?_unyield, State.thread?_setThread_other _ hne, hu]
    rfl

end

theorem gangForms_holds : gangForms := by
  unfold gangForms
  intro s k t w c n x ms h hg ho hp hx hf hn hs hnd hkeys hfree
  obtain ⟨s', fs, hexec, hlen, hlead, hmembers⟩ := exec_gang_members h hg ho hp hx hf hn hs hnd hkeys hfree
  refine ⟨s', fs, hexec, hlen, hlead, fun j m f hj hfj => ?_⟩
  obtain ⟨tid, since, hu⟩ := hmembers j m f hj hfj
  exact ⟨_, hu, rfl, rfl, rfl, rfl, rfl, followerOf_regs k t n _ _ tid m⟩

/-- Settles O44: a gang forms and disbands as R168 and R170 say. -/
theorem gangResults : Obligations.GangResults := ⟨gangForms_holds, gangDisbands_holds⟩

end Sys2Proof.Machine
end

section
/-! SUPPORT. Loads and stores of a thread at addresses that are neither windows nor control space, and relaxed stores at any address (R226 to R228):
what an ordering comes to before and after the access, the number that a load reads, and a relaxed store queued, with room and without. -/
namespace Sys2Proof.Machine
open Sys2Proof Sys2Proof.Claims

variable {s s' : State} {k n : Nat} {t : Thread} {i : Instr} {va : Word} {loc : Loc} {bs : List Byte}

/-! ### Orderings beside an access (R223) -/

theorem ordAcq_iff (r : Ord) : ordAcq r = true ↔ r = .acq ∨ r = .both := by
  cases r <;> decide

theorem ordRel_iff (r : Ord) : ordRel r = true ↔ r = .rel ∨ r = .both := by
  cases r <;> decide

/-- The acquire after an access is that of its extension word. -/
theorem acquired_eq (e : Option Ext) (t : Thread) (s : State) :
    (if ordAcq (extD e).ord then t.acquire (extD e).scope s else s) = acquired s t (ordIn e) (scopeIn e) := by
  simp only [extD_ord, extD_scope, ordAcq_iff]
  rfl

theorem releaseOf_eq (t : Thread) (e : Option Ext) (s : State) : releaseOf t e s = released s t (ordIn e) (scopeIn e) := by
  simp only [releaseOf, extD_ord, extD_scope, ordRel_iff]
  rfl

theorem acquired_setThread (s : State) (t u : Thread) (k : Nat) (r : Ord) (sc : Sys2Proof.Scope) :
    acquired (s.setThread k u) t r sc = (acquired s t r sc).setThread k u := by
  unfold acquired
  split
  · exact acquireAt_setThread ..
  · rfl

theorem released_same (s : State) (t : Thread) (r : Ord) (sc : Sys2Proof.Scope) : s.SameWorld (released s t r sc) := by
  unfold released
  split
  · exact releaseAt_same ..
  · exact .rfl' s

/-- A release that a generation holds up waits (R224). -/
theorem ordRel_not_freed {e : Option Ext} (h : ¬ Freed s t (ordIn e) (scopeIn e)) :
    (ordRel (extD e).ord && s.awaitsGen t (extD e).scope) = true := by
  obtain ⟨hr, ha⟩ := Classical.not_imp.mp h
  rw [extD_ord, extD_scope, (ordRel_iff _).mpr hr, Bool.true_and]
  exact Bool.eq_true_of_not_eq_false ha

theorem cached_eq (e : Option Ext) (s : State) (w : Who) (loc : Loc) : ((extD e).ord == .none && isCached s w loc) = cachedFor s w loc (ordIn e) := by
  rw [extD_ord]
  rfl

theorem State.whoOf_cell (s : State) (t : Thread) : (s.whoOf t).cell = t.pcell := rfl

/-! ### The number that a load reads (R226) -/

theorem readCached_length_le (s : State) (c : PCell) (key n : Nat) : (s.readCached c key n).1.length ≤ n := by
  rw [State.readCached]
  exact List.length_take_le ..

theorem readAt_length_le {w : Who} {cached : Bool} (h : readAt s w loc n cached = .ok (bs, s')) : bs.length ≤ n := by
  unfold readAt at h
  split at h
  · cases h
    exact List.length_replicate.le
  · split at h
    · cases h
    · split at h
      · cases h
      · split at h
        · cases h
          exact readCached_length_le ..
        · cases h
          exact (readFrom_length ..).le

theorem overlayRx_length (s : State) (rx : List RxStore) (key : Nat) (bs : List Byte) : (overlayRx s rx key bs).length = bs.length := by
  unfold overlayRx
  split
  · rfl
  · rw [List.length_map, List.length_zipIdx]

/-- A number of at most n bytes, extended to a register. -/
theorem extendLoad_eq (sg : Bool) (h : bs.length ≤ n) : extendLoad n sg (leVal bs) = loaded n sg bs := by
  have hlt : leVal bs < 2 ^ (8 * n) := calc
    leVal bs < 256 ^ bs.length := leVal_lt bs
    _ ≤ 256 ^ n := Nat.pow_le_pow_right (by decide) h
    _ = 2 ^ (8 * n) := (Nat.pow_mul 2 8 n).symm
  simp only [extendLoad, loaded, signedOf, signedBytes, Nat.mod_eq_of_lt hlt, Nat.cast_pow, Nat.cast_ofNat]
  rfl

/-! ### Loads (R226, R227) -/

/-- The part of a load that is relaxed, or whose thread has no relaxed store outstanding. -/
theorem loadBody_eq {o : Load} (ht : s.thread? k = some t) (hq : relaxedIn o.ext = true ∨ Quiet t) (n : Nat) (sg : Bool) :
    loadBody n sg o s k t = orTrap (loadValue s t (addrOf t.ctx o.a o.imm) n (n == 4) ((extD o.ext).ord == .none)) fun r =>
      .next (acquired (r.2.setReg k o.d (extendLoad n sg r.1)) t (ordIn o.ext) (scopeIn o.ext)) := by
  simp only [← acquired_eq]
  rcases hq with hr | hq
  · simp only [loadBody, extD_rx, hr, ↓reduceIte, orTrap, ht, Option.getD_some]
    rfl
  · exact loadBody_quiet ht hq n sg o

/-- The number that a load reads where its address passes the checks. -/
theorem loadValue_reads {e : Option Ext} (hc : Common va) (hr : resolve s (s.whoOf t) .load va n n = .ok loc)
    (hb : readOwn (s.fillTlb t.pcell false loc) (s.whoOf t) loc n (cachedFor (s.fillTlb t.pcell false loc) (s.whoOf t) loc (ordIn e)) =
      .ok (bs, s')) (isWord : Bool) :
    loadValue s t va n isWord ((extD e).ord == .none) = .ok (leVal (overlayRx s' t.rx loc.key bs), s') := by
  have hread : readData s t va n ((extD e).ord == .none) = .ok (overlayRx s' t.rx loc.key bs, s') := by
    simp only [readData, hr, cached_eq, State.whoOf_cell, hb]
  simp only [loadValue, isControl_common hc, isAlias_common hc, Bool.false_eq_true, ↓reduceIte, hread, Except.map]

/-- Settles O9: the load's own part reads the bytes at its place, and the acquire that follows leaves the thread's record alone. -/
theorem loadResult : Obligations.LoadResult := by
  unfold Obligations.LoadResult
  intro s k t i n sg o loc bs s' h hi hla hq hc hr hb
  obtain ⟨-, ht, -⟩ := id h
  have ht' : s'.thread? k = some t := (((State.sameWorld_fillTlb ..).trans (readOwn_same hb)).thread k).trans ht
  have hlen : (overlayRx s' t.rx loc.key bs).length ≤ n := (overlayRx_length ..).trans_le (readAt_length_le hb)
  rw [exec_load h hi hla, loadBody_eq ht hq, loadValue_reads hc hr hb, ← instrLen_load hi, ← extendLoad_eq sg hlen]
  simp only [orTrap, State.setReg_eq ht', acquired_setThread, settle_put]
  rfl

/-! ### Stores (R226, R227, R224) -/

/-- A store whose address passes the checks writes its bytes after its release, and its thread notes the generation. -/
theorem storeValue_writes {e : Option Ext} {v : Word} (ht : s.thread? k = some t) (hc : Common va)
    (hr : resolve s (s.whoOf t) .store va n n = .ok loc)
    (hw : let s1 := released (s.fillTlb t.pcell false loc) t (ordIn e) (scopeIn e)
      writeAt s1 (s.whoOf t) loc (leOf n v.toNat) (cachedFor s1 (s.whoOf t) loc (ordIn e)) = .ok s') :
    storeValue s k t va n v ((extD e).ord == .none) (releaseOf t e) = .ok (s'.setThread k (crossed s' t loc)) := by
  have ht' : s'.thread? k = some t :=
    ((((State.sameWorld_fillTlb ..).trans (released_same ..)).trans (writeAt_same hw)).thread k).trans ht
  dsimp only at hw
  simp only [storeValue, isControl_common hc, isAlias_common hc, Bool.false_eq_true, ↓reduceIte, writeData, leOf_length, hr, releaseOf_eq,
    cached_eq, State.whoOf_cell, hw, State.noteGen_some ht', State.genOf_whoOf s' s, crossed]

/-- An ordered store whose release waits for a generation issues again. -/
theorem exec_store_stays {o : Store} (h : Selected s k t) (hi : storeOf i = some (n, o)) (hr : relaxedIn o.ext = false) (hq : Quiet t)
    (hf : ¬ Freed s t (ordIn o.ext) (scopeIn o.ext)) : exec i s = .next (s.unyield k) := by
  obtain ⟨-, ht, -⟩ := id h
  obtain ⟨hx, he⟩ := hq
  have hrel := ordRel_not_freed hf
  rw [exec_store h hi]
  simp only [storeBody, extD_rx, hr, Bool.false_eq_true, ↓reduceIte, State.waitRx_quiet ht hx he, orTrap, ht, Option.getD_some, orStay, hrel]
  rfl

theorem storeResult_holds : storeResult := by
  unfold storeResult
  intro s k t i n o loc s' h hi hrx hq hc hr hw
  refine ⟨fun hf => ?_, exec_store_stays h hi hrx hq⟩
  obtain ⟨-, ht, -⟩ := id h
  rw [exec_store h hi, storeBody_quiet ht hq hrx hf, storeValue_writes ht hc hr hw, ← instrLen_store hi]
  simp only [orTrap, settle_put]
  rfl

/-! ### Relaxed stores (R228) -/

theorem State.thread?_holdGen (s : State) (g : Option (Nat × BitVec 16)) (k : Nat) : (s.holdGen g).thread? k = s.thread? k := by
  cases g with
  | none => rfl
  | some g => rfl

theorem Thread.noted_rx (t : Thread) (s : State) (g : Option (Nat × BitVec 16)) : (t.noted s g).rx = t.rx := by
  cases g with
  | none => rfl
  | some g => rfl

/-- A relaxed store joins those that its thread has on their way: its generation is held and noted, and it takes a ticket. -/
def State.joinRx (s : State) (k : Nat) (x : RxStore) : State :=
  ((s.holdGen x.gen).noteGen k x.gen).modThread k fun t => { t.takeTicket with rx := t.rx ++ [x] }

theorem State.joinRx_some (ht : s.thread? k = some t) (x : RxStore) :
    s.joinRx k x = (s.holdGen x.gen).setThread k { (t.noted (s.holdGen x.gen) x.gen).takeTicket with rx := t.rx ++ [x] } := by
  have ht' := (s.thread?_holdGen x.gen k).trans ht
  simp only [State.joinRx, State.noteGen_some ht', State.modThread_some (State.thread?_setThread ..), State.setThread_setThread, Thread.noted_rx]

theorem State.postRx_room (hl : t.rx.length < 8) (s : State) (k : Nat) (x : RxStore) : s.postRx k t x = s.joinRx k x := by
  unfold State.postRx
  cases hrx : t.rx with
  | nil => rfl
  | cons y ys =>
    have hl' : (y :: ys).length < 8 := hrx ▸ hl
    simp only [hl', ↓reduceIte]
    rfl

/-- A ninth relaxed store waits for the oldest to be acknowledged. -/
theorem State.postRx_full {y : RxStore} {ys : List RxStore} (hrx : t.rx = y :: ys) (hl : 8 ≤ t.rx.length) (s : State) (k : Nat) (x : RxStore) :
    s.postRx k t x = ((s.ackStore k y).modThread k fun t => { t with rx := ys }).joinRx k x := by
  have hl' : ¬ (y :: ys).length < 8 := hrx ▸ Nat.not_lt.mpr hl
  simp only [State.postRx, hrx, hl', ↓reduceIte]
  rfl

/-- The oldest relaxed store performed and acknowledged. -/
theorem State.ackStore_performed {y : RxStore} (ht : s.thread? k = some t) (hp : y.perform s t = .ok s') (hg : y.gen = none) :
    s.ackStore k y = s' := by
  simp only [State.ackStore, ht, hp, hg]

/-- A store of bytes is performed at its place. -/
theorem RxStore.perform_bytes {y : RxStore} (h : y.kind = .bytes) (s : State) (t : Thread) :
    y.perform s t = writeAt s { s.whoOf t with bank := y.bank } { key := y.key, domain := y.domain, peer := y.peer } y.bytes false := by
  simp only [RxStore.perform, h]

section
variable {o : Store} {x : RxStore} {s1 : State} (h : Selected s k t) (hi : storeOf i = some (n, o)) (hr : relaxedIn o.ext = true)
  (hx : rxStoreOf s t i (addrOf t.ctx o.a o.imm) n (t.ctx.gpr o.d) = .ok (x, s1)) (ht1 : s1.thread? k = some t)
include h hi hr hx ht1

/-- A relaxed store that has passed its checks commits where its thread has room for it. -/
theorem exec_relaxed_room (hl : t.rx.length < 8) : exec i s = .next (done (s1.holdGen x.gen) k
    { (t.noted (s1.holdGen x.gen) x.gen).takeTicket with rx := t.rx ++ [x] } (t.ctx.pc + BitVec.ofNat 64 (memLen o.ext o.imm))) := by
  rw [exec_store h hi, storeBody_relaxed hr, hx, ← instrLen_store hi]
  simp only [State.postRx_room hl, State.joinRx_some ht1, settle_put]
  rfl

/-- A ninth relaxed store commits once the oldest is performed. -/
theorem exec_relaxed_full {y : RxStore} {ys : List RxStore} (hrx : t.rx = y :: ys) (hl : 8 ≤ t.rx.length) (hp : y.perform s1 t = .ok s')
    (hgy : y.gen = none) (ht' : s'.thread? k = some t) (hgx : x.gen = none) :
    exec i s = .next (done s' k { t.takeTicket with rx := ys ++ [x] } (t.ctx.pc + BitVec.ofNat 64 (memLen o.ext o.imm))) := by
  rw [exec_store h hi, storeBody_relaxed hr, hx, ← instrLen_store hi]
  simp only [State.postRx_full hrx hl, State.ackStore_performed ht1 hp hgy, State.modThread_some ht',
    State.joinRx_some (State.thread?_setThread ..), hgx, State.holdGen, State.setThread_setThread, settle_put]
  rfl

end

/-- The record of a relaxed store of thread t by its instruction i (R228). -/
def Thread.rxTo (s : State) (t : Thread) (i : Instr) (va : Word) (kind : RxKind) (key : Nat) (bs : List Byte) (domain : Option Nat)
    (peer : Option LCell) (gen : Option (Nat × BitVec 16)) : RxStore :=
  { opr := recordOf i t.ctx t.ticket, va := va, key := key, bytes := bs, domain := domain, peer := peer, bank := (s.cell t.pcell).bank
    kind := kind, gen := gen }

/-- A relaxed store to memory keeps its bytes and their place. -/
theorem rxStoreOf_place (hc : Common va) (hr : resolve s (s.whoOf t) .store va n n = .ok loc) (i : Instr) (v : Word) :
    rxStoreOf s t i va n v = .ok (t.rxTo s i va .bytes loc.key (leOf n v.toNat) loc.domain loc.peer (s.genOf (s.whoOf t) loc),
      s.fillTlb t.pcell false loc) := by
  simp only [rxStoreOf, isControl_common hc, isAlias_common hc, Bool.false_eq_true, ↓reduceIte, hr, Except.map]
  rfl

/-- A relaxed store to control space keeps the value for its register (R50). -/
theorem rxStoreOf_control {r : CtlReg} (hc : va.toNat / 2 ^ 56 = 0x7F) (hr : ctlCheck t va n = .ok r) (s : State) (i : Instr) (v : Word) :
    rxStoreOf s t i va n v = .ok (t.rxTo s i va (.control v) (keyOf (.scratch t.pcell) (s.whoOf t).seg) [] none none none, s) := by
  have hctl : isControl va = true := by rw [isControl_eq, hc]; rfl
  simp only [rxStoreOf, hctl, ↓reduceIte, hr, Except.map]
  rfl

/-- A relaxed store to an element window keeps the value for its element (R184). -/
theorem rxStoreOf_window {d : Word} {e : Nat} (h1 : 0x41 ≤ va.toNat / 2 ^ 56) (h7 : va.toNat / 2 ^ 56 ≤ 0x47) (ha : aliasOf s t.pcell va = (d, e))
    (hr : aliasCheck s (s.whoOf t) .store va (elemRanges d e) = .ok ()) (i : Instr) (v : Word) :
    rxStoreOf s t i va 4 v = .ok (t.rxTo s i va (.elem d e (v.extractLsb' 0 32) t.ctx.nsm) (keyOf (.scratch t.pcell) (s.whoOf t).seg) [] none none
      none, s) := by
  simp only [rxStoreOf, isControl_alias h1 h7, isAlias_alias h1 h7, Bool.false_eq_true, ↓reduceIte, ne_eq, not_true_eq_false, State.whoOf_cell, ha, hr,
    Except.map]
  rfl

theorem relaxedStoreQueues_holds : relaxedStoreQueues := by
  unfold relaxedStoreQueues
  intro s k t i n o h hi hrx
  obtain ⟨-, ht, -⟩ := id h
  refine ⟨fun loc hc hr => ?_, fun r hc hr hl => ?_, fun d e h1 h7 hn ha hr hl => ?_⟩
  · have ht1 : (s.fillTlb t.pcell false loc).thread? k = some t := ((State.sameWorld_fillTlb ..).thread k).trans ht
    have hx := rxStoreOf_place hc hr i (t.ctx.gpr o.d)
    refine ⟨exec_relaxed_room h hi hrx hx ht1, fun y ys s' hgx hy hl hk hgy hw => ?_⟩
    have ht' : s'.thread? k = some t := ((writeAt_same hw).thread k).trans ht1
    exact exec_relaxed_full h hi hrx hx ht1 hy hl ((RxStore.perform_bytes hk ..).trans hw) hgy ht' hgx
  · exact exec_relaxed_room h hi hrx (rxStoreOf_control hc hr s i _) ht hl
  · subst hn
    exact exec_relaxed_room h hi hrx (rxStoreOf_window h1 h7 ha hr i _) ht hl

/-- Settles O39: a store writes at its place or stays for a generation, and a relaxed store joins those of its thread. -/
theorem storeResults : Obligations.StoreResults := ⟨storeResult_holds, relaxedStoreQueues_holds⟩

end Sys2Proof.Machine
end

section
/-! SUPPORT. A pass that an uncorrectable error in its live bits stops: the error is an event of the slice that stores them (R469), and its entry in
the event log (R466) is written to memory. -/
namespace Sys2Proof.Machine
open Sys2Proof Sys2Proof.Claims

/-- The cluster of the OMU. -/
def struckCluster : ClusterId := ⟨0, 0, 0⟩

/-- The issuer of the pass, a thread of virtual function 1. -/
def struckIssuer : Issuer where
  thread := 1
  vf := 1
  launch := 2
  flat := 0
  cell := ⟨0, 0, 0, 0⟩
  nsm := false
  bank := false
  opr := {}
  tid := 0

/-- A pass of one row in BF16, with its live bits at 0x4000. -/
def struckPass : Rec := BitVec.ofNat 512 (0x0001003000000005 + 3 * 2 ^ 39 + 2 ^ 45 + 0x4000000000001000 * 2 ^ 64 + 0x6000000000000000 * 2 ^ 128 +
  0x4000 * 2 ^ 256 + 0x4000000000002000 * 2 ^ 384 + 0x017B0000 * 2 ^ 448)

/-- The entry of the pass in the post queue. -/
def struckEntry : PostEntry := ⟨1, .pass struckPass, struckIssuer, []⟩

/-- The OMU, with the tile of the pass bound. -/
def struckOmu : Omu where
  state := 0
  cb := 7
  b0 := { binding := some ⟨⟨0, 0, 0, 0⟩, 0x4000000000001000, 0, false⟩ }
  queue := [struckEntry]

/-- The page of the live bits and the page of the event log lie in the slices of die 0, and the TLB of the cluster has both. The word of the live
bits holds an uncorrectable error. -/
def struckState : State where
  omus := [(struckCluster, struckOmu)]
  clusters := [(struckCluster, { l2tlb := [⟨1, 0x4000, 1, 0x4123, 0⟩, ⟨0, 0x8000, 1, 0x8023, 0⟩] })]
  pkgs := [(0, { elbase := 0x8000 })]
  poison := [keyOf (.slice 0 0) 0x4000]

/-- The record of the pass meets the checks of R33: it could have been posted. -/
theorem struckPass_wellFormed : struckPass.illFormed = false ∧ struckPass.badAddr = none := by decide +kernel

/-- The pass streams an opening scout and stops, POISONED, at its first vector. -/
theorem struckPass_items : passItems (struckState.setOmu struckCluster { struckOmu with queue := [] }) (struckState.whoFor struckIssuer)
    (struckOmu.bank false) false 1 struckPass = [.scout 1 false, .stop 1 7 0 0] := by decide +kernel

/-- The start of the pass logs the error, and the log's entry changes memory. -/
theorem struckState_logs : ∃ s', exec (.passStart struckCluster) struckState = .next s' ∧ s'.mem ≠ struckState.mem :=
  ⟨_, rfl, by decide +kernel⟩

/-- Refutes O32: the start of a pass whose stream opens with a scout can change memory, since the uncorrectable error that stops its gather is logged
(R466, R469). -/
theorem not_streamSteps : ¬ Obligations.StreamSteps := by
  unfold Obligations.StreamSteps
  intro h
  obtain ⟨-, hpass, -⟩ := h struckState struckCluster
  obtain ⟨-, -, hstart, -⟩ := hpass struckEntry [] struckPass rfl rfl rfl (by decide) (by decide +kernel)
  have hcheck : startCheck struckOmu struckIssuer struckPass = none := by decide +kernel
  obtain ⟨s', hexec, hmem, -⟩ := hstart 1 false _ hcheck rfl struckPass_items
  obtain ⟨s₁, hexec₁, hlog⟩ := struckState_logs
  obtain rfl := Host.Outcome.next.inj (hexec₁.symm.trans hexec)
  exact hlog hmem

end Sys2Proof.Machine
end

section
/-! SUPPORT. The lanes of a vector register (R261, R262): a list of lanes as the image of the lane numbers, what a packed register holds, and what the
active lanes of a command take. -/
namespace Sys2Proof.Machine
open Sys2Proof Sys2Proof.Claims

variable {w n : Nat} {α β : Type}

/-! ### Element widths -/

/-- The lanes of an element width fill the register. -/
theorem elemWidth_mul (t : ElemTy) : t.width * (512 / t.width) = 512 := by
  cases t <;> rfl

/-- Their number is a power of two. -/
theorem elemWidth_log2 (t : ElemTy) : 2 ^ Nat.log2 (512 / t.width) = 512 / t.width := by
  cases t <;> decide

/-- A lane of a register lies within its 512 bits. -/
theorem lane_le (hw : w * (512 / w) = 512) {i : Nat} (hi : i < 512 / w) : w * i + w ≤ 512 :=
  calc w * i + w = w * (i + 1) := (Nat.mul_succ ..).symm
    _ ≤ w * (512 / w) := Nat.mul_le_mul_left w hi
    _ = 512 := hw

/-! ### Lanes read -/

theorem laneOf_lt (v : VReg) (i : Nat) : laneOf w v i < 2 ^ w := Nat.mod_lt _ (Nat.two_pow_pos w)

@[simp] theorem laneOf_mod (v : VReg) (i : Nat) : laneOf w v i % 2 ^ w = laneOf w v i := Nat.mod_eq_of_lt (laneOf_lt v i)

/-- Lanes beyond the register are zero. -/
theorem laneOf_beyond (hw : w * (512 / w) = 512) (v : VReg) {i : Nat} (hi : 512 / w ≤ i) : laneOf w v i = 0 := by
  have hle : 512 ≤ w * i := hw ▸ Nat.mul_le_mul_left w hi
  have hlt : v.toNat < 2 ^ (w * i) := BitVec.toNat_lt_twoPow_of_le hle
  rw [laneOf, Nat.div_eq_of_lt hlt, Nat.zero_mod]

theorem lanes_eq (w : Nat) (v : VReg) : lanes w v = (List.range (512 / w)).map (laneOf w v) := rfl

@[simp] theorem lanes_length (w : Nat) (v : VReg) : (lanes w v).length = 512 / w := by
  rw [lanes_eq, List.length_map, List.length_range]

theorem lanes_getD (hw : w * (512 / w) = 512) (v : VReg) (i : Nat) : (lanes w v).getD i 0 = laneOf w v i := by
  by_cases hi : i < 512 / w
  · simp [lanes_eq, hi]
  · rw [laneOf_beyond hw v (Nat.le_of_not_lt hi)]
    simp [lanes_eq, hi]

/-- A bitwise operation works lane by lane. -/
theorem laneOf_bitwise {f : VReg → VReg → VReg} {g : Nat → Nat → Nat} {b : Bool → Bool → Bool} (hb : b false false = false)
    (hf : ∀ x y : VReg, ∀ j, (f x y).toNat.testBit j = b (x.toNat.testBit j) (y.toNat.testBit j))
    (hg : ∀ m n j : Nat, (g m n).testBit j = b (m.testBit j) (n.testBit j)) (x y : VReg) (i : Nat) :
    laneOf w (f x y) i = g (laneOf w x i) (laneOf w y i) := by
  refine Nat.eq_of_testBit_eq fun j => ?_
  simp only [laneOf, hg, Nat.testBit_mod_two_pow, Nat.testBit_div_two_pow, hf]
  by_cases hj : j < w <;> simp [hj, hb]

/-! ### Lists over the lane numbers -/

theorem zipIdx_map_range (f : Nat → α) (g : α × Nat → β) (n : Nat) :
    ((List.range n).map f).zipIdx.map g = (List.range n).map fun i => g (f i, i) := by
  refine List.ext_getElem (by simp) fun i _ _ => by simp

theorem zip_map_range (f : Nat → α) (g : Nat → β) (n : Nat) :
    ((List.range n).map f).zip ((List.range n).map g) = (List.range n).map fun i => (f i, g i) := List.zip_map' ..

theorem map_range_congr {f g : Nat → α} (h : ∀ i < n, f i = g i) : (List.range n).map f = (List.range n).map g :=
  List.map_congr_left fun i hi => h i (List.mem_range.mp hi)

/-- A run of lanes replaced. -/
theorem replaceFrom_range {i : Nat} {new : List Nat} (h : i + new.length ≤ n) (f : Nat → Nat) : replaceFrom i new ((List.range n).map f) =
    (List.range n).map fun j => if i ≤ j ∧ j < i + new.length then new.getD (j - i) 0 else f j := by
  refine List.ext_getElem (by simp [replaceFrom]; omega) fun j hj _ => ?_
  have hi : i ≤ n := by omega
  simp only [replaceFrom, List.getElem_append, List.length_append, List.length_take, List.length_map, List.length_range, Nat.min_eq_left hi,
    List.getElem_take, List.getElem_drop, List.getElem_map, List.getElem_range]
  by_cases h1 : j < i
  · have h2 : j < i + new.length := by omega
    simp [h1, h2, Nat.not_le.mpr h1]
  · by_cases h2 : j < i + new.length
    · have h3 : j - i < new.length := by omega
      simp [h1, h2, h3, Nat.le_of_not_lt h1]
    · simp only [h2, ↓reduceDIte, and_false, ↓reduceIte]
      congr 1
      omega

/-- Lanes of two registers, one after the other, from lane k on. -/
theorem drop_take_append_range {k : Nat} (h : k ≤ n) (f g : Nat → Nat) : (((List.range n).map f ++ (List.range n).map g).drop k).take n =
    (List.range n).map fun i => if k + i < n then f (k + i) else g (k + i - n) := by
  refine List.ext_getElem (by simp; omega) fun i hi _ => ?_
  simp only [List.getElem_take, List.getElem_drop, List.getElem_append, List.length_map, List.length_range, List.getElem_map, List.getElem_range]
  split <;> rfl

/-! ### Lanes packed -/

theorem packNat_lane (w : Nat) : ∀ (xs : List Nat) (i : Nat), packNat w xs / 2 ^ (w * i) % 2 ^ w = xs.getD i 0 % 2 ^ w
  | [], i => by simp [packNat]
  | x :: xs, 0 => by simp [packNat]
  | x :: xs, i + 1 => by
    have hx : (x % 2 ^ w + 2 ^ w * packNat w xs) / 2 ^ w = packNat w xs := by
      rw [Nat.add_mul_div_left _ _ (Nat.two_pow_pos w), Nat.div_eq_of_lt (Nat.mod_lt _ (Nat.two_pow_pos w)), Nat.zero_add]
    rw [packNat, Nat.mul_succ, Nat.add_comm (w * i) w, Nat.pow_add, ← Nat.div_div_eq_div_mul, hx, packNat_lane w xs i, List.getD_cons_succ]

theorem laneOf_pack (hw : w * (512 / w) = 512) (xs : List Nat) {i : Nat} (hi : i < 512 / w) : laneOf w (pack w xs) i = xs.getD i 0 % 2 ^ w := by
  have hle := lane_le hw hi
  rw [← packNat_lane, laneOf, pack, BitVec.toNat_ofNat]
  refine Nat.eq_of_testBit_eq fun j => ?_
  simp only [Nat.testBit_mod_two_pow, Nat.testBit_div_two_pow]
  by_cases hj : j < w
  · simp [hj, show j + w * i < 512 by omega]
  · simp [hj]

theorem laneOf_pack_range (hw : w * (512 / w) = 512) (f : Nat → Nat) {i : Nat} (hi : i < 512 / w) :
    laneOf w (pack w ((List.range (512 / w)).map f)) i = f i % 2 ^ w := by
  rw [laneOf_pack hw _ hi]
  simp [hi]

/-- One lane packed alone. -/
theorem lanes_packOne (hw : w * (512 / w) = 512) (x : Nat) : Lanes w 0 (pack w [x]) fun i => if i = 0 then some x else some 0
  | 0, hi => laneOf_pack hw [x] hi
  | _ + 1, hi => laneOf_pack hw [x] hi

/-- A register with a run of lanes replaced. -/
theorem lanes_packReplace (hw : w * (512 / w) = 512) {k : Nat} {new : List Nat} (h : k + new.length ≤ 512 / w) (old : VReg) :
    Lanes w old (pack w (replaceFrom k new (lanes w old))) fun i =>
      if k ≤ i ∧ i < k + new.length then some (new.getD (i - k) 0) else none := by
  intro i hi
  rw [lanes_eq, replaceFrom_range h, laneOf_pack_range hw _ hi]
  by_cases hk : k ≤ i ∧ i < k + new.length
  · simp only [hk, and_self, ↓reduceIte]
  · simp only [hk, ↓reduceIte, laneOf, Nat.mod_mod]

/-- A register with one lane replaced. -/
theorem lanes_packReplaceOne (hw : w * (512 / w) = 512) {k : Nat} (h : k < 512 / w) (x : Nat) (old : VReg) :
    Lanes w old (pack w (replaceFrom k [x] (lanes w old))) fun i => if i = k then some x else none := by
  intro i hi
  rw [lanes_packReplace hw h old i hi]
  by_cases hk : i = k
  · simp [hk]
  · simp [hk, show ¬ (k ≤ i ∧ i ≤ k) by omega]

/-! ### Active lanes -/

/-- A bit of the mask says whether its lane is active (R262). -/
theorem maskBits_getLsbD (c : Ctx) (o : VArgs) {i : Nat} (hi : i < 512) : (maskBits c o).getLsbD i = active c o i := by
  unfold maskBits active
  cases o.mask with
  | none => exact (BitVec.getLsbD_allOnes ..).trans (decide_eq_true hi)
  | some m => rfl

theorem lanes_mergeLanes (hw : w * (512 / w) = 512) (c : Ctx) (o : VArgs) (old : VReg) (f : Nat → Nat) :
    Lanes w old (mergeLanes w (maskBits c o) old ((List.range (512 / w)).map f)) fun i => if active c o i then some (f i) else none := by
  intro i hi
  have h512 : i < 512 := hi.trans_le (Nat.div_le_self ..)
  rw [mergeLanes, lanes_eq, zip_map_range, zipIdx_map_range, laneOf_pack_range hw _ hi, maskBits_getLsbD c o h512]
  by_cases ha : active c o i = true
  · simp [ha]
  · simp [ha]

end Sys2Proof.Machine
end

section
/-! SUPPORT. The vector queue (R255, R256, R260): a command enters it, the oldest one starts, and what a command leaves that writes one register and
the flags. -/
namespace Sys2Proof.Machine
open Sys2Proof Sys2Proof.Claims

variable {s : State} {k : Nat} {t : Thread} {i : Instr} {o : VArgs}

/-! ### Entering the queue (R255) -/

/-- The vector commands that are no memory commands enter the queue, and are of three words. -/
theorem exec_queued (hi : queuedArgs i = some o) : exec i s = issue i s (vecBody i o) ∧ instrLen i = 12 := by
  cases i
  all_goals cases hi
  all_goals exact ⟨rfl, rfl⟩

theorem exec_queued_done (h : Selected s k t) (hi : queuedArgs i = some o) :
    exec i s = .next (done s k (withCtx t (pushV (vcmdOf i o t.ctx))) (t.ctx.pc + 12)) := by
  obtain ⟨hexec, hlen⟩ := exec_queued (s := s) hi
  rw [hexec, issue_selected h, vecBody, State.modThread_some h.2.1, settle_put, nextPc, hlen]
  rfl

theorem pushV_room {c : Ctx} (hl : c.vq.length < 8) (x : VCmd) : pushV x c = { c with vq := c.vq ++ [x] } := by
  rw [pushV, if_pos hl]

theorem pushV_full {c : Ctx} {y : VCmd} {ys : List VCmd} (hq : c.vq = y :: ys) (hl : 8 ≤ c.vq.length) (x : VCmd) :
    pushV x c = { runVector y.instr y.s0 y.nsm { c with vq := ys } with vq := (runVector y.instr y.s0 y.nsm { c with vq := ys }).vq ++ [x] } := by
  rw [pushV, if_neg (Nat.not_lt.mpr hl), runOldest, hq]

theorem vectorQueued_holds : vectorQueued := by
  intro s k t i o h hi
  refine ⟨vcmdOf i o t.ctx, rfl, rfl, rfl, rfl, rfl, fun hl => ?_, fun y ys hq hl => ?_⟩
  · rw [exec_queued_done h hi, withCtx, pushV_room hl]
    rfl
  · rw [exec_queued_done h hi, withCtx, pushV_full hq hl]

/-! ### The oldest command starts (R256) -/

variable {x : VCmd} {xs : List VCmd}

theorem runVector_instr (h : x.instr = i) (c : Ctx) : runVector x.instr x.s0 x.nsm c = runVector i x.s0 x.nsm c := by rw [h]

/-- The context in which the oldest command runs. -/
def Thread.rest (t : Thread) (xs : List VCmd) : Ctx := { t.ctx with vq := xs }

theorem exec_vectorCommandStart_runs (ht : s.thread? k = some t) (hq : t.ctx.vq = x :: xs) : ∃ s' : State,
    exec (.vectorCommandStart k false) s = .next s' ∧ s'.mem = s.mem ∧
      s'.thread? k = some { t with ctx := runVector x.instr x.s0 x.nsm (t.rest xs) } := by
  have hrun : runOldest t.ctx = runVector x.instr x.s0 x.nsm (t.rest xs) := by
    rw [runOldest, hq]
    rfl
  refine ⟨_, rfl, ?_⟩
  simp only [ht, hq, Bool.false_eq_true, ↓reduceIte]
  refine ⟨rfl, ?_⟩
  rw [State.thread?_setThread, Thread.modCtx, hrun]

theorem State.inWindow_threads (s : State) (pkg die : Nat) : (s.inWindow pkg die).threads = s.threads := by
  unfold State.inWindow
  dsimp only
  split
  · rfl
  · rfl

/-- At a window's boundary a count falls to zero; otherwise it stays (R470). -/
theorem State.countOf_inWindow_le (s : State) (pkg die : Nat) (u : Monitored) : (s.inWindow pkg die).countOf u ≤ s.countOf u := by
  by_cases h : s.cyc pkg die / 2 ^ 30 ≤ (s.die pkg die).window
  · rw [State.inWindow_same h]
  · obtain ⟨-, -, hcounts, -⟩ := State.inWindow_new (Nat.lt_of_not_le h)
    rw [State.countOf, hcounts]
    split
    · exact Nat.zero_le _
    · exact Nat.le_refl _

/-- An event of a unit that is not its third in the window leaves the threads (R469, R471). -/
theorem State.countEvent_threads {u : Monitored} (hn : s.countOf u + 1 < 3) (detail : Word) : (s.countEvent u detail).threads = s.threads := by
  have hle := s.countOf_inWindow_le (unitPlace u).1 (unitPlace u).2.1 u
  have hn3 : (s.inWindow (unitPlace u).1 (unitPlace u).2.1).countOf u + 1 ≠ 3 := by omega
  have hlog {a : State} {p d n loc c : Nat} (ha : a.threads = s.threads) : (a.logEvent p d n detail loc c).threads = s.threads :=
    (State.Spares.logEvent (.refl a)).threads.trans ha
  have hin := s.inWindow_threads (unitPlace u).1 (unitPlace u).2.1
  unfold State.countEvent
  dsimp only
  split
  case h_1 | h_2 => rw [if_neg hn3]; exact hlog hin
  case h_3 => exact hlog hin

theorem exec_vectorCommandStart_fails (ht : s.thread? k = some t) (hq : t.ctx.vq = x :: xs) (hn : lookD 0 (.vector t.pcell) s.counts + 1 < 3) :
    ∃ s' : State, exec (.vectorCommandStart k true) s = .next s' ∧
      s'.thread? k = some { t with ctx := { t.ctx with vq := [] }, vErr := some x.record } := by
  refine ⟨_, rfl, ?_⟩
  simp only [ht, hq, ↓reduceIte]
  refine (congrArg (look? k) (State.countEvent_threads ?_ x.pc)).trans (State.thread?_setThread ..)
  exact hn

theorem vectorStart_holds : vectorStart := fun _ _ _ _ _ ht hq =>
  ⟨exec_vectorCommandStart_runs ht hq, exec_vectorCommandStart_fails ht hq⟩

/-! ### One register and the flags -/

/-- A context with one vector register and the vector flags written. -/
def Ctx.result (c : Ctx) (d : VNum) (v : VReg) (flags : BitVec 4) : Ctx := { c.setVr d v with vflags := flags }

theorem Ctx.vr_setVr_same (c : Ctx) (r : VNum) (v : VReg) : (c.setVr r v).vr r = v := by
  show (c.v.set r.toNat v r.isLt)[r.toNat] = v
  exact Vector.getElem_set_self ..

theorem Ctx.vr_setVr_other (c : Ctx) {r q : VNum} (h : q ≠ r) (v : VReg) : (c.setVr r v).vr q = c.vr q := by
  have h' : r.toNat ≠ q.toNat := fun e => h (BitVec.eq_of_toNat_eq e.symm)
  show (c.v.set r.toNat v r.isLt)[q.toNat] = c.v[q.toNat]
  exact Vector.getElem_set_ne _ _ h'

theorem Ctx.result_vr_same (c : Ctx) (d : VNum) (v : VReg) (flags : BitVec 4) : (c.result d v flags).vr d = v := c.vr_setVr_same d v

theorem Ctx.result_vr_other (c : Ctx) {d r : VNum} (h : r ≠ d) (v : VReg) (flags : BitVec 4) : (c.result d v flags).vr r = c.vr r :=
  c.vr_setVr_other h v

/-- A command starts whose run leaves the context c. -/
theorem starts_of {d : VNum → Prop} {c : Ctx} {P : Ctx → Prop} (ht : s.thread? k = some t) (hq : t.ctx.vq = x :: xs)
    (hrun : runVector x.instr x.s0 x.nsm (t.rest xs) = c) (hvq : c.vq = xs) (hg : c.g = t.ctx.g) (hpc : c.pc = t.ctx.pc)
    (hother : ∀ r : VNum, ¬ d r → c.vr r = t.ctx.vr r) (hP : P c) : Starts s k t xs d P := by
  obtain ⟨s', hexec, hmem, hthread⟩ := exec_vectorCommandStart_runs ht hq
  rw [hrun] at hthread
  exact ⟨s', _, hexec, hmem, hthread, hvq, hg, hpc, hother, hP⟩

/-- A command that writes one register and the flags starts. -/
theorem starts_result {d : VNum} {v : VReg} {flags : BitVec 4} {P : Ctx → Prop} (ht : s.thread? k = some t) (hq : t.ctx.vq = x :: xs)
    (hrun : runVector x.instr x.s0 x.nsm (t.rest xs) = (t.rest xs).result d v flags) (hP : ∀ c : Ctx, c.vr d = v → c.vflags = flags → P c) :
    Starts s k t xs (· = d) P :=
  starts_of ht hq hrun rfl rfl rfl (fun _ hr => Ctx.result_vr_other _ hr ..) (hP _ (Ctx.result_vr_same ..) rfl)

end Sys2Proof.Machine
end

section
/-! SUPPORT. Commands that write their results lane by lane (R271 to R273, R275, R277, R278): each result as the image of the lane numbers. -/
namespace Sys2Proof.Machine
open Sys2Proof Sys2Proof.Claims

variable {s : State} {k : Nat} {t : Thread} {i : Instr} {o : VArgs} {c : Ctx} {nsm : Bool} {w : Nat}

/-! ### Conditions -/

@[simp] theorem orFlags_none (flags : BitVec 4) : orFlags flags {} = flags := by
  simp [orFlags, Conds.bits]

theorem Conds.all_none : ∀ {l : List Conds}, (∀ x ∈ l, x = {}) → Conds.all l = {}
  | [], _ => rfl
  | x :: l, h => by
    have hl := Conds.all_none fun y hy => h y (List.mem_cons_of_mem x hy)
    rw [h x List.mem_cons_self]
    exact hl

/-! ### Results written -/

theorem writeLanes_eq (c : Ctx) (o : VArgs) (w : Nat) (new : List Nat) :
    writeLanes c o w new = c.result o.vd (mergeLanes w (maskBits c o) (c.vr o.vd) new) c.vflags := rfl

theorem writeRounded_eq (c : Ctx) (o : VArgs) (r : Nat → Rounded) : writeRounded c o w ((List.range (512 / w)).map r) =
    c.result o.vd (mergeLanes w (maskBits c o) (c.vr o.vd) ((List.range (512 / w)).map fun i => (r i).code))
      (orFlags c.vflags (Conds.all ((List.range (512 / w)).map fun i => if active c o i then (r i).conds else {}))) := by
  rw [writeRounded, raiseIn, writeLanes, List.map_map, zipIdx_map_range, map_range_congr fun i hi =>
    show (if (maskBits c o).getLsbD i = true then (r i).conds else {}) = if active c o i = true then (r i).conds else {} by
      rw [maskBits_getLsbD c o (hi.trans_le (Nat.div_le_self ..))]]
  rfl

/-- Results that raise nothing. -/
theorem writeRounded_quiet (c : Ctx) (o : VArgs) (f : Nat → Nat) : writeRounded c o w ((List.range (512 / w)).map fun i => quiet (f i)) =
    writeLanes c o w ((List.range (512 / w)).map f) := by
  rw [writeRounded_eq, Conds.all_none, orFlags_none]
  · rfl
  · simp only [List.mem_map]
    rintro _ ⟨i, -, rfl⟩
    split <;> rfl

/-- Every lane of a register is written: the results f in the active lanes, reduced to the lane. -/
def WritesLanes (c : Ctx) (o : VArgs) (f : Nat → Nat) (c' : Ctx) : Prop :=
  ∃ g, c' = writeLanes c o o.ty.width ((List.range (512 / o.ty.width)).map g) ∧ ∀ j < 512 / o.ty.width, g j % 2 ^ o.ty.width = f j

theorem WritesLanes.of_eq {f : Nat → Nat} {c' : Ctx} (h : c' = writeLanes c o o.ty.width ((List.range (512 / o.ty.width)).map f))
    (hf : ∀ j, f j < 2 ^ o.ty.width) : WritesLanes c o f c' := ⟨f, h, fun j _ => Nat.mod_eq_of_lt (hf j)⟩

/-! ### Integers modulo the width (R199, R271) -/

theorem wrapTo_congr {a b : Int} (h : a ≡ b [ZMOD 2 ^ w]) : wrapTo w a = wrapTo w b := by
  simp only [wrapTo, Nat.cast_pow, Nat.cast_ofNat]
  rw [h]

theorem wrapTo_natCast (w n : Nat) : wrapTo w n = n % 2 ^ w := by
  rw [wrapTo, ← Int.natCast_emod, Int.toNat_natCast]

theorem natCast_mod_modEq (w n : Nat) : ((n % 2 ^ w : Nat) : Int) ≡ n [ZMOD 2 ^ w] := by
  rw [Int.natCast_mod, Nat.cast_pow, Nat.cast_ofNat]
  exact Int.mod_modEq ..

/-- The integer of a code is the code modulo the width. -/
theorem intOf_modEq (t : ElemTy) (n : Nat) : intOf t n ≡ n [ZMOD 2 ^ t.width] := by
  have hmod := natCast_mod_modEq t.width n
  unfold intOf signedOf
  split
  · dsimp only
    split
    · exact hmod
    · rw [Nat.cast_pow, Nat.cast_ofNat]
      exact Int.ModEq.trans (by simp [Int.ModEq]) hmod
  · exact hmod

/-- A subtrahend within the width is added as its complement. -/
theorem natCast_complement {b : Nat} (h : b < 2 ^ w) : ((2 ^ w - b : Nat) : Int) ≡ -b [ZMOD 2 ^ w] := by
  rw [Nat.cast_sub h.le, Nat.cast_pow, Nat.cast_ofNat, Int.sub_eq_add_neg]
  exact Int.modulus_add_modEq_iff.mpr rfl

theorem fmtOf_int {t : ElemTy} (h : t.isInt = true) (nsm : Bool) : fmtOf t nsm = none := by
  cases t
  case i8 | i16 | i32 | i64 | n8 | n16 | n32 | n64 => rfl
  all_goals cases h

/-! ### Arithmetic (R271, R272) -/

theorem vArith_eq (fn : LaneFn) (o : VArgs) (nsm : Bool) (c : Ctx) : vArith fn o nsm c =
    writeRounded c o o.ty.width ((List.range (512 / o.ty.width)).map fun i => laneOp fn o.ty nsm o.rm o.sat o.ftz
      (laneOf o.ty.width (c.vr o.va) i) (laneOf o.ty.width (c.vr o.vb) i) (laneOf o.ty.width (c.vr o.vc) i)) := by
  simp only [vArith, lanes_eq, zip_map_range, List.map_map]
  rfl

/-- Integer arithmetic that wraps, from its result G without a bound. -/
theorem vArith_int {fn : LaneFn} {f : Nat → Nat} {G : Nat → Nat → Nat → Nat → Nat} {o' : VArgs}
    (hG : ∀ a b x : Nat, b < 2 ^ o'.ty.width → x < 2 ^ o'.ty.width →
      fn.onInt (intOf o'.ty a) (intOf o'.ty b) (intOf o'.ty x) ≡ G o'.ty.width a b x [ZMOD 2 ^ o'.ty.width])
    (h : laneValue.int c o' o'.ty.width (fun w a b x => G w a b x % 2 ^ w) = some (o, f)) : WritesLanes c o f (vArith fn o' nsm c) := by
  obtain ⟨⟨hsat, hint⟩, h⟩ := Option.ite_none_right_eq_some.mp h
  cases h
  refine ⟨_, ?_, fun j _ => Nat.mod_mod ..⟩
  rw [vArith_eq, ← writeRounded_quiet]
  refine congrArg (writeRounded c o _) (map_range_congr fun i _ => ?_)
  simp only [laneOp, fmtOf_int hint, encodeInt, hsat, Bool.false_eq_true, ↓reduceIte]
  rw [wrapTo_congr (hG _ _ _ (laneOf_lt ..) (laneOf_lt ..)), wrapTo_natCast]

theorem onInt_add (t : ElemTy) (a b : Nat) : intOf t a + intOf t b ≡ ((a + b : Nat) : Int) [ZMOD 2 ^ t.width] := by
  rw [Nat.cast_add]
  exact (intOf_modEq t a).add (intOf_modEq t b)

theorem onInt_sub (t : ElemTy) (a : Nat) {b : Nat} (hb : b < 2 ^ t.width) :
    intOf t a - intOf t b ≡ ((a + (2 ^ t.width - b) : Nat) : Int) [ZMOD 2 ^ t.width] := by
  rw [Nat.cast_add, Int.sub_eq_add_neg]
  exact (intOf_modEq t a).add ((intOf_modEq t b).neg.trans (natCast_complement hb).symm)

theorem onInt_mul (t : ElemTy) (a b : Nat) : intOf t a * intOf t b ≡ ((a * b : Nat) : Int) [ZMOD 2 ^ t.width] := by
  rw [Nat.cast_mul]
  exact (intOf_modEq t a).mul (intOf_modEq t b)

theorem onInt_fma (t : ElemTy) (a b x : Nat) : intOf t a * intOf t b + intOf t x ≡ ((a * b + x : Nat) : Int) [ZMOD 2 ^ t.width] := by
  rw [Nat.cast_add]
  exact (onInt_mul t a b).add (intOf_modEq t x)

theorem onInt_fms (t : ElemTy) (a b : Nat) {x : Nat} (hx : x < 2 ^ t.width) :
    intOf t a * intOf t b - intOf t x ≡ ((a * b + (2 ^ t.width - x) : Nat) : Int) [ZMOD 2 ^ t.width] := by
  rw [Nat.cast_add, Int.sub_eq_add_neg]
  exact (onInt_mul t a b).add ((intOf_modEq t x).neg.trans (natCast_complement hx).symm)

/-! ### Bits and shifts (R271) -/

theorem vBits_lanes {fn : VReg → VReg → VReg} {g : Nat → Nat → Nat} {f : Nat → Nat} {o' : VArgs}
    (hg : ∀ (x y : VReg) (i : Nat), laneOf o'.ty.width (fn x y) i = g (laneOf o'.ty.width x i) (laneOf o'.ty.width y i))
    (h : laneValue.bits c o' g = some (o, f)) : WritesLanes c o f (vBits fn o' c) := by
  cases h
  exact ⟨_, rfl, fun j _ => (laneOf_mod ..).trans (hg ..)⟩

theorem laneOf_and (x y : VReg) (i : Nat) : laneOf w (x &&& y) i = laneOf w x i &&& laneOf w y i :=
  laneOf_bitwise (f := (· &&& ·)) (g := (· &&& ·)) (b := and) rfl (fun x y j => by simp) (fun m n j => by simp) x y i

theorem laneOf_or (x y : VReg) (i : Nat) : laneOf w (x ||| y) i = laneOf w x i ||| laneOf w y i :=
  laneOf_bitwise (f := (· ||| ·)) (g := (· ||| ·)) (b := or) rfl (fun x y j => by simp) (fun m n j => by simp) x y i

theorem laneOf_xor (x y : VReg) (i : Nat) : laneOf w (x ^^^ y) i = laneOf w x i ^^^ laneOf w y i :=
  laneOf_bitwise (f := (· ^^^ ·)) (g := (· ^^^ ·)) (b := xor) rfl (fun x y j => by simp) (fun m n j => by simp) x y i

/-- A shift whose counts are the lanes of vb. -/
theorem vShift_lanes {fn : Nat → Nat → Nat → Nat} {f : Nat → Nat} {o' : VArgs} (hfn : ∀ x n : Nat, x < 2 ^ o'.ty.width →
      fn o'.ty.width x n < 2 ^ o'.ty.width) (hsub : o'.sub = 0)
    (h : laneValue.bits c o' (fun a b => fn o'.ty.width a (b % o'.ty.width)) = some (o, f)) : WritesLanes c o f (vShift fn o' c) := by
  cases h
  refine ⟨_, ?_, fun j _ => Nat.mod_eq_of_lt (hfn _ _ (laneOf_lt (c.vr o.va) j))⟩
  simp only [vShift, lanes_eq, zip_map_range, List.map_map, hsub]
  rfl

/-! ### Lane moves (R275) -/

theorem vSel_lanes (o : VArgs) (c : Ctx) : WritesLanes c o (fun i => if (c.vr o.vc).getLsbD i then laneOf o.ty.width (c.vr o.va) i
    else laneOf o.ty.width (c.vr o.vb) i) (vSel o c) := by
  refine .of_eq ?_ fun j => ?_
  · simp only [vSel, lanes_eq, zip_map_range, zipIdx_map_range]
  · split
    · exact laneOf_lt ..
    · exact laneOf_lt ..

theorem vPerm_lanes (o : VArgs) (c : Ctx) : WritesLanes c o (fun i => laneOf o.ty.width (c.vr o.va)
    (laneOf o.ty.width (c.vr o.vb) i % (512 / o.ty.width))) (vPerm o c) := by
  refine .of_eq ?_ fun j => laneOf_lt ..
  have hw := elemWidth_mul o.ty
  simp only [vPerm, lanes_getD hw]
  rw [lanes_eq, List.map_map]
  rfl

theorem vMov_lanes (o : VArgs) (c : Ctx) : WritesLanes c o (laneOf o.ty.width (c.vr o.va)) (vMov o c) := .of_eq rfl fun _ => laneOf_lt ..

theorem vSplat_lanes (o : VArgs) (s0 : Word) (c : Ctx) : WritesLanes c o (fun _ => s0.toNat % 2 ^ o.ty.width) (vSplat o s0 c) := by
  refine .of_eq ?_ fun _ => Nat.mod_lt _ (Nat.two_pow_pos _)
  rw [List.map_const', List.length_range]
  rfl

theorem vExt_lanes (c : Ctx) (h : o.vimm.toNat ≤ 512 / o.ty.width) : WritesLanes c o (fun i => if o.vimm.toNat + i < 512 / o.ty.width
    then laneOf o.ty.width (c.vr o.va) (o.vimm.toNat + i) else laneOf o.ty.width (c.vr o.vb) (o.vimm.toNat + i - 512 / o.ty.width)) (vExt o c) := by
  refine .of_eq ?_ fun j => ?_
  · rw [vExt, lanes_eq, lanes_eq, drop_take_append_range h]
  · split
    · exact laneOf_lt ..
    · exact laneOf_lt ..

theorem vIns_lanes (s0 : Word) (c : Ctx) (h : o.vimm.toNat < 512 / o.ty.width) : WritesLanes c o (fun i => if i = o.vimm.toNat
    then s0.toNat % 2 ^ o.ty.width else laneOf o.ty.width (c.vr o.vd) i) (vIns o s0 c) := by
  refine ⟨_, congrArg (writeLanes c o _) (replaceFrom_range h _), fun j _ => ?_⟩
  by_cases hj : j = o.vimm.toNat
  · simp [hj]
  · have hout : ¬ (o.vimm.toNat ≤ j ∧ j < o.vimm.toNat + 1) := by omega
    exact (congrArg (· % 2 ^ o.ty.width) (if_neg hout)).trans ((laneOf_mod ..).trans (if_neg hj).symm)

/-! ### Commands without rounding -/

/-- A command of integer arithmetic, of bits or of lane moves writes its result lane by lane. -/
theorem laneValue_runs {s0 : Word} {f : Nat → Nat} (h : laneValue c s0 i = some (o, f)) (nsm : Bool) :
    WritesLanes c o f (runVector i s0 nsm c) := by
  cases i
  case vadd => exact vArith_int (G := fun _ a b _ => a + b) (fun a b _ _ _ => onInt_add _ a b) h
  case vsub => exact vArith_int (G := fun w a b _ => a + (2 ^ w - b)) (fun a _ _ hb _ => onInt_sub _ a hb) h
  case vmul => exact vArith_int (G := fun _ a b _ => a * b) (fun a b _ _ _ => onInt_mul _ a b) h
  case vfma => exact vArith_int (G := fun _ a b x => a * b + x) (fun a b x _ _ => onInt_fma _ a b x) h
  case vfms => exact vArith_int (G := fun w a b x => a * b + (2 ^ w - x)) (fun a b _ _ hx => onInt_fms _ a b hx) h
  case vand => exact vBits_lanes laneOf_and h
  case vor => exact vBits_lanes laneOf_or h
  case vxor => exact vBits_lanes laneOf_xor h
  case vshl o' =>
    obtain ⟨hsub, h⟩ := Option.ite_none_right_eq_some.mp h
    exact vShift_lanes (fn := shlW) (fun _ _ _ => Nat.mod_lt _ (Nat.two_pow_pos _)) hsub h
  case vshr o' =>
    obtain ⟨hsub, h⟩ := Option.ite_none_right_eq_some.mp h
    exact vShift_lanes (fn := shrW) (fun _ _ hx => (Nat.div_le_self ..).trans_lt hx) hsub h
  case vsel => cases h; exact vSel_lanes ..
  case vmov => cases h; exact vMov_lanes ..
  case vsplat => cases h; exact vSplat_lanes ..
  case vperm => cases h; exact vPerm_lanes ..
  case vext =>
    obtain ⟨hk, h⟩ := Option.ite_none_right_eq_some.mp h
    cases h
    exact vExt_lanes _ hk
  case vins =>
    obtain ⟨hk, h⟩ := Option.ite_none_right_eq_some.mp h
    cases h
    exact vIns_lanes _ _ hk
  all_goals cases h

theorem vectorLanes_holds : vectorLanes := by
  intro s k t x xs o f ht hq hv
  have hw := elemWidth_mul o.ty
  obtain ⟨g, hrun, hg⟩ := laneValue_runs (c := t.rest xs) hv x.nsm
  obtain ⟨s', t', hexec, hmem, hthread, hvq, hgpr, hpc, hother, hflags, hlanes⟩ :=
    starts_result (P := fun c => c.vflags = t.ctx.vflags ∧ Lanes o.ty.width (t.ctx.vr o.vd) (c.vr o.vd) fun i =>
      if active t.ctx o i then some (g i) else none) ht hq (hrun.trans (writeLanes_eq ..)) fun c hd hf =>
      ⟨hf, hd ▸ lanes_mergeLanes hw (t.rest xs) o _ g⟩
  refine ⟨s', t', hexec, hmem, hthread, hvq, hgpr, hpc, hflags, hother, fun i hi => (hlanes i hi).trans ?_⟩
  by_cases ha : active t.ctx o i = true
  · simp [ha, hg i hi]
  · simp [ha]

end Sys2Proof.Machine
end

section
/-! SUPPORT. Floating commands, conversions and the decoding of a block (R202, R271, R272, R277, R278): each lane rounded once. -/
namespace Sys2Proof.Machine
open Sys2Proof Sys2Proof.Claims

variable {s : State} {k : Nat} {t : Thread} {i : Instr} {o : VArgs} {c : Ctx} {nsm : Bool} {w : Nat}

/-! ### One lane -/

theorem inLane_eq (o : VArgs) (f : Fmt) (x : Nat) : inLane f (o.ftz && o.ty.isHalf) x = floatIn o f x := by
  simp [inLane, floatIn]

theorem pickFloat_eq (greater : Bool) (a b : FVal) : pickFloat greater a b = extreme greater a b := by
  cases a <;> cases b
  case nan.nan | nan.inf | nan.fin | inf.nan | fin.nan => simp [pickFloat, extreme, FVal.isNan, signals]
  all_goals cases greater <;> simp [pickFloat, extreme, FVal.isNan]

theorem laneOp_float {fn : LaneFn} {f : Fmt} (h : fmtOf o.ty nsm = some f) (a b x : Nat) : laneOp fn o.ty nsm o.rm o.sat o.ftz a b x =
    f.finish o.rm (o.ftz && o.ty.isHalf) (fn.onFloat o.rm (floatIn o f a) (floatIn o f b) (floatIn o f x)) := by
  simp only [laneOp, h, inLane_eq]

/-! ### Commands by lanes -/

/-- What a lane takes: its result, or the value that it has. -/
def keptOr (c : Ctx) (o : VArgs) (w : Nat) (f : Nat → Option Rounded) (j : Nat) : Rounded := (f j).getD (quiet (laneOf w (c.vr o.vd) j))

/-- The results f in the active lanes, with their conditions. -/
def WritesRounded (c : Ctx) (o : VArgs) (w : Nat) (f : Nat → Option Rounded) (c' : Ctx) : Prop :=
  w * (512 / w) = 512 ∧ c' = writeRounded c o w ((List.range (512 / w)).map (keptOr c o w f))

theorem vArith_float {fn : LaneFn} {g : FVal → FVal → FVal → FVal × Bool} {f : Nat → Option Rounded} {o' : VArgs}
    (hg : ∀ a b x, fn.onFloat o'.rm a b x = g a b x) (h : floatResult.arith c nsm o' g = some (o, w, f)) :
    WritesRounded c o w f (vArith fn o' nsm c) := by
  obtain ⟨fm, hfm, h⟩ := Option.map_eq_some_iff.mp h
  cases h
  refine ⟨elemWidth_mul o.ty, (vArith_eq ..).trans (congrArg (writeRounded c o _) (map_range_congr fun j _ => ?_))⟩
  rw [laneOp_float hfm, hg]
  rfl

theorem vCvt_float (o : VArgs) (nsm : Bool) (c : Ctx) : WritesRounded c o o.ty2.width (fun j =>
    if 512 / o.ty2.width ≤ 512 / o.ty.width then some (convertElem o.ty o.ty2 nsm o.rm o.sat o.ftz
      (laneOf o.ty.width (c.vr o.va) (512 / o.ty2.width * o.vimm.toNat + j)))
    else if 512 / o.ty.width * o.vimm.toNat ≤ j ∧ j < 512 / o.ty.width * o.vimm.toNat + 512 / o.ty.width then
      some (convertElem o.ty o.ty2 nsm o.rm o.sat o.ftz (laneOf o.ty.width (c.vr o.va) (j - 512 / o.ty.width * o.vimm.toNat)))
    else none) (vCvt o nsm c) := by
  have hw := elemWidth_mul o.ty
  refine ⟨elemWidth_mul o.ty2, congrArg (writeRounded c o _) ?_⟩
  rw [lanes_eq o.ty2.width, zipIdx_map_range]
  refine map_range_congr fun j _ => ?_
  simp only [lanes_getD hw, keptOr]
  by_cases h1 : 512 / o.ty2.width ≤ 512 / o.ty.width
  · simp only [h1, ↓reduceIte]
    rfl
  · by_cases h2 : 512 / o.ty.width * o.vimm.toNat ≤ j ∧ j < 512 / o.ty.width * o.vimm.toNat + 512 / o.ty.width
    · simp only [h1, h2, ↓reduceIte]
      rfl
    · simp only [h1, h2, ↓reduceIte]
      rfl

theorem drop_take_range {a m n : Nat} (h : a + m ≤ n) (f : Nat → Nat) :
    (((List.range n).map f).drop a).take m = (List.range m).map fun j => f (a + j) := by
  refine List.ext_getElem (by simp; omega) fun j _ _ => by simp

theorem vBfpDec_float (nsm : Bool) (c : Ctx)
    (h : 32 * (o.vimm.toNat % 4) + 16 * (o.vimm.toNat / 4 % 2) + 16 ≤ 512 / if o.ty2 = .eb2 then 4 else 8) :
    WritesRounded c o 32 (fun j => some (f32.round o.rm false (decodeBlockElem o.ty2 nsm (laneOf 32 (c.vr o.vb) (o.vimm.toNat % 4) % 2 ^ 24)
      (laneOf (if o.ty2 = .eb2 then 4 else 8) (c.vr o.va) (32 * (o.vimm.toNat % 4) + 16 * (o.vimm.toNat / 4 % 2) + j))))) (vBfpDec o nsm c) := by
  refine ⟨rfl, ?_⟩
  have hw : blockWidth o.ty2 = if o.ty2 = .eb2 then 4 else 8 := by simp [blockWidth]
  rw [vBfpDec, lanes_getD rfl, hw, lanes_eq, drop_take_range h, List.map_map]
  rfl

/-- A floating command, a conversion, or the decoding of a block. -/
theorem floatResult_runs {f : Nat → Option Rounded} (s0 : Word) (h : floatResult c nsm i = some (o, w, f)) :
    WritesRounded c o w f (runVector i s0 nsm c) := by
  cases i
  case vadd | vsub | vmul | vfma | vfms => exact vArith_float (fun _ _ _ => rfl) h
  case vmin | vmax => exact vArith_float (fun _ _ _ => pickFloat_eq ..) h
  case vcvt => cases h; exact vCvt_float ..
  case vbfpDec =>
    obtain ⟨hk, h⟩ := Option.ite_none_right_eq_some.mp h
    cases h
    exact vBfpDec_float _ _ hk
  all_goals cases h

/-- A lane without a result keeps its value, whether it is active or not. -/
theorem keptOr_code (f : Nat → Option Rounded) (b : Prop) [Decidable b] (j : Nat) :
    (match if b then some (keptOr c o w f j).code else none with
      | some x => x % 2 ^ w
      | none => laneOf w (c.vr o.vd) j) =
    match if b then (f j).map Rounded.code else none with
      | some x => x % 2 ^ w
      | none => laneOf w (c.vr o.vd) j := by
  by_cases hb : b
  · cases hj : f j with
    | none => simp [hb, keptOr, hj, quiet]
    | some r => simp [hb, keptOr, hj]
  · simp [hb]

/-- A lane without a result raises nothing. -/
theorem keptOr_conds (f : Nat → Option Rounded) (j : Nat) : (keptOr c o w f j).conds = ((f j).map Rounded.conds).getD {} := by
  rw [keptOr]
  cases f j with
  | none => rfl
  | some r => rfl

theorem floatLanes_holds : floatLanes := by
  intro s k t x xs o w f ht hq hf
  obtain ⟨hw, hrun⟩ := floatResult_runs (c := t.rest xs) x.s0 hf
  refine starts_result ht hq (hrun.trans (writeRounded_eq ..)) fun c hd hflags => ⟨fun i hi => ?_, ?_⟩
  · rw [hd]
    exact (lanes_mergeLanes hw (t.rest xs) o _ _ i hi).trans (keptOr_code ..)
  · simp only [hflags, keptOr_conds]
    rfl

end Sys2Proof.Machine
end

section
/-! SUPPORT. Reductions (R222, R276): the levels of the tree of pairs, and the value at its root. -/
namespace Sys2Proof.Machine
open Sys2Proof Sys2Proof.Claims

variable {o : VArgs} {nsm : Bool}

/-! ### Conditions joined -/

@[simp] theorem Conds.or_none (a : Conds) : a.or {} = a := by simp [Conds.or]

@[simp] theorem Conds.none_or (a : Conds) : Conds.or {} a = a := by simp [Conds.or]

theorem Conds.or_assoc (a b c : Conds) : (a.or b).or c = a.or (b.or c) := by simp [Conds.or, Bool.or_assoc]

theorem Conds.or_comm (a b : Conds) : a.or b = b.or a := by simp [Conds.or, Bool.or_comm]

theorem Conds.or_left_comm (a b c : Conds) : a.or (b.or c) = b.or (a.or c) := by simp [Conds.or, Bool.or_left_comm]

/-- The conditions of n steps from step a on. -/
def condsRun (g : Nat → Conds) (a : Nat) : Nat → Conds
  | 0 => {}
  | n + 1 => (g a).or (condsRun g (a + 1) n)

theorem condsRun_add (g : Nat → Conds) (n : Nat) : ∀ a m, condsRun g a (m + n) = (condsRun g a m).or (condsRun g (a + m) n)
  | a, 0 => by simp [condsRun]
  | a, m + 1 => by
    rw [Nat.add_right_comm m 1 n, condsRun, condsRun_add g n (a + 1) m, condsRun, Conds.or_assoc, Nat.add_right_comm a 1 m, Nat.add_assoc a m 1]

/-! ### Steps and identities -/

theorem laneOp_int {fn : LaneFn} {t : ElemTy} (h : fmtOf t nsm = none) (rm : RMode) (sat ftz : Bool) (a b x : Nat) :
    laneOp fn t nsm rm sat ftz a b x = ⟨encodeInt t sat (fn.onInt (intOf t a) (intOf t b) (intOf t x)), {}⟩ := by
  simp only [laneOp, h, quiet]

/-- The lesser or the greater of two lanes. -/
theorem laneOp_pick {fn : LaneFn} {greater : Bool} {t : ElemTy} {f : Fmt} (hfn : ∀ a b x, fn.onFloat .rne a b x = pickFloat greater a b)
    (h : fmtOf t nsm = some f) (a b x : Nat) :
    laneOp fn t nsm .rne false false a b x = f.finish .rne false (extreme greater (f.decode a) (f.decode b)) := by
  simp only [laneOp, h, hfn, pickFloat_eq]
  rfl

theorem redStep_eq (o : VArgs) (nsm : Bool) (a b : Nat) : redStep o nsm a b = foldStep o nsm a b := by
  unfold redStep foldStep
  generalize o.sub.toNat = n
  cases h : fmtOf o.ty nsm with
  | none =>
    match n with
    | 0 | 1 | 2 => exact laneOp_int h ..
    | 3 | 4 | _ + 5 => rfl
  | some f =>
    match n with
    | 0 => exact laneOp_float h ..
    | 1 => exact laneOp_pick (fn := fnMin) (fun _ _ _ => rfl) h ..
    | 2 => exact laneOp_pick (fn := fnMax) (fun _ _ _ => rfl) h ..
    | 3 | 4 | _ + 5 => rfl

/-- The sign is the highest bit of a floating code. -/
theorem fmtOf_signBit {t : ElemTy} {f : Fmt} (h : fmtOf t nsm = some f) : f.ebits + f.fbits = t.width - 1 := by
  cases t
  all_goals cases h
  all_goals rfl

theorem redIdentity_eq (o : VArgs) (nsm : Bool) : redIdentity o nsm = foldUnit o nsm := by
  unfold redIdentity foldUnit
  generalize o.sub.toNat = n
  cases h : fmtOf o.ty nsm with
  | none =>
    match n with
    | 0 | 1 | 2 | 3 | _ + 4 => rfl
  | some f =>
    match n with
    | 0 =>
      show f.signed (!decide (o.rm = .rdn)) 0 = if o.rm = .rdn then 0 else 2 ^ (o.ty.width - 1)
      by_cases hrm : o.rm = .rdn
      · simp [Fmt.signed, hrm]
      · simp [Fmt.signed, hrm, fmtOf_signBit h]
    | 2 => exact congrArg (2 ^ · + f.infCode) (fmtOf_signBit h)
    | 1 | 3 | _ + 4 => rfl

/-! ### The tree -/

/-- One level over 2n lanes from lane 2a on: each pair folded, and the conditions of the n steps. -/
theorem redLevel_range (x : Nat → Nat) : ∀ n a, redLevel o nsm ((List.range' (2 * a) (2 * n)).map x) =
    ((List.range' a n).map fun i => (redStep o nsm (x (2 * i)) (x (2 * i + 1))).code,
      condsRun (fun i => (redStep o nsm (x (2 * i)) (x (2 * i + 1))).conds) a n)
  | 0, a => rfl
  | n + 1, a => by
    have hrun : List.range' (2 * a) (2 * (n + 1)) = 2 * a :: (2 * a + 1) :: List.range' (2 * (a + 1)) (2 * n) := rfl
    rw [hrun, List.map_cons, List.map_cons, redLevel, redLevel_range x n (a + 1), List.range'_succ]
    rfl

/-- A tree of one more level is the tree over its pairs. -/
theorem treeAt_succ (f : Nat → Nat → Rounded) (x : Nat → Nat) : ∀ m i, treeAt f x (m + 1) i =
    let r := treeAt f (fun j => (f (x (2 * j)) (x (2 * j + 1))).code) m i
    (r.1, (condsRun (fun j => (f (x (2 * j)) (x (2 * j + 1))).conds) (i * 2 ^ m) (2 ^ m)).or r.2)
  | 0, i => by simp [treeAt, condsRun]
  | m + 1, i => by
    have hrun : condsRun (fun j => (f (x (2 * j)) (x (2 * j + 1))).conds) (i * 2 ^ (m + 1)) (2 ^ (m + 1)) =
        (condsRun (fun j => (f (x (2 * j)) (x (2 * j + 1))).conds) (2 * i * 2 ^ m) (2 ^ m)).or
          (condsRun (fun j => (f (x (2 * j)) (x (2 * j + 1))).conds) ((2 * i + 1) * 2 ^ m) (2 ^ m)) := by
      rw [pow_succ, Nat.mul_two, condsRun_add, show i * (2 ^ m + 2 ^ m) = 2 * i * 2 ^ m by ring, Nat.succ_mul (2 * i)]
    rw [treeAt, treeAt_succ f x m, treeAt_succ f x m, hrun, treeAt]
    simp only [Conds.or_assoc, Conds.or_comm, Conds.or_left_comm]

theorem redTree_range : ∀ (m : Nat) (x : Nat → Nat), redTree o nsm m ((List.range (2 ^ m)).map x) = treeAt (redStep o nsm) x m 0
  | 0, x => rfl
  | m + 1, x => by
    rw [redTree, pow_succ, Nat.mul_comm, List.range_eq_range', redLevel_range x (2 ^ m) 0, ← List.range_eq_range', redTree_range m, treeAt_succ,
      Nat.zero_mul]

/-- vred: the root of the tree in lane 0. -/
theorem vRed_eq (o : VArgs) (nsm : Bool) (c : Ctx) : vRed o nsm c =
    let r := treeAt (foldStep o nsm) (fun i => if active c o i then laneOf o.ty.width (c.vr o.va) i else foldUnit o nsm)
      (Nat.log2 (512 / o.ty.width)) 0
    c.result o.vd (pack o.ty.width [r.1]) (orFlags c.vflags r.2) := by
  have hlanes : ((lanes o.ty.width (c.vr o.va)).zipIdx.map fun x => if (maskBits c o).getLsbD x.2 then x.1 else redIdentity o nsm) =
      (List.range (2 ^ Nat.log2 (512 / o.ty.width))).map fun i =>
        if active c o i then laneOf o.ty.width (c.vr o.va) i else foldUnit o nsm := by
    rw [elemWidth_log2, lanes_eq, zipIdx_map_range, redIdentity_eq]
    refine map_range_congr fun i hi => ?_
    rw [maskBits_getLsbD c o (hi.trans_le (Nat.div_le_self ..))]
  have hstep : redStep o nsm = foldStep o nsm := funext₂ (redStep_eq o nsm)
  simp only [vRed, hlanes, redTree_range, hstep]
  rfl

theorem reduction_holds : reduction := by
  intro s k t x xs o ht hq hx
  refine starts_result ht hq ((runVector_instr hx _).trans (vRed_eq ..)) fun c hd hflags => ⟨?_, hflags⟩
  rw [hd]
  exact lanes_packOne (elemWidth_mul o.ty) _

end Sys2Proof.Machine
end

section
/-! SUPPORT. The encoding of a block (R214, R278): 32 codes into a block of one register, their record into a lane of the next. -/
namespace Sys2Proof.Machine
open Sys2Proof Sys2Proof.Claims

/-- An encoded block has a code for each value. -/
theorem encodeBlock_length (t : ElemTy) (nsm : Bool) (vs : List FVal) : (encodeBlock t nsm vs).1.length = vs.length := by
  unfold encodeBlock
  split
  · exact List.length_map ..
  · extract_lets amax xf r0 qs enc codes conds errs j plain
    have hcodes : codes.length = vs.length := by simp [codes, enc, qs]
    split
    · split
      · extract_lets c better
        split
        · simp [plain, hcodes]
        · simp [plain, hcodes]
      · simp [hcodes]
    · exact hcodes

theorem blockWidth_eq (t : ElemTy) : blockWidth t = if t = .eb2 then 4 else 8 := by simp [blockWidth]

theorem blockWidth_lanes (t : ElemTy) : blockWidth t * (512 / blockWidth t) = 512 := by
  rw [blockWidth_eq]
  split
  · rfl
  · rfl

theorem VNum.ne_next (r : VNum) : r ≠ r + 1 := by bv_omega

/-- The 32 values that vbfp enc encodes: the lanes of two registers, one after the other. -/
def blockValues (c : Ctx) (o : VArgs) : List FVal :=
  (List.range 32).map fun i => f32.decode (laneOf 32 (c.vr (if i < 16 then o.va else o.vb)) (i % 16))

theorem blockValues_eq (c : Ctx) (o : VArgs) : (lanes 32 (c.vr o.va) ++ lanes 32 (c.vr o.vb)).map f32.decode = blockValues c o := by
  refine List.ext_getElem (by simp [blockValues]) fun i hi _ => ?_
  have hi32 : i < 32 := by simpa using hi
  simp only [blockValues, lanes_eq, List.getElem_map, List.getElem_append, List.length_map, List.length_range, List.getElem_range]
  by_cases h : i < 16
  · simp [h, Nat.mod_eq_of_lt h]
  · simp [h, show i % 16 = i - 16 by omega]

/-- The codes that vbfp enc writes, their record, and the conditions. -/
def blockResult (c : Ctx) (o : VArgs) (nsm : Bool) : List Nat × Nat × Conds := encodeBlock o.ty2 nsm (blockValues c o)

theorem blockResult_length (c : Ctx) (o : VArgs) (nsm : Bool) : (blockResult c o nsm).1.length = 32 :=
  (encodeBlock_length ..).trans ((List.length_map ..).trans List.length_range)

theorem vBfpEnc_eq (o : VArgs) (nsm : Bool) (c : Ctx) : vBfpEnc o nsm c =
    (c.setVr o.vd (pack (blockWidth o.ty2)
      (replaceFrom (32 * (o.vimm.toNat % 4)) (blockResult c o nsm).1 (lanes (blockWidth o.ty2) (c.vr o.vd))))).result (o.vd + 1)
      (pack 32 (replaceFrom (o.vimm.toNat % 4) [(blockResult c o nsm).2.1] (lanes 32 (c.vr (o.vd + 1)))))
      (orFlags c.vflags (blockResult c o nsm).2.2) := by
  rw [vBfpEnc]
  simp only [blockValues_eq, Ctx.vr_setVr_other _ (VNum.ne_next o.vd).symm]
  rfl

theorem blockEncoding_holds : blockEncoding := by
  intro s k t x xs o ht hq hx b w hb e
  have hw : blockWidth o.ty2 = w := blockWidth_eq o.ty2
  have hlen : e.1.length = 32 := blockResult_length (t.rest xs) o x.nsm
  refine starts_of ht hq ((runVector_instr hx _).trans (vBfpEnc_eq ..)) rfl rfl rfl (fun r hr => ?_) ⟨?_, ?_, rfl⟩
  · obtain ⟨hd, hd1⟩ := not_or.mp hr
    exact (Ctx.result_vr_other _ hd1 ..).trans (Ctx.vr_setVr_other _ hd _)
  · have hlanes := lanes_packReplace (new := e.1) (hw ▸ blockWidth_lanes o.ty2) (hlen.symm ▸ hb) (t.ctx.vr o.vd)
    rw [hlen, ← hw] at hlanes
    rw [Ctx.result_vr_other _ (VNum.ne_next o.vd), Ctx.vr_setVr_same, ← hw]
    exact hlanes
  · have hb4 : b < 4 := Nat.mod_lt _ (by decide)
    rw [Ctx.result_vr_same]
    exact lanes_packReplaceOne (w := 32) rfl (show b < 16 by omega) _ (t.ctx.vr (o.vd + 1))

end Sys2Proof.Machine
end

section
/-! SUPPORT. Exact sums (R218 to R221, R279, R280): the two records of a register, and the commands on them. -/
namespace Sys2Proof.Machine
open Sys2Proof Sys2Proof.Claims

variable {s : State} {k : Nat} {t : Thread} {x : VCmd} {xs : List VCmd} {o : VArgs} {nsm : Bool} {c : Ctx}

/-! ### Records -/

theorem recordAt_append_zero (a b : BitVec 256) : recordAt (a ++ b) 0 = b := BitVec.extractLsb'_append_eq_right

theorem recordAt_append_one (a b : BitVec 256) : recordAt (a ++ b) 1 = a := BitVec.extractLsb'_append_eq_left

/-- A record put into a register stands there, and the other record stays. -/
theorem recordAt_putXrec (v : VReg) (h : Nat) (x : BitVec 256) :
    recordAt (putXrec v (h % 2) x) (h % 2) = x ∧ recordAt (putXrec v (h % 2) x) (1 - h % 2) = recordAt v (1 - h % 2) := by
  obtain hh | hh := Nat.mod_two_eq_zero_or_one h
  · rw [hh]
    exact ⟨recordAt_append_zero .., recordAt_append_one ..⟩
  · rw [hh]
    exact ⟨recordAt_append_one .., recordAt_append_zero ..⟩

/-! ### Sums over lanes -/

/-- A fold over the active lanes is one over their numbers. -/
theorem foldl_activeLanes (c : Ctx) (o : VArgs) {w : Nat} (f : Xsum → Nat → Xsum) (v : VReg) (y : Xsum) :
    (lanes w v).zipIdx.foldl (fun y l => if (maskBits c o).getLsbD l.2 then f y l.1 else y) y =
      ((List.range (512 / w)).filter fun i => active c o i).foldl (fun y i => f y (laneOf w v i)) y := by
  have hpairs : (lanes w v).zipIdx = (List.range (512 / w)).map fun i => (laneOf w v i, i) :=
    (List.map_id _).symm.trans (zipIdx_map_range (laneOf w v) id _)
  rw [hpairs, List.foldl_map, List.foldl_filter]
  refine List.foldl_ext _ _ _ fun y i hi => ?_
  rw [maskBits_getLsbD c o ((List.mem_range.mp hi).trans_le (Nat.div_le_self ..))]

/-- What vxacc SUB 0 leaves in a record (R279): the sum with the active lanes of va, or the mark of another type. -/
def accumulated (c : Ctx) (o : VArgs) (nsm : Bool) (r : Xsum) : Xsum :=
  if r.fmt.toNat = o.ty.code then ((List.range (512 / o.ty.width)).filter fun i => active c o i).foldl
    (fun y i => y.add (decodeElem o.ty nsm (laneOf o.ty.width (c.vr o.va) i))) r
  else { r with flags := r.flags ||| 0x20, int := 0 }

theorem vXaccAdd_malformed (h : xsumMalformed (recordAt (c.vr o.vd) (o.vimm.toNat % 2)) = true) : vXaccAdd o nsm c = c := if_pos h

theorem vXaccAdd_eq (h : xsumMalformed (recordAt (c.vr o.vd) (o.vimm.toNat % 2)) = false) : vXaccAdd o nsm c =
    c.result o.vd (putXrec (c.vr o.vd) (o.vimm.toNat % 2)
      (accumulated c o nsm (Xsum.ofBits (recordAt (c.vr o.vd) (o.vimm.toNat % 2)))).toBits) c.vflags := by
  refine (if_neg (Bool.not_eq_true _ ▸ h)).trans (congrArg (fun y : Xsum => c.setVr o.vd (putXrec (c.vr o.vd) (o.vimm.toNat % 2) y.toBits)) ?_)
  by_cases hf : (Xsum.ofBits (recordAt (c.vr o.vd) (o.vimm.toNat % 2))).fmt.toNat = o.ty.code
  · exact (if_neg (not_not.mpr hf)).trans ((foldl_activeLanes c o (fun y l => y.add (decodeElem o.ty nsm l)) ..).trans (if_pos hf).symm)
  · exact (if_pos hf).trans (if_neg hf).symm

theorem vXaccCombine_eq (o : VArgs) (c : Ctx) : vXaccCombine o c = c.result o.vd
    (((xsumEnter (recordAt (c.vr o.va) 1)).combine (xsumEnter (recordAt (c.vr o.vb) 1))).toBits ++
      ((xsumEnter (recordAt (c.vr o.va) 0)).combine (xsumEnter (recordAt (c.vr o.vb) 0))).toBits) c.vflags := rfl

theorem vXfin_eq (o : VArgs) (nsm : Bool) (c : Ctx) : vXfin o nsm c =
    let r := xsumFinal (recordAt (c.vr o.va) (o.vimm.toNat % 2)) o.ty2 nsm o.rm
    c.result o.vd (pack o.ty2.width [r.code]) (orFlags c.vflags r.conds) := rfl

/-! ### The commands start -/

theorem exactSums_holds : exactSums := by
  intro s k t x xs o ht hq h old
  refine ⟨fun hx hm => ?_, fun hx hm => ?_, fun hx => ?_, fun hx => ?_⟩
  · exact starts_of ht hq ((runVector_instr hx _).trans (vXaccAdd_malformed hm)) rfl rfl rfl (fun _ _ => rfl) rfl
  · refine starts_result ht hq ((runVector_instr hx _).trans (vXaccAdd_eq hm)) fun c hd hflags => ?_
    obtain ⟨hsame, hother⟩ := recordAt_putXrec (t.ctx.vr o.vd) o.vimm.toNat (accumulated (t.rest xs) o x.nsm (Xsum.ofBits old)).toBits
    rw [hd]
    exact ⟨hsame, hother, hflags⟩
  · refine starts_result ht hq ((runVector_instr hx _).trans (vXaccCombine_eq ..)) fun c hd hflags => ⟨fun q hq2 => ?_, hflags⟩
    rw [hd]
    match q with
    | 0 => exact recordAt_append_zero ..
    | 1 => exact recordAt_append_one ..
  · refine starts_result ht hq ((runVector_instr hx _).trans (vXfin_eq ..)) fun c hd hflags => ⟨?_, hflags⟩
    rw [hd]
    exact lanes_packOne (elemWidth_mul o.ty2) _

/-- Settles O50: each command by the equation of its run, its results as the image of the lane numbers; a reduction by induction on the levels of
its tree. -/
theorem vectorCommands : Obligations.VectorCommands :=
  ⟨vectorQueued_holds, vectorLanes_holds, vectorStart_holds, floatLanes_holds, reduction_holds, blockEncoding_holds, exactSums_holds⟩

end Sys2Proof.Machine
end

section
/-! SUPPORT. Atomics (R237, R238) and axadd (R241): the new value of each row for the old bytes that an access finds, and what the access leaves. -/
namespace Sys2Proof.Machine
open Sys2Proof Sys2Proof.Claims

variable {s s' : State} {k n : Nat} {t : Thread} {i : Instr} {d a : Reg} {e : Option Ext} {loc : Loc} {bs : List Byte}

/-! ### The new value of a row -/

theorem signedOf_eq {x : Nat} (h : x < 2 ^ (8 * n)) : signedOf (8 * n) x = signedBytes n x := by
  simp only [signedOf, signedBytes, Nat.mod_eq_of_lt h, Nat.cast_pow, Nat.cast_ofNat]

theorem minS_eq {x y : Nat} (hx : x < 2 ^ (8 * n)) (hy : y < 2 ^ (8 * n)) :
    minS (8 * n) x y = if signedBytes n x < signedBytes n y then x else y := by
  rw [minS, signedOf_eq hx, signedOf_eq hy]

theorem maxS_eq {x y : Nat} (hx : x < 2 ^ (8 * n)) (hy : y < 2 ^ (8 * n)) :
    maxS (8 * n) x y = if signedBytes n x < signedBytes n y then y else x := by
  rw [maxS, signedOf_eq hx, signedOf_eq hy]

theorem min_eq_ite_lt (x y : Nat) : min x y = if x < y then x else y := by
  split <;> omega

theorem max_eq_ite_lt (x y : Nat) : max x y = if x < y then y else x := by
  split <;> omega

/-- The body of an atomic: its function is that of its row (R238) on numbers of its width. -/
theorem atomicOf_row {la : BitVec 4} {len : Nat} {g : Nat → Nat} (s : State) (k : Nat) (hi : atomicOf t.ctx i = some (n, d, a, la, e, len, g)) :
    ∃ (b : Body) (f : Nat → Nat), exec i s = issue i s (withLook i la true b) ∧
      b s k t = atomicBody .atomic n d a (extD e) f word s k t ∧ ∀ x < 2 ^ (8 * n), f x = g x := by
  cases i
  case afmin => cases hi; exact ⟨_, _, rfl, rfl, fun x hx => minS_eq (n := 8) hx (Nat.mod_lt _ (Nat.two_pow_pos _))⟩
  case afminW => cases hi; exact ⟨_, _, rfl, rfl, fun x hx => minS_eq (n := 4) hx (Nat.mod_lt _ (Nat.two_pow_pos _))⟩
  case afmax => cases hi; exact ⟨_, _, rfl, rfl, fun x hx => maxS_eq (n := 8) hx (Nat.mod_lt _ (Nat.two_pow_pos _))⟩
  case afmaxW => cases hi; exact ⟨_, _, rfl, rfl, fun x hx => maxS_eq (n := 4) hx (Nat.mod_lt _ (Nat.two_pow_pos _))⟩
  case afminn | afminnW => cases hi; exact ⟨_, _, rfl, rfl, fun x _ => min_eq_ite_lt ..⟩
  case afmaxn | afmaxnW => cases hi; exact ⟨_, _, rfl, rfl, fun x _ => max_eq_ite_lt ..⟩
  case afadd | afand | afor | afxor | aswap | acas | afaddW | afandW | aforW | afxorW | aswapW | acasW =>
    cases hi
    exact ⟨_, _, rfl, rfl, fun _ _ => rfl⟩
  all_goals cases hi

/-! ### The access -/

theorem leVal_lt_of_length (h : bs.length ≤ n) : leVal bs < 2 ^ (8 * n) := calc
  leVal bs < 256 ^ bs.length := leVal_lt bs
  _ ≤ 256 ^ n := Nat.pow_le_pow_right (by decide) h
  _ = 2 ^ (8 * n) := (Nat.pow_mul 2 8 n).symm

/-- The place, bytes and state of an indivisible access with the release of its extension word. -/
def AtRelease (s : State) (t : Thread) (acc : Acc) (va : Word) (n : Nat) (e : Option Ext) (loc : Loc) (bs : List Byte) (s' : State) : Prop :=
  AtPlace s t acc va n (fun s => released s t (ordIn e) (scopeIn e)) loc bs s'

/-- What the part of an indivisible instruction leaves: the new bytes at its place, the old value in its register, and its acquire. -/
theorem atomicBody_next {acc : Acc} (ht : s.thread? k = some t) (hq : Quiet t) (hf : Freed s t (ordIn e) (scopeIn e))
    (hat : AtRelease s t acc (t.ctx.gpr a) n e loc bs s') (d : Reg) (f : Nat → Nat) (result : Nat → Word) :
    atomicBody acc n d a (extD e) f result s k t = .next ((acquired (s'.store loc.key (leOf n (f (leVal bs)))) t (ordIn e) (scopeIn e)).setThread k
      (withReg (crossed s' t loc) d (result (leVal bs)))) := by
  have ht' : s'.thread? k = some t := ((atPlace_same hat fun s => released_same ..).thread k).trans ht
  have hpre : releaseOf t e = fun s => released s t (ordIn e) (scopeIn e) := funext fun s => releaseOf_eq ..
  rw [atomicBody_quiet ht hq hf, hpre, rmw_atPlace hat ht' f]
  simp only [orTrap, acquired_eq, State.setReg_eq (State.thread?_setThread ..), State.setThread_setThread, acquired_setThread]
  rfl

/-- A part whose release a generation holds up issues again (R224). -/
theorem atomicBody_stays {acc : Acc} (ht : s.thread? k = some t) (hq : Quiet t) (hf : ¬ Freed s t (ordIn e) (scopeIn e)) (n : Nat)
    (d a : Reg) (f : Nat → Nat) (result : Nat → Word) : atomicBody acc n d a (extD e) f result s k t = .stay s := by
  have hrel := ordRel_not_freed hf
  simp only [atomicBody, State.waitRx_quiet ht hq.1 hq.2, orTrap, ht, Option.getD_some, orStay, hrel, ↓reduceIte]

theorem atomicResult_holds : atomicResult := by
  unfold atomicResult
  intro s k t i n d a e len g loc bs s' h hi hq hres hread
  obtain ⟨-, ht, -⟩ := id h
  obtain ⟨b, f, hexec, hb, hfg⟩ := atomicOf_row s k hi
  rw [hexec, withLook_zero rfl, issue_selected h, hb]
  refine ⟨fun hf => ?_, fun hf => ?_⟩
  · rw [atomicBody_next ht hq hf ⟨hres, hread⟩, settle_put, hfg _ (leVal_lt_of_length (readAt_length_le hread)), ← instrLen_atomic hi]
    rfl
  · rw [atomicBody_stays ht hq hf, settle_stay]

/-! ### axadd (R241) -/

/-- The record that axadd leaves, as a number. -/
theorem axadd_new (old : Nat) (h : old < 2 ^ 256) (nsm : Bool) (b : Word) :
    (let r := BitVec.ofNat 256 old
     if xsumMalformed r then old else ((Xsum.ofBits r).add (xaddValue (Xsum.ofBits r).type nsm b)).toBits.toNat) =
    (let r := BitVec.ofNat 256 old
     if xsumMalformed r then r
      else ((Xsum.ofBits r).add (decodeElem (Xsum.ofBits r).type nsm (b.toNat % 2 ^ (Xsum.ofBits r).type.width))).toBits).toNat := by
  dsimp only
  split
  · exact (Nat.mod_eq_of_lt h).symm
  · rfl

theorem axaddResult_holds : axaddResult := by
  unfold axaddResult
  intro s k t o loc bs s' h hla hq hf hres hread r type r'
  obtain ⟨-, ht, -⟩ := id h
  have hlen : instrLen (.axadd o) = 4 + partLen o.ext.isSome + (srcLen o.b - 4) := encAtomic_len ..
  have hold : leVal bs < 2 ^ 256 := leVal_lt_of_length (n := 32) (readAt_length_le hread)
  rw [exec_axadd, execAxadd, withLook_zero hla, issue_selected h, axaddBody]
  dsimp only
  rw [atomicBody_next ht hq hf ⟨hres, hread⟩, settle_put, axadd_new _ hold, ← hlen]
  rfl

/-- Settles O40: an atomic reads the old bytes and writes those of its row, and axadd those of the record it has added to. -/
theorem atomicResults : Obligations.AtomicResults := ⟨atomicResult_holds, axaddResult_holds⟩

end Sys2Proof.Machine
end

section
/-! Refutations of this family: a copy that its release held (R224, R251), and a scrub in a capped cell (R453, R454). -/
namespace Sys2Proof.Machine
open Sys2Proof Sys2Proof.Claims

/-! ### A copy that its release held -/

/-- A cpyh with a promise of one dclk. -/
def lateCopy : Copy := ⟨9, 6, 7, 8, some 1⟩

/-- A thread in a slot whose copy has waited for its release since dclk 0. -/
def lateThread : Thread where
  ctx := {}
  place := .slot ⟨0, 0, 0, 0⟩ 0
  heldSince := some 0

/-- Ten dclk later, its handles name no buffer. -/
def lateState : State where
  threads := [(1, lateThread)]
  cur := some 1
  clock := 10

/-- The copy ends at once, and its missed promise is noted with the thread. -/
theorem lateState_misses : ∃ s', exec (.cpyh lateCopy) lateState = .next s' ∧ (s'.thread? 1).any (·.promises.isEmpty) = false :=
  ⟨_, rfl, by decide +kernel⟩

/-- Refutes O18: a cpyh that its release has held (R224) past its promise and whose handle is stale when it goes on ends with a missed promise
(R251), which the entry of the statement does not show: its premise leaves out a parked thread only. -/
theorem not_copyStarts : ¬ Obligations.CopyStarts := by
  unfold Obligations.CopyStarts
  intro h
  obtain ⟨-, -, hstale⟩ := h lateState 1 lateThread (.cpyh lateCopy) ⟨rfl, rfl, rfl⟩ ⟨rfl, rfl⟩
  have hexec := hstale lateCopy rfl (by decide) (.inl (by decide +kernel)) (by rintro why n ⟨⟩)
  obtain ⟨s', hexec', hmiss⟩ := lateState_misses
  obtain rfl := Host.Outcome.next.inj (hexec'.symm.trans hexec)
  exact absurd hmiss (by decide +kernel)

/-! ### A scrub in a capped cell -/

/-- A supervisor thread with the start of its scratch and a length of one line. -/
def scrubThread : Thread where
  ctx := (({ tstat := 0x100 } : Ctx).setGpr 1 0x4000000000000000).setGpr 2 0x40
  place := .slot ⟨0, 0, 0, 0⟩ 0

/-- Its cell, with one way of scratch, is capped. -/
def cappedState : State where
  threads := [(1, scrubThread)]
  cells := [(⟨0, 0, 0, 0⟩, { nscr := 1, capped := true })]
  cur := some 1

/-- The scrub is answered UNCORRECTABLE at the thread's own scratch, and the double trap ends the thread. -/
theorem cappedState_ends : ∃ s', exec (.scrub 1 2) cappedState = .next s' ∧ (s'.thread? 1).isSome = false :=
  ⟨_, rfl, by decide +kernel⟩

/-- Refutes O47: the statement of scrub holds no premise that the thread's cell is not capped, and a request to a capped cell, its own scratch among
them, is answered UNCORRECTABLE (R453). -/
theorem not_cellMaintenance : ¬ Obligations.CellMaintenance := by
  unfold Obligations.CellMaintenance
  rintro ⟨-, -, h⟩
  obtain ⟨-, hline⟩ := h cappedState 1 scrubThread 1 2 false ⟨rfl, rfl, rfl⟩ (by decide +kernel) rfl ⟨rfl, rfl⟩ (by decide +kernel)
    (by rintro c ⟨⟩) rfl (by rintro w ⟨⟩) (by decide +kernel) (by decide +kernel)
  obtain ⟨s', hexec, hlive, -⟩ := hline (by decide +kernel) (by decide +kernel) (by decide) (by decide) (by decide) (by decide)
  obtain ⟨s₁, hexec₁, hgone⟩ := cappedState_ends
  obtain rfl := Host.Outcome.next.inj (hexec₁.symm.trans hexec)
  rw [hlive] at hgone
  exact Bool.noConfusion hgone

end Sys2Proof.Machine
end

section
/-! SUPPORT. A copy in progress (R245, R250, R251): its record in its cluster, its end, and what stops a block. -/
namespace Sys2Proof.Machine
open Sys2Proof Sys2Proof.Claims

variable {s s' : State} {n code : Nat} {t : Thread} {c : ClusterId} {j : CopyJob} {b : Issuer} {w : Who} {va : Word} {bs : List Byte} {e : EngErr}

/-! ### The records of a cluster -/

theorem State.findCopy_key (h : s.findCopy n = some (c, j)) : j.key = n := by
  obtain ⟨x, -, hx⟩ := List.exists_of_findSome?_eq_some h
  obtain ⟨q, hq, hcj⟩ := Option.map_eq_some_iff.mp hx
  cases hcj
  exact beq_iff_eq.mp (List.find?_some (p := fun j : CopyJob => j.key == n) hq)

theorem State.copies_setCopy (s : State) (c : ClusterId) (n : Nat) (j : Option CopyJob) : ((s.setCopy c n j).cluster c).copies =
    (s.cluster c).copies.flatMap fun y => if y.key = n then j.toList else [y] := by
  rw [State.setCopy, State.cluster_setCluster]

theorem State.not_mem_setCopy_none (s : State) (c : ClusterId) (n : Nat) : ∀ q ∈ ((s.setCopy c n none).cluster c).copies, q.key ≠ n := by
  intro q hq
  rw [State.copies_setCopy, List.mem_flatMap] at hq
  obtain ⟨y, -, hy⟩ := hq
  split at hy
  · cases hy
  · next hne => rwa [List.mem_singleton.mp hy]

theorem State.mem_setCopy_some (h : j ∈ (s.cluster c).copies) (hk : j.key = n) (q : CopyJob) :
    q ∈ ((s.setCopy c n (some q)).cluster c).copies := by
  rw [State.copies_setCopy, List.mem_flatMap]
  exact ⟨j, h, by simp only [hk, ↓reduceIte, Option.toList_some, List.mem_singleton]⟩

theorem State.cluster_dropLocks (s : State) (n : Nat) (c : ClusterId) :
    (s.dropLocks n).cluster c = { s.cluster c with locks := (s.cluster c).locks.filter fun l => l.owner != n } :=
  lookD_map_fixed (f := fun (_ : ClusterId) (x : Cluster) => { x with locks := x.locks.filter fun l => l.owner != n }) rfl s.clusters

/-- What an engine owes a thread that lives goes to it. -/
theorem State.owe_live (ht : s.thread? b.thread = some t) (f : Thread → Thread) : s.owe b f = s.setThread b.thread (f t) := by
  have hto : s.receiver b = some b.thread := if_pos (by rw [ht]; rfl)
  rw [State.owe, hto]
  exact State.modThread_some ht f

/-! ### The end of a copy -/

/-- The entry of a copy whose promise has not run out, and that ends well or with a fault (R252). -/
theorem entryBits_fault (ticket : BitVec 32) (h : code < 32) (n : Nat) :
    entryBits ticket 0 false code n = ticket.toNat * 2 ^ 32 + code * 2 ^ 23 + n := by
  simp only [entryBits, Nat.mod_eq_of_lt h, bit, Bool.false_eq_true, ↓reduceIte, Nat.zero_mod, Nat.zero_mul, Nat.add_zero]

theorem Thread.receive_copy_ok (t : Thread) (b : Issuer) (entry : Nat) (va : Word) :
    t.receive .copy b entry 0 va = { t with cpydone := t.cpydone ++ [word entry], outCpy := t.outCpy - 1 } := rfl

theorem Thread.cpydone_receive (t : Thread) (b : Issuer) (entry fcode : Nat) (va : Word) :
    (t.receive .copy b entry fcode va).cpydone = t.cpydone ++ [word entry] := by
  rw [Thread.receive]
  split <;> rfl

theorem State.endCopy_eq (hdue : j.due = none) (hmiss : j.pmiss = false) (ht : s.thread? j.by_.thread = some t) (status fcode : Nat) (va : Word) :
    s.endCopy c j status fcode va = ((s.setCopy c j.key none).dropLocks j.key).setThread j.by_.thread
      (t.receive .copy j.by_ (entryBits j.by_.opr.ticket status false fcode j.done) fcode va) := by
  have hnot : s.overdue c j = false := by simp only [State.overdue, hdue, Bool.and_false]
  have ht' : ((s.setCopy c j.key none).dropLocks j.key).thread? j.by_.thread = some t := ht
  rw [State.endCopy, hnot, hmiss]
  exact State.owe_live ht' _

theorem State.endCopy_copies (hdue : j.due = none) (hmiss : j.pmiss = false) (ht : s.thread? j.by_.thread = some t) (status fcode : Nat) (va : Word) :
    ∀ q ∈ ((s.endCopy c j status fcode va).cluster c).copies, q.key ≠ j.key := by
  rw [State.endCopy_eq hdue hmiss ht]
  intro q hq
  have hc : (((s.setCopy c j.key none).dropLocks j.key).cluster c).copies = ((s.setCopy c j.key none).cluster c).copies := by
    rw [State.cluster_dropLocks]
  exact s.not_mem_setCopy_none c j.key q (hc ▸ hq)

theorem State.endCopy_locks (hdue : j.due = none) (hmiss : j.pmiss = false) (ht : s.thread? j.by_.thread = some t) (status fcode : Nat) (va : Word) :
    ∀ l ∈ ((s.endCopy c j status fcode va).cluster c).locks, l.owner ≠ j.key := by
  rw [State.endCopy_eq hdue hmiss ht]
  intro l hl
  have hc : (((s.setCopy c j.key none).dropLocks j.key).cluster c).locks =
      ((s.setCopy c j.key none).cluster c).locks.filter fun l => l.owner != j.key := by
    rw [State.cluster_dropLocks]
  have hl' : l ∈ ((s.setCopy c j.key none).cluster c).locks.filter fun l => l.owner != j.key := hc ▸ hl
  exact bne_iff_ne.mp (List.mem_filter.mp hl').2

/-! ### A block -/

theorem State.Rewayed.cluster (h : s.Rewayed s') (c : ClusterId) : s'.cluster c = s.cluster c := by
  obtain ⟨_, _, rfl⟩ := h
  rfl

theorem State.Rewayed.engWrite (h : engWrite s w va bs = .ok s') : s.Rewayed s' := by
  unfold Machine.engWrite at h
  split at h
  · cases h
  · split at h
    · next hok =>
      cases h
      exact State.Rewayed.engineStore.of_ok hok
    · cases h

theorem CopyJob.blocks_le (hk : j.kind = .plain) (n : Nat) : { j with done := n + 1 }.blocks ≤ n + 1 ↔ j.len ≤ 4096 * (n + 1) := by
  simp only [CopyJob.blocks, hk]
  omega

theorem CopyJob.fresh_plain (hk : j.kind = .plain) (s : State) : j.fresh s = true := by
  simp only [CopyJob.fresh, hk]

/-- A block of a copy that moves bytes as they are reads them whole and then writes them. -/
theorem copyBlockAt_plain (hk : j.kind = .plain) (s : State) (w : Who) (n : Nat) : copyBlockAt s w j n =
    (engRead s w (j.src + word (4096 * n)) (min 4096 (j.len - 4096 * n))).bind fun bs => engWrite s w (j.dst + word (4096 * n)) bs := by
  simp only [copyBlockAt, hk]
  rfl

theorem exec_copyBlock_ok (hf : s.findCopy n = some (c, j)) (hk : j.kind = .plain) (h : copyBlockAt s (s.whoFor j.by_) j j.done = .ok s') :
    exec (.copyBlock n) s = .next (if { j with done := j.done + 1 }.blocks ≤ j.done + 1
      then s'.endCopy c { j with done := j.done + 1 } 0 0 0 else s'.setCopy c n (some { j with done := j.done + 1 })) := by
  simp only [exec_copyBlock, execCopyBlock, hf, CopyJob.fresh_plain hk, Bool.not_true, Bool.false_eq_true, ↓reduceIte, h]

theorem exec_copyBlock_error (hf : s.findCopy n = some (c, j)) (hk : j.kind = .plain)
    (h : copyBlockAt s (s.whoFor j.by_) j j.done = .error e) :
    exec (.copyBlock n) s = .next ((s.noteCopy (s.whoFor j.by_) j j.done).endCopy c j e.status e.code e.va) := by
  simp only [exec_copyBlock, execCopyBlock, hf, CopyJob.fresh_plain hk, Bool.not_true, Bool.false_eq_true, ↓reduceIte, h]

/-! ### What stops a read -/

/-- The parts of a read that fails: the first that does not go is the one whose error the read has. -/
theorem engParts_error {ps : List (Word × Nat)} {acc : List Byte}
    (h : ps.foldlM (fun acc p => (engPart s w p.1 p.2).map fun bs => acc ++ bs) acc = .error e) :
    ∃ p, ps.find? (fun p => (engPart s w p.1 p.2).toOption.isNone) = some p ∧ engPart s w p.1 p.2 = .error e := by
  induction ps generalizing acc with
  | nil => cases h
  | cons p ps ih =>
    rw [List.foldlM_cons] at h
    cases hp : engPart s w p.1 p.2 with
    | error e' =>
      rw [hp] at h
      cases h
      exact ⟨p, List.find?_cons_of_pos (by rw [hp]; rfl), hp⟩
    | ok bs =>
      rw [hp] at h
      obtain ⟨q, hq, hqe⟩ := ih h
      exact ⟨q, (List.find?_cons_of_neg (by rw [hp]; exact Bool.false_ne_true)).trans hq, hqe⟩

theorem engNote_fault {va' : Word} (h : engRead s w va n = .error (.fault code va')) (pc : Word) : s.engNote w va n pc = s := by
  obtain ⟨p, hp, hpart⟩ := engParts_error h
  rw [State.engNote, hp]
  unfold engPart at hpart
  cases hloc : placeOf s w .load p.1 p.2 with
  | error c => simp only [hloc]
  | ok loc =>
    cases hans : homeAnswer s w loc with
    | some c => simp only [hloc, hans, Option.isSome_some, Bool.or_true, ↓reduceIte]
    | none =>
      simp only [hloc, hans] at hpart
      repeat' split at hpart
      all_goals cases hpart

theorem noteCopy_fault (hk : j.kind = .plain)
    (h : engRead s w (j.src + word (4096 * n)) (min 4096 (j.len - 4096 * n)) = .error (.fault code va)) : s.noteCopy w j n = s := by
  have hfirst : (copySources j n).find? (fun p => (engRead s w p.1 p.2).toOption.isNone) =
      some (j.src + word (4096 * n), min 4096 (j.len - 4096 * n)) := by
    simp only [copySources, hk]
    exact List.find?_cons_of_pos (by rw [h]; rfl)
  rw [State.noteCopy, hfirst]
  exact engNote_fault h _

/-! ### The statements -/

theorem copyBlockResult_holds : copyBlockResult := by
  unfold copyBlockResult
  intro s n c j t hf hj hk hdue hmiss ht at_ m
  have hm : m = min 4096 (j.len - 4096 * j.done) := by
    rw [min_def]
    dsimp only [m]
    split <;> split <;> omega
  rw [hm]
  refine ⟨fun bs s1 hread hwrite => ?_, fun code va hread hcode hne => ?_⟩
  · have hblock : copyBlockAt s (s.whoFor j.by_) j j.done = .ok s1 := by
      rw [copyBlockAt_plain hk]
      exact (congrArg (Except.bind · _) hread).trans hwrite
    have hs := State.Rewayed.engWrite hwrite
    have ht1 : s1.thread? j.by_.thread = some t := (hs.thread? _).trans ht
    refine ⟨_, exec_copyBlock_ok hf hk hblock, ?_⟩
    by_cases hend : j.len ≤ 4096 * (j.done + 1)
    · rw [if_pos ((CopyJob.blocks_le hk _).mpr hend)]
      let j' : CopyJob := { j with done := j.done + 1 }
      refine ⟨?_, fun h => absurd hend (Nat.not_le.mpr h), fun _ => ⟨State.endCopy_copies (j := j') hdue hmiss ht1 _ _ _,
        State.endCopy_locks (j := j') hdue hmiss ht1 _ _ _, ?_⟩⟩
      · rw [State.endCopy_eq (j := j') hdue hmiss ht1]
        rfl
      · rw [State.endCopy_eq (j := j') hdue hmiss ht1, State.thread?_setThread, entryBits_fault _ (by decide), Nat.zero_mul, Nat.add_zero,
          Thread.receive_copy_ok]
        rfl
    · rw [if_neg (mt (CopyJob.blocks_le hk _).mp hend)]
      exact ⟨rfl, fun _ => ⟨_, State.mem_setCopy_some ((hs.cluster c).symm ▸ hj) (State.findCopy_key hf) _, rfl⟩, fun h => absurd h hend⟩
  · have hblock : copyBlockAt s (s.whoFor j.by_) j j.done = .error (.fault code va) := by
      rw [copyBlockAt_plain hk]
      exact congrArg (Except.bind · _) hread
    refine ⟨_, exec_copyBlock_error hf hk hblock, ?_⟩
    rw [noteCopy_fault hk hread]
    refine ⟨?_, State.endCopy_copies hdue hmiss ht _ _ _, ?_⟩
    · rw [State.endCopy_eq hdue hmiss ht]
      rfl
    · rw [State.endCopy_eq hdue hmiss ht]
      refine ⟨_, State.thread?_setThread .., ?_⟩
      rw [Thread.cpydone_receive, EngErr.status, EngErr.code, entryBits_fault _ hcode]
      rfl

theorem promiseMissed_holds : promiseMissed := by
  unfold promiseMissed
  intro s
  refine ⟨fun n d c j t hf hj hdue hmiss hlate ht => ?_, fun k t r rs ht hrs hrun htodo => ?_⟩
  · have hexec : exec (.promiseExpiry n) s = .next ((s.setCopy c n (some { j with pmiss := true })).missPromise j.by_) := by
      simp only [exec_promiseExpiry, execPromiseExpiry, hf, hdue, hmiss, Bool.false_or, decide_eq_true_eq, Nat.not_le.mpr hlate, ↓reduceIte]
    have ht1 : (s.setCopy c n (some { j with pmiss := true })).thread? j.by_.thread = some t := ht
    have howe : (s.setCopy c n (some { j with pmiss := true })).missPromise j.by_ =
        (s.setCopy c n (some { j with pmiss := true })).setThread j.by_.thread { t with promises := t.promises ++ [j.by_.opr] } :=
      State.owe_live ht1 _
    rw [hexec, howe]
    exact ⟨_, rfl, rfl, State.thread?_setThread .., _, State.mem_setCopy_some hj (State.findCopy_key hf) _, rfl⟩
  · have hgo : t.goesOn = true := by rw [Thread.goesOn, hrun]
    have hexec : exec (.promiseMissedUpcall k) s = .next (if t.ctx.upc || t.ctx.priv || t.slot?.isNone then s
        else takeFault (s.setThread k { t with promises := rs }) k { code := 0x0A, detail := BitVec.ofNat 64 r.ticket.toNat, opr := some r } {}) := by
      simp only [exec_promiseMissedUpcall, execPromiseMissedUpcall, ht, hrs, hgo, htodo, Bool.not_true, Bool.or_false, Option.isSome_none,
        BitVec.ofNat_toNat]
      rfl
    rw [hexec]
    refine ⟨fun hupc hpriv hslot => ?_, fun h => ?_⟩
    · rw [if_neg (by simp only [hupc, hpriv, Bool.or_self, Bool.false_or, Option.isNone_iff_eq_none]; exact Option.isSome_iff_ne_none.mp hslot)]
    · rw [if_pos (by simpa only [Bool.or_eq_true, Option.isNone_iff_eq_none, or_assoc] using h)]

/-- Settles O49: a block as its read and its write, and its end as the release of its locks and the entry to its thread; a promise as what its
thread is owed. -/
theorem copyRuns : Obligations.CopyRuns := ⟨copyBlockResult_holds, promiseMissed_holds⟩

end Sys2Proof.Machine
end

section
/-! SUPPORT. Requests at their homes (R230, R233 to R236, R406): the bit of a word after it is set, how a request parks, and what one that is served
leaves. -/
namespace Sys2Proof.Machine
open Sys2Proof Sys2Proof.Claims

variable {s s1 s' : State} {k n : Nat} {t u : Thread} {r : HomeReq} {i : Instr}

/-! ### Full/empty bits -/

theorem hasKey_addKey (l : List Nat) (key : Nat) : hasKey (addKey l key) key = true := by
  induction l with
  | nil => simp [addKey, hasKey]
  | cons a l ih =>
    rw [addKey]
    split
    · next e => simp [hasKey, e]
    · split
      · simp [hasKey]
      · simp only [hasKey, List.any_cons] at ih ⊢
        rw [ih, Bool.or_true]

theorem State.full_setFull (s : State) (key : Nat) (v : Bool) : (s.setFull key v).full key = v := by
  by_cases h : v = startsFull (keySpace key)
  · have hout : hasKey (delKey s.fe key) key = false := hasKey_filter_out (p := (· != key)) (bne_self_eq_false key) s.fe
    subst h
    simp only [State.full, State.setFull, ↓reduceIte, hout, Bool.false_bne]
  · simp only [State.full, State.setFull, if_neg h, hasKey_addKey, Bool.true_bne]
    exact (Bool.eq_not_of_ne h).symm

theorem State.thread?_setFull (s : State) (key : Nat) (v : Bool) (k : Nat) : (s.setFull key v).thread? k = s.thread? k := rfl

theorem State.full_of_fe (h : s'.fe = s.fe) (key : Nat) : s'.full key = s.full key := by
  rw [State.full, State.full, h]

theorem State.wordChanged_unparked (h : s.parked = []) (key : Nat) : s.wordChanged key = s :=
  State.wordChanged_none (by rw [h]; exact fun p hp => absurd hp List.not_mem_nil)

/-! ### A request that parks -/

/-- What a request that cannot be served waits for. -/
def HomeReq.why (r : HomeReq) : Why := match r.instr with
  | .bar _ _ | .barScoped _ _ _ => .bar
  | _ => .fullEmpty

/-- The dclk of the issue of a thread's instruction (R93). -/
def State.sinceOf (s : State) (t : Thread) : Nat := match t.run with
  | .parked _ n | .refused n _ | .resent n => n
  | _ => s.cycOf t

theorem arrive_parks (ht : s.thread? k = some u) (hs : s.servable r = false) (hroom : s.tableFull r.home = false) :
    arrive s k t r = .stay { s.setThread k { u with run := .parked r.why (s.sinceOf t), req := some r } with
      parked := s.parked ++ [⟨k, r⟩] } := by
  have hpark (f : Thread → Thread) : State.modThread { s with parked := s.parked ++ [⟨k, r⟩] } k f =
      State.setThread { s with parked := s.parked ++ [⟨k, r⟩] } k (f u) :=
    State.modThread_some (s := { s with parked := s.parked ++ [⟨k, r⟩] }) ht f
  simp only [arrive, hs, Bool.false_eq_true, ↓reduceIte, hroom, hpark]
  rfl

/-- A thread that parks stays so while those that yielded wait for one slot fewer. -/
theorem State.thread?_unyield_parked {why : Why} (ht : s.thread? k = some t) (hr : t.run = .parked why n) (j : Nat) :
    (s.unyield j).thread? k = some t := by
  rw [State.thread?_unyield, ht, Option.map_some, Thread.unwait, hr]

/-! ### A request that is served -/

/-- A state whose park tables are empty. -/
def State.noneParked (s : State) : State := { s with parked := [] }

theorem rearrive_served (ht : s.thread? k = some t) (hrun : ∀ n, t.run ≠ .resent n) (hp : s.parked = [⟨k, r⟩]) (hsaved : s.saved = [])
    (hs : s.servable r = true) : rearrive s k = (settle r.instr k t (applyReq s.noneParked k t r)).wordChanged r.key := by
  have hfind : (s.parked.find? fun p => p.thread == k && s.servable p.req) = some ⟨k, r⟩ := by
    rw [hp]
    exact List.find?_cons_of_pos (by simp only [BEq.rfl, hs, Bool.and_self])
  have hout : (s.parked.filter fun q => q.thread != k) = [] := by
    rw [hp]
    exact List.filter_cons_of_neg (by simp only [bne_self_eq_false, Bool.false_eq_true, not_false_eq_true])
  have hserve : s.serve ⟨k, r⟩ = settle r.instr k t (applyReq s.noneParked k t r) := by
    have ht' : s.noneParked.thread? k = some t := ht
    have hlook : look? k s.saved = none := by rw [hsaved]; rfl
    have hthread : s.serve ⟨k, r⟩ = match s.noneParked.thread? k with
        | none => s.noneParked
        | some t => settle r.instr k t (applyReq s.noneParked k t r) := by
      simp only [State.serve, State.withSaved, hout, hlook]
      rfl
    rw [hthread, ht']
  have hparked : rearrive s k = (s.serve ⟨k, r⟩).wordChanged r.key := by
    cases hr : t.run with
    | resent n => exact absurd hr (hrun n)
    | _ => simp only [rearrive, ht, Option.map_some, hr, hfind]
  rw [hparked, hserve]

/-- The commit of a served request whose part left no other parked. -/
theorem settle_served (ht : s.thread? k = some u) (hp : s.parked = []) (i : Instr) (t : Thread) (key : Nat) :
    (settle i k t (.next s)).wordChanged key = done s k u (nextPc i t.ctx) := by
  rw [settle_kept ht, State.wordChanged_unparked (s := done s k u (nextPc i t.ctx)) hp]

theorem thread?_done (s : State) (k : Nat) (t : Thread) (p : Word) : (done s k t p).thread? k = some (t.commitAt p) :=
  State.thread?_committed ..

theorem nextPc_of_len {d : Disp} (hlen : instrLen i = dispLen d) (c : Ctx) : nextPc i c = c.pc + BitVec.ofNat 64 (dispLen d) := by
  rw [nextPc, hlen]
  rfl

/-- A load that takes a full word leaves its bit as it says. -/
theorem applyReq_load {o : RMem} {v : Bool} (ht : s.thread? k = some t) (hi : r.instr = .ldff o ∧ v = true ∨ r.instr = .ldfe o ∧ v = false)
    (hgood : s.poisoned r.key 8 = false) : applyReq s k t r = .next ((acquireAt (s.setFull r.key v) t.pcell (s.reqScope t r)).setThread k
      (withReg t o.d (BitVec.ofNat 64 (s.num r.key 8)))) := by
  have hreg (v : Bool) (x : Word) : (s.setFull r.key v).setReg k o.d x = (s.setFull r.key v).setThread k (withReg t o.d x) :=
    State.setReg_eq (s := s.setFull r.key v) ht ..
  rcases hi with ⟨hi, rfl⟩ | ⟨hi, rfl⟩
  · simp only [applyReq, hi, hgood, Bool.false_eq_true, ↓reduceIte, hreg, Thread.acquire, acquireAt_setThread, word]
  · simp only [applyReq, hi, hgood, Bool.false_eq_true, ↓reduceIte, hreg, Thread.acquire, acquireAt_setThread, word]

theorem State.modThread_leaves (ht : s.thread? k = some t) (f : Thread → Thread) :
    (s.modThread k f).parked = s.parked ∧ (s.modThread k f).fe = s.fe ∧ (s.modThread k f).thread? k = some (f t) := by
  rw [State.modThread_some ht]
  exact ⟨rfl, rfl, State.thread?_setThread ..⟩

theorem State.markAmb_leaves (ht : s.thread? k = some t) (mode : Bool) :
    (s.markAmb k mode).parked = s.parked ∧ (s.markAmb k mode).fe = s.fe ∧ ∃ u, (s.markAmb k mode).thread? k = some u := by
  unfold State.markAmb
  split
  · obtain ⟨hp, hf, hu⟩ := State.modThread_leaves ht fun t => t.modCtx (·.setTstat bitAmb true)
    exact ⟨hp, hf, _, hu⟩
  · exact ⟨rfl, rfl, t, ht⟩

theorem State.noteGen_leaves (ht : s.thread? k = some t) (g : Option (Nat × BitVec 16)) :
    (s.noteGen k g).parked = s.parked ∧ (s.noteGen k g).fe = s.fe ∧ ∃ u, (s.noteGen k g).thread? k = some u := by
  rw [State.noteGen_some ht]
  exact ⟨rfl, rfl, _, State.thread?_setThread ..⟩

/-- The slot of a post with its control word and its block (R360). -/
def HomeReq.posted (r : HomeReq) (s : State) (t : Thread) : State :=
  (s.storeFrom t.pcell r.key (leOf 8 (controlWord t.flat (r.vals.headD 0) r.mode t.ctx.nsm).toNat)).storeFrom t.pcell (r.key + 64)
    (blockBytes r.vals)

theorem HomeReq.posted_same (r : HomeReq) (s : State) (t : Thread) : s.SameWorld (r.posted s t) :=
  (State.sameWorld_storeFrom ..).trans (State.sameWorld_storeFrom ..)

/-- The slot filled, and TSTAT.AMB where the post is asynchronous. -/
def HomeReq.fill (r : HomeReq) (s : State) (k : Nat) (t : Thread) : State := ((r.posted s t).setFull r.key true).markAmb k r.mode

theorem applyReq_gpost {v : Reg} {a : VNum} (hi : r.instr = .gpost v a) : applyReq s k t r =
    .next ((r.fill s k t).noteGen k ((r.fill s k t).genOf ((r.fill s k t).whoOf t) r.loc)) := by
  rw [applyReq, hi, HomeReq.fill, HomeReq.posted]

theorem HomeReq.fill_leaves (ht : s.thread? k = some t) (r : HomeReq) :
    (r.fill s k t).parked = s.parked ∧ (r.fill s k t).full r.key = true ∧ ∃ u, (r.fill s k t).thread? k = some u := by
  have hpost := r.posted_same s t
  have ht' : ((r.posted s t).setFull r.key true).thread? k = some t := (State.thread?_setFull ..).trans ((hpost.thread k).trans ht)
  obtain ⟨hp, hf, hu⟩ := State.markAmb_leaves ht' r.mode
  exact ⟨hp.trans ((State.setFull_parked ..).trans hpost.parked), (State.full_of_fe hf _).trans (State.full_setFull ..), hu⟩

/-- A post that is served fills its slot. -/
theorem applyReq_gpost_leaves {v : Reg} {a : VNum} (ht : s.thread? k = some t) (hi : r.instr = .gpost v a) :
    ∃ s1 u, applyReq s k t r = .next s1 ∧ s1.parked = s.parked ∧ s1.full r.key = true ∧ s1.thread? k = some u := by
  obtain ⟨hp, hf, v, ht'⟩ := r.fill_leaves ht
  obtain ⟨hp', hf', u, hu⟩ := State.noteGen_leaves ht' ((r.fill s k t).genOf ((r.fill s k t).whoOf t) r.loc)
  exact ⟨_, u, applyReq_gpost hi, hp'.trans hp, (State.full_of_fe hf' _).trans hf, hu⟩

/-- A bar that is served goes on where it is no pending head. -/
theorem applyReq_bar {a b : Reg} (ht : s.thread? k = some t) (hi : r.instr = .bar a b) (hhead : r.isHead t = false) :
    ∃ s1, applyReq s k t r = .next s1 ∧ s1.parked = s.parked ∧ s1.thread? k = some t := by
  have hs := acquireAt_same s t.pcell (barScope r.instr)
  have hpart : applyReq s k t r = barDone s k t r := by
    rw [applyReq, hi]
  rw [hpart, barDone]
  simp only [hhead, Bool.false_eq_true, ↓reduceIte]
  split
  · exact ⟨_, rfl, hs.parked, (hs.thread k).trans ht⟩
  · exact ⟨_, rfl, hs.parked, (hs.thread k).trans ht⟩

theorem HomeReq.isHead_none (h : t.ctx.head = none) (r : HomeReq) : r.isHead t = false := by
  rw [HomeReq.isHead, h]

end Sys2Proof.Machine
end

section
/-! O29. The events of a request (R230, R233 to R236, R360, R406). -/
namespace Sys2Proof.Machine
open Sys2Proof Sys2Proof.Claims

variable {s : State} {k n c : Nat} {t : Thread} {r : HomeReq} {i : Instr}

/-- The three events of a request's arrival are one. -/
theorem exec_request (s : State) (h : i = .fullEmptyRequest k ∨ i = .mailboxRequest k ∨ i = .barrierArrival k) :
    exec i s = .next (rearrive s k) := by
  rcases h with rfl | rfl | rfl
  · rfl
  · rfl
  · rfl

theorem rearrive_arrives (ht : s.thread? k = some t) (hr : t.req = some r) (hrun : t.run = .resent n) (hans : r.answer s t = none) :
    rearrive s k = settle r.instr k t (arrive s k t r) := by
  simp only [rearrive, ht, Option.map_some, hrun, hr, hans]

theorem rearrive_traps (ht : s.thread? k = some t) (hr : t.req = some r) (hrun : t.run = .resent n) (hans : r.answer s t = some c) :
    rearrive s k = settle r.instr k t (.trap s (fltAt c r.va)) := by
  simp only [rearrive, ht, Option.map_some, hrun, hr, hans]

theorem rearrive_parks (ht : s.thread? k = some t) (hr : t.req = some r) (hrun : t.run = .resent n) (hans : r.answer s t = none)
    (hs : s.servable r = false) (hroom : s.tableFull r.home = false) : (rearrive s k).parked = s.parked ++ [⟨k, r⟩] ∧
      (rearrive s k).mem = s.mem ∧ (rearrive s k).thread? k = some { t with run := .parked r.why n, req := some r } := by
  have hsince : s.sinceOf t = n := by rw [State.sinceOf, hrun]
  rw [rearrive_arrives ht hr hrun hans, arrive_parks ht hs hroom, settle_stay, hsince]
  exact ⟨rfl, rfl, State.thread?_unyield_parked (State.thread?_setThread ..) rfl k⟩

theorem rearrive_ldfe {o : RMem} (ht : s.thread? k = some t) (hrun : ∀ n, t.run ≠ .resent n) (hp : s.parked = [⟨k, r⟩]) (hsaved : s.saved = [])
    (hs : s.servable r = true) (hi : r.instr = .ldfe o) (hgood : s.poisoned r.key 8 = false) :
    (rearrive s k).parked = [] ∧ (rearrive s k).full r.key = false ∧
      (rearrive s k).thread? k = some ((withReg t o.d (BitVec.ofNat 64 (s.num r.key 8))).commitAt (nextPc (.ldfe o) t.ctx)) := by
  have hacq := acquireAt_same (s.noneParked.setFull r.key false) t.pcell (s.noneParked.reqScope t r)
  rw [rearrive_served ht hrun hp hsaved hs, applyReq_load (s := s.noneParked) ht (.inr ⟨hi, rfl⟩) hgood, hi,
    settle_served (State.thread?_setThread ..) hacq.parked]
  exact ⟨hacq.parked, (State.full_of_fe hacq.fe _).trans (State.full_setFull ..), thread?_done ..⟩

theorem withReg_gpr (t : Thread) (d : Reg) (v : Word) : (withReg t d v).ctx.gpr d = v := by
  simp [withReg]

theorem stepThread_homeErr (hv : t.vErr = none) (he : t.homeErr = some c) (hr : t.req = some r) (hhead : r.isHead t = false) :
    stepThread s k t = .next
      ((takeFault (s.setThread k { t with homeErr := none, req := none }) k { code := c, faddr := r.va } r.opr).unyield k) := by
  simp only [stepThread, State.lateFault_none hv, State.homeFault, he, hr, hhead, Bool.false_eq_true, ↓reduceIte]
  rfl

/-- Settles O29: an arrival parks, traps or is served, and the answers of a home are what its thread does next. -/
theorem homeEvents : Obligations.HomeEvents := by
  unfold Obligations.HomeEvents
  intro s k t r i ht hr hi
  rw [exec_request s hi]
  refine ⟨?parks, ?traps, ?served, ?bar, ?ended, ?again, ?withdrawn, ?limit⟩
  case parks =>
    intro n hrun hans hs hroom
    obtain ⟨hp, hm, hthread⟩ := rearrive_parks ht hr hrun hans hs hroom
    exact ⟨_, r.why, rfl, hp, hm, hthread⟩
  case traps =>
    intro n c hrun hans
    rw [rearrive_traps ht hr hrun hans]
    rfl
  case served =>
    intro n hrun hp hsaved hs
    have hnot : ∀ m, t.run ≠ .resent m := fun m e => Run.noConfusion (hrun.symm.trans e)
    refine ⟨fun o ho hgood => ?_, fun v a hv _ => ?_⟩
    · obtain ⟨hparked, hfull, hthread⟩ := rearrive_ldfe ht hnot hp hsaved hs ho hgood
      exact ⟨_, _, rfl, hparked, hfull, hthread, withReg_gpr .., nextPc_of_len (i := .ldfe o) (encM_len ..) t.ctx, rfl, rfl⟩
    · obtain ⟨s1, u, hpart, hparked, hfull, hu⟩ := applyReq_gpost_leaves (s := s.noneParked) ht hv
      rw [rearrive_served ht hnot hp hsaved hs, hpart, hv, settle_served hu hparked]
      exact ⟨_, _, rfl, hparked, hfull, thread?_done .., rfl, rfl⟩
  case bar =>
    intro n a b hrun hp hsaved hs hb hhead
    have hnot : ∀ m, t.run ≠ .resent m := fun m e => Run.noConfusion (hrun.symm.trans e)
    obtain ⟨s1, hpart, hparked, ht1⟩ := applyReq_bar (s := s.noneParked) ht hb (HomeReq.isHead_none hhead r)
    rw [rearrive_served ht hnot hp hsaved hs, hpart, hb, settle_served ht1 hparked]
    exact ⟨_, _, rfl, hparked, thread?_done .., rfl, rfl⟩
  case ended => exact fun c he hhead hv => stepThread_homeErr hv he hr hhead
  case again =>
    intro n m hrun hm
    rw [exec_parkTableResend, execParkTableResend, State.modThread_some ht, hrun]
    simp only [hm, ↓reduceIte]
  case withdrawn =>
    intro hrun hans
    simp only [exec_withdrawal, execWithdrawal, ht, hrun, hans, BEq.rfl, Option.isNone_none, Bool.and_self, ↓reduceIte]
  case limit =>
    intro o hrun hans hcached ho
    simp only [exec_withdrawalAnswer, execWithdrawalAnswer, ht, hrun, hans, hcached, Bool.false_eq_true, ↓reduceIte, State.waitLimit, hr,
      Option.map_some, ho]
    rfl

end Sys2Proof.Machine
end

section
/-! SUPPORT. Fences (R223 to R225): the lines that a release and an acquire leave a cell, and the TLBs that the removals of a thread leave. -/
namespace Sys2Proof.Machine
open Sys2Proof Sys2Proof.Claims

variable {s s' : State} {k len : Nat} {t : Thread} {i : Instr} {o : Ord} {sc : Sys2Proof.Scope} {c : PCell} {l : Line} {x y : Tlbi}

/-! ### Lines -/

theorem State.mem_linesWhere {p : PCell → Line → Bool} : l ∈ s.linesWhere p ↔ ∃ y ∈ s.cells, l ∈ y.2.lines ∧ p y.1 l = true := by
  have hall : l ∈ s.cells.flatMap (fun y => y.2.lines.filter (p y.1)) ↔ ∃ y ∈ s.cells, l ∈ y.2.lines ∧ p y.1 l = true := by
    simp only [List.mem_flatMap, List.mem_filter]
  rw [← hall, State.linesWhere, List.mem_append, List.mem_filter, List.mem_filter, ← and_or_left]
  refine and_iff_left ?_
  cases l.owner
  · exact .inr rfl
  · exact .inl rfl

theorem State.mem_linesWhere_mapLines {f : PCell → List Line → List Line} {p : PCell → Line → Bool} :
    l ∈ (s.mapLines f).linesWhere p ↔ ∃ y ∈ s.cells, l ∈ f y.1 y.2.lines ∧ p y.1 l = true := by
  simp only [State.mem_linesWhere, State.mapLines, List.mem_map, exists_exists_and_eq_and]

theorem State.ownLines_cleanAll (s : State) (c : PCell) : ∀ l ∈ (s.cleanAll c).ownLines c, l.dirty = 0 := by
  intro l hl
  obtain ⟨m, e⟩ := State.writeBacks_eq (s.linesWhere (heldFor c)) s
  rw [State.ownLines, State.cleanAll, State.cleanWhere, e, State.mem_linesWhere_mapLines] at hl
  obtain ⟨y, -, hl, hheld⟩ := hl
  obtain ⟨l', -, rfl⟩ := List.mem_map.mp hl
  by_cases hp : heldFor c y.1 l' = true
  · rw [if_pos hp]
  · rw [if_neg hp] at hheld
    exact absurd hheld hp

theorem State.ownLines_flushAll (s : State) (c : PCell) : (s.flushAll c).ownLines c = [] := by
  refine List.eq_nil_iff_forall_not_mem.mpr fun l hl => ?_
  obtain ⟨m, e⟩ := State.writeBacks_eq (s.linesWhere (s.meets c)) s
  rw [State.ownLines, State.flushAll, State.flushWhere, e, State.mem_linesWhere_mapLines] at hl
  obtain ⟨y, -, hl, hheld⟩ := hl
  obtain ⟨-, hmeets⟩ := List.mem_filter.mp hl
  rw [State.meets, hheld] at hmeets
  cases hmeets

theorem Scope.wide_iff : Scope.wide sc = true ↔ sc ≠ .thr ∧ sc ≠ .cell := by
  cases sc <;> decide

theorem releaseAt_wide (hw : Scope.wide sc = true) (s : State) (c : PCell) : releaseAt s c sc = s.cleanAll c := if_pos hw

theorem acquireAt_wide (hw : Scope.wide sc = true) (s : State) (c : PCell) : acquireAt s c sc = s.flushAll c := if_pos hw

/-! ### The body of a fence -/

theorem awaited_iff_not_freed : (ordRel o && s.awaitsGen t sc) = true ↔ ¬ Freed s t o sc := by
  rw [Bool.and_eq_true, ordRel_iff, Freed, Classical.not_imp, Bool.not_eq_false]

theorem fenceBody_freed (ht : s.thread? k = some t) (hq : Quiet t) (hf : Freed s t o sc) :
    fenceBody o sc s k t = .next (acquired (released s t o sc) t o sc) := by
  simp only [fenceBody, State.waitRx_quiet ht hq.1 hq.2, orTrap, ht, Option.getD_some, orStay, awaited_iff_not_freed, not_not.mpr hf,
    ↓reduceIte, ordRel_iff, ordAcq_iff]
  rfl

theorem fenceBody_stays (ht : s.thread? k = some t) (hq : Quiet t) (hf : ¬ Freed s t o sc) : fenceBody o sc s k t = .stay s := by
  simp only [fenceBody, State.waitRx_quiet ht hq.1 hq.2, orTrap, ht, Option.getD_some, orStay,
    awaited_iff_not_freed.mpr hf, ↓reduceIte]

theorem exec_fence_eq (h : Selected s k t) (hi : i = .fence ∧ o = .both ∧ sc = .sys ∧ len = 4 ∨ i = .fenceExt o sc ∧ len = 12) :
    exec i s = .next (settle i k t (fenceBody o sc s k t)) ∧ nextPc i t.ctx = t.ctx.pc + BitVec.ofNat 64 len := by
  rcases hi with ⟨rfl, rfl, rfl, rfl⟩ | ⟨rfl, rfl⟩
  · exact ⟨issue_selected h _ _, rfl⟩
  · exact ⟨issue_selected h _ _, rfl⟩

theorem fence_thread (ht : s.thread? k = some t) (o : Ord) (sc : Sys2Proof.Scope) :
    (acquired (released s t o sc) t o sc).thread? k = some t := by
  have hrel : (released s t o sc).thread? k = some t := ((released_same ..).thread k).trans ht
  rw [acquired]
  split
  · exact ((acquireAt_same ..).thread k).trans hrel
  · exact hrel

theorem ownLines_acquired (hw : Scope.wide sc = true) (ho : o = .acq ∨ o = .both) (s : State) (t : Thread) :
    (acquired s t o sc).ownLines t.pcell = [] := by
  rw [acquired, if_pos ho, acquireAt_wide hw, State.ownLines_flushAll]

theorem ownLines_released (hw : Scope.wide sc = true) (ho : o = .rel ∨ o = .both) (s : State) (t : Thread) :
    ∀ l ∈ (acquired (released s t o sc) t o sc).ownLines t.pcell, l.dirty = 0 := by
  intro l hl
  by_cases hacq : o = .acq ∨ o = .both
  · rw [ownLines_acquired hw hacq] at hl
    cases hl
  · rw [acquired, if_neg hacq, released, if_pos ho, releaseAt_wide hw] at hl
    exact State.ownLines_cleanAll s t.pcell l hl

/-- Within a cell a fence meets no cache. -/
theorem fence_narrow (hn : sc = .thr ∨ sc = .cell) (s : State) (t : Thread) (o : Ord) : acquired (released s t o sc) t o sc = s := by
  have hw : Scope.wide sc = false := by rcases hn with rfl | rfl <;> rfl
  simp only [acquired, released, acquireAt, releaseAt, hw, Bool.false_eq_true, ↓reduceIte, ite_self]

theorem fenceResult_holds : fenceResult := by
  unfold fenceResult
  intro s k t i o sc len h hq hi
  obtain ⟨-, ht, -⟩ := id h
  obtain ⟨hexec, hpc⟩ := exec_fence_eq h hi
  rw [hexec]
  refine ⟨fun hf => ?_, fun hf => ?_⟩
  · rw [fenceBody_stays ht hq hf, settle_stay]
  · rw [fenceBody_freed ht hq hf, settle_kept (fence_thread ht o sc), hpc]
    refine ⟨_, rfl, State.thread?_committed .., fun h1 h2 ho => ?_, fun h1 h2 ho => ?_, fun hn => ?_⟩
    · exact ownLines_released (Scope.wide_iff.mpr ⟨h1, h2⟩) ho s t
    · exact ownLines_acquired (Scope.wide_iff.mpr ⟨h1, h2⟩) ho _ t
    · rw [fence_narrow hn]
      exact ⟨rfl, rfl⟩

/-! ### Removals from the TLBs (R225, R452) -/

/-- No TLB that a tlbi reaches holds an entry that it names. -/
structure State.ClearOf (s : State) (x : Tlbi) : Prop where
  dtlb : ∀ c, x.reaches c = true → ∀ e ∈ (s.cell c).dtlb, x.takes e = false
  itlb : ∀ c, x.reaches c = true → ∀ e ∈ (s.cell c).itlb, x.takes e = false
  l2tlb : ∀ c, inScope x.scope (clusterOf x.cell) x.clusters c = true → ∀ e ∈ (s.cluster c).l2tlb, x.takes e = false

/-- A cell after a tlbi. -/
def Tlbi.onCell (x : Tlbi) (c : PCell) (y : Cell) : Cell :=
  if x.reaches c then { y with itlb := y.itlb.filter fun e => !x.takes e, dtlb := y.dtlb.filter fun e => !x.takes e } else y

/-- A cluster after a tlbi. -/
def Tlbi.onCluster (x : Tlbi) (c : ClusterId) (y : Cluster) : Cluster :=
  if inScope x.scope (clusterOf x.cell) x.clusters c then { y with l2tlb := y.l2tlb.filter fun e => !x.takes e } else y

theorem State.applyTlbi_eq (s : State) (x : Tlbi) : s.applyTlbi x = { s with
    cells := s.cells.map fun y => (y.1, x.onCell y.1 y.2)
    clusters := s.clusters.map fun y => (y.1, x.onCluster y.1 y.2) } := by
  have hcell (y : PCell × Cell) : (y.1, x.onCell y.1 y.2) = if x.reaches y.1 then
      (y.1, { y.2 with itlb := y.2.itlb.filter fun e => !x.takes e, dtlb := y.2.dtlb.filter fun e => !x.takes e }) else y := by
    unfold Tlbi.onCell
    split <;> rfl
  have hcluster (y : ClusterId × Cluster) : (y.1, x.onCluster y.1 y.2) = if inScope x.scope (clusterOf x.cell) x.clusters y.1 then
      (y.1, { y.2 with l2tlb := y.2.l2tlb.filter fun e => !x.takes e }) else y := by
    unfold Tlbi.onCluster
    split <;> rfl
  simp only [State.applyTlbi, hcell, hcluster]

theorem State.cell_applyTlbi (s : State) (x : Tlbi) (c : PCell) : (s.applyTlbi x).cell c = x.onCell c (s.cell c) := by
  rw [State.applyTlbi_eq]
  exact lookD_map_fixed (f := x.onCell) (by unfold Tlbi.onCell; split <;> rfl) s.cells

theorem State.cluster_applyTlbi (s : State) (x : Tlbi) (c : ClusterId) : (s.applyTlbi x).cluster c = x.onCluster c (s.cluster c) := by
  rw [State.applyTlbi_eq]
  exact lookD_map_fixed (f := x.onCluster) (by unfold Tlbi.onCluster; split <;> rfl) s.clusters

theorem Tlbi.mem_onCell {e : TlbEntry} {z : Cell} : (e ∈ (x.onCell c z).dtlb → e ∈ z.dtlb) ∧ (e ∈ (x.onCell c z).itlb → e ∈ z.itlb) := by
  unfold Tlbi.onCell
  split
  · exact ⟨fun h => (List.mem_filter.mp h).1, fun h => (List.mem_filter.mp h).1⟩
  · exact ⟨id, id⟩

theorem Tlbi.mem_onCluster {e : TlbEntry} {c : ClusterId} {z : Cluster} (h : e ∈ (x.onCluster c z).l2tlb) : e ∈ z.l2tlb := by
  unfold Tlbi.onCluster at h
  split at h
  · exact (List.mem_filter.mp h).1
  · exact h

theorem Tlbi.not_takes_of_mem {e : TlbEntry} {l : List TlbEntry} (h : e ∈ l.filter fun e => !x.takes e) : x.takes e = false :=
  Bool.not_eq_true' .. |>.mp (List.mem_filter.mp h).2

theorem State.ClearOf.applied (s : State) (x : Tlbi) : (s.applyTlbi x).ClearOf x where
  dtlb c hc e he := by
    rw [State.cell_applyTlbi, Tlbi.onCell, if_pos hc] at he
    exact Tlbi.not_takes_of_mem he
  itlb c hc e he := by
    rw [State.cell_applyTlbi, Tlbi.onCell, if_pos hc] at he
    exact Tlbi.not_takes_of_mem he
  l2tlb c hc e he := by
    rw [State.cluster_applyTlbi, Tlbi.onCluster, if_pos hc] at he
    exact Tlbi.not_takes_of_mem he

theorem State.ClearOf.applyTlbi (h : s.ClearOf x) (y : Tlbi) : (s.applyTlbi y).ClearOf x where
  dtlb c hc e he := h.dtlb c hc e (Tlbi.mem_onCell.1 (s.cell_applyTlbi y c ▸ he))
  itlb c hc e he := h.itlb c hc e (Tlbi.mem_onCell.2 (s.cell_applyTlbi y c ▸ he))
  l2tlb c hc e he := h.l2tlb c hc e (Tlbi.mem_onCluster (s.cluster_applyTlbi y c ▸ he))

theorem State.ClearOf.foldl (h : s.ClearOf x) (l : List Tlbi) : (l.foldl State.applyTlbi s).ClearOf x := by
  induction l generalizing s with
  | nil => exact h
  | cons y l ih => exact ih (h.applyTlbi y)

theorem State.ClearOf.of_mem {l : List Tlbi} (hx : x ∈ l) (s : State) : (l.foldl State.applyTlbi s).ClearOf x := by
  induction l generalizing s with
  | nil => cases hx
  | cons y l ih =>
    cases hx with
    | head => exact (State.ClearOf.applied s x).foldl l
    | tail _ hx => exact ih hx _

theorem State.threads_applyTlbis (s : State) (who : Nat → Bool) : (s.applyTlbis who).threads = s.threads := by
  suffices h : ∀ (l : List Tlbi) (s : State), (l.foldl State.applyTlbi s).threads = s.threads from h ..
  intro l
  induction l with
  | nil => exact fun _ => rfl
  | cons x l ih => exact fun s => ih (s.applyTlbi x)

/-- Nothing of the threads is left to remove. -/
theorem State.tlbis_applyTlbis {who : Nat → Bool} {y : ClusterId × Cluster} (hy : y ∈ (s.applyTlbis who).clusters) (hx : x ∈ y.2.tlbis) :
    who x.thread = false := by
  obtain ⟨z, -, rfl⟩ := List.mem_map.mp hy
  exact Bool.not_eq_true' .. |>.mp (List.mem_filter.mp hx).2

theorem State.ClearOf.applyTlbis {who : Nat → Bool} (hx : x ∈ s.tlbisOf who) : (s.applyTlbis who).ClearOf x := by
  have h := State.ClearOf.of_mem hx s
  have hl2 (c : ClusterId) : ((s.applyTlbis who).cluster c).l2tlb = (((s.tlbisOf who).foldl State.applyTlbi s).cluster c).l2tlb :=
    lookD_map_keyed (f := fun (_ : ClusterId) (y : Cluster) => { y with tlbis := y.tlbis.filter fun x => !who x.thread })
      (p := Cluster.l2tlb) (fun _ _ => rfl) {} c _
  exact ⟨h.dtlb, h.itlb, fun c hc e he => h.l2tlb c hc e (hl2 c ▸ he)⟩

theorem exec_tfence_eq (h : Selected s k t) (hq : Quiet t) (hgen : s.awaitsGen t sc = false)
    (hi : i = .tfence ∧ sc = .sys ∧ len = 4 ∨ i = .tfenceExt sc ∧ len = 12) :
    exec i s = .next (done ((releaseAt s t.pcell sc).applyTlbis (· == k)) k t (t.ctx.pc + BitVec.ofNat 64 len)) := by
  obtain ⟨-, ht, -⟩ := id h
  have hbody : tfenceBody sc s k t = .next ((releaseAt s t.pcell sc).applyTlbis (· == k)) := by
    simp only [tfenceBody, State.waitRx_quiet ht hq.1 hq.2, orTrap, ht, Option.getD_some, orStay, hgen, Bool.false_eq_true, ↓reduceIte]
    rfl
  have ht' : ((releaseAt s t.pcell sc).applyTlbis (· == k)).thread? k = some t :=
    (congrArg (look? k) (State.threads_applyTlbis ..)).trans (((releaseAt_same s t.pcell sc).thread k).trans ht)
  have hexec : exec i s = .next (settle i k t (tfenceBody sc s k t)) ∧ nextPc i t.ctx = t.ctx.pc + BitVec.ofNat 64 len := by
    rcases hi with ⟨rfl, rfl, rfl⟩ | ⟨rfl, rfl⟩
    · exact ⟨issue_selected h _ _, rfl⟩
    · exact ⟨issue_selected h _ _, rfl⟩
  rw [hexec.1, hbody, settle_kept ht', hexec.2]

theorem translationFenceResult_holds : translationFenceResult := by
  unfold translationFenceResult
  intro s k t i sc len h hq hgen hi
  refine ⟨_, exec_tfence_eq h hq hgen hi, State.thread?_committed .., fun y hy x hx => ?_, fun y hy x hx hk => ?_⟩
  · exact beq_eq_false_iff_ne.mp (State.tlbis_applyTlbis (who := (· == k)) hy hx)
  · have hclusters : (releaseAt s t.pcell sc).clusters = s.clusters := by
      obtain ⟨_, _, e⟩ := State.Rewayed.releaseAt s t.pcell sc
      rw [e]
      rfl
    have hmem : x ∈ (releaseAt s t.pcell sc).tlbisOf (· == k) := by
      rw [State.tlbisOf, hclusters]
      exact List.mem_flatMap.mpr ⟨y, hy, List.mem_filter.mpr ⟨hx, beq_iff_eq.mpr hk⟩⟩
    have hclear := State.ClearOf.applyTlbis hmem
    refine ⟨fun c hc => ?_, hclear.l2tlb⟩
    have hreach : x.reaches c = true := by
      rcases hc with ⟨h8, rfl⟩ | ⟨h8, hin⟩
      · rw [Tlbi.reaches, if_pos h8, beq_self_eq_true]
      · rw [Tlbi.reaches, if_neg h8, hin]
    exact ⟨hclear.dtlb c hreach, hclear.itlb c hreach⟩

/-- Settles O42: a fence by the lines that its release and acquire leave; a tfence by induction on the removals that it completes. -/
theorem fenceResults : Obligations.FenceResults := ⟨fenceResult_holds, translationFenceResult_holds⟩

end Sys2Proof.Machine
end

section
/-! SUPPORT. Full/empty instructions (R230 to R233): their request at its word, and what each leaves when it is served, waits or finds its page
discarded. -/
namespace Sys2Proof.Machine
open Sys2Proof Sys2Proof.Claims

variable {s s1 s2 : State} {k : Nat} {t u : Thread} {i : Instr} {o : RMem} {acc : Acc} {a : Reg} {d : Disp} {va : Word} {loc : Loc} {r : HomeReq}

/-! ### The request -/

/-- The request of a full/empty instruction that has come to its place. -/
def wordRequest (t : Thread) (i : Instr) (a : Reg) (d : Disp) (loc : Loc) : HomeReq where
  instr := i
  opr := recordOf i t.ctx 0
  va := addrOf t.ctx a d
  key := loc.key
  home := homeOf loc.key
  peer := loc.peer

theorem wordRequest_scope (s1 s : State) (t : Thread) (i : Instr) (a : Reg) (d : Disp) (loc : Loc) :
    s1.reqScope t (wordRequest t i a d loc) = homeScope (s.whoOf t) loc := by
  unfold State.reqScope homeScope
  rfl

theorem atWord_same (h : AtWord s t acc va loc s1) : s.SameWorld s1 := by
  obtain ⟨-, -, rfl, -⟩ := h
  exact (State.sameWorld_fillTlb ..).trans (Loc.settle_same ..)

theorem feAccess_at (ht : s.thread? k = some t) (h : AtWord s t acc (addrOf t.ctx a d) loc s1) (i : Instr) (f : State → Loc → HomeReq → Res) :
    feAccess s k t i acc a d f = f s1 loc (wordRequest t i a d loc) := by
  obtain ⟨hq, hres, rfl, hans⟩ := h
  have hres' : resolve s (s.whoOf t) acc (effAddr t.ctx a d) 8 8 = .ok loc := hres
  have hans' : homeAnswer (loc.settle (s.fillTlb (s.whoOf t).cell false loc) (s.whoOf t).cell 8) (s.whoOf t) loc = none := hans
  simp only [feAccess, State.waitRx_quiet ht hq.1 hq.2, orTrap, ht, Option.getD_some, hres', hans']
  rfl

theorem withService_alone (h : NoWaiter s loc.key) (hp : s2.parked = s.parked) : withService loc.key (.next s2) = .next s2 :=
  congrArg Res.next (State.wordChanged_none (hp.symm ▸ h))

/-! ### Loads -/

theorem feLoad_request (ht : s.thread? k = some t) (h : AtWord s t acc (addrOf t.ctx o.a o.imm) loc s1) (hd : loc.disc = false) (i : Instr) :
    feLoad i acc o s k t = arrive s1 k t (wordRequest t i o.a o.imm loc) := by
  have ht1 := ((atWord_same h).thread k).trans ht
  simp only [feLoad, feAccess_at ht h, hd, Bool.false_eq_true, ↓reduceIte, ht1, Option.getD_some]

theorem feLoad_discarded (ht : s.thread? k = some t) (h : AtWord s t acc (addrOf t.ctx o.a o.imm) loc s1) (hd : loc.disc = true) (i : Instr) :
    feLoad i acc o s k t = .next ((acquireAt s1 t.pcell (homeScope (s.whoOf t) loc)).setThread k (withReg t o.d 0)) := by
  have ht1 := ((atWord_same h).thread k).trans ht
  simp only [feLoad, feAccess_at ht h, hd, ↓reduceIte, ht1, Option.getD_some, State.setReg_eq ht1, Thread.acquire, acquireAt_setThread,
    wordRequest_scope s1 s]
  rfl

/-- A load of a full word, which is served. -/
theorem feLoad_served {v : Bool} (ht : s.thread? k = some t) (hw : NoWaiter s loc.key) (h : AtWord s t acc (addrOf t.ctx o.a o.imm) loc s1)
    (hd : loc.disc = false) (hfull : s1.full loc.key = true) (hgood : s1.poisoned loc.key 8 = false)
    (hi : i = .ldff o ∧ v = true ∨ i = .ldfe o ∧ v = false) : feLoad i acc o s k t =
      .next ((acquireAt (s1.setFull loc.key v) t.pcell (homeScope (s.whoOf t) loc)).setThread k
        (withReg t o.d (BitVec.ofNat 64 (leVal (s1.bytes loc.key 8))))) := by
  have hs := atWord_same h
  have hserve : s1.servable (wordRequest t i o.a o.imm loc) = true := by
    rcases hi with ⟨rfl, -⟩ | ⟨rfl, -⟩
    · exact hfull
    · exact hfull
  have hpart := applyReq_load (r := wordRequest t i o.a o.imm loc) ((hs.thread k).trans ht) hi hgood
  rw [feLoad_request ht h hd, arrive, if_pos hserve, hpart, wordRequest_scope s1 s]
  exact withService_alone hw ((acquireAt_same (s1.setFull loc.key v) ..).parked.trans hs.parked)

/-! ### Stores -/

theorem recordOf_stef_vd (o : RMem) (c : Ctx) : (recordOf (.stef o) c 0).vd = c.gpr o.d := by
  obtain ⟨_, _, imm⟩ := o
  cases imm
  · rfl
  · rfl

theorem recordOf_stff_vd (o : RMem) (c : Ctx) : (recordOf (.stff o) c 0).vd = c.gpr o.d := by
  obtain ⟨_, _, imm⟩ := o
  cases imm
  · rfl
  · rfl

theorem feStore_request (ht : s.thread? k = some t) (h : AtWord s t .feWrite (addrOf t.ctx o.a o.imm) loc s1)
    (hgen : s1.awaitsGen t (homeScope (s.whoOf t) loc) = false) (i : Instr) :
    feStore i o s k t = arrive (releaseAt s1 t.pcell (homeScope (s.whoOf t) loc)) k t (wordRequest t i o.a o.imm loc) := by
  have ht1 := ((atWord_same h).thread k).trans ht
  simp only [feStore, feAccess_at ht h, ht1, Option.getD_some, wordRequest_scope s1 s, orStay, hgen, Bool.false_eq_true, ↓reduceIte,
    Thread.release]

theorem feStore_stays (ht : s.thread? k = some t) (h : AtWord s t .feWrite (addrOf t.ctx o.a o.imm) loc s1)
    (hgen : s1.awaitsGen t (homeScope (s.whoOf t) loc) = true) (i : Instr) : feStore i o s k t = .stay s1 := by
  have ht1 := ((atWord_same h).thread k).trans ht
  simp only [feStore, feAccess_at ht h, ht1, Option.getD_some, wordRequest_scope s1 s, orStay, hgen, ↓reduceIte]

/-- The word of a store written, and full. -/
def wordPut (t : Thread) (o : RMem) (loc : Loc) (s : State) : State :=
  (s.storeFrom t.pcell loc.key (leOf 8 (t.ctx.gpr o.d).toNat)).setFull loc.key true

theorem wordPut_thread? (t : Thread) (o : RMem) (loc : Loc) (s : State) (k : Nat) : (wordPut t o loc s).thread? k = s.thread? k :=
  (State.thread?_setFull ..).trans ((State.sameWorld_storeFrom ..).thread k)

theorem wordPut_parked (t : Thread) (o : RMem) (loc : Loc) (s : State) : (wordPut t o loc s).parked = s.parked :=
  (State.setFull_parked ..).trans (State.sameWorld_storeFrom ..).parked

theorem applyReq_store (ht : s.thread? k = some t) (hi : i = .stef o ∨ i = .stff o) : applyReq s k t (wordRequest t i o.a o.imm loc) =
    .next ((wordPut t o loc s).setThread k (crossed (wordPut t o loc s) t (homeLoc loc))) := by
  have ht' := (wordPut_thread? t o loc s k).trans ht
  rw [crossed, ← State.noteGen_some ht']
  rcases hi with rfl | rfl
  · rw [wordPut, ← recordOf_stef_vd]
    rfl
  · rw [wordPut, ← recordOf_stff_vd]
    rfl

/-- A store that does not wait, once its release is done. -/
theorem feStore_served (ht : s.thread? k = some t) (hw : NoWaiter s loc.key) (h : AtWord s t .feWrite (addrOf t.ctx o.a o.imm) loc s1)
    (hgen : s1.awaitsGen t (homeScope (s.whoOf t) loc) = false)
    (hi : i = .stef o ∧ s1.full loc.key = false ∨ i = .stff o ∧ s1.full loc.key = true) :
    let x := wordPut t o loc (releaseAt s1 t.pcell (homeScope (s.whoOf t) loc))
    feStore i o s k t = .next (x.setThread k (crossed x t (homeLoc loc))) := by
  have hs := atWord_same h
  have hrel := releaseAt_same s1 t.pcell (homeScope (s.whoOf t) loc)
  have hfull := State.full_of_fe hrel.fe loc.key
  have hserve : (releaseAt s1 t.pcell (homeScope (s.whoOf t) loc)).servable (wordRequest t i o.a o.imm loc) = true := by
    rcases hi with ⟨rfl, he⟩ | ⟨rfl, he⟩
    · exact congrArg not (hfull.trans he)
    · exact hfull.trans he
  have hinstr : i = .stef o ∨ i = .stff o := hi.imp And.left And.left
  rw [feStore_request ht h hgen, arrive, if_pos hserve, applyReq_store ((hrel.thread k).trans ((hs.thread k).trans ht)) hinstr]
  exact withService_alone hw ((wordPut_parked t o loc _).trans (hrel.parked.trans hs.parked))

/-! ### The bit alone -/

theorem feSet_at (ht : s.thread? k = some t) (hw : NoWaiter s loc.key) (h : AtWord s t .feWrite (addrOf t.ctx a d) loc s1) (i : Instr) (v : Bool) :
    feSet i a d v s k t = .next (s1.setFull loc.key v) := by
  rw [feSet, feAccess_at ht h]
  exact withService_alone hw (atWord_same h).parked

/-! ### The statements -/

/-- The instructions of a word (R230) come to their parts. -/
theorem settle_word (h : Selected s k t) (b : Body) (hlen : instrLen i = dispLen d) (he : exec i s = issue i s b)
    (hb : b s k t = .next (s2.setThread k u)) : exec i s = .next (done s2 k u (t.ctx.pc + BitVec.ofNat 64 (dispLen d))) := by
  rw [he, issue_selected h, hb, settle_put, nextPc_of_len hlen]

theorem fullEmptyResult_holds : fullEmptyResult := by
  unfold fullEmptyResult
  intro s k t o loc s1 h hw va pc' sc v rel put
  obtain ⟨-, ht, -⟩ := id h
  refine ⟨fun hat hd hfull hgood => ?ldff, fun hat hd hfull hgood => ?ldfe, fun hat hempty hgen => ?stef, fun hat hfull hgen => ?stff,
    fun hat hgen => ?stays, fun hat => ?feq, fun hat => ?feset, fun hat => ?feclr, fun hat hd => ?discarded⟩
  case ldff =>
    exact settle_word h (feLoad (.ldff o) .feRead o) (encM_len ..) (exec_ldff ..) (feLoad_served ht hw hat hd hfull hgood (.inl ⟨rfl, rfl⟩))
  case ldfe =>
    exact settle_word h (feLoad (.ldfe o) .feWrite o) (encM_len ..) (exec_ldfe ..) (feLoad_served ht hw hat hd hfull hgood (.inr ⟨rfl, rfl⟩))
  case stef => exact settle_word h (feStore (.stef o) o) (encM_len ..) (exec_stef ..) (feStore_served ht hw hat hgen (.inl ⟨rfl, hempty⟩))
  case stff => exact settle_word h (feStore (.stff o) o) (encM_len ..) (exec_stff ..) (feStore_served ht hw hat hgen (.inr ⟨rfl, hfull⟩))
  case stays =>
    refine ⟨?_, ?_⟩
    · rw [exec_stef, execStef, issue_selected h, feStore_stays ht hat hgen, settle_stay]
    · rw [exec_stff, execStff, issue_selected h, feStore_stays ht hat hgen, settle_stay]
  case feq =>
    refine settle_word h _ (encM_len ..) (exec_feq ..) ?_
    rw [feAccess_at ht hat, State.setReg_eq (((atWord_same hat).thread k).trans ht)]
    rfl
  case feset =>
    refine settle_word h (feSet (.feset o.a o.imm) o.a o.imm true) (encM_len ..) (exec_feset ..) ?_
    rw [feSet_at ht hw hat, State.setThread_self ((State.thread?_setFull ..).trans (((atWord_same hat).thread k).trans ht))]
  case feclr =>
    refine settle_word h (feSet (.feclr o.a o.imm) o.a o.imm false) (encM_len ..) (exec_feclr ..) ?_
    rw [feSet_at ht hw hat, State.setThread_self ((State.thread?_setFull ..).trans (((atWord_same hat).thread k).trans ht))]
  case discarded => exact settle_word h (feLoad (.ldff o) .feRead o) (encM_len ..) (exec_ldff ..) (feLoad_discarded ht hat hd _)

/-- A request that cannot be served parks its ready thread at its home. -/
theorem settle_arrive_parks (ht : s.thread? k = some t) (hrun : t.run = .ready) (hs : s.SameWorld s2) (hserve : s2.servable r = false)
    (hroom : s.tableFull r.home = false) (hwhy : r.why = .fullEmpty) (i : Instr) :
    (settle i k t (arrive s2 k t r)).parked = s.parked ++ [⟨k, r⟩] ∧ (settle i k t (arrive s2 k t r)).fe = s.fe ∧
      (settle i k t (arrive s2 k t r)).thread? k = some { t with run := .parked .fullEmpty (s.cycOf t), req := some r } := by
  have hroom2 : s2.tableFull r.home = false := by rw [State.tableFull, hs.parked]; exact hroom
  have hsince : s2.sinceOf t = s.cycOf t := by
    simp only [State.sinceOf, hrun, State.cycOf, State.cyc, State.die, hs.clock, hs.dies]
  rw [arrive_parks ((hs.thread k).trans ht) hserve hroom2, settle_stay, hsince, hwhy]
  exact ⟨congrArg (fun l => l ++ [(⟨k, r⟩ : Parked)]) hs.parked, hs.fe, State.thread?_unyield_parked (State.thread?_setThread ..) rfl k⟩

theorem fullEmptyWaits_holds : fullEmptyWaits := by
  unfold fullEmptyWaits
  intro s k t i o loc s1 h hrun hd hi hgen hroom r
  obtain ⟨-, ht, -⟩ := id h
  have hroom' : s.tableFull r.home = false := decide_eq_false (Nat.not_le.mpr hroom)
  have hparks {s2 : State} (hs : s.SameWorld s2) (hserve : s2.servable r = false) (hwhy : r.why = .fullEmpty)
      (hexec : exec i s = .next (settle i k t (arrive s2 k t r))) : ∃ s' : State, exec i s = .next s' ∧ s'.parked = s.parked ++ [⟨k, r⟩] ∧
        s'.fe = s.fe ∧ s'.thread? k = some { t with run := .parked .fullEmpty (s.cycOf t), req := some r } :=
    ⟨_, hexec, settle_arrive_parks ht hrun hs hserve hroom' hwhy i⟩
  rcases hi with ⟨rfl, hat, hfull⟩ | ⟨rfl, hat, hfull⟩ | ⟨rfl, hat, hfull⟩ | ⟨rfl, hat, hfull⟩
  · refine hparks (atWord_same hat) hfull rfl ?_
    rw [exec_ldff, execLdff, issue_selected h, feLoad_request ht hat hd]
    rfl
  · refine hparks (atWord_same hat) hfull rfl ?_
    rw [exec_ldfe, execLdfe, issue_selected h, feLoad_request ht hat hd]
    rfl
  · have hrel := releaseAt_same s1 t.pcell (homeScope (s.whoOf t) loc)
    refine hparks ((atWord_same hat).trans hrel) ((State.full_of_fe hrel.fe _).trans hfull) rfl ?_
    rw [exec_stff, execStff, issue_selected h, feStore_request ht hat hgen]
    rfl
  · have hrel := releaseAt_same s1 t.pcell (homeScope (s.whoOf t) loc)
    refine hparks ((atWord_same hat).trans hrel) (congrArg not ((State.full_of_fe hrel.fe _).trans hfull)) rfl ?_
    rw [exec_stef, execStef, issue_selected h, feStore_request ht hat hgen]
    rfl

/-- Settles O41: each instruction by its request at the word, which is served or parks. -/
theorem fullEmpty : Obligations.FullEmpty := ⟨fullEmptyResult_holds, fullEmptyWaits_holds⟩

end Sys2Proof.Machine
end

section
/-! SUPPORT. The steps of a load (R289, R291, R322): the bank and the load that an OMU is left with, and the entry of a load that ends. -/
namespace Sys2Proof.Machine
open Sys2Proof Sys2Proof.Claims

variable {s : State} {c : ClusterId} {l : BankLoad} {bs : List Byte}

/-! ### The bank and the load of an OMU -/

@[simp] theorem Omu.bank_setBank (o : Omu) (b : Bool) (x : Bank) : (o.setBank b x).bank b = x := by
  cases b <;> rfl

@[simp] theorem Omu.bank_load (o : Omu) (x : Option BankLoad) (b : Bool) : ({ o with load := x } : Omu).bank b = o.bank b := rfl

theorem State.load_setLoad (s : State) (c : ClusterId) (l : BankLoad) : ((s.setLoad c l).omu c).load = some l := by
  rw [State.setLoad, State.omu_modOmu]

theorem State.bank_setLoad (s : State) (c : ClusterId) (l : BankLoad) (b : Bool) : ((s.setLoad c l).omu c).bank b = (s.omu c).bank b := by
  rw [State.setLoad, State.omu_modOmu, Omu.bank_load]

theorem State.bank_bindBank (s : State) (c : ClusterId) (l : BankLoad) (img : List Byte) : ((s.bindBank c l img).omu c).bank l.bank =
    { binding := some { cell := l.by_.cell, tile := l.tile, wfmt := l.wfmt, nsm := l.by_.nsm }
      tile := l.captured, gexp := BitVec.ofNat 8 (bytesAt img 8 1), image := img } := by
  rw [State.bindBank, State.omu_modOmu, Omu.bank_setBank]

/-- No lock of a cluster has an owner whose locks have been dropped. -/
theorem State.owner_dropLocks (s : State) (n : Nat) (c : ClusterId) : ∀ x ∈ ((s.dropLocks n).cluster c).locks, x.owner ≠ n := by
  intro x hx
  rw [State.cluster_dropLocks] at hx
  exact bne_iff_ne.mp (List.mem_filter.mp hx).2

/-! ### The steps -/

/-- The capture of a tile that may be loaded (R289, R322). -/
theorem exec_tileCaptureEnd_ok (hl : (s.omu c).load = some l) (hp : l.phase = 0)
    (hr : engRead s (s.whoFor l.by_) l.tile (tileSize l.wfmt.toNat) = .ok bs) (hb : tileBad l.wfmt.toNat l.by_.nsm bs = false) :
    exec (.tileCaptureEnd c) s = .next (((s.dropLocks (l.key + 1)).modOmu c fun o =>
      o.setBank l.bank { o.bank l.bank with tile := bs }).setLoad c { l with captured := bs, phase := if l.decomp then 2 else 1 }) := by
  simp only [exec_tileCaptureEnd, execTileCaptureEnd, hl, hp, hr, hb, ne_eq, not_true_eq_false, Bool.false_eq_true, ↓reduceIte]

/-- A block of an image that is its first, or that comes while the handle is live, read whole (R322). -/
theorem exec_imageBlockRead_ok (hl : (s.omu c).load = some l) (hp : l.phase = 1) (hf : l.image = [] ∨ l.fresh s = true)
    (hr : engRead s (s.whoFor l.by_) (l.base + word l.image.length) 4096 = .ok bs) :
    exec (.imageBlockRead c) s = .next (
      let l := { l with image := l.image ++ bs }
      if l.image.length < imageSize then s.setLoad c l
      else if imageOk l.image l.captured l.wfmt.toNat l.by_.nsm then (s.bindBank c l l.image).setLoad c { l.ending 0 0 with bound := true }
      else s.setLoad c (l.ending 1 0)) := by
  have hstale : ((l.image.length ≠ 0) && !l.fresh s) = false := by
    rcases hf with h | h <;> simp [h]
  simp only [exec_imageBlockRead, execImageBlockRead, hl, hp, hr, hstale, ne_eq, not_true_eq_false, Bool.false_eq_true, ↓reduceIte]

/-- A decomposition with no image to write (R291, R322). -/
theorem exec_decompositionComplete_bound (hl : (s.omu c).load = some l) (hp : l.phase = 2) (hh : l.handle = 0) :
    let img := decompose l.captured l.wfmt.toNat l.by_.nsm
    exec (.decompositionComplete c) s = .next ((s.bindBank c l img).setLoad c { l.ending 0 0 with bound := true, image := img }) := by
  simp only [exec_decompositionComplete, execDecompositionComplete, hl, hp, hh, ne_eq, not_true_eq_false, ↓reduceIte]

/-- The end of a load whose thread lives: its locks are gone, and its entry is in DECDONE (R322, R323). -/
theorem exec_loadCompletion_delivers {t : Thread} (hl : (s.omu c).load = some l) (hp : l.phase = 3) (ht : s.thread? l.by_.thread = some t) :
    exec (.loadCompletion c) s = .next ((((s.dropLocks l.key).dropLocks (l.key + 1)).modOmu c fun o => { o with load := none }).setThread
      l.by_.thread (t.receive .load l.by_ (entryBits l.by_.opr.ticket l.status l.bank l.fcode (l.gexpOut (s.omu c))) l.fcode l.va)) := by
  have hlive : (((s.dropLocks l.key).dropLocks (l.key + 1)).modOmu c fun o => { o with load := none }).thread? l.by_.thread = some t := ht
  simp only [exec_loadCompletion, execLoadCompletion, hl, hp, ne_eq, not_true_eq_false, ↓reduceIte]
  exact congrArg Host.Outcome.next (State.owe_live hlive _)

/-- The entry of a load without a fault code (R323). -/
theorem entryBits_load (ticket : BitVec 32) (status : Nat) (bank : Bool) (n : Nat) : entryBits ticket status bank 0 n =
    ticket.toNat * 2 ^ 32 + status % 8 * 2 ^ 29 + (if bank then 2 ^ 28 else 0) + n := by
  simp only [entryBits, bit, Nat.zero_mod, Nat.zero_mul, Nat.add_zero, ite_mul, Nat.one_mul]

/-! ### The clauses -/

/-- Settles O31: each step by what it leaves in the OMU's bank and load. -/
theorem loadSteps : Obligations.LoadSteps := by
  unfold Obligations.LoadSteps
  intro s c l hl
  refine ⟨fun bs hp hr hb => ?capture, fun bs hp hf hr => ?block, fun hp hh => ?decomposed, fun t hp hfc ht => ?completed⟩
  case capture =>
    refine ⟨_, exec_tileCaptureEnd_ok hl hp hr hb, rfl, State.load_setLoad .., ?_, State.owner_dropLocks s (l.key + 1) c⟩
    rw [State.bank_setLoad, State.omu_modOmu, Omu.bank_setBank]
  case block =>
    have hstep := exec_imageBlockRead_ok hl hp hf hr
    refine ⟨fun hlt => ?_, fun hge hok => ?_⟩
    · have hlt' : (l.image ++ bs).length < imageSize := List.length_append.symm ▸ hlt
      refine ⟨_, hstep, ?_⟩
      simp only [hlt', ↓reduceIte, State.load_setLoad]
    · have hge' : ¬ (l.image ++ bs).length < imageSize := List.length_append.symm ▸ Nat.not_lt.mpr hge
      simp only [hge', hok, ↓reduceIte] at hstep
      have hbank := State.bank_bindBank s c { l with image := l.image ++ bs } (l.image ++ bs)
      refine ⟨_, _, hstep, State.load_setLoad .., rfl, rfl, rfl, ?_, ?_, ?_⟩
      all_goals rw [State.bank_setLoad, hbank]
  case decomposed =>
    refine ⟨_, _, exec_decompositionComplete_bound hl hp hh, rfl, State.load_setLoad .., rfl, rfl, rfl, ?_, ?_⟩
    all_goals rw [State.bank_setLoad, State.bank_bindBank]
  case completed =>
    refine ⟨_, exec_loadCompletion_delivers hl hp ht, ?_, fun x hx => ?_, ?_⟩
    · exact congrArg Omu.load (State.omu_modOmu ((s.dropLocks l.key).dropLocks (l.key + 1)) c fun o => { o with load := none })
    · have hx' : x ∈ (((s.dropLocks l.key).dropLocks (l.key + 1)).cluster c).locks := hx
      refine ⟨?_, State.owner_dropLocks _ _ c x hx'⟩
      rw [State.cluster_dropLocks] at hx'
      exact State.owner_dropLocks s l.key c x (List.mem_of_mem_filter hx')
    · rw [State.thread?_setThread, hfc, entryBits_load]
      rfl

end Sys2Proof.Machine
end

section
/-! SUPPORT. The comb (R315, R415, R476, R477): the lines and cartridges of packages while what the lines carried is lost, lines given to new
users, and an OMU that becomes unavailable. -/
namespace Sys2Proof.Machine
open Sys2Proof Sys2Proof.Claims

variable {a s s' : State} {p x : Package} {k n cart : Nat} {c : ClusterId}

/-! ### The keys of a table -/

theorem mem_keys_putAt {α β : Type} [DecidableEq α] {j k : α} {v : β} {l : List (α × β)} (h : j ∈ (putAt k v l).map Prod.fst) :
    j = k ∨ j ∈ l.map Prod.fst := by
  induction l with
  | nil => exact .inl (List.mem_singleton.mp h)
  | cons y l ih =>
    by_cases hy : y.1 = k
    · simp only [putAt, hy, ↓reduceIte, List.map_cons, List.mem_cons] at h ⊢
      exact h.imp_right .inr
    · simp only [putAt, hy, ↓reduceIte, List.map_cons, List.mem_cons] at h ⊢
      exact h.elim (fun e => .inr (.inl e)) fun h => (ih h).imp_right .inr

theorem nodup_keys_putAt {α β : Type} [DecidableEq α] (k : α) (v : β) {l : List (α × β)} (h : (l.map Prod.fst).Nodup) :
    ((putAt k v l).map Prod.fst).Nodup := by
  induction l with
  | nil => exact List.nodup_singleton k
  | cons y l ih =>
    rw [List.map_cons, List.nodup_cons] at h
    obtain ⟨hy, hl⟩ := h
    by_cases e : y.1 = k
    · simp only [putAt, e, ↓reduceIte, List.map_cons, List.nodup_cons]
      exact ⟨e ▸ hy, hl⟩
    · simp only [putAt, e, ↓reduceIte, List.map_cons, List.nodup_cons]
      exact ⟨fun hm => (mem_keys_putAt hm).elim e hy, ih hl⟩

/-- In a table without repeated keys the value at a key is that of its entry. -/
theorem lookD_of_mem {α β : Type} [DecidableEq α] {k : α} {v : β} {l : List (α × β)} (d : β) (hn : (l.map Prod.fst).Nodup) (h : (k, v) ∈ l) :
    lookD d k l = v := by
  induction l with
  | nil => cases h
  | cons y l ih =>
    rw [List.map_cons, List.nodup_cons] at hn
    obtain ⟨hy, hl⟩ := hn
    rcases List.mem_cons.mp h with rfl | h
    · simp only [lookD, ↓reduceIte]
    · have hne : y.1 ≠ k := fun e => hy (e ▸ List.mem_map.mpr ⟨(k, v), h, rfl⟩)
      simp only [lookD, hne, ↓reduceIte]
      exact ih hl h

/-! ### The event log -/

/-- An entry of the event log: OMUs, cartridges and comb lines stay. -/
theorem State.logEvent_comb (s : State) (p d n : Nat) (detail : Word) (loc c : Nat) : (s.logEvent p d n detail loc c).omus = s.omus ∧
    ∀ j, ((s.logEvent p d n detail loc c).pkg j).carts = (s.pkg j).carts ∧ ((s.logEvent p d n detail loc c).pkg j).lines = (s.pkg j).lines := by
  have hput {s' : State} {x : Package} (hr : s.Rewayed s') (hc : x.carts = (s.pkg p).carts) (hl : x.lines = (s.pkg p).lines) :
      (s'.setPkg p x).omus = s.omus ∧ ∀ j, ((s'.setPkg p x).pkg j).carts = (s.pkg j).carts ∧ ((s'.setPkg p x).pkg j).lines = (s.pkg j).lines := by
    obtain ⟨m, f, rfl⟩ := hr
    refine ⟨rfl, fun j => ?_⟩
    by_cases e : j = p
    · rw [e, State.pkg_setPkg]
      exact ⟨hc, hl⟩
    · rw [State.pkg, State.setPkg_pkgs, lookD_putAt_other _ e]
      exact ⟨rfl, rfl⟩
  unfold State.logEvent
  dsimp only
  split
  · exact ⟨rfl, fun _ => ⟨rfl, rfl⟩⟩
  · split
    · exact hput (.refl s) rfl rfl
    · split
      · exact hput (State.Rewayed.engineStore.of_ok ‹_›) rfl rfl
      · next e => exact hput (State.Rewayed.engineStore.of_error e) rfl rfl

theorem State.omu_logEvent (s : State) (p d n : Nat) (detail : Word) (loc k : Nat) (c : ClusterId) :
    (s.logEvent p d n detail loc k).omu c = s.omu c := by
  rw [State.omu, (s.logEvent_comb p d n detail loc k).1, State.omu]

/-! ### Lines that are lost at most -/

/-- x has the cartridges of p, and p's lines but for lines that are lost in x. -/
structure Package.Fades (p x : Package) : Prop where
  carts : x.carts = p.carts
  nodup : (p.lines.map Prod.fst).Nodup → (x.lines.map Prod.fst).Nodup
  lost : ∀ n, lookD .spare n p.lines = .lost → lookD .spare n x.lines = .lost

namespace Package.Fades

theorem of_eq (hc : x.carts = p.carts := by rfl) (hl : x.lines = p.lines := by rfl) : p.Fades x :=
  ⟨hc, fun h => hl ▸ h, fun _ h => hl ▸ h⟩

theorem trans {y : Package} (h : p.Fades x) (g : x.Fades y) : p.Fades y :=
  ⟨g.carts.trans h.carts, fun hn => g.nodup (h.nodup hn), fun n hn => g.lost n (h.lost n hn)⟩

/-- One line lost. -/
theorem putAt_lost (p : Package) (n : Nat) : p.Fades { p with lines := putAt n .lost p.lines } := by
  refine ⟨rfl, nodup_keys_putAt n LineUse.lost, fun j hj => ?_⟩
  by_cases e : j = n
  · rw [e, lookD_putAt_same]
  · rwa [lookD_putAt_other _ e]

/-- The line that carries a carrier lost. -/
theorem carrier_lost (p : Package) (c : ClusterId) : p.Fades { p with
    lines := p.lines.map fun (x : Nat × LineUse) => if x.2 = .carrier c then (x.1, .lost) else x } := by
  have hmap : (p.lines.map fun (x : Nat × LineUse) => if x.2 = .carrier c then (x.1, LineUse.lost) else x) =
      p.lines.map fun x => (x.1, if x.2 = .carrier c then LineUse.lost else x.2) :=
    List.map_congr_left fun x _ => by split <;> rfl
  refine ⟨rfl, fun h => ?_, fun n hn => ?_⟩
  · rw [hmap, List.map_map]
    exact h
  · rw [hmap]
    refine (lookD_map_fixed (f := fun (_ : Nat) (u : LineUse) => if u = .carrier c then LineUse.lost else u) (d := .spare) (k := n) rfl p.lines).trans ?_
    rw [hn]
    rfl

end Package.Fades

/-- Every package of s has the cartridges that it has in a, and its lines there but for lines that are lost in s. -/
def State.Fades (a s : State) : Prop := ∀ k, (a.pkg k).Fades (s.pkg k)

namespace State.Fades

theorem refl (s : State) : s.Fades s := fun _ => .of_eq

theorem trans (h : a.Fades s) (g : s.Fades s') : a.Fades s' := fun k => (h k).trans (g k)

theorem of_eq (h : a.Fades s) (e : s'.pkgs = s.pkgs := by rfl) : a.Fades s' := fun k => by
  have hk : s'.pkg k = s.pkg k := by rw [State.pkg, State.pkg, e]
  exact hk ▸ h k

theorem of_rewayed (h : a.Fades s) (hr : s.Rewayed s') : a.Fades s' := by
  obtain ⟨m, f, rfl⟩ := hr
  exact h.of_eq

theorem foldl {α : Type} {f : State → α → State} (hf : ∀ {s x}, a.Fades s → a.Fades (f s x)) (l : List α) (h : a.Fades s) :
    a.Fades (l.foldl f s) := by
  induction l generalizing s with
  | nil => exact h
  | cons x l ih => exact ih (hf h)

theorem ite {c : Prop} [Decidable c] (h : a.Fades s) (g : a.Fades s') : a.Fades (if c then s else s') := by
  split
  · exact h
  · exact g

theorem setPkg (h : a.Fades s) (hx : (s.pkg k).Fades x) : a.Fades (s.setPkg k x) := by
  intro j
  by_cases e : j = k
  · subst e
    rw [State.pkg_setPkg]
    exact (h j).trans hx
  · have hj : (s.setPkg k x).pkg j = s.pkg j := lookD_putAt_other _ e x s.pkgs
    exact hj ▸ h j

theorem modPkg {f : Package → Package} (h : a.Fades s) (hf : ∀ p, Package.Fades p (f p)) : a.Fades (s.modPkg k f) := h.setPkg (hf _)

theorem modPort {q : Nat} {f : PortRegs → PortRegs} (h : a.Fades s) : a.Fades (s.modPort k q f) := h.modPkg fun _ => .of_eq

theorem addPacket {p : Packet} (h : a.Fades s) : a.Fades (s.addPacket p) := h.of_eq

/-! #### Completion entries and generations -/

theorem modThread {f : Thread → Thread} (h : a.Fades s) : a.Fades (s.modThread k f) := by
  unfold State.modThread
  split
  · exact h.of_eq
  · exact h

theorem deliverEntry {q : DoneQ} {b : Issuer} {e c : Nat} {va : Word} (h : a.Fades s) : a.Fades (s.deliverEntry q b e c va) := by
  unfold State.deliverEntry State.owe
  split
  · exact modThread h
  · exact h.of_eq

theorem endTopo {c : Topo} (h : a.Fades s) : a.Fades (s.endTopo k c n) := deliverEntry (h.modPkg fun _ => .of_eq)

theorem settleTopo (h : a.Fades s) : a.Fades (s.settleTopo k) := by
  unfold State.settleTopo
  split
  · exact h
  · split
    · exact .ite h.endTopo h
    · exact .ite h.endTopo h

theorem leaveClosed (h : a.Fades s) : a.Fades (s.leaveClosed k) := settleTopo (h.modPkg fun _ => .of_eq)

theorem advance (n : Nat) (h : a.Fades s) : a.Fades (s.advance k n) := by
  induction n generalizing s with
  | zero => exact h
  | succ n ih =>
    rw [State.advance]
    exact .ite (leaveClosed h) (.ite (ih (h.setPkg .of_eq)) h)

theorem dueAdvance (h : a.Fades s) : a.Fades (s.dueAdvance k) := advance _ (h.modPkg fun _ => .of_eq)

theorem ackGen {g : BitVec 16} (h : a.Fades s) : a.Fades (s.ackGen k g) := advance _ (h.setPkg .of_eq)

/-! #### Packets of a port that is lost -/

theorem regen {key : Nat} {x : Nat × Nat} (h : a.Fades s) : a.Fades (s.regen key x) := by
  unfold State.regen
  split
  · exact h
  · have hput {k g x} (hx : ((s.ackGen k g).pkg k).Fades x) : a.Fades ((s.ackGen k g).setPkg k x) := h.ackGen.setPkg hx
    exact .ite h fun j => hput .of_eq j

theorem sendAgain {p : Packet} (h : a.Fades s) : a.Fades (s.sendAgain p) := addPacket (.foldl (fun h => .foldl regen _ h) _ h)

theorem answerAll {p : Packet} {d : Nat} {f : Packet → Packet} (h : a.Fades s) : a.Fades (s.answerAll p d f) := by
  refine .foldl (fun h => ?_) _ h
  split
  · exact h
  · exact h.addPacket

theorem errorReply {p : Packet} {d : Nat} (h : a.Fades s) : a.Fades (s.errorReply p d) := by
  unfold State.errorReply
  split
  · exact h.addPacket
  · exact h.addPacket
  · exact h.addPacket
  · exact h.answerAll

theorem resolvePacket {p : Packet} (h : a.Fades s) : a.Fades (s.resolvePacket p) := by
  unfold State.resolvePacket
  split
  · exact .foldl errorReply _ h
  · exact .foldl errorReply _ h
  · exact h.addPacket
  · exact h.addPacket
  · exact h.sendAgain

/-! #### The event log -/

theorem logEvent {d n loc c : Nat} {detail : Word} (h : a.Fades s) : a.Fades (s.logEvent k d n detail loc c) := fun j =>
  have ⟨_, hcomb⟩ := s.logEvent_comb k d n detail loc c
  (h j).trans (.of_eq (hcomb j).1 (hcomb j).2)

theorem inWindow {d : Nat} (h : a.Fades s) : a.Fades (s.inWindow k d) := .ite h (setPkg h.of_eq .of_eq)

theorem logDown {q lanes : Nat} (h : a.Fades s) : a.Fades (s.logDown k q lanes) := by
  have hcount : a.Fades (s.countEvent (.port k q) 0) := logEvent (of_eq (inWindow h))
  exact hcount.logEvent

/-! #### Lanes and carriers lost -/

theorem losePort {q : Nat} (h : a.Fades s) : a.Fades (s.losePort k q) :=
  settleTopo (dueAdvance (logDown (.foldl resolvePacket _ h.modPort)))

theorem replay {q : Nat} (h : a.Fades s) : a.Fades (s.replay k q) := by
  unfold State.replay
  split
  · exact h.modPort
  · exact h

theorem dropLanes {q : Nat} {lost : BitVec 16} (h : a.Fades s) : a.Fades (s.dropLanes k q lost) :=
  .ite h (.ite h.modPort (.ite (losePort h.modPort) (.ite h.modPort (replay (modPort h.modPort)))))

theorem endPass {p : Pass} (h : a.Fades s) : a.Fades (s.endPass c p) := deliverEntry h.of_eq

theorem loseOmu {cause : Nat} (h : a.Fades s) : a.Fades (s.loseOmu c cause) :=
  .ite h (logEvent (.foldl endPass _ h.of_eq))

theorem dropCarrier (h : a.Fades s) : a.Fades (s.dropCarrier c) := loseOmu (of_eq (h.setPkg (.carrier_lost _ c)))

theorem loseLine (h : a.Fades s) : a.Fades (s.loseLine k n) := by
  have hput := h.modPkg (k := k) fun p => .putAt_lost p n
  unfold State.loseLine
  dsimp only
  split
  · exact hput.dropCarrier
  · exact .foldl dropLanes _ hput
  · exact hput

end State.Fades

/-! ### A cartridge's lines lost -/

theorem mem_linesOf : n ∈ linesOf cart ↔ n / 16 = cart := by
  rw [linesOf, List.mem_map]
  constructor
  · rintro ⟨i, hi, rfl⟩
    have := List.mem_range.mp hi
    omega
  · rintro rfl
    exact ⟨n % 16, List.mem_range.mpr (Nat.mod_lt n (by decide)), Nat.div_add_mod n 16⟩

theorem State.lookD_loseLine (s : State) (k n : Nat) : lookD .spare n ((s.loseLine k n).pkg k).lines = .lost := by
  have hput : lookD LineUse.spare n ((s.modPkg k fun p => { p with lines := putAt n .lost p.lines }).pkg k).lines = .lost := by
    rw [State.modPkg, State.pkg_setPkg, lookD_putAt_same]
  unfold State.loseLine
  dsimp only
  split
  · exact ((State.Fades.refl _).dropCarrier k).lost n hput
  · exact (State.Fades.foldl .dropLanes _ (.refl _) k).lost n hput
  · exact hput

/-- Lines lost one after the other: all of them are, and no other line is given back. -/
theorem State.foldl_loseLine (s : State) (k : Nat) (ns : List Nat) : s.Fades (ns.foldl (fun s n => s.loseLine k n) s) ∧
    ∀ n ∈ ns, lookD .spare n ((ns.foldl (fun s n => s.loseLine k n) s).pkg k).lines = .lost := by
  induction ns generalizing s with
  | nil => exact ⟨.refl s, nofun⟩
  | cons m ns ih =>
    obtain ⟨hfades, hlost⟩ := ih (s.loseLine k m)
    refine ⟨(State.Fades.loseLine (.refl s)).trans hfades, fun n hn => ?_⟩
    rcases List.mem_cons.mp hn with rfl | hn
    · exact (hfades k).lost n (s.lookD_loseLine k n)
    · exact hlost n hn

/-- No line of a cartridge is left. -/
def Package.Dark (cart : Nat) (p : Package) : Prop := ∀ n, n / 16 = cart → lookD .spare n p.lines = .lost

theorem State.loseCartridge_dark (s : State) (k cart : Nat) : ((s.loseCartridge k cart).pkg k).Dark cart := fun n hn =>
  (s.foldl_loseLine k (linesOf cart)).2 n (mem_linesOf.mpr hn)

theorem State.loseCartridge_fades (s : State) (k cart : Nat) : s.Fades (s.loseCartridge k cart) := (s.foldl_loseLine k (linesOf cart)).1

theorem State.carts_setCart (s : State) (k : Nat) (h : cart < 4) (on d : Bool) :
    ((s.setCart k cart on).pkg k).carts.toList.getD cart d = on := by
  rw [State.setCart, State.modPkg, State.pkg_setPkg, toList_setIdx_getD _ h h, if_pos rfl]

theorem State.lines_setCart (s : State) (k cart : Nat) (on : Bool) : ((s.setCart k cart on).pkg k).lines = (s.pkg k).lines := by
  rw [State.setCart, State.modPkg, State.pkg_setPkg]

/-- A cartridge that fails in service (R315). -/
theorem exec_pumpCartridgeLost_dark (hc : cart < 4) (hon : (s.pkg k).carts.toList.getD cart false = true) :
    ∃ s' : State, exec (.pumpCartridgeLost k cart) s = .next s' ∧ (s'.pkg k).carts.toList.getD cart true = false ∧ (s'.pkg k).Dark cart := by
  have hlog (s : State) : s.Fades (s.logEvent k 0 0x0D (word cart) (locBits k 0 0 0 0) 0) := .logEvent (.refl s)
  simp only [exec_pumpCartridgeLost, execPumpCartridgeLost, hon, Bool.not_true, Bool.false_eq_true, ↓reduceIte]
  refine ⟨_, rfl, ?_, fun n hn => (hlog _ k).lost n (State.loseCartridge_dark _ k cart n hn)⟩
  rw [(hlog _ k).carts, (State.loseCartridge_fades _ k cart k).carts, State.carts_setCart _ _ hc]

/-! ### Spare lines given to new users -/

/-- A package whose table repeats no line, and in which no line of a cartridge is left. -/
def Package.Spent (cart : Nat) (p : Package) : Prop := (p.lines.map Prod.fst).Nodup ∧ p.Dark cart

/-- A spare line given to a user is none that is lost. -/
theorem Package.Spent.give {v u : LineUse} (h : p.Spent cart) (hf : (p.lines.find? fun x => x.2 == .spare) = some (n, u)) :
    Package.Spent cart { p with lines := putAt n v p.lines } := by
  obtain ⟨hnodup, hdark⟩ := h
  have hu : u = .spare := beq_iff_eq.mp (List.find?_some (p := fun x : Nat × LineUse => x.2 == .spare) hf)
  have hspare : lookD .spare n p.lines = .spare := (lookD_of_mem .spare hnodup (List.mem_of_find?_eq_some hf)).trans hu
  refine ⟨nodup_keys_putAt n v hnodup, fun j hj => ?_⟩
  have hlost := hdark j hj
  have hne : j ≠ n := by
    rintro rfl
    rw [hspare] at hlost
    cases hlost
  rw [lookD_putAt_other _ hne, hlost]

theorem Package.Spent.giveWave {w : Nat} (h : p.Spent cart) : (p.giveWave w).Spent cart := by
  unfold Package.giveWave
  split
  · exact h
  · split
    · exact h.give ‹_›
    · exact h

theorem State.pkg_spareCarrier_other (s : State) (h : k ≠ c.pkg) : (s.spareCarrier c).pkg k = s.pkg k := by
  unfold State.spareCarrier
  dsimp only
  split
  · split
    · exact lookD_putAt_other _ h _ s.pkgs
    · rfl
  · rfl

theorem State.spent_spareCarrier (h : (s.pkg k).Spent cart) : ((s.spareCarrier c).pkg k).Spent cart := by
  by_cases e : k = c.pkg
  · subst e
    unfold State.spareCarrier
    dsimp only
    split
    · next hf =>
      split
      · rw [State.modOmu, State.pkg, State.setOmu_pkgs, ← State.pkg, State.pkg_setPkg]
        exact h.give hf
      · exact h
    · exact h
  · rwa [State.pkg_spareCarrier_other s e]

/-- A cartridge released (R477): what its lines carried takes no line of it. -/
theorem exec_cartridgeRelease_dark (hc : cart < 4) (hon : (s.pkg k).carts.toList.getD cart false = true)
    (hn : ((s.pkg k).lines.map Prod.fst).Nodup) :
    ∃ s' : State, exec (.cartridgeRelease k cart) s = .next s' ∧ (s'.pkg k).carts.toList.getD cart true = false ∧ (s'.pkg k).Dark cart := by
  have hlost : ((s.loseCartridge k cart).pkg k).Spent cart :=
    ⟨(State.loseCartridge_fades s k cart k).nodup hn, State.loseCartridge_dark s k cart⟩
  simp only [exec_cartridgeRelease, execCartridgeRelease, hon, Bool.not_true, Bool.false_eq_true, ↓reduceIte]
  refine ⟨_, rfl, State.carts_setCart _ _ hc .., fun n hn => ?_⟩
  rw [State.lines_setCart]
  refine (List.foldlRecOn (motive := fun s : State => (s.pkg k).Spent cart) _ _ hlost fun s h u _ => ?_).2 n hn
  split
  · exact State.spent_spareCarrier h
  · rw [State.modPkg, State.pkg_setPkg]
    exact h.giveWave
  · exact h

/-! ### A new cartridge -/

/-- A lost line returned as a spare (R477). -/
def relit (l : List (Nat × LineUse)) (n : Nat) : List (Nat × LineUse) :=
  putAt n (if lookD LineUse.lost n l = .lost then .spare else lookD .lost n l) l

theorem lookD_relit (l : List (Nat × LineUse)) (n m : Nat) : lookD .lost n (relit l m) =
    if n = m ∧ lookD .lost n l = .lost then .spare else lookD .lost n l := by
  unfold relit
  by_cases e : n = m
  · subst e
    rw [lookD_putAt_same]
    simp only [true_and]
  · rw [lookD_putAt_other _ e, if_neg fun h => e h.1]

theorem lookD_foldl_relit (ns : List Nat) (l : List (Nat × LineUse)) (h : lookD .lost n l = .spare ∨ n ∈ ns ∧ lookD .lost n l = .lost) :
    lookD .lost n (ns.foldl relit l) = .spare := by
  induction ns generalizing l with
  | nil => exact h.resolve_right fun h => List.not_mem_nil h.1
  | cons m ns ih =>
    refine ih (relit l m) ?_
    rw [lookD_relit]
    rcases h with h | ⟨hm, h⟩
    · exact .inl (by rw [h]; split <;> rfl)
    · by_cases e : n = m
      · exact .inl (if_pos ⟨e, h⟩)
      · exact .inr ⟨(List.mem_cons.mp hm).resolve_left e, by rw [if_neg fun h => e h.1, h]⟩

/-- A new cartridge's ring locks (R477): the lines that it pumps and that were lost are spares. -/
theorem exec_cartridgeInsertion_spares (hc : cart < 4) (hoff : (s.pkg k).carts.toList.getD cart false = false) :
    ∃ s' : State, exec (.cartridgeInsertion k cart) s = .next s' ∧ (s'.pkg k).carts.toList.getD cart false = true ∧
      ∀ n, n / 16 = cart → lookD .lost n (s.pkg k).lines = .lost → lookD .lost n (s'.pkg k).lines = .spare := by
  have hlog (s : State) := (s.logEvent_comb k 0 0x0E (word cart) (locBits k 0 0 0 0) 0).2 k
  simp only [exec_cartridgeInsertion, execCartridgeInsertion, hoff, Nat.not_le.mpr hc, Bool.false_eq_true, or_self, ↓reduceIte]
  refine ⟨_, rfl, ?_, fun n hn hlost => ?_⟩
  · rw [(hlog _).1, State.modPkg, State.pkg_setPkg, State.carts_setCart _ _ hc]
  · rw [(hlog _).2, State.modPkg, State.pkg_setPkg, State.lines_setCart]
    dsimp only
    exact lookD_foldl_relit (linesOf cart) _ (.inr ⟨mem_linesOf.mpr hn, hlost⟩)

/-! ### An OMU that becomes unavailable -/

theorem State.omu_endPass (s : State) (c : ClusterId) (p : Pass) :
    (s.endPass c p).omu c = { s.omu c with passes := (s.omu c).passes.filter fun q => q.key != p.key } := by
  rw [State.endPass, State.omu_deliverEntry, State.omu_modOmu, State.omu_dropLocks]

/-- Passes ended one after the other: the others of the OMU stay. -/
theorem State.omu_endPasses (s : State) (c : ClusterId) {f : Pass → Pass} (hf : ∀ p, (f p).key = p.key) (ps : List Pass) :
    (ps.foldl (fun s p => s.endPass c (f p)) s).omu c =
      { s.omu c with passes := (s.omu c).passes.filter fun q => ps.all fun p => q.key != p.key } := by
  induction ps generalizing s with
  | nil => rw [List.foldl_nil]; simp only [List.all_nil, List.filter_true]
  | cons p ps ih =>
    rw [List.foldl_cons, ih, State.omu_endPass, hf]
    simp only [List.filter_filter, List.all_cons, Bool.and_comm]

/-- A failure that spares the post queue leaves no pass and no stream (R311, R315). -/
theorem State.omu_failStream (s : State) (c : ClusterId) (status next : Nat) : ∃ flagged,
    (failStream s c status false next).omu c = { s.omu c with flagged := flagged, stream := [], passes := [], state := next } := by
  have hkey (p : Pass) : (if (s.omu c).refused p then p else { p with status := status, fcode := 0, rsn := 0, va := 0 }).key = p.key := by
    split <;> rfl
  have hnone : ((s.omu c).passes.filter fun q => (s.omu c).passes.all fun p => q.key != p.key) = [] :=
    List.filter_eq_nil_iff.mpr fun q hq h => bne_iff_ne.mp (List.all_eq_true.mp h q hq) rfl
  have hfree : ({ s with free := s.free + 1 } : State).omu c = s.omu c := rfl
  refine ⟨(s.omu c).flagged + BitVec.ofNat 32 (Config.freeValue s.free % (128 * liveCount (s.omu c).stream + 1)), ?_⟩
  refine (State.omu_endPasses _ c hkey (s.omu c).passes).trans ?_
  rw [State.omu_modOmu, State.strayFlags, State.omu_modOmu, hfree, hnone]

/-- What the loss of an OMU leaves: its losses as they were, and nothing that streams where it was available (R312, R315). -/
theorem State.omu_loseOmu (s : State) (c : ClusterId) (cause : Nat) : let o := s.omu c
    let o' := (s.loseOmu c cause).omu c
    o'.state = 3 ∧ o'.carrLost = o.carrLost ∧ o'.hot = o.hot ∧ (o.state ≠ 3 → o'.stream = [] ∧ o'.passes = [] ∧ o'.queue = o.queue) := by
  dsimp only
  unfold State.loseOmu
  split
  · next h => exact ⟨h, rfl, rfl, fun hn => absurd h hn⟩
  · obtain ⟨_, hfail⟩ := s.omu_failStream c 3 3
    rw [State.omu_logEvent, hfail]
    exact ⟨rfl, rfl, rfl, fun _ => ⟨rfl, rfl, rfl⟩⟩

/-! ### The events -/

theorem exec_carrierLoss_unavailable (s : State) (c : ClusterId) : let o := s.omu c
    ∃ s' : State, exec (.carrierLoss c) s = .next s' ∧ (s'.omu c).carrLost = true ∧ (s'.omu c).state = 3 ∧
      (o.state ≠ 3 → (s'.omu c).stream = [] ∧ (s'.omu c).passes = [] ∧ (s'.omu c).queue = o.queue) := by
  dsimp only
  rw [exec_carrierLoss, execCarrierLoss, State.dropCarrier]
  generalize hs1 : s.setPkg c.pkg _ = s1
  have ho : s1.omu c = s.omu c := hs1 ▸ rfl
  obtain ⟨hstate, hcarr, -, hends⟩ := (s1.modOmu c fun o => { o with carrLost := true }).omu_loseOmu c 1
  rw [State.omu_modOmu, ho] at hcarr hends
  exact ⟨_, rfl, hcarr, hstate, hends⟩

theorem exec_thermalLoss_unavailable (s : State) (c : ClusterId) : let o := s.omu c
    ∃ s' : State, exec (.thermalLoss c) s = .next s' ∧ (s'.omu c).hot = true ∧ (s'.omu c).state = 3 ∧
      (o.state ≠ 3 → (s'.omu c).stream = [] ∧ (s'.omu c).passes = [] ∧ (s'.omu c).queue = o.queue) := by
  obtain ⟨hstate, -, hhot, hends⟩ := (s.modOmu c fun o => { o with hot := true }).omu_loseOmu c 2
  rw [State.omu_modOmu] at hhot hends
  exact ⟨_, rfl, hhot, hstate, hends⟩

theorem exec_spareLineAssignment_carries {u : LineUse} (hf : ((s.pkg c.pkg).lines.find? fun x => x.2 == .spare) = some (n, u))
    (hc : (s.omu c).carrLost = true) : exec (.spareLineAssignment c) s = .next
      ((s.setPkg c.pkg { s.pkg c.pkg with lines := putAt n (.carrier c) (s.pkg c.pkg).lines }).modOmu c fun o =>
        { o with carr := BitVec.ofNat 6 n, carrLost := false }) := by
  simp only [exec_spareLineAssignment, execSpareLineAssignment, State.spareCarrier, hf, hc, ↓reduceIte]

theorem exec_omuRecalibration_available {x : Calibration} (hs : (s.omu c).state = 3) (hc : (s.omu c).carrLost = false) :
    ∃ s' : State, exec (.omuRecalibration c x) s = .next s' ∧ s'.omu c = (s.omu c).calibrated x := by
  simp only [exec_omuRecalibration, execOmuRecalibration, hs, hc, Bool.not_false, and_self, ↓reduceIte]
  exact ⟨_, rfl, by rw [State.omu_logEvent, State.omu_setOmu]⟩

/-- Settles O33: each event by what it leaves of the OMU, and of the package's cartridges and lines. -/
theorem combEvents : Obligations.CombEvents := by
  unfold Obligations.CombEvents
  intro s c
  refine ⟨exec_carrierLoss_unavailable s c, exec_thermalLoss_unavailable s c, fun n u hf hc => ?spare,
    fun x hs hc => exec_omuRecalibration_available hs hc, fun k cart hc hon => ⟨exec_pumpCartridgeLost_dark hc hon, exec_cartridgeRelease_dark hc hon⟩,
    fun k cart hc hoff => exec_cartridgeInsertion_spares hc hoff⟩
  refine ⟨_, exec_spareLineAssignment_carries hf hc, ?_, ?_, ?_, rfl⟩
  · rw [State.omu_modOmu]
  · rw [State.omu_modOmu]
  · rw [State.modOmu, State.pkg, State.setOmu_pkgs, ← State.pkg, State.pkg_setPkg, lookD_putAt_same]

end Sys2Proof.Machine
end

section
/-! SUPPORT. Instructions of the pass scheduler that end at once: swap markers and probes posted (R292, R325, R329), calibration entries (R332,
R334) and the status registers (R335, R336). -/
namespace Sys2Proof.Machine
open Sys2Proof Sys2Proof.Claims

variable {s : State} {k : Nat} {t : Thread} {a b d : Reg} {o : Omu}

/-! ### Swap markers and probes (R292, R325, R329) -/

theorem State.omu_done (s : State) (k : Nat) (t : Thread) (p : Word) (c : ClusterId) : (done s k t p).omu c = s.omu c := rfl

/-- The own part of pswap for a thread outside gangs with no relaxed store outstanding. -/
theorem exec_pswap_eq (h : Selected s k t) (hg : t.gang = .none) (hq : Quiet t) : exec .pswap s = .next (settle .pswap k t
    (if 32 ≤ (s.omu (clusterOf t.pcell)).queue.length then .park s .engine
      else .next (s.fresh.2.pushPost (clusterOf t.pcell) ⟨s.nextKey, .swap, s.issuer k t .pswap, []⟩))) := by
  obtain ⟨hr, he⟩ := hq
  rw [exec_pswap, execPswap, issue_selected h]
  simp only [Thread.inGang_none hg, Bool.false_eq_true, ↓reduceIte, State.waitRx_quiet h.2.1 hr he, orTrap, h.2.1, Option.getD_some]
  rfl

theorem exec_pswap_posts (h : Selected s k t) (hg : t.gang = .none) (hq : Quiet t) (hl : (s.omu (clusterOf t.pcell)).queue.length < 32) :
    exec .pswap s = .next (done (({ s with nextKey := s.nextKey + 1 } : State).setOmu (clusterOf t.pcell) { s.omu (clusterOf t.pcell) with
      queue := (s.omu (clusterOf t.pcell)).queue ++ [⟨s.nextKey, .swap, s.issuer k t .pswap, []⟩] }) k t (t.ctx.pc + 4)) := by
  have ht : (s.fresh.2.pushPost (clusterOf t.pcell) ⟨s.nextKey, .swap, s.issuer k t .pswap, []⟩).thread? k = some t := h.2.1
  rw [exec_pswap_eq h hg hq, if_neg (Nat.not_le.mpr hl), settle_kept ht]
  rfl

/-- A full post queue parks a swap marker (R292). -/
theorem exec_pswap_parks (h : Selected s k t) (hg : t.gang = .none) (hq : Quiet t) (hl : 32 ≤ (s.omu (clusterOf t.pcell)).queue.length)
    (hr : t.run = .ready) : exec .pswap s = parkedFor s k .pswap t .engine := by
  rw [exec_pswap_eq h hg hq, if_pos hl, settle_parked h.2.1 hr]

theorem State.locksFree_nil (h : NoLocks s) (c : ClusterId) (skip : Lock → Bool) : s.locksFree c [] skip = true := by
  rw [State.locksFree, State.locks_nil h]
  rfl

/-- A probe of the next scout entry finds nothing to wait for (R329). -/
theorem exec_probe_posts (hp : PostReady s k t) (hg : t.gang = .none) (ha : (t.ctx.gpr a).toNat < 2) :
    ∃ s' : State, exec (.probe d a) s = .next s' ∧ s'.thread? k = some ((passTicketed t d).commitAt (t.ctx.pc + 4)) ∧
      (s'.omu (clusterOf t.pcell)).queue = (s.omu (clusterOf t.pcell)).queue ++
        [⟨s.nextKey, .probe ((t.ctx.gpr a).getLsbD 0) none, s.issuer k t (.probe d a), []⟩] := by
  obtain ⟨h, hq, hn, hroom, hload, hgens⟩ := hp
  have h1 : s.Rewayed (engineOrder s t) := .engineOrder ..
  have hzero : fld (t.ctx.gpr a) 1 5 = 0 := by
    rw [fld_eq]
    omega
  have hpa : alignDown (t.ctx.gpr a) 6 = 0 := by
    rw [alignDown_eq _ rfl, Nat.div_eq_of_lt (by omega)]
    rfl
  have hfull : postFull (engineOrder s t) t ((engineOrder s t).whoOf t).cluster = false := postFull_false (h1.omu _ ▸ hroom) hload
  have hlock (w : Who) : lockOf (engineOrder s t) w 0 .pass ⟨0, 0, false⟩ = none := rfl
  have hpif (w : Who) : probePif (engineOrder s t) w 0 = .ok none := rfl
  let y : PostEntry := ⟨s.nextKey, .probe ((t.ctx.gpr a).getLsbD 0) none, s.issuer k t (.probe d a), []⟩
  have hexec : exec (.probe d a) s = .next (settle (.probe d a) k t
      (.next (((engineOrder s t).fresh.2.pushPost (clusterOf t.pcell) y).beginOp k (some d) .pass))) := by
    rw [exec_probe, execProbe, issue_selected h]
    simp only [Thread.inGang_none hg, Bool.false_eq_true, ↓reduceIte, engineBody_runs h.2.1 hq hgens, hzero, hpa, ne_eq, not_true_eq_false,
      false_and, hfull, hlock, Option.toList_none, State.locksFree_nil (h1.noLocks hn), Bool.not_true, hpif, h1.issuer]
    rw [show (engineOrder s t).fresh.1 = s.nextKey from h1.nextKey]
    rfl
  have ht : ((engineOrder s t).fresh.2.pushPost (clusterOf t.pcell) y).thread? k = some t := (h1.thread? k).trans h.2.1
  have hqueue : ((engineOrder s t).fresh.2.omu (clusterOf t.pcell)).queue = (s.omu (clusterOf t.pcell)).queue := congrArg Omu.queue (h1.omu _)
  rw [State.beginOp_pass ht, settle_put] at hexec
  refine ⟨_, hexec, thread?_done .., ?_⟩
  rw [State.omu_done]
  refine (congrArg Omu.queue (State.omu_modOmu (engineOrder s t).fresh.2 _ _)).trans ?_
  rw [hqueue]

theorem postCommands_holds : postCommands := by
  unfold postCommands
  intro s k t d a h hg hq
  refine ⟨exec_pswap_posts h hg hq, fun hl hr => ?_, fun hl ho hn hgens ha => exec_probe_posts ⟨h, hq, hn, hl, ho, hgens⟩ hg ha⟩
  exact ⟨_, exec_pswap_parks h hg hq hl hr, rfl, _, State.thread?_unyield_parked (State.thread?_setThread ..) rfl k, rfl, rfl⟩

/-! ### Calibration entries (R332 to R334) -/

/-- Bit n of a word below 2^(n + 1). -/
theorem getLsbD_top (v : Word) {n : Nat} (h : v.toNat < 2 ^ (n + 1)) : v.getLsbD n = decide (2 ^ n ≤ v.toNat) := by
  rw [BitVec.getLsbD, Nat.testBit_eq_decide_div_mod_eq, decide_eq_decide]
  have hlt : v.toNat / 2 ^ n < 2 := Nat.div_lt_of_lt_mul (by rwa [← Nat.pow_succ])
  rw [Nat.mod_eq_of_lt hlt]
  have hone := Nat.le_div_iff_mul_le (k := 2 ^ n) (x := 1) (y := v.toNat) (Nat.two_pow_pos n)
  omega

theorem satAdd_toInt (x y : BitVec 16) : (satAdd x y).toInt =
    if x.toInt + y.toInt < -32768 then -32768 else if 32767 < x.toInt + y.toInt then 32767 else x.toInt + y.toInt := by
  have hclamp : max (-32768) (min 32767 (x.toInt + y.toInt)) =
      if x.toInt + y.toInt < -32768 then -32768 else if 32767 < x.toInt + y.toInt then 32767 else x.toInt + y.toInt := by
    split_ifs <;> omega
  have hlo := le_max_left (-32768) (min 32767 (x.toInt + y.toInt))
  have hhi : max (-32768) (min 32767 (x.toInt + y.toInt)) ≤ 32767 := max_le (by decide) (min_le_left ..)
  rw [satAdd, BitVec.toInt_ofInt_eq_self (by decide) hlo (Int.lt_add_one_of_le hhi), hclamp]

/-- A calibration entry written or added to, which ends DRIFTED (R312, R334). -/
def Omu.recalibrated (o : Omu) (n : Nat) (v : Word) : Omu :=
  { o with
    cal := putAt n (if v.getLsbD 16 then satAdd (o.calAt n) (v.extractLsb' 0 16) else v.extractLsb' 0 16) o.cal
    state := if o.state = 2 then 0 else o.state, maxerr := 0 }

theorem Omu.calAt_recalibrated (o : Omu) (n m : Nat) (v : Word) : (o.recalibrated n v).calAt m =
    if m = n then (if v.getLsbD 16 then satAdd (o.calAt n) (v.extractLsb' 0 16) else v.extractLsb' 0 16) else o.calAt m := by
  rw [Omu.calAt, Omu.recalibrated]
  by_cases e : m = n
  · subst e
    rw [lookD_putAt_same, if_pos rfl]
  · rw [lookD_putAt_other _ e, if_neg e]
    rfl

theorem exec_pcal_writes (h : Selected s k t) (hg : t.gang = .none) (hn : (t.ctx.gpr a).toNat < 32640) (hv : (t.ctx.gpr b).toNat < 2 ^ 17) :
    exec (.pcal a b) s = .next (done (s.modOmu (clusterOf t.pcell) fun o => o.recalibrated (t.ctx.gpr a).toNat (t.ctx.gpr b)) k t
      (t.ctx.pc + 4)) := by
  have hfld : fld (t.ctx.gpr b) 17 47 = 0 := by
    rw [fld_eq]
    omega
  have ht : (s.modOmu (clusterOf t.pcell) fun o => o.recalibrated (t.ctx.gpr a).toNat (t.ctx.gpr b)).thread? k = some t := h.2.1
  rw [exec_pcal, execPcal, issue_selected h]
  simp only [Thread.inGang_none hg, Bool.false_eq_true, ↓reduceIte, hfld, ne_eq, not_true_eq_false, Nat.not_le.mpr hn]
  exact congrArg Host.Outcome.next (settle_kept ht (.pcal a b) t)

theorem exec_pcal_value (h : Selected s k t) (hg : t.gang = .none) (hv : 2 ^ 17 ≤ (t.ctx.gpr b).toNat) :
    exec (.pcal a b) s = trapsWith s k t (.pcal a b) { code := 0x01 } := by
  have hfld : fld (t.ctx.gpr b) 17 47 ≠ 0 := by
    rw [fld_eq]
    have := (t.ctx.gpr b).isLt
    omega
  rw [exec_pcal, execPcal, issue_selected h]
  simp only [Thread.inGang_none hg, Bool.false_eq_true, ↓reduceIte, hfld, ne_eq, not_false_eq_true]
  rfl

theorem exec_pcal_number (h : Selected s k t) (hg : t.gang = .none) (hn : 32640 ≤ (t.ctx.gpr a).toNat) (hv : (t.ctx.gpr b).toNat < 2 ^ 17) :
    exec (.pcal a b) s = trapsWith s k t (.pcal a b) { code := 0x04, faddr := t.ctx.gpr a } := by
  have hfld : fld (t.ctx.gpr b) 17 47 = 0 := by
    rw [fld_eq]
    omega
  rw [exec_pcal, execPcal, issue_selected h]
  simp only [Thread.inGang_none hg, Bool.false_eq_true, ↓reduceIte, hfld, ne_eq, not_true_eq_false, hn]
  rfl

/-! ### Status registers (R335, R336) -/

theorem toNat_append_add {n m : Nat} (x : BitVec n) (y : BitVec m) : (x ++ y).toNat = x.toNat * 2 ^ m + y.toNat := by
  rw [BitVec.toNat_append, ← Nat.shiftLeft_add_eq_or_of_lt y.isLt, Nat.shiftLeft_eq]

/-- What pstat reads of a status register or an entry that it names; none for a reserved number (R335). -/
def Omu.statAt (o : Omu) (n : Nat) : Option Word :=
  if n = 0 then some o.omustat
  else if n = 1 then some o.driftstat
  else if n = 2 then some o.resstat
  else if 0x10000 ≤ n ∧ n - 0x10000 < 32640 then some ((o.calAt (n - 0x10000)).signExtend 64) else none

theorem pstat_writes {v : Word} (hv : (s.omu (clusterOf t.pcell)).statAt (t.ctx.gpr a).toNat = some v) :
    Writes s k t (.pstat d a) d v 4 := by
  refine ⟨_, exec_pstat s d a, ?_, rfl⟩
  dsimp only
  unfold Omu.statAt at hv
  split_ifs at hv with h0 h1 h2 hm
  · rw [if_pos h0, Option.some.inj hv]
  · rw [if_neg h0, if_pos h1, Option.some.inj hv]
  · rw [if_neg h0, if_neg h1, if_pos h2, Option.some.inj hv]
  · rw [if_neg h0, if_neg h1, if_neg h2, if_neg (Nat.not_lt.mpr hm.1), if_neg (Nat.not_le.mpr hm.2), Option.some.inj hv]

theorem exec_pstat_reads {v : Word} (h : Selected s k t) (hv : (s.omu (clusterOf t.pcell)).statAt (t.ctx.gpr a).toNat = some v) :
    exec (.pstat d a) s = .next (done s k (withReg t d v) (t.ctx.pc + 4)) := (pstat_writes hv).exec_eq h

theorem exec_pstat_reserved (h : Selected s k t) (hlo : 3 ≤ (t.ctx.gpr a).toNat) (hhi : (t.ctx.gpr a).toNat < 0x10000) :
    exec (.pstat d a) s = trapsWith s k t (.pstat d a) { code := 0x01 } := by
  have h0 : (t.ctx.gpr a).toNat ≠ 0 := by omega
  have h1 : (t.ctx.gpr a).toNat ≠ 1 := by omega
  have h2 : (t.ctx.gpr a).toNat ≠ 2 := by omega
  rw [exec_pstat, execPstat, issue_selected h]
  simp only [h0, h1, h2, hhi, ↓reduceIte]
  rfl

theorem bit_eq_toNat (b : Bool) : bit b = b.toNat := by
  cases b <;> rfl

/-- The fields of OMUSTAT where R336 has them. -/
theorem Omu.omustat_eq (o : Omu) (hq : o.queue.length ≤ 32) (hs : o.state < 4) : o.omustat = omuStatus o := by
  have hcb : (if o.cb = 0 then 0 else o.cb - 1 : BitVec 4).toNat = o.cb.toNat - 1 := by
    split
    · next h => rw [h]; rfl
    · next h => bv_omega
  refine BitVec.eq_of_toNat_eq ?_
  rw [Omu.omustat, omuStatus]
  simp only [toNat_append_add, hcb, BitVec.toNat_ofBool, BitVec.toNat_ofNat, word, bit_eq_toNat, Omu.swapQueued]
  have hload := Bool.toNat_lt o.load.isSome
  have hswap := Bool.toNat_lt (o.queue.any fun e => e.post == .swap)
  have hb1 := Bool.toNat_lt o.b1.binding.isSome
  have hb0 := Bool.toNat_lt o.b0.binding.isSome
  have hact := Bool.toNat_lt o.act
  have hu := Bool.toNat_lt o.uspr
  have hv := Bool.toNat_lt o.vspr
  have hcb' := o.cb.isLt
  have hcarr := o.carr.isLt
  omega

/-- The fields of DRIFTSTAT where R336 has them. -/
theorem Omu.driftstat_fields (o : Omu) : let v := o.driftstat.toNat
    v / 2 ^ 48 = min o.lasterr 65535 ∧ v / 2 ^ 32 % 65536 = min o.maxerr 65535 ∧ v / 2 ^ 16 % 65536 = min o.guard 65535 ∧
      v / 2 ^ 8 % 256 = o.sidx % 64 ∧ v % 256 = min o.dcnt 255 := by
  dsimp only
  rw [Omu.driftstat, word, BitVec.toNat_ofNat]
  omega

theorem omuRegisters_holds : omuRegisters := by
  unfold omuRegisters
  intro s k t a b d h hg
  refine ⟨fun hn hv => ?written, exec_pcal_value h hg, exec_pcal_number h hg, fun hn hq hs => ?status, fun hn => ?drift, fun hn => ?resolver,
    fun m hn hm => ?entry, exec_pstat_reserved h⟩
  case written =>
    refine ⟨_, exec_pcal_writes h hg hn hv, rfl, thread?_done .., ?_⟩
    rw [State.omu_done, State.omu_modOmu]
    refine ⟨rfl, rfl, ?_, fun m hm => ?_⟩
    · rw [Omu.calAt_recalibrated, if_pos rfl, getLsbD_top _ hv]
      by_cases hbit : 2 ^ 16 ≤ (t.ctx.gpr b).toNat
      · rw [if_pos (decide_eq_true hbit), if_neg (Nat.not_lt.mpr hbit), satAdd_toInt]
        rfl
      · rw [if_neg (by rw [decide_eq_false hbit]; exact Bool.false_ne_true), if_pos (Nat.lt_of_not_le hbit)]
        rfl
    · rw [Omu.calAt_recalibrated, if_neg hm]
  case status =>
    refine exec_pstat_reads h ?_
    rw [Omu.statAt, if_pos hn, Omu.omustat_eq _ hq hs]
  case drift =>
    refine ⟨(s.omu (clusterOf t.pcell)).driftstat, exec_pstat_reads h ?_, ?_⟩
    · rw [Omu.statAt, if_neg (by omega), if_pos hn]
    · simp only [← min_eq_ite_lt]
      exact Omu.driftstat_fields _
  case resolver =>
    refine exec_pstat_reads h ?_
    rw [Omu.statAt, if_neg (by omega), if_neg (by omega), if_pos hn]
    rfl
  case entry =>
    refine exec_pstat_reads h ?_
    rw [Omu.statAt, if_neg (by omega), if_neg (by omega), if_neg (by omega), if_pos (by omega), hn, Nat.add_sub_cancel_left]

end Sys2Proof.Machine
end

section
/-! SUPPORT. One entry withdrawn from the post queue by pabort (R331, R342): which entries it selects, the queue, the passes and the range locks
that a withdrawal leaves, and the entries that it adds for a thread. -/
namespace Sys2Proof.Machine
open Sys2Proof Sys2Proof.Claims

variable {s s' : State} {k : Nat} {t u v : Thread} {c : ClusterId} {o : Omu} {e : PostEntry} {g : Word} {l1 l2 : List PostEntry}

/-! ### Which commands are selected -/

theorem abortHits_eq (hg : g.toNat < 2 ^ 32) (k : Nat) (t : Thread) : abortHits k t g = selects k t g := by
  funext b
  have hticket : b.opr.ticket = g.extractLsb' 0 32 ↔ b.opr.ticket.toNat = g.toNat := by
    rw [← BitVec.toNat_inj, BitVec.extractLsb'_toNat, Nat.shiftRight_zero, Nat.mod_eq_of_lt hg]
  rw [Bool.eq_iff_iff]
  simp only [abortHits, selects, Bool.and_eq_true, Bool.or_eq_true, beq_iff_eq, decide_eq_true_eq, hticket]

/-- Whether pabort takes an entry out of the post queue (R331). -/
def withdraws (k : Nat) (t : Thread) (g : Word) (e : PostEntry) : Bool := selects k t g e.by_ && e.post != .swap

theorem Issuer.same_iff (a b : PostEntry) : a.by_.same b.by_ = true ↔ oneThread a b := by
  simp only [Issuer.same, oneThread, Bool.or_eq_true, Bool.and_eq_true, beq_iff_eq]

/-! ### An entry withdrawn -/

/-- The post queue without an entry. -/
def State.unpost (s : State) (c : ClusterId) (e : PostEntry) : State :=
  s.modOmu c fun o => { o with queue := o.queue.filter fun x => x.key != e.key }

/-- A queue in which a withdrawn probe and those that wait behind it wait behind the entry of a key (R342). -/
def queuedBehind (j : Nat) (e : PostEntry) (dir : Bool) (q : List PostEntry) : List PostEntry :=
  q.map fun x => if x.key = j then { x with behind := x.behind ++ (e.by_, dir) :: e.behind } else x

/-- What the withdrawal of an entry comes to: a pass ends, a swap marker is dropped, and a probe's entry is delivered or waits (R331, R342). -/
theorem State.abortQueued_cases (s : State) (c : ClusterId) (e : PostEntry) :
    (∃ r, e.post = .pass r ∧ s.abortQueued c e = ((s.unpost c e).endPass c (e.ended r 0 2 0 0)).settleOmu c) ∨
    (e.post = .swap ∧ s.abortQueued c e = (s.unpost c e).settleOmu c) ∨
    (∃ dir pif, e.post = .probe dir pif ∧ (s.omu c).probeBefore e = none ∧
      s.abortQueued c e = ((s.unpost c e).endProbes e 0 dir 0).settleOmu c) ∨
    (∃ dir pif j, e.post = .probe dir pif ∧ (s.omu c).probeBefore e = some j ∧
      s.abortQueued c e = ((s.unpost c e).modOmu c fun o => { o with queue := queuedBehind j e dir o.queue }).settleOmu c) := by
  cases hp : e.post with
  | pass r => exact .inl ⟨r, rfl, by simp only [State.abortQueued, hp]; rfl⟩
  | swap => exact .inr (.inl ⟨rfl, by simp only [State.abortQueued, hp]; rfl⟩)
  | probe dir pif =>
    cases hb : (s.omu c).probeBefore e with
    | none => exact .inr (.inr (.inl ⟨dir, pif, rfl, rfl, by simp only [State.abortQueued, hp, hb]; rfl⟩))
    | some j => exact .inr (.inr (.inr ⟨dir, pif, j, rfl, rfl, by simp only [State.abortQueued, hp, hb]; rfl⟩))

theorem State.omu_unpost (s : State) (c : ClusterId) (e : PostEntry) :
    (s.unpost c e).omu c = { s.omu c with queue := (s.omu c).queue.filter fun x => x.key != e.key } := State.omu_modOmu ..

theorem State.omu_settleOmu (s : State) (c : ClusterId) : ((s.settleOmu c).omu c).queue = (s.omu c).queue ∧
    ((s.settleOmu c).omu c).passes = (s.omu c).passes := by
  rw [State.settleOmu, State.omu_modOmu]
  exact ⟨rfl, rfl⟩

theorem State.omu_endProbes (s : State) (e : PostEntry) (status n : Nat) (dir : Bool) (c : ClusterId) :
    (s.endProbes e status dir n).omu c = s.omu c := (Settles.endProbes (.refl (fun _ => False) s)).omus c id

/-- The queue that a withdrawal leaves: the others as they were, unless the entry is a probe's that waits. -/
theorem State.queue_abortQueued (s : State) (c : ClusterId) (e : PostEntry) :
    let q := (s.omu c).queue.filter fun x => x.key != e.key
    (((s.abortQueued c e).omu c).queue = q ∧ (isProbe e = true → (s.omu c).probeBefore e = none)) ∨
      ∃ dir pif j, e.post = .probe dir pif ∧ (s.omu c).probeBefore e = some j ∧ ((s.abortQueued c e).omu c).queue = queuedBehind j e dir q := by
  obtain ⟨r, hp, h⟩ | ⟨hp, h⟩ | ⟨dir, pif, hp, hb, h⟩ | ⟨dir, pif, j, hp, hb, h⟩ := s.abortQueued_cases c e
  · refine .inl ⟨?_, fun hi => ?_⟩
    · rw [h, (State.omu_settleOmu ..).1, State.omu_endPass, State.omu_unpost]
    · rw [isProbe, hp] at hi
      cases hi
  · refine .inl ⟨?_, fun hi => ?_⟩
    · rw [h, (State.omu_settleOmu ..).1, State.omu_unpost]
    · rw [isProbe, hp] at hi
      cases hi
  · refine .inl ⟨?_, fun _ => hb⟩
    rw [h, (State.omu_settleOmu ..).1, State.omu_endProbes, State.omu_unpost]
  · refine .inr ⟨dir, pif, j, hp, hb, ?_⟩
    rw [h, (State.omu_settleOmu ..).1, State.omu_modOmu, State.omu_unpost]

/-- The passes that stream after a withdrawal: at most one under the entry's own name is gone. -/
theorem State.passes_abortQueued (s : State) (c : ClusterId) (e : PostEntry) : ((s.abortQueued c e).omu c).passes = (s.omu c).passes ∨
    ((s.abortQueued c e).omu c).passes = (s.omu c).passes.filter fun q => q.key != e.key := by
  obtain ⟨r, -, h⟩ | ⟨-, h⟩ | ⟨dir, pif, -, -, h⟩ | ⟨dir, pif, j, -, -, h⟩ := s.abortQueued_cases c e
  · right
    rw [h, (State.omu_settleOmu ..).2, State.omu_endPass, State.omu_unpost]
    rfl
  · left
    rw [h, (State.omu_settleOmu ..).2, State.omu_unpost]
  · left
    rw [h, (State.omu_settleOmu ..).2, State.omu_endProbes, State.omu_unpost]
  · left
    rw [h, (State.omu_settleOmu ..).2, State.omu_modOmu, State.omu_unpost]

/-! ### Range locks -/

theorem State.clusters_deliverEntry (s : State) (q : DoneQ) (b : Issuer) (n f : Nat) (va : Word) :
    (s.deliverEntry q b n f va).clusters = s.clusters := by
  unfold State.deliverEntry State.owe
  split
  · unfold State.modThread
    split <;> rfl
  · rfl

theorem State.clusters_endProbes (s : State) (e : PostEntry) (status n : Nat) (dir : Bool) :
    (s.endProbes e status dir n).clusters = s.clusters := by
  have hfold (bs : List (Issuer × Bool)) (s : State) : (bs.foldl (fun s b => s.endProbe b.1 0 b.2 0) s).clusters = s.clusters := by
    induction bs generalizing s with
    | nil => rfl
    | cons b bs ih => exact (ih _).trans (State.clusters_deliverEntry ..)
  exact (hfold e.behind _).trans (State.clusters_deliverEntry ..)

theorem State.cluster_of_clusters {x : ClusterId} (h : s'.clusters = s.clusters) : s'.cluster x = s.cluster x := by
  rw [State.cluster, h, State.cluster]

/-- A withdrawn pass releases its locks, and nothing else is released (R331). -/
theorem State.locks_abortQueued (s : State) (c x : ClusterId) (e : PostEntry) : ((s.abortQueued c e).cluster x).locks =
    (s.cluster x).locks.filter fun l => !(isPass e && e.key == l.owner) := by
  have hkeep {n : Nat} {b : Bool} (hb : b = false) (ls : List Lock) : ls = ls.filter fun l => !(b && n == l.owner) := by
    simp only [hb, Bool.false_and, Bool.not_false, List.filter_true]
  obtain ⟨r, hp, h⟩ | ⟨hp, h⟩ | ⟨dir, pif, hp, -, h⟩ | ⟨dir, pif, j, hp, -, h⟩ := s.abortQueued_cases c e
  · have hc : (s.abortQueued c e).clusters = ((s.unpost c e).dropLocks e.key).clusters := by
      rw [h]
      exact State.clusters_deliverEntry ..
    rw [State.cluster_of_clusters hc, State.cluster_dropLocks, isPass, hp]
    refine List.filter_congr fun l _ => ?_
    rw [Bool.true_and, bne, BEq.comm]
  · rw [h]
    exact hkeep (by rw [isPass, hp]) _
  · have hc : (s.abortQueued c e).clusters = s.clusters := by
      rw [h]
      exact State.clusters_endProbes ..
    rw [State.cluster_of_clusters hc]
    exact hkeep (by rw [isPass, hp]) _
  · rw [h]
    exact hkeep (by rw [isPass, hp]) _

/-! ### Entries added to a thread's queues -/

/-- s' has thread k as s has it, but for what was added to PASSDONE and PROBEOUT. -/
def State.Adds (k : Nat) (ps qs : List Word) (s s' : State) : Prop := ∀ u, s.thread? k = some u → ∃ v : Thread, s'.thread? k = some v ∧
  v.ctx = u.ctx ∧ v.passdone = u.passdone ++ ps ∧ v.probeout = u.probeout ++ qs

namespace State.Adds
variable {ps qs ps' qs' : List Word}

theorem of_threads (h : s'.threads = s.threads := by rfl) : s.Adds k [] [] s' := fun u hu =>
  ⟨u, by rw [← hu, State.thread?, State.thread?, h], rfl, (List.append_nil _).symm, (List.append_nil _).symm⟩

theorem trans {s'' : State} (h : s.Adds k ps qs s') (g : s'.Adds k ps' qs' s'') : s.Adds k (ps ++ ps') (qs ++ qs') s'' := fun u hu => by
  obtain ⟨v, hv, hctx, hp, hq⟩ := h u hu
  obtain ⟨w, hw, hctx', hp', hq'⟩ := g v hv
  exact ⟨w, hw, hctx'.trans hctx, by rw [hp', hp, List.append_assoc], by rw [hq', hq, List.append_assoc]⟩

theorem of_eq {s'' : State} (h : s.Adds k ps qs s') (e : s''.threads = s'.threads := by rfl) : s.Adds k ps qs s'' := by
  have := h.trans (.of_threads e)
  rwa [List.append_nil, List.append_nil] at this

theorem after {s0 : State} (h : s.Adds k ps qs s') (e : s0.threads = s.threads := by rfl) : s0.Adds k ps qs s' :=
  (of_threads e.symm).trans h

/-- What it says of a thread that lives in both. -/
theorem entries (h : s.Adds k ps qs s') (hu : s.thread? k = some u) (hv : s'.thread? k = some v) :
    v.ctx = u.ctx ∧ v.passdone = u.passdone ++ ps ∧ v.probeout = u.probeout ++ qs := by
  obtain ⟨w, hw, hs⟩ := h u hu
  cases hw.symm.trans hv
  exact hs

/-- The queues in which a completion entry without a fault comes to lie. -/
def entryIn (q r : DoneQ) (n : Nat) : List Word := if q = r then [word n] else []

theorem receive (t : Thread) (q : DoneQ) (b : Issuer) (n : Nat) (va : Word) : (t.receive q b n 0 va).ctx = t.ctx ∧
    (t.receive q b n 0 va).passdone = t.passdone ++ entryIn q .pass n ∧ (t.receive q b n 0 va).probeout = t.probeout ++ entryIn q .probe n := by
  cases q with
  | pass => exact ⟨rfl, rfl, (List.append_nil _).symm⟩
  | probe => exact ⟨rfl, (List.append_nil _).symm, rfl⟩
  | copy | load => exact ⟨rfl, (List.append_nil _).symm, (List.append_nil _).symm⟩

/-- An entry delivered to the thread that issued its command. -/
theorem deliverEntry_own {q : DoneQ} {b : Issuer} {n : Nat} {va : Word} (hb : b.thread = k) :
    s.Adds k (entryIn q .pass n) (entryIn q .probe n) (s.deliverEntry q b n 0 va) := fun u hu => by
  subst hb
  rw [State.deliverEntry, State.owe_live hu, State.thread?_setThread]
  exact ⟨_, rfl, receive u q b n va⟩

/-- An entry delivered, to this thread or to another. -/
theorem deliverEntry (s : State) (k : Nat) (q : DoneQ) (b : Issuer) (n : Nat) (va : Word) : ∃ ps qs, s.Adds k ps qs (s.deliverEntry q b n 0 va) ∧
    (q ≠ .pass → ps = []) ∧ (q ≠ .probe → qs = []) ∧ (b.thread = k → ps = entryIn q .pass n ∧ qs = entryIn q .probe n) := by
  by_cases hb : b.thread = k
  · exact ⟨_, _, deliverEntry_own hb, fun h => if_neg h, fun h => if_neg h, fun _ => ⟨rfl, rfl⟩⟩
  unfold State.deliverEntry State.owe
  split
  · next j _ =>
    by_cases e : k = j
    · subst e
      exact ⟨entryIn q .pass n, entryIn q .probe n, fun u hu => ⟨_, State.thread?_modThread_same hu _, receive u q b n va⟩,
        fun h => if_neg h, fun h => if_neg h, fun h => absurd h hb⟩
    · refine ⟨[], [], fun u hu => ?_, fun _ => rfl, fun _ => rfl, fun h => absurd h hb⟩
      rw [State.thread?_modThread_other e]
      exact of_threads rfl u hu
  · exact ⟨[], [], .of_threads, fun _ => rfl, fun _ => rfl, fun h => absurd h hb⟩

/-- The entries of a probe and of those that wait behind it: none of them is a pass's. -/
theorem endProbes (s : State) (k : Nat) (e : PostEntry) (status n : Nat) (dir : Bool) : ∃ qs, s.Adds k [] qs (s.endProbes e status dir n) ∧
    (e.by_.thread = k → e.behind = [] → qs = [word (entryBits e.by_.opr.ticket status dir 0 (min n 0xFFFF))]) := by
  have hone (s : State) (b : Issuer) (n : Nat) : ∃ qs, s.Adds k [] qs (s.deliverEntry .probe b n 0 0) ∧ (b.thread = k → qs = [word n]) := by
    obtain ⟨ps, qs, h, hp, -, hown⟩ := deliverEntry s k .probe b n 0
    cases hp DoneQ.noConfusion
    exact ⟨qs, h, fun hb => (hown hb).2⟩
  have hfold (bs : List (Issuer × Bool)) (s : State) : ∃ qs, s.Adds k [] qs (bs.foldl (fun s b => s.endProbe b.1 0 b.2 0) s) ∧
      (bs = [] → qs = []) := by
    induction bs generalizing s with
    | nil => exact ⟨[], .of_threads, fun _ => rfl⟩
    | cons b bs ih =>
      obtain ⟨qs, h, -⟩ := hone s b.1 (entryBits b.1.opr.ticket 0 b.2 0 (min 0 0xFFFF))
      obtain ⟨qs', h', -⟩ := ih _
      exact ⟨qs ++ qs', h.trans h', fun hb => nomatch hb⟩
  obtain ⟨qs, h, hown⟩ := hone s e.by_ (entryBits e.by_.opr.ticket status dir 0 (min n 0xFFFF))
  obtain ⟨qs', h', hnil⟩ := hfold e.behind (s.endProbe e.by_ status dir n)
  exact ⟨qs ++ qs', h.trans h', fun hb hbe => by rw [hown hb, hnil hbe, List.append_nil]⟩

end State.Adds

/-- The entry of a pass that pabort ends (R327). -/
theorem passEntry_withdrawn (r : Rec) (ticket : BitVec 32) :
    passEntry r ticket 0 2 0 0 = fld r 0 16 * 2 ^ 48 + 2 * 2 ^ 27 + ticket.toNat % 2 ^ 22 := by
  simp only [passEntry, Rec.passid, Nat.zero_mod, Nat.zero_mul, Nat.add_zero, Nat.reduceMod]

theorem withdrawnPass_eq {r : Rec} (hp : e.post = .pass r) : withdrawnPass e = some (word (passEntry r e.by_.opr.ticket 0 2 0 0)) := by
  rw [withdrawnPass, hp, passEntry_withdrawn, word]

theorem withdrawnProbe_eq {dir : Bool} {p : Option (List Byte)} (hp : e.post = .probe dir p) :
    withdrawnProbe e = some (word (entryBits e.by_.opr.ticket 0 dir 0 (min 0 0xFFFF))) := by
  rw [withdrawnProbe, hp, entryBits_load, word]
  simp only [Nat.zero_mod, Nat.zero_mul, Nat.add_zero, Nat.zero_min]

/-- The entries that a withdrawal adds for a thread; of its own command: what R331 says of a pass, and of a probe that does not wait. -/
theorem State.Adds.abortQueued (s : State) (k : Nat) (c : ClusterId) (e : PostEntry) : ∃ ps qs, s.Adds k ps qs (s.abortQueued c e) ∧
    (e.by_.thread = k → ps = (withdrawnPass e).toList ∧ ((s.omu c).probeBefore e ≠ none → qs = []) ∧
      ((s.omu c).probeBefore e = none → e.behind = [] → qs = (withdrawnProbe e).toList)) := by
  obtain ⟨r, hp, h⟩ | ⟨hp, h⟩ | ⟨dir, pif, hp, hb, h⟩ | ⟨dir, pif, j, hp, hb, h⟩ := s.abortQueued_cases c e
  · obtain ⟨ps, qs, ha, -, hq, hown⟩ := State.Adds.deliverEntry (((s.unpost c e).dropLocks e.key).modOmu c fun o =>
      { o with passes := o.passes.filter fun q => q.key != e.key }) k .pass e.by_ (passEntry r e.by_.opr.ticket 0 2 0 0) 0
    cases hq DoneQ.noConfusion
    refine ⟨ps, [], ?_, fun he => ⟨?_, fun _ => rfl, fun _ _ => ?_⟩⟩
    · rw [h]
      exact (ha.after rfl).of_eq rfl
    · rw [withdrawnPass_eq hp, (hown he).1, State.Adds.entryIn, if_pos rfl, Option.toList_some]
    · rw [withdrawnProbe, hp, Option.toList_none]
  · rw [h]
    exact ⟨[], [], .of_threads, fun _ => ⟨by rw [withdrawnPass, hp, Option.toList_none], fun _ => rfl,
      fun _ _ => by rw [withdrawnProbe, hp, Option.toList_none]⟩⟩
  · obtain ⟨qs, ha, hown⟩ := State.Adds.endProbes (s.unpost c e) k e 0 0 dir
    refine ⟨[], qs, ?_, fun he => ⟨?_, fun hn => absurd hb hn, fun _ hbe => ?_⟩⟩
    · rw [h]
      exact (ha.after rfl).of_eq rfl
    · rw [withdrawnPass, hp, Option.toList_none]
    · rw [hown he hbe, withdrawnProbe_eq hp, Option.toList_some]
  · rw [h]
    exact ⟨[], [], .of_threads, fun _ => ⟨by rw [withdrawnPass, hp, Option.toList_none], fun _ => rfl,
      fun hn => by rw [hb] at hn; cases hn⟩⟩

end Sys2Proof.Machine
end

section
/-! SUPPORT. A list of entries withdrawn by pabort (R331), and the order in which the entries of probes are delivered (R342). -/
namespace Sys2Proof.Machine
open Sys2Proof Sys2Proof.Claims

variable {s s' : State} {k : Nat} {t u v : Thread} {c : ClusterId} {o : Omu} {e : PostEntry} {g : Word} {l1 l2 : List PostEntry}

/-! ### A list of entries withdrawn -/

/-- The entries of a list withdrawn one after the other. -/
def State.withdrawAll (s : State) (c : ClusterId) (es : List PostEntry) : State := es.foldl (fun s e => s.abortQueued c e) s

/-- What a withdrawal leaves as it is of an entry that stays. -/
def PostEntry.sig (e : PostEntry) : Nat × Post × Issuer := (e.key, e.post, e.by_)

theorem sig_queuedBehind (j : Nat) (e : PostEntry) (dir : Bool) (q : List PostEntry) :
    (queuedBehind j e dir q).map PostEntry.sig = q.map PostEntry.sig := by
  rw [queuedBehind, List.map_map]
  refine List.map_congr_left fun x _ => ?_
  rw [Function.comp_apply]
  split_ifs <;> rfl

theorem State.sig_abortQueued (s : State) (c : ClusterId) (e : PostEntry) : ((s.abortQueued c e).omu c).queue.map PostEntry.sig =
    ((s.omu c).queue.map PostEntry.sig).filter fun y => y.1 != e.key := by
  rw [List.filter_map]
  obtain ⟨h, -⟩ | ⟨dir, _, j, -, -, h⟩ := s.queue_abortQueued c e
  · rw [h]
    rfl
  · rw [h, sig_queuedBehind]
    rfl

theorem State.sig_withdrawAll (s : State) (c : ClusterId) (es : List PostEntry) : ((s.withdrawAll c es).omu c).queue.map PostEntry.sig =
    ((s.omu c).queue.map PostEntry.sig).filter fun y => es.all fun e => y.1 != e.key := by
  induction es generalizing s with
  | nil => exact (List.filter_true _).symm
  | cons e es ih =>
    refine (ih _).trans ?_
    rw [State.sig_abortQueued, List.filter_filter]
    refine List.filter_congr fun y _ => ?_
    rw [List.all_cons, Bool.and_comm]

/-- Where names are unique, what is not named by one of the entries chosen is what was not chosen. -/
theorem filter_unnamed {q : List PostEntry} (p : PostEntry → Bool) (hn : (q.map PostEntry.key).Nodup) :
    (q.filter fun x => (q.filter p).all fun e => x.key != e.key) = q.filter fun x => !p x := by
  refine List.filter_congr fun x hx => Bool.eq_iff_iff.mpr ?_
  simp only [List.all_eq_true, List.mem_filter, bne_iff_ne, Bool.not_eq_true', and_imp]
  constructor
  · intro h
    by_contra hp
    exact h x hx (Bool.not_eq_false _ ▸ hp) rfl
  · intro h e he hpe hk
    rw [List.inj_on_of_nodup_map hn hx he hk, hpe] at h
    cases h

theorem State.sig_withdrawAll_filter (s : State) (c : ClusterId) (p : PostEntry → Bool) (hn : ((s.omu c).queue.map PostEntry.key).Nodup) :
    ((s.withdrawAll c ((s.omu c).queue.filter p)).omu c).queue.map PostEntry.sig = ((s.omu c).queue.filter fun e => !p e).map PostEntry.sig := by
  rw [State.sig_withdrawAll, List.filter_map, ← filter_unnamed p hn]
  rfl

theorem State.locks_withdrawAll (s : State) (c x : ClusterId) (es : List PostEntry) : ((s.withdrawAll c es).cluster x).locks =
    (s.cluster x).locks.filter fun l => !(es.any fun e => isPass e && e.key == l.owner) := by
  induction es generalizing s with
  | nil => exact (List.filter_true _).symm
  | cons e es ih =>
    refine (ih _).trans ?_
    rw [State.locks_abortQueued, List.filter_filter]
    refine List.filter_congr fun l _ => ?_
    rw [List.any_cons, Bool.not_or, Bool.and_comm]

theorem State.passes_withdrawAll {p : Pass} (es : List PostEntry) (h : p ∈ ((s.withdrawAll c es).omu c).passes) : p ∈ (s.omu c).passes := by
  induction es generalizing s with
  | nil => exact h
  | cons e es ih =>
    have hp := ih h
    obtain he | he := s.passes_abortQueued c e
    · rwa [he] at hp
    · rw [he] at hp
      exact List.mem_of_mem_filter hp

/-- A pass that streams under a name of its own goes on. -/
theorem State.passes_withdrawAll_stays {p : Pass} (es : List PostEntry) (hk : ∀ e ∈ es, e.key ≠ p.key) (h : p ∈ (s.omu c).passes) :
    p ∈ ((s.withdrawAll c es).omu c).passes := by
  induction es generalizing s with
  | nil => exact h
  | cons e es ih =>
    refine ih (fun e he => hk e (.tail _ he)) ?_
    obtain he | he := s.passes_abortQueued c e
    · rwa [he]
    · rw [he]
      exact List.mem_filter.mpr ⟨h, bne_iff_ne.mpr (hk e (.head _)).symm⟩

theorem State.mem_withdrawAll (s : State) (c : ClusterId) (es : List PostEntry) : (s.withdrawAll c es).mem = s.mem :=
  (State.Settles.foldl (fun h => h.abortQueued trivial) es (.refl (fun _ => True) s)).mem

theorem State.Adds.withdrawAll (s : State) (k : Nat) (c : ClusterId) (es : List PostEntry) : ∃ ps qs, s.Adds k ps qs (s.withdrawAll c es) ∧
    ((∀ e ∈ es, e.by_.thread = k) → ps = es.filterMap withdrawnPass) := by
  induction es generalizing s with
  | nil => exact ⟨[], [], .of_threads, fun _ => rfl⟩
  | cons e es ih =>
    obtain ⟨ps, qs, h, hown⟩ := State.Adds.abortQueued s k c e
    obtain ⟨ps', qs', h', hps⟩ := ih (s.abortQueued c e)
    refine ⟨ps ++ ps', qs ++ qs', h.trans h', fun hk => ?_⟩
    rw [(hown (hk e (.head _))).1, hps fun e he => hk e (.tail _ he), List.filterMap_eq_flatMap_toList, List.filterMap_eq_flatMap_toList,
      List.flatMap_cons]

/-! ### A probe and the one that it waits behind -/

theorem key_ne_of_nodup (hn : ((l1 ++ e :: l2).map PostEntry.key).Nodup) {x : PostEntry} (hx : x ∈ l1 ++ l2) : x.key ≠ e.key := by
  rw [List.map_append, List.map_cons, List.nodup_middle, ← List.map_append, List.nodup_cons] at hn
  exact fun h => hn.1 (h ▸ List.mem_map_of_mem hx)

theorem filter_key_ne (hn : ((l1 ++ e :: l2).map PostEntry.key).Nodup) : (l1 ++ e :: l2).filter (fun x => x.key != e.key) = l1 ++ l2 := by
  rw [List.filter_append, List.filter_cons_of_neg (by simp only [bne_self_eq_false, Bool.false_eq_true, not_false_eq_true]), ← List.filter_append]
  exact List.filter_eq_self.mpr fun x hx => bne_iff_ne.mpr (key_ne_of_nodup hn hx)

/-- The last probe of an entry's thread among those queued before it. -/
theorem Omu.probeBefore_eq (hq : o.queue = l1 ++ e :: l2) (hn : (o.queue.map PostEntry.key).Nodup) :
    o.probeBefore e = (l1.filter fun x => x.by_.same e.by_ && isProbe x).getLast?.map PostEntry.key := by
  rw [hq] at hn
  have htake : (o.queue.takeWhile fun x => x.key != e.key) = l1 := by
    rw [hq, List.takeWhile_append_of_pos fun x hx => bne_iff_ne.mpr (key_ne_of_nodup hn (List.mem_append_left _ hx)),
      List.takeWhile_cons_of_neg (by simp only [bne_self_eq_false, Bool.false_eq_true, not_false_eq_true]), List.append_nil]
  rw [Omu.probeBefore, htake]
  rfl

theorem Omu.probeBefore_none (hq : o.queue = l1 ++ e :: l2) (hn : (o.queue.map PostEntry.key).Nodup)
    (h : ∀ x ∈ l1, isProbe x = true → ¬ oneThread x e) : o.probeBefore e = none := by
  rw [Omu.probeBefore_eq hq hn, List.filter_eq_nil_iff.mpr fun x hx => ?_]
  · rfl
  · rw [Bool.and_eq_true, Issuer.same_iff]
    exact fun hxe => h x hx hxe.2 hxe.1

theorem Omu.probeBefore_some {m1 m2 : List PostEntry} {x : PostEntry} (hq : o.queue = m1 ++ x :: m2 ++ e :: l2)
    (hn : (o.queue.map PostEntry.key).Nodup) (hx : isProbe x = true) (hxe : oneThread x e) (h : ∀ y ∈ m2, isProbe y = true → ¬ oneThread y e) :
    o.probeBefore e = some x.key := by
  have hlast : (m2.filter fun x => x.by_.same e.by_ && isProbe x) = [] := List.filter_eq_nil_iff.mpr fun y hy => by
    rw [Bool.and_eq_true, Issuer.same_iff]
    exact fun hye => h y hy hye.2 hye.1
  have hpos : (x.by_.same e.by_ && isProbe x) = true := Bool.and_eq_true_iff.mpr ⟨(Issuer.same_iff ..).mpr hxe, hx⟩
  rw [Omu.probeBefore_eq hq hn, List.filter_append, List.filter_cons_of_pos (p := fun x => x.by_.same e.by_ && isProbe x) hpos, hlast,
    List.getLast?_append]
  rfl

/-- In a queue with unique names, a withdrawn probe joins one entry's list. -/
theorem queuedBehind_at {x : PostEntry} {dir : Bool} (hn : ((l1 ++ x :: l2).map PostEntry.key).Nodup) :
    queuedBehind x.key e dir (l1 ++ x :: l2) = l1 ++ { x with behind := x.behind ++ (e.by_, dir) :: e.behind } :: l2 := by
  have hkeep {l : List PostEntry} (hl : ∀ y ∈ l, y ∈ l1 ++ l2) : queuedBehind x.key e dir l = l := by
    rw [queuedBehind, List.map_congr_left fun y hy => if_neg (key_ne_of_nodup hn (hl y hy)), List.map_id']
  have happend : queuedBehind x.key e dir (l1 ++ x :: l2) = queuedBehind x.key e dir l1 ++
      { x with behind := x.behind ++ (e.by_, dir) :: e.behind } :: queuedBehind x.key e dir l2 := by
    rw [queuedBehind, List.map_append, List.map_cons, if_pos rfl]
    rfl
  rw [happend, hkeep fun y hy => List.mem_append_left _ hy, hkeep fun y hy => List.mem_append_right _ hy]

/-- A probe withdrawn whose thread has no earlier one queued (R342). -/
theorem State.queue_abortQueued_first (s : State) (c : ClusterId) (hq : (s.omu c).queue = l1 ++ e :: l2)
    (hn : ((s.omu c).queue.map PostEntry.key).Nodup) (hb : (s.omu c).probeBefore e = none) :
    ((s.abortQueued c e).omu c).queue = l1 ++ l2 := by
  obtain ⟨h, -⟩ | ⟨_, _, j, -, hj, -⟩ := s.queue_abortQueued c e
  · rw [h, hq, filter_key_ne (hq ▸ hn)]
  · rw [hb] at hj
    cases hj

/-- A probe withdrawn behind an earlier one of its thread (R342). -/
theorem State.queue_abortQueued_behind {m1 m2 : List PostEntry} {x : PostEntry} {dir : Bool} {p : Option (List Byte)}
    (hq : (s.omu c).queue = m1 ++ x :: m2 ++ e :: l2) (hn : ((s.omu c).queue.map PostEntry.key).Nodup) (hp : e.post = .probe dir p)
    (hb : (s.omu c).probeBefore e = some x.key) :
    ((s.abortQueued c e).omu c).queue = m1 ++ { x with behind := x.behind ++ (e.by_, dir) :: e.behind } :: (m2 ++ l2) := by
  obtain ⟨-, h⟩ | ⟨dir', p', j, hp', hj, h⟩ := s.queue_abortQueued c e
  · rw [h (by rw [isProbe, hp])] at hb
    cases hb
  · cases hj.symm.trans hb
    cases hp'.symm.trans hp
    have hrest : (m1 ++ x :: m2 ++ e :: l2).filter (fun x => x.key != e.key) = m1 ++ x :: (m2 ++ l2) := by
      rw [filter_key_ne (hq ▸ hn), List.append_assoc, List.cons_append]
    have hsub : ((m1 ++ x :: (m2 ++ l2)).map PostEntry.key).Nodup :=
      hrest ▸ (hq ▸ hn).sublist (List.filter_sublist.map _)
    rw [h, hq, hrest, queuedBehind_at hsub]

/-- Withdrawn in their order, with every probe of their threads, probes leave their entries in that order (R342). -/
theorem State.Adds.probes (p : PostEntry → Bool) (es : List PostEntry) (hes : (s.omu c).queue.filter p = es)
    (hn : ((s.omu c).queue.map PostEntry.key).Nodup)
    (h : ∀ e ∈ es, e.by_.thread = k ∧ e.behind = [] ∧ ∀ x, isProbe x = true → oneThread x e → p x = true) :
    ∃ ps, s.Adds k ps (es.filterMap withdrawnProbe) (s.withdrawAll c es) := by
  induction es generalizing s with
  | nil => exact ⟨[], .of_threads⟩
  | cons e es ih =>
    obtain ⟨l1, l2, hq, hl1, -, hl2⟩ := List.filter_eq_cons_iff.mp hes
    obtain ⟨hk, hbe, hall⟩ := h e (.head _)
    have hb : (s.omu c).probeBefore e = none := Omu.probeBefore_none hq hn fun x hx hi hxe => hl1 x hx (hall x hi hxe)
    have hq' := s.queue_abortQueued_first c hq hn hb
    have hes' : ((s.abortQueued c e).omu c).queue.filter p = es := by
      rw [hq', List.filter_append, List.filter_eq_nil_iff.mpr hl1, hl2, List.nil_append]
    have hn' : (((s.abortQueued c e).omu c).queue.map PostEntry.key).Nodup := by
      rw [hq', ← filter_key_ne (hq ▸ hn)]
      exact (hq ▸ hn).sublist (List.filter_sublist.map _)
    obtain ⟨ps, qs, ha, hown⟩ := State.Adds.abortQueued s k c e
    obtain ⟨ps', ha'⟩ := ih hes' hn' fun e he => h e (.tail _ he)
    refine ⟨ps ++ ps', ?_⟩
    have hqs := (hown hk).2.2 hb hbe
    rw [List.filterMap_eq_flatMap_toList, List.flatMap_cons, ← hqs, ← List.filterMap_eq_flatMap_toList]
    exact ha.trans ha'

end Sys2Proof.Machine
end

section
/-! MAIN RESULT. pabort as one command (R331, R342), and with it the commands of the pass scheduler (R318). -/
namespace Sys2Proof.Machine
open Sys2Proof Sys2Proof.Claims

variable {s s' : State} {k : Nat} {t u v : Thread} {a : Reg} {c : ClusterId} {o : Omu} {e : PostEntry} {g : Word} {l1 l2 : List PostEntry}

/-! ### Passes stopped in the stream -/

/-- The streaming passes of a list stopped one after the other. -/
def State.stopAll (s : State) (c : ClusterId) (ps : List Pass) : State := ps.foldl (fun s p => s.abortStream c p) s

/-- A pass as pabort leaves it when it stops the pass of a name (R327, R331). -/
def Pass.stopped (n : Nat) (p : Pass) : Pass := if p.key = n then { p with rsn := 2 } else p

theorem State.abortStream_cases (s : State) (c : ClusterId) (p : Pass) : s.abortStream c p = s ∨ ∃ str, s.abortStream c p =
    State.modOmu { s with free := s.free + 1 } c fun o => { o with stream := str, passes := o.passes.map (Pass.stopped p.key) } := by
  rw [State.abortStream]
  exact (ite_eq_or_eq _ _ _).imp_right fun h => ⟨_, h⟩

theorem State.threads_stopAll (s : State) (c : ClusterId) (ps : List Pass) : (s.stopAll c ps).threads = s.threads := by
  induction ps generalizing s with
  | nil => rfl
  | cons p ps ih =>
    have hstep : (s.abortStream c p).threads = s.threads := by
      obtain h | ⟨str, h⟩ := s.abortStream_cases c p
      · rw [h]
      · rw [h]
        rfl
    exact (ih _).trans hstep

/-- Whether a pass that pabort selects has been stopped and streams yet. -/
def State.stopping (s : State) (c : ClusterId) (k : Nat) (t : Thread) (g : Word) : Bool :=
  (s.omu c).passes.any fun p => selects k t g p.by_ && p.rsn == 2

theorem State.stopping_abortStream (p : Pass) (h : s.stopping c k t g = true) : (s.abortStream c p).stopping c k t g = true := by
  obtain he | ⟨str, he⟩ := s.abortStream_cases c p
  · rwa [he]
  · obtain ⟨q, hq, hsel⟩ := List.any_eq_true.mp h
    rw [he, State.stopping, State.omu_modOmu]
    refine List.any_eq_true.mpr ⟨_, List.mem_map_of_mem hq, ?_⟩
    rw [Pass.stopped]
    split_ifs
    · exact Bool.and_eq_true_iff.mpr ⟨(Bool.and_eq_true_iff.mp hsel).1, rfl⟩
    · exact hsel

theorem State.stopping_stopAll (ps : List Pass) (h : s.stopping c k t g = true) : (s.stopAll c ps).stopping c k t g = true := by
  induction ps generalizing s with
  | nil => exact h
  | cons p ps ih => exact ih (State.stopping_abortStream p h)

/-! ### The command -/

/-- What pabort of a thread leaves once it has withdrawn what it selects of the post queue (R331). -/
def State.withdrawSelected (s : State) (k : Nat) (t : Thread) (g : Word) : State :=
  s.withdrawAll (clusterOf t.pcell) ((s.omu (clusterOf t.pcell)).queue.filter (withdraws k t g))

/-- What pabort of a thread leaves once it has stopped the passes of its selection too (R331). -/
def State.aborted (s : State) (k : Nat) (t : Thread) (g : Word) : State :=
  (s.withdrawSelected k t g).stopAll (clusterOf t.pcell) ((s.omu (clusterOf t.pcell)).passes.filter fun p => selects k t g p.by_)

theorem exec_pabort_eq (h : Selected s k t) (hg : t.gang = .none) (ha : (t.ctx.gpr a).toNat < 2 ^ 32) : exec (.pabort a) s =
    .next (settle (.pabort a) k t (orStay ((s.aborted k t (t.ctx.gpr a)).stopping (clusterOf t.pcell) k t (t.ctx.gpr a))
      (s.aborted k t (t.ctx.gpr a)) (.next (s.aborted k t (t.ctx.gpr a))))) := by
  have hfld : fld (t.ctx.gpr a) 32 32 = 0 := by
    rw [fld_eq]
    omega
  rw [exec_pabort, execPabort, issue_selected h]
  simp only [Thread.inGang_none hg, Bool.false_eq_true, ↓reduceIte, hfld, ne_eq, not_true_eq_false, abortHits_eq ha]
  rfl

theorem exec_pabort_range (h : Selected s k t) (hg : t.gang = .none) (ha : 2 ^ 32 ≤ (t.ctx.gpr a).toNat) :
    exec (.pabort a) s = trapsWith s k t (.pabort a) { code := 0x01 } := by
  have hfld : fld (t.ctx.gpr a) 32 32 ≠ 0 := by
    rw [fld_eq]
    have := (t.ctx.gpr a).isLt
    omega
  rw [exec_pabort, execPabort, issue_selected h]
  simp only [Thread.inGang_none hg, Bool.false_eq_true, ↓reduceIte, hfld, ne_eq, not_false_eq_true]
  rfl

/-- Where no selected pass streams, pabort commits on what it withdraws. -/
theorem exec_pabort_commits (h : Selected s k t) (hg : t.gang = .none) (ha : (t.ctx.gpr a).toNat < 2 ^ 32)
    (hp : ∀ p ∈ (s.omu (clusterOf t.pcell)).passes, selects k t (t.ctx.gpr a) p.by_ = false)
    (hv : (s.withdrawSelected k t (t.ctx.gpr a)).thread? k = some v) :
    exec (.pabort a) s = .next (done (s.withdrawSelected k t (t.ctx.gpr a)) k v (t.ctx.pc + 4)) := by
  have haborted : s.aborted k t (t.ctx.gpr a) = s.withdrawSelected k t (t.ctx.gpr a) := by
    rw [State.aborted, List.filter_eq_nil_iff.mpr fun p hm => Bool.eq_false_iff.mp (hp p hm)]
    rfl
  have hstop : (s.withdrawSelected k t (t.ctx.gpr a)).stopping (clusterOf t.pcell) k t (t.ctx.gpr a) = false := by
    refine List.any_eq_false.mpr fun p hm => ?_
    rw [hp p (State.passes_withdrawAll _ hm)]
    exact Bool.false_ne_true
  rw [exec_pabort_eq h hg ha, haborted, hstop]
  exact congrArg Host.Outcome.next (settle_kept hv (.pabort a) t)

/-- While a pass that it has stopped streams, pabort stays. -/
theorem exec_pabort_stays (h : Selected s k t) (hg : t.gang = .none) (ha : (t.ctx.gpr a).toNat < 2 ^ 32) {p : Pass}
    (hp : p ∈ (s.omu (clusterOf t.pcell)).passes) (hsel : selects k t (t.ctx.gpr a) p.by_ = true) (hr : p.rsn = 2)
    (hk : ∀ e ∈ (s.omu (clusterOf t.pcell)).queue, e.key ≠ p.key) :
    exec (.pabort a) s = .next ((s.aborted k t (t.ctx.gpr a)).unyield k) := by
  have hstop : (s.withdrawSelected k t (t.ctx.gpr a)).stopping (clusterOf t.pcell) k t (t.ctx.gpr a) = true := by
    refine List.any_eq_true.mpr ⟨p, State.passes_withdrawAll_stays _ (fun e he => hk e (List.mem_of_mem_filter he)) hp, ?_⟩
    rw [hsel, hr]
    rfl
  have hstays : (s.aborted k t (t.ctx.gpr a)).stopping (clusterOf t.pcell) k t (t.ctx.gpr a) = true := State.stopping_stopAll _ hstop
  rw [exec_pabort_eq h hg ha, hstays]
  rfl

theorem State.Adds.withdrawSelected (s : State) (k : Nat) (t : Thread) (g : Word) : ∃ ps qs, s.Adds k ps qs (s.withdrawSelected k t g) ∧
    ((∀ e ∈ (s.omu (clusterOf t.pcell)).queue, withdraws k t g e = true → e.by_.thread = k) →
      ps = ((s.omu (clusterOf t.pcell)).queue.filter (withdraws k t g)).filterMap withdrawnPass) := by
  obtain ⟨ps, qs, h, hps⟩ := State.Adds.withdrawAll s k (clusterOf t.pcell) ((s.omu (clusterOf t.pcell)).queue.filter (withdraws k t g))
  exact ⟨ps, qs, h, fun hk => hps fun e he => hk e (List.mem_of_mem_filter he) (List.mem_filter.mp he).2⟩

theorem State.thread?_aborted (ht : s.thread? k = some t) (g : Word) : ∃ v : Thread, (s.aborted k t g).thread? k = some v ∧ v.ctx = t.ctx := by
  obtain ⟨ps, qs, h, -⟩ := State.Adds.withdrawSelected s k t g
  obtain ⟨v, hv, hctx, -⟩ := h.of_eq (State.threads_stopAll _ (clusterOf t.pcell) _) t ht
  exact ⟨v, hv, hctx⟩

/-! ### A single entry selected -/

theorem getLsbD_ofNat_eq {n w : Nat} (h : n < w) (v : Nat) : (BitVec.ofNat w v).getLsbD n = decide (v / 2 ^ n % 2 = 1) := by
  rw [BitVec.getLsbD_ofNat, Nat.testBit_eq_decide_div_mod_eq, decide_eq_true h, Bool.true_and]

theorem withdrawnProbe_some {w : Word} (h : withdrawnProbe e = some w) : ∃ dir p, e.post = .probe dir p ∧ w.getLsbD 28 = dir := by
  cases hp : e.post with
  | probe dir p =>
    refine ⟨dir, p, rfl, ?_⟩
    rw [withdrawnProbe, hp] at h
    cases h
    rw [getLsbD_ofNat_eq (by decide)]
    cases dir
    · rw [if_neg Bool.false_ne_true, decide_eq_false_iff_not]
      omega
    · rw [if_pos rfl, decide_eq_true_eq]
      omega
  | pass r | swap =>
    rw [withdrawnProbe, hp] at h
    cases h

theorem filter_single {p : PostEntry → Bool} (he : p e = true) (h : ∀ x ∈ l1 ++ l2, p x = false) : (l1 ++ e :: l2).filter p = [e] := by
  have hnil {l : List PostEntry} (hl : ∀ x ∈ l, x ∈ l1 ++ l2) : l.filter p = [] :=
    List.filter_eq_nil_iff.mpr fun x hx => Bool.eq_false_iff.mp (h x (hl x hx))
  rw [List.filter_append, List.filter_cons_of_pos he, hnil fun x hx => List.mem_append_left _ hx, hnil fun x hx => List.mem_append_right _ hx]
  rfl

/-- What pabort leaves where it selects one probe: its entry, or one more entry behind an earlier probe of its thread (R342). -/
theorem withdraw_one_probe {w : Word} (hu : s.thread? k = some u) (hv : (s.withdrawAll c [e]).thread? k = some v)
    (hq : (s.omu c).queue = l1 ++ e :: l2) (hn : ((s.omu c).queue.map PostEntry.key).Nodup) (hw : withdrawnProbe e = some w)
    (hk : e.by_.thread = k) (hbe : e.behind = []) :
    ((∀ x ∈ l1, isProbe x = true → ¬ oneThread x e) → v.probeout = u.probeout ++ [w] ∧ ((s.withdrawAll c [e]).omu c).queue = l1 ++ l2) ∧
    (∀ (m1 m2 : List PostEntry) (x : PostEntry), l1 = m1 ++ x :: m2 → isProbe x = true → oneThread x e →
      (∀ y ∈ m2, isProbe y = true → ¬ oneThread y e) → v.probeout = u.probeout ∧
        ((s.withdrawAll c [e]).omu c).queue = m1 ++ { x with behind := x.behind ++ [(e.by_, w.getLsbD 28)] } :: (m2 ++ l2)) := by
  obtain ⟨dir, p, hp, hdir⟩ := withdrawnProbe_some hw
  obtain ⟨ps, qs, ha, hown⟩ := State.Adds.abortQueued s k c e
  obtain ⟨-, hsome, hnone⟩ := hown hk
  obtain ⟨-, -, hout⟩ := ha.entries hu hv
  constructor
  · intro hfirst
    have hb := Omu.probeBefore_none hq hn hfirst
    refine ⟨?_, s.queue_abortQueued_first c hq hn hb⟩
    rw [hout, hnone hb hbe, hw, Option.toList_some]
  · rintro m1 m2 x rfl hx hxe hm2
    have hb := Omu.probeBefore_some hq hn hx hxe hm2
    refine ⟨?_, ?_⟩
    · rw [hout, hsome (by rw [hb]; exact Option.some_ne_none _), List.append_nil]
    · rw [hdir, ← hbe]
      exact State.queue_abortQueued_behind hq hn hp hb

/-- With the operand 0, every probe of the thread is selected. -/
theorem withdraws_all (hg : g = 0) (hi : isProbe e = true) (h : e.by_.thread = k ∨ e.by_.tid = t.tid ∧ e.by_.launch = t.launch) :
    withdraws k t g e = true := by
  have hpost : e.post ≠ .swap := fun hp => by
    rw [isProbe, hp] at hi
    cases hi
  exact Bool.and_eq_true_iff.mpr ⟨decide_eq_true ⟨h, .inl hg⟩, bne_iff_ne.mpr hpost⟩

/-! ### The clauses -/

theorem pabortResult_holds : pabortResult := by
  unfold pabortResult
  intro s k t a h hg
  refine ⟨exec_pabort_range h hg, fun ha hn hp => ?commits, fun ha hst => ?stays⟩
  case stays =>
    obtain ⟨p, hp, hsel, hr, hk⟩ := hst
    obtain ⟨v, hv, hctx⟩ := State.thread?_aborted h.2.1 (t.ctx.gpr a)
    refine ⟨_, _, exec_pabort_stays h hg ha hp hsel hr hk, ?_, (Thread.unwait_ctx v k).trans hctx⟩
    rw [State.thread?_unyield, hv, Option.map_some]
  case commits =>
    obtain ⟨ps, qs, hadds, hpass⟩ := State.Adds.withdrawSelected s k t (t.ctx.gpr a)
    obtain ⟨v, hv, hctx, hps, -⟩ := hadds t h.2.1
    refine ⟨_, _, exec_pabort_commits h hg ha hp hv, s.mem_withdrawAll _ _, thread?_done .., ?_, s.sig_withdrawAll_filter _ _ hn, fun x => ?_,
      fun hk => hps.trans (congrArg _ (hpass hk)), fun hzero hall => ?_, fun l1 l2 e w hq hw hout hrest hk hbe => ?_⟩
    · rw [← hctx]
      rfl
    · refine (s.locks_withdrawAll _ x _).trans (List.filter_congr fun l _ => ?_)
      simp only [List.any_filter, withdraws, Bool.and_assoc]
    · obtain ⟨ps', hprobes⟩ := State.Adds.probes (k := k) (withdraws k t (t.ctx.gpr a)) _ rfl hn fun e he => by
        obtain ⟨hk, htid, hla, hbe⟩ := hall e (List.mem_of_mem_filter he) (List.mem_filter.mp he).2
        exact ⟨hk, hbe, fun x hx hxe => withdraws_all hzero hx (hxe.imp (·.trans hk) fun hs => ⟨hs.1.trans htid, hs.2.trans hla⟩)⟩
      exact (hprobes.entries h.2.1 hv).2.2
    · have hone : s.withdrawSelected k t (t.ctx.gpr a) = s.withdrawAll (clusterOf t.pcell) [e] :=
        congrArg (s.withdrawAll _) (hq ▸ filter_single hout hrest)
      rw [hone] at hv ⊢
      exact withdraw_one_probe (v := v) h.2.1 hv hq hn hw hk hbe

/-- Settles O1: commands posted, taken back, and the registers of the OMU. -/
theorem omuCommands : Obligations.OmuCommands := ⟨postCommands_holds, pabortResult_holds, omuRegisters_holds⟩

end Sys2Proof.Machine
end
